-- ==== Sys2Proof/Word.lean ====
section
/-! DEFINITION. The words of the block and the sparse table that its memories are held in. -/

namespace Sys2Proof

/-- One byte of a memory or of a port payload (R9). -/
abbrev Byte := BitVec 8

/-- One 32-bit register value (R14). -/
abbrev Word32 := BitVec 32

/-- A sparse table: entries by number, numbers strictly rising, an unlisted number
holding the table's default (the canonical form is `twf` of Machine/Table.lean). -/
abbrev Tbl (ν : Type) := List (Nat × ν)

end Sys2Proof
end

