-- ==== Sys2Proof/Syntax.lean ====
section
/-! DEFINITION. The commands of the block: one constructor for each row of spec/opcode_table.json. -/

namespace Sys2Proof

/-- What the codes find in a word of stored data that is read (R314): nothing, an error that the word code corrects,
or one that it only detects, for which the page code is consulted. `bytes` are then the bytes of the page that are in
error. -/
inductive Ecc where
  | clean
  | corrected
  | detected (bytes : List Nat)
deriving DecidableEq, Repr

/-- A read of stored data that a reader met in a pulse (R315, Table 13.9), or an error response of device memory to a
write of the router or the hub (R263). `mem`, `page` and `word` are those of Table 13.10; `shared`: in a task or edge
store, a structure that no one context owns (block map, status bits, ready lists, backlog, outbox, ledger). -/
structure Met where
  mem    : Nat
  page   : Nat
  word   : Nat
  ctx    : Nat
  shared : Bool
  ecc    : Ecc
deriving DecidableEq, Repr

/-- A beat of the fabric port (R271): the slot mask and 512 bits; slot 0 is bytes 0 to 31, slot 1 bytes 32 to 63. -/
structure FbBeat where
  mask : BitVec 2
  bits : BitVec 512
deriving DecidableEq, Repr

/-- What comes with a pulse edge: the mg_clk periods since the edge before, the clks in which the fabric throttled
injection (R271), CI of the error log as the block reads it (R318), the reads of stored data that found an error in the
pulse that ends, the frames read at an arming that could not be corrected, by reach and context (R89), and the ser_clk
periods for which mg_seg_cs has been low, `none` if MC has not seen it high (R356). -/
structure PulseIn where
  mgClks   : Nat := 0
  throttle : Nat := 0
  elogCi   : Nat := 0
  reads    : List Met := []
  frames   : List (Nat × Nat) := []
  segQuiet : Option Nat := none
deriving DecidableEq, Repr

/-- The response to a read that a descriptor asked for: data, an error of the host-memory port
(R261), or an uncorrectable error of the device-memory channel (R263). -/
inductive Rsp where
  | ok
  | hostError
  | uncorrectable
deriving DecidableEq, Repr

/-- The operand block of RSIG (R222; the text after Table 9.6). -/
structure RsigBlk where
  dstNode : BitVec 16
  stream  : BitVec 16
  kind    : BitVec 8
  ctx     : BitVec 8
  target  : BitVec 32
  value   : BitVec 32
  n       : BitVec 32
deriving DecidableEq, Repr

/-- The operand of CB_PUT (R252). -/
structure PutOp where
  queue  : Nat
  slot   : Nat
  pos    : Nat
  fmt    : BitVec 8
  cfl    : BitVec 8
  weight : BitVec 32
  addr   : BitVec 64
deriving DecidableEq, Repr

/-- A move of a channel's read side that a shadow run parks (Table 6.3). -/
inductive ReadMove where
  | advance | mark | rewind | release
deriving DecidableEq, Repr

/-- The items of the write-hold buffer (Table 6.3); CB_OPEN is parked like a contribution (R251). -/
inductive HoldItem where
  | memWrite (addr : BitVec 64) (data : List Byte)
  | syncSignal (id : BitVec 32) (delta : BitVec 32)
  | chanSend (chId : BitVec 32) (payload : List (BitVec 64))
  | chanMove (chId : BitVec 32) (move : ReadMove)
  | contribution (p : PutOp)
  | combineOpen (argix : BitVec 32) (block : BitVec 512)
  | remoteSignal (b : RsigBlk)
  | dmaSignal (id : BitVec 32) (delta : BitVec 32)
  | completion (word : BitVec 128)
deriving DecidableEq, Repr

/-- The two control cores that have breakpoints (R342). -/
inductive Core where
  | cp | rc
deriving DecidableEq, Repr

/-- A command: a row of spec/opcode_table.json with what arrives at the ports in that step. `ecc` of READ lists the
words of the entry, counted from its header, in which the codes find an error (R248); `sweep` of BLOCK_RESET what the
phase-1 sweep finds (R315); `received` of REFLECTION_CHECK the words that come back from a frame's start word on (R357).
Engines, reaches, queues and contexts are named by number. Data that the block reads from memory outside it comes with
the command at which the response arrives (log 6). -/
inductive Instr where
  -- power, reset pins and the pulse
  | powerOnReset (dieId : BitVec 64) (station : BitVec 6) (lanternOk makerEn : Bool)
  | domainPowerAck (d : Nat) (level : Bool)
  | pulseEdge (p : PulseIn)
  -- reach transport, paging
  | stepRequest (r : Nat)
  | edgeRead (r : Nat)
  | outboxSend (dst : Nat)
  | unitApply (dst : Nat)
  | ledgerRmw (r : Nat) (ok : Bool)
  | pageInComplete (r : Nat) (ok : Bool)
  | pageOutComplete (r : Nat) (ok : Bool)
  | backwaterBlockLoad (r : Nat) (ctx : Nat)
  -- dispatch
  | dispatchWordArrive (e : Nat)
  | dispatchPresent (e : Nat)
  | engineTakeDispatch (e : Nat)
  | engineCompletion (e : Nat) (word : BitVec 128)
  | completionLand (e : Nat)
  | engineAbortAck (e : Nat)
  | preemptionNoticeLand (e : Nat)
  | abortRequest (e : Nat)
  | abortReplyLand (e : Nat)
  | tilePull (e : Nat)
  | tilePullRetry (e : Nat)
  | cyclicTableSwitch
  -- shadow launch
  | holdItem (e : Nat) (item : HoldItem)
  | commitNotice (e : Nat)
  | releaseItemAck (e : Nat)
  | squashNotice (e : Nat)
  -- expert routing
  | scoreVector (e : Nat) (hdr : BitVec 128) (beats : List (BitVec 512)) (rsd : List Byte)
  | tokenRoute
  | chunkBind (slot : Nat)
  | sendDone (e : Nat) (sendId : BitVec 32)
  | deferredSendIssue (slot : Nat)
  | tileRelease (slot : Nat) (row tile : Nat)
  | routerNoticeLand (r : Nat)
  | chunkPull (e : Nat)
  | sessionClosePoint (slot : Nat)
  | sessionClose (slot : Nat)
  | closeWritesAcked (slot : Nat) (ok : Bool)
  | announcementReceive
  -- rings and doorbells
  | doorbellPollDue
  | writeMonitorHint
  | deferredPollStart
  | summaryReadDone (words : List (BitVec 64)) (err : Bool)
  | bellAndDone (q : Nat) (err : Bool)
  | piReadDone (q : Nat) (pi : BitVec 64) (err : Bool)
  | descriptorFetchDone (q : Nat) (d : BitVec 512) (err : Bool)
  -- descriptors
  | nop (q : Nat)
  | launchGraph (q : Nat) (handles : List (BitVec 64)) (patches : List (BitVec 128)) (rsp : Rsp)
  | loadImage (q : Nat)
  | imageReadDone (image : List Byte) (handles : List (BitVec 64)) (rsp : Rsp)
  | loadImageWritesAcked (ok : Bool)
  | patch (q : Nat) (records : List (BitVec 128)) (rsp : Rsp)
  | waitValue (q : Nat)
  | waitValuePoll (q : Nat)
  | waitValueReadDone (q : Nat) (value : BitVec 64) (err : Bool)
  | writeValue (q : Nat)
  | writeValueAck (q : Nat) (err : Bool)
  | markBegin (q : Nat)
  | markEnd (q : Nat)
  | step (q : Nat) (lists : List Byte) (err : Bool)
  | contextCreate (q : Nat) (record groupMap : List Byte)
  | contextDestroy (q : Nat)
  | queueCreate (q : Nat)
  | queueDestroy (q : Nat)
  | dumpTensor (q : Nat)
  | reservedOpcode (q : Nat)
  | queueTimeout (q : Nat)
  -- firmware
  | feFwCtlGo (value : BitVec 32)
  | firmwareLoadDone (image : List Byte) (err : Bool)
  | cpTrap (core : Core)
  | cpHeartbeatSilent
  -- sync objects
  | syncRead (e : Nat) (id : BitVec 32)
  | syncAdd (e : Nat) (id : BitVec 32) (delta : BitVec 32)
  | syncWaitGe (e : Nat) (id : BitVec 32) (threshold : BitVec 32)
  | syncWaitEq (e : Nat) (id : BitVec 32) (value : BitVec 32)
  | syncTake (e : Nat) (id : BitVec 32) (amount : BitVec 32)
  | syncRsig (e : Nat) (blk : RsigBlk)
  | syncReservedOp (e : Nat)
  | operationClassReserved (e : Nat)
  | dmaCompletionSignal (e : Nat) (id : BitVec 32) (delta : BitVec 32)
  -- journal and remote signals
  | journalAck (slots : Nat) (err : Bool)
  | signalResend (stream : BitVec 16) (seq : BitVec 32)
  | signalAckReceive (beat : FbBeat)
  | signalReceive (beat : FbBeat)
  | fabricCountPush (push : BitVec 56)
  | releaseEffect
  | epochQuery (e : Nat) (stream : BitVec 16)
  | fabricTelemetry (report : BitVec 64)
  -- channels and combining queues
  | connect (e : Nat) (index : Nat) (statAddr : BitVec 64)
  | accept (e : Nat) (index : Nat) (rlog : Nat) (persist autorel : Bool) (statAddr : BitVec 64)
  | send (e : Nat) (chId : BitVec 32) (payload : List (BitVec 64))
  | read (e : Nat) (chId : BitVec 32) (ecc : List (Nat × Ecc))
  | mark (e : Nat) (chId : BitVec 32)
  | rewind (e : Nat) (chId : BitVec 32)
  | release (e : Nat) (chId : BitVec 32)
  | close (e : Nat) (chId : BitVec 32)
  | fanout (e : Nat) (index : Nat) (ids : List (BitVec 32))
  | cbOpen (e : Nat) (argix : BitVec 32) (block : BitVec 512)
  | cbQueueOpen (ctx : Nat) (queue : Nat)
  | cbPut (e : Nat) (p : PutOp)
  | channelReservedOp (e : Nat)
  | slotCombine (ctx : Nat) (queue slot : Nat) (rows : List (List (BitVec 32)))
  | combineCloseDone (ctx : Nat) (queue : Nat)
  -- engine power and the power governor
  | enginePowerGood (e : Nat) (level : Bool)
  | controlEdge
  | droopCalibrationPeriod
  | pgPowerSample (mw : BitVec 20)
  | droopEvent (pins : BitVec 8)
  | supplyLevelChange (v : BitVec 3)
  | sagHoldExpiry
  | boostGrant (level : Bool)
  | pgCtlEn (value : BitVec 32)
  -- recovery
  | checkpointBegin
  | checkpointEnd
  | teardownDeadline (ctx : Nat)
  | blkResetReq
  | blockReset (sweep : List Met)
  | resetDrainExpiry
  | resetPhaseEnd2 (retire : List (BitVec 64))
  | journalReplay
  | resetResume
  | scrubPage (mem page word ci : Nat) (ecc : Ecc)
  | rchTestFence (r : Nat)
  | rchTestStart (r : Nat)
  | selfTestDone (r : Nat) (fail : BitVec 8)
  -- debug
  | census (e : Nat) (fmt : BitVec 8) (values ovf van nan : BitVec 32)
  | censusClose (e : Nat) (slot : BitVec 12) (fmask : BitVec 16) (kmask : BitVec 3)
      (addr : BitVec 64)
  | watchFetch (e : Nat)
  | watchHit (e : Nat) (addr : BitVec 64) (widx : BitVec 6) (wkind : Bool)
  | debugReservedOp (e : Nat)
  | timeRecord
  | loadMapSample
  | snapshotWritesAcked (ok : Bool)
  | dbSnapResumeGo (value : BitVec 32)
  | breakpointHalt (core : Core) (i : Nat)
  | dbBpResume (value : BitVec 32)
  | dumpCopyDone
  | traceWriteAck (records ci : Nat) (ok : Bool)
  -- always-complete operations
  | identityRead
  | statusRead
  | counterSnapshot
  | hangSnapshot
  | powerShedControl
  | traceFlush
  | mgmtBlockReset
  | makerPortRequest
  | mcReservedOp
  | mcOperationTimeout
  | mcReqGo (value : BitVec 32)
  -- the management segment
  | mcSegCtlEn (value : BitVec 32)
  | probeSend
  | listenTimeout
  | electionBeacon
  | beaconSend
  | beaconMissed
  | beacon (frame : List Byte)
  | request (frame : List Byte)
  | alarm (frame : List Byte)
  | telemetry (frame : List Byte)
  | log (frame : List Byte)
  | response (frame : List Byte)
  | probe (frame : List Byte)
  | frameTransmit (starTime : Nat) (carrierLow : Nat)
  | reflectionCheck (received : List (BitVec 64)) (echo : Nat)
  | backoffExpiry
  | alarmFreeze
  | telemetryBuild
  | mcAlarmRaise (value : BitVec 32)
  | mcRxPop (value : BitVec 32)
  -- registers
  | feCtlEn (value : BitVec 32) (retire : List (BitVec 64))
  | glbLock (value : BitVec 32)
  | registerWrite (addr : BitVec 24) (data : BitVec 32) (be : BitVec 4)
  | registerReadCapture (addr : BitVec 24)
  -- the last rows of the table
  | statusRecordWriteResponse (q : Nat) (isResult : Bool) (err : Bool)
  | counterSnapshotWritesAcked (ok : Bool)
  | chunkClaimable (slot chunk : Nat)
  | stretchRequestEnd (pins : BitVec 8)
  | discardedFrame (frame : List Byte) (words : Nat)
  | registerAccessError (addr : BitVec 24) (be : BitVec 4)
deriving DecidableEq, Repr

end Sys2Proof
end

