-- ==== Sys2Proof/Config.lean ====
section
/-! DEFINITION. What synthesis fixes, and the values the spec leaves open. -/

namespace Sys2Proof.Config

/-- The six grades (R2, Table 0.1). -/
inductive Grade where
  | o1 | o2 | o3 | o4 | o5 | o6
deriving DecidableEq, Repr

/-- The number of the grade, 1 to 6 (Table 13.12, GLB_ID_GRADE). -/
def Grade.number : Grade → Nat
  | .o1 => 1 | .o2 => 2 | .o3 => 3 | .o4 => 4 | .o5 => 5 | .o6 => 6

/-- Reaches of a grade (Table 0.1). -/
def Grade.reaches : Grade → Nat
  | .o1 => 1 | .o2 => 2 | .o3 => 4 | .o4 => 8 | .o5 => 12 | .o6 => 16

/-- Engine ports of a grade (Table 0.1). -/
def Grade.engines : Grade → Nat
  | .o1 => 64 | .o2 => 128 | .o3 => 256 | .o4 => 512 | .o5 => 1024 | .o6 => 2048

/-- Resident contexts of a grade (Table 0.1). -/
def Grade.contexts : Grade → Nat
  | .o1 => 4 | .o2 => 8 | .o3 => 16 | .o4 => 32 | .o5 => 48 | .o6 => 64

/-- The expert router is present from O3 upward (R3). -/
def Grade.hasRouter : Grade → Bool
  | .o1 | .o2 => false
  | _ => true

/-- Address watchpoints at O5 and O6, named dumps below (Table 0.1). -/
def Grade.hasWatchpoints : Grade → Bool
  | .o5 | .o6 => true
  | _ => false

/-- DESIGN CHOICE (log 4). A value the spec leaves undefined: the n-th that is used. -/
opaque freeValue : Nat → BitVec 64

/-- The patch level p, which R321 says this manual does not fix (log 4). -/
opaque patchLevel : BitVec 16

/-- Which of the FP32 values within 1 ulp of the exact one the exponential of R154 takes: its last bit is not given
(log 4). -/
opaque expPick : BitVec 32 → Nat

/-- Bit pattern of the i-th weight of a token that is NaN: R154 says only that it is one (log 4, log 153). Applied to the
scores or weights that it comes from. -/
opaque nanWeight : List (BitVec 32) → Nat → BitVec 32

/-- The public key of the boot ROM, a point of curve P-384, which the spec does not give (R207; log 4). -/
opaque bootKey : Nat × Nat

/-- The challenge of the n-th maker-port request (R322); the spec gives one example only (log 4). -/
opaque makerChallenge : Nat → BitVec 32

/-- Whether a response matches a challenge under the key in MC's ROM (R322; log 4). -/
opaque makerResponseOk : BitVec 32 → BitVec 32 → Bool

end Sys2Proof.Config
end

