-- ==== Sys2Proof/Machine/State.lean ====
section
/-! DEFINITION. The state of the block: everything the spec gives it, as plain data, and State.reset. -/

namespace Sys2Proof.Machine

open Sys2Proof.Config

/-- Why the machine stops with a fault. -/
inductive Fault where
  /-- Raised where the surroundings break an obligation of theirs and no statement says what the block
  then does (R5): an engine that answers a run it does not have, a response nobody asked for.
  Safe: nothing is claimed of what follows. -/
  | obligationBroken
deriving DecidableEq, Repr

/-- Why the machine refuses a command. -/
inductive Refusal where
  /-- Raised by an arm of exec whose command has no meaning yet. Safe: nothing is claimed of it. -/
  | notModelled (mnemonic : String)
deriving DecidableEq, Repr

/-! ## Small vocabularies -/

/-- Task states (Table 2.3). -/
inductive TState where
  | idle | waiting | ready | dispatched | shadow | done | skipped | faulted
deriving DecidableEq, Repr

/-- Task kinds (Table 2.1). -/
inductive Kind where
  | plain | list | gang | expert | combineClose | marker | step
deriving DecidableEq, Repr

/-- A predicate operation (R53). -/
inductive PredOp where
  | resolveTrue | resolveFalse | clear
deriving DecidableEq, Repr

/-- A predicate operation that has landed (R53): context, slot, operation, and whether a PRED record is
entered for it (Table 13.4). -/
structure PredMsg where
  ctx    : Nat
  slot   : Nat
  op     : PredOp
  record : Bool
deriving DecidableEq, Repr

/-- Predictor history of a slot (R134); `none` is the default. -/
inductive Hist where
  | none | lastTrue | lastFalse
deriving DecidableEq, Repr

/-- A task named by its context and its context-relative identifier (R73). -/
structure TaskRef where
  ctx : Nat
  id  : BitVec 32
deriving DecidableEq, Repr

/-! ## The data plane: task entries, blocks, reaches -/

/-- A task entry (Table 3.1) with the bits kept beside it: CF, SK, RA (R38), the release bit (R163)
and the edge at which it last entered its ready list (R131). CTX is that of its block. -/
structure Task where
  kind     : Kind := .plain
  state    : TState := .idle
  be       : Bool := false
  loop     : Bool := false
  gangHead : Bool := false
  shadowOk : Bool := false
  fill     : Bool := false
  preempt  : Bool := false
  depcnt   : BitVec 16 := 0
  depinit  : BitVec 16 := 0
  pred     : BitVec 12 := 0
  pol      : Bool := false
  home     : BitVec 11 := 0
  last     : BitVec 11 := 0
  group    : BitVec 8 := 0
  succPtr  : BitVec 22 := 0
  succN    : BitVec 12 := 0
  argPtr   : BitVec 32 := 0
  code     : BitVec 32 := 0
  energy   : BitVec 12 := 0
  iter     : BitVec 16 := 0
  gang     : BitVec 12 := 0
  tiles    : BitVec 16 := 0
  cf       : Bool := false
  sk       : Bool := false
  ra       : Bool := false
  /-- RF of the re-arm that RA holds; at most one re-arm edge targets a task (R49). -/
  rf       : Bool := false
  /-- The bank of a LOOP task whose shadow run was taken back, while it waits in the zero set (log 113). -/
  kept     : BitVec 16 := 0
  released : Bool := false
  readyEdge : Nat := 0
deriving DecidableEq, Repr

/-- A resident block: the block-map entry (R73), what the block table says of it (R84), its place in the edge store, its
entries, the edge of the last decrement to it (R85), and the launch epoch that its entries belong to (R84). -/
structure Block where
  ctx      : Nat
  seg      : Nat
  vblock   : Nat
  taskN    : Nat
  roots    : Bool
  loop     : Bool
  edgeBase : Nat
  edgeN    : Nat
  entries  : Tbl Task
  lastDec  : Nat
  epoch    : Nat := 0
deriving DecidableEq, Repr

/-- A page-in under way (R87): the block, the physical block and run base chosen for it, and whether its read
has completed, so that it becomes resident at the next edge. -/
structure PageIn where
  ctx    : Nat
  seg    : Nat
  vblock : Nat
  phys   : Nat
  base   : Nat
  read   : Bool := false
deriving DecidableEq, Repr

/-- A page-in request (R86, R87), and whether it has been counted as waiting for an eligible block (R88). -/
structure PageReq where
  ctx    : Nat
  seg    : Nat
  vblock : Nat
  waits  : Bool := false
deriving DecidableEq, Repr

/-- What one out-edge delivery puts on the crossbar (R91, after Table 4.1). -/
inductive UnitKind where
  | plain
  | skip
  | group (len : Nat)
  | rearm (rf : Bool)
  /-- A router skip notice for a tile whose block is not resident (R164; log 114). -/
  | notice
deriving DecidableEq, Repr

/-- A crossbar unit: its kind, the context and full identifier of its target, whether it is late. -/
structure XUnit where
  kind   : UnitKind
  target : TaskRef
  late   : Bool := false
deriving DecidableEq, Repr

/-- A record of the successor backlog (R94): task, whether it was skipped, whether the completion was
continuing, and how many of its entries have been read. -/
structure Backlog where
  ref        : TaskRef
  skipped    : Bool
  continuing : Bool
  succPtr    : Nat
  succN      : Nat
  portal     : Option (BitVec 32)
  read       : Nat := 0
deriving DecidableEq, Repr

/-- An entry of the spill ledger (R86). -/
structure LedgerEntry where
  ref   : TaskRef
  count : Nat
  skip  : Bool
deriving DecidableEq, Repr

/-- A list record (R116). -/
structure ListRec where
  ref  : TaskRef
  next : Nat := 0
  done : Nat := 0
  hold : Nat := 0
  /-- No unclaimed tile was found at the last edge (R117). -/
  dry  : Bool := false
  /-- A tile was found in the pool while dispatched at the last edge (R117). -/
  back : Bool := false
deriving DecidableEq, Repr

/-- A shadow record (R135): the task, and for a list task the highest-numbered shadow tile's engine (R142). -/
structure ShadowRec where
  ref     : TaskRef
  engines : List (Nat × Nat)
deriving DecidableEq, Repr

/-- A dispatch word on its way or queued (R31, R264), with what the block knows of it: its task, the tile
of a shadow list word, whether it pre-empts, is a shadow word, or is a gang member's word. -/
structure DWord where
  ref        : TaskRef
  word       : BitVec 256
  tile       : Option Nat := none
  preempting : Bool := false
  shadow     : Bool := false
  gangMember : Option Nat := none
  /-- A gang member's word that is not released yet (R121). -/
  held       : Bool := false
  /-- The clk of the pulse in which the reach sent it (R31). -/
  clk        : Nat := 0
deriving DecidableEq, Repr

/-- A completion word on its way to its reach (R265), with the pended remote signals (R222) and census
reports (R335) of its run. -/
structure Cpl where
  ref    : TaskRef
  engine : Nat
  word   : BitVec 128
  rsig   : List RsigBlk := []
  census : List (Nat × (Nat × Nat × Nat × Nat)) := []
  close  : Option (BitVec 12 × BitVec 16 × BitVec 3 × BitVec 64) := none
  gang   : Bool := false
  shadow : Bool := false
deriving DecidableEq, Repr

/-- What a reach applies as a completion, in the order of R92: a completion word, a router skip notice (R164), a
completion that comes from no engine, or the fault of a task whose CF was set (R101). -/
inductive Arrival where
  | word (c : Cpl)
  | skip (t : TaskRef)
  | own (t : TaskRef)
  | flagged (t : TaskRef)
deriving DecidableEq, Repr

/-- What returns a task to its list at the position of aborts: a pre-emption notice (R115) or a refusal
(R384, R383), with the tile and the tile held in advance. -/
structure Return where
  ref        : TaskRef
  engine     : Nat
  refused    : Bool
  tiles      : List Nat
  shadow     : Bool
  lowerHold  : Bool := false
  /-- The identifier of the pre-empting task, and the launch epoch of the word that returns (R202). -/
  by_        : BitVec 32 := 0
  epoch      : Nat := 0
deriving DecidableEq, Repr

/-- Why a task is aborted: queue destruction with or without ABORT (R202), or a teardown (R308). -/
inductive AbortWhy where
  | queue (q : Nat) (force : Bool)
  | teardown
deriving DecidableEq, Repr

/-- An abort whose agents have not all replied (R122), and the row of Table 5.4 that its outcome has so far, counted from
0: 4 with no agent, 5 where words were dropped, 6 where an active run was aborted. -/
structure AbortRec where
  ref     : TaskRef
  waiting : List Nat
  row     : Nat := 5
deriving DecidableEq, Repr

/-- The gang whose words are being sent or judged (R120, R121). -/
structure GangSend where
  ref      : TaskRef
  unsent   : List (Nat × Nat)
  engines  : List Nat
  refused  : Bool := false
deriving DecidableEq, Repr

/-- One reach (Table 4.1 and the structures that later chapters give it). -/
structure Reach where
  blocks      : Tbl Block := []
  edges       : Tbl Word32 := []
  lc          : List TaskRef := []
  fillList    : List TaskRef := []
  plainList   : List TaskRef := []
  backlog     : List Backlog := []
  outbox      : Tbl (List XUnit) := []
  arrivals    : List XUnit := []
  ledger      : List LedgerEntry := []
  rmw         : List XUnit := []
  pageReqs    : List PageReq := []
  pagingOut   : List (Nat × Block) := []
  pagingIn    : Option PageIn := none
  spillHalted : Bool := false
  listRecs    : List ListRec := []
  pool        : List (TaskRef × Nat) := []
  shadowRecs  : List ShadowRec := []
  landed      : List Arrival := []
  selfDone    : List TaskRef := []
  relNotes    : List TaskRef := []
  closeDecs   : List TaskRef := []
  cfSet       : List TaskRef := []
  /-- Tasks squashed at a resolution whose skip is not yet applied (R143, R95). -/
  squashed    : List TaskRef := []
  /-- List tasks committed at this edge, which R117 judges again once the aborts are applied (R142). -/
  committing  : List TaskRef := []
  /-- Members of a released gang that have not completed (R42). -/
  members     : List (TaskRef × List Nat) := []
  /-- Tasks that become ready at this edge, and tasks that return to their list at it (R106). -/
  becoming    : List TaskRef := []
  returning   : List TaskRef := []
  abortsIn    : List (TaskRef × AbortWhy) := []
  returns     : List Return := []
  repliesIn   : List (TaskRef × Nat) := []
  abortRecs   : List AbortRec := []
  gangs       : List GangSend := []
  chosen      : List Nat := []
  clkUsed     : Nat := 0
  allowLeft   : Nat := 0
  charged     : Bool := false
  charges     : Tbl Nat := []
  readCount   : Nat := 0
  sentCount   : Tbl Nat := []
  admitCount  : Nat := 0
  hubSent     : Nat := 0
  fence       : Bool := false
  /-- FENCE of RCH_TEST_n as it was written in this pulse: it acts at the coming edge (R374). -/
  fenceIn     : Option Bool := none
  testing     : Bool := false
  testDone    : Bool := false
  testFail    : BitVec 8 := 0
  testResult  : BitVec 8 := 0
  retiredBlocks   : List Nat := []
  retiredGranules : List Nat := []
deriving DecidableEq, Repr

/-! ## Engine agents -/

/-- A sync object (R211) with the start value and touched bit (R217) and the debugger fields (Table 9.4). -/
structure SyncObj where
  value    : BitVec 32 := 0
  sat      : Bool := false
  touched  : Bool := false
  start    : BitVec 32 := 0
  lastKind : Nat := 3
  lastSrc  : Nat := 0
  lastEdge : Nat := 0
deriving DecidableEq, Repr

/-- The waits of Table 9.3. -/
inductive WaitOp where
  | ge | eq | take
deriving DecidableEq, Repr

/-- An unsatisfied wait (R215): the engine, its operation and operand. -/
structure Wait where
  engine  : Nat
  op      : WaitOp
  operand : BitVec 32
deriving DecidableEq, Repr

/-- The run that an engine has (R62). -/
structure Run where
  dw        : DWord
  tile      : Nat := 0
  active    : Bool := true
  shadow    : Bool := false
  committed : Bool := false
  startEdge : Nat := 0
  status    : BitVec 8 := 0
  rsig      : List RsigBlk := []
  census    : List (Nat × (Nat × Nat × Nat × Nat)) := []
  close     : Option (BitVec 12 × BitVec 16 × BitVec 3 × BitVec 64) := none
  /-- The enabled watchpoints of its context as the run started: number, BASE, LEN, KIND (R344). -/
  watch     : List (Nat × BitVec 64 × BitVec 32 × Nat) := []
  /-- Private read positions of a shadow run, with the header last read (R244). -/
  readPos   : Tbl (Nat × BitVec 64) := []
deriving DecidableEq, Repr

/-- Why abort is asserted on an engine port. -/
inductive AbortCause where
  | preempt | request | squash | reset
deriving DecidableEq, Repr

/-- An outstanding pull (R118, R166). -/
inductive Pull where
  | none | tile | chunk
deriving DecidableEq, Repr

/-- A send given to a DMA engine agent (R161, R270). -/
structure SendWord where
  id     : BitVec 32
  src    : BitVec 64
  dst    : BitVec 64
  len    : BitVec 32
  stream : BitVec 16
  epoch  : BitVec 8
  fab    : Bool
  slot   : Nat
  row    : Nat
  chunk  : Bool
  index  : Nat
deriving DecidableEq, Repr

/-- What an agent broadcasts at an edge (R30, R136). -/
structure Bcast where
  free     : Bool := false
  running  : Bool := false
  be       : Bool := false
  preempt  : Bool := false
  holdBusy : Bool := false
  shadow   : Bool := false
  dqN      : Nat := 0
  idle     : Bool := true
  fenced   : Bool := false
  pwr      : Bool := false
deriving DecidableEq, Repr

/-- One engine agent (Table 1.2). -/
structure Agent where
  pwrGood    : Bool := false
  joined     : Bool := false
  upEdge     : Nat := 0
  fenced     : Bool := false
  queue      : List DWord := []
  pre        : Option DWord := none
  present    : Option DWord := none
  /-- The edge at which the last word was presented (R205, Table 14.10). -/
  presentEdge : Nat := 0
  run        : Option Run := none
  listWord   : Option DWord := none
  fedFirst   : Bool := false
  advance    : Option Nat := none
  pull       : Pull := .none
  pullEmpty  : Bool := false
  abort      : Option AbortCause := none
  locals     : Tbl SyncObj := []
  /-- The unsatisfied wait: on local object i, or on global object i as 4,096 + i. -/
  wait       : Option (Nat × Wait) := none
  /-- The write-hold buffer: items with their task, in order of issue. -/
  items      : List (TaskRef × HoldItem) := []
  /-- Tasks whose items are being released (R142), and the task of a released item not yet acknowledged. -/
  committed  : List TaskRef := []
  ackDue     : Option TaskRef := none
  stalled    : Option (TaskRef × HoldItem) := none
  /-- Runs that have ended with their completion word parked (R139). -/
  ended      : List Run := []
  cplHold    : List Cpl := []
  inWords    : List DWord := []
  outCpl     : List Cpl := []
  /-- How many of those words were held over a stop, and land in the pulse of the resume (R104). -/
  landDue    : Nat := 0
  outReturns : List Return := []
  inAborts   : List (TaskRef × AbortWhy) := []
  outReplies : List TaskRef := []
  /-- Replies due when the run ends, of a QUEUE_DESTROY without ABORT (R202). -/
  lateReplies : List TaskRef := []
  inCommits  : List TaskRef := []
  inSquashes : List TaskRef := []
  sends      : List SendWord := []
  hitsPulse  : Nat := 0
  /-- The pulse in which the engine last acknowledged an abort (Table 14.10). -/
  ackAt      : Option Nat := none
  busyAtMap  : Nat := 0
  bcast      : Bcast := {}
deriving DecidableEq, Repr

/-! ## The front end -/

/-- Queue states (Table 8.3). -/
inductive QState where
  | idle | active | faulted | closing | closed
deriving DecidableEq, Repr

/-- Where a started descriptor stands. -/
inductive Phase where
  /-- Completes at the next edge with this status. -/
  | finishing (status : BitVec 8)
  /-- A launch that waits for the previous one (R82), with what it read. -/
  | launchWait (handles : List (BitVec 64)) (patches : List (BitVec 128))
  /-- A RELOCATE launch whose wait is over reads the handle table as it now stands (R82). -/
  | launchRead (patches : List (BitVec 128))
  /-- Checked; the reaches arm at the next edge (R82). -/
  | arming
  /-- Armed as launch `count`; waits for END_TASK (R192). -/
  | launched (count : Nat) (endDone : Bool)
  /-- A patch that waits like a launch (R194). -/
  | patchWait (patches : List (BitVec 128))
  /-- The image is being read (R81). -/
  | imageReading
  /-- The image has been read, with its handle-table entries; it takes effect at the next edge (R188). -/
  | imageRead (image : List Byte) (handles : List (BitVec 64))
  /-- The loader's writes are not all acknowledged (R81 step 6). -/
  | imageWriting
  /-- A value wait: first value, whether it has changed, the edge of its last read (R195). -/
  | valueWait (first : Option (BitVec 64)) (changed : Bool) (lastRead : Nat)
  /-- A fence whose record has this ticket (R196). -/
  | fenceRecord (ticket : Nat)
  /-- A fence whose write is outstanding. -/
  | fenceWrite
  /-- A STEP that waits behind a pending one, or is pending (R129). -/
  | stepWait (leaves : List Nat) (joins : List (Nat × BitVec 32))
  | stepPending
  /-- CONTEXT_CREATE with its record and group map, to be applied at the next edge. -/
  | ctxCreate (record groupMap : List Byte)
  | ctxDestroy
  | queueCreate
  | queueDestroy
  /-- QUEUE_DESTROY applied; waits for the last report (R202). -/
  | destroying (victim : Nat)
  /-- DUMP_TENSOR, to be judged at the next edge (R203). -/
  | dump
deriving DecidableEq, Repr

/-- A started descriptor: its index in its queue, its bytes, its phase, whether it still stands at the
head, the edge of its start, its start latch (R329). -/
structure Started where
  index : Nat
  desc  : BitVec 512
  phase : Phase
  head  : Bool
  start : Nat
  latch : Option (List Nat) := none
deriving DecidableEq, Repr

/-- A descriptor that has completed at this edge: its queue and that queue's context, its bytes, status, INFO, the
ticket of its DESC record, and its start latch (R189, R329). -/
structure Finished where
  queue  : Nat
  ctx    : Nat
  desc   : BitVec 512
  status : BitVec 8
  info   : Nat
  ticket : Nat
  latch  : Option (List Nat)
deriving DecidableEq, Repr

/-- What an AND or a PI read is for: the bell of a poll, a last look, or the clearing of a stray bell (R179, R180,
R182). -/
inductive AskedBy where
  | bell | look | stray
deriving DecidableEq, Repr

/-- The last look of a queue (R182): its AND, then its PI read, or its repeat at the next poll. -/
inductive Look where
  | none | andOut | readOut | again
deriving DecidableEq, Repr

/-- A software queue (R176, R183, R201, R204). -/
structure Queue where
  ctx        : Nat
  prio       : Nat
  slot       : Nat
  log2n      : Nat
  ring       : BitVec 64
  statAddr   : BitVec 64
  timeout    : Nat
  piRead     : Nat := 0
  ci         : Nat := 0
  done       : Nat := 0
  qstate     : QState := .idle
  lastStatus : BitVec 8 := 0
  eventEdge  : Nat := 0
  timer      : Nat := 0
  timerLeft  : Nat := 0
  progress   : Bool := false
  fetched    : List (Option (BitVec 512)) := []
  fetchOut   : Bool := false
  started    : List Started := []
  look       : Look := .none
  /-- Its ANDs and PI reads that are outstanding, in the order in which they were asked for. -/
  ands       : List AskedBy := []
  piReads    : List AskedBy := []
  readAgain  : Bool := false
  /-- The ticket of the last cause of its status record (R27). -/
  cause      : Option Nat := none
  /-- The value that a WAIT_VALUE of the queue read last (Table 14.9). -/
  waitLast   : BitVec 64 := 0
  /-- Statuses of result records whose write response is out, with the tickets of their DESC records (R189, Table 11.3).
  -/
  resOut     : List (BitVec 8 × Nat) := []
  /-- The ticket of the descriptor whose status is LAST_STATUS: the most recently completed one (Table 8.3). -/
  lastTicket : Nat := 0
  /-- The ticket at which the queue was created: records before it are of another queue (R312). -/
  born       : Nat := 0
deriving DecidableEq, Repr

/-- The context record (Table 8.15). -/
structure CtxRec where
  spillBase  : BitVec 64 := 0
  spillBytes : BitVec 64 := 0
  btabBase   : BitVec 64 := 0
  btabN      : Nat := 0
  argBase    : BitVec 64 := 0
  argBytes   : Nat := 0
  htabBase   : BitVec 64 := 0
  htabN      : Nat := 0
  gsyncQ     : Nat := 0
  chanQ      : Nat := 0
  cqQ        : Nat := 0
  tideN      : Nat := 0
  chanKib    : Nat := 0
  blocks     : List Nat := []
  granules   : List Nat := []
deriving DecidableEq, Repr

/-- A block of the loaded image as device memory holds it: block-table entry and frame (R84): launch
copy, edge run, and the live copy with the launch epoch it belongs to. -/
structure Frame where
  reach   : Nat
  seg     : Nat
  vblock  : Nat
  taskN   : Nat
  roots   : Bool
  loop    : Bool
  copyAddr : BitVec 64
  launch  : Tbl Task
  edges   : List Word32
  live    : Option (Tbl Task) := none
  epoch   : Nat := 0
  /-- Backwater mode (R90): loaded in this launch, and retired since. -/
  loaded  : Bool := false
  retired : Bool := false
deriving DecidableEq, Repr

/-- What the loader keeps of the loaded image: frames in image order, patch map (R79), relocation
list (R78), length of the argument-area image. -/
structure ImageInfo where
  frames   : List Frame := []
  patchMap : List (Nat × Nat) := []
  relocs   : List (Nat × Nat × BitVec 64) := []
deriving DecidableEq, Repr

/-- The pending STEP of a context (R129): the queue and index of its descriptor, GATE, its lists, and
whether it landed in the pulse just ended. -/
structure StepReq where
  queue  : Nat
  index  : Nat
  gate   : Bool
  leaves : List Nat
  joins  : List (Nat × BitVec 32)
deriving DecidableEq, Repr

/-- A context (R80, R128-R130, R192, R198, R330). -/
structure Ctx where
  faulted     : Bool := false
  backwater   : Bool := false
  seqQ        : Nat := 0
  seqPred     : Nat := 0
  batchAddr   : BitVec 64 := 0
  record      : CtxRec := {}
  groupMap    : List Byte := []
  granBase    : Tbl Nat := []
  chanBase    : Nat := 0
  image       : ImageInfo := {}
  launchCount : Nat := 0
  launchQueue : Option Nat := none
  launchSlot  : Nat := 0
  /-- The edge at which it was last armed; what that arms is first tested at the next edge (R35). -/
  armEdge     : Nat := 0
  closedLaunch : Bool := false
  gated       : Bool := false
  stepCount   : Nat := 0
  seqSlots    : Tbl (Option (BitVec 32)) := []
  pendingStep : Option StepReq := none
  /-- The descriptor of the last STEP applied: queue, index, bytes (R312). -/
  lastStep    : Option (Nat × Nat × BitVec 512) := none
  requests    : List TaskRef := []
  applied     : List TaskRef := []
  ranges      : List (BitVec 32) := []
  rangeDepth  : Nat := 0
deriving DecidableEq, Repr

/-- What the configuration mirror holds of a context and of a queue (R199). -/
structure CtxCfg where
  backwater : Bool
  seqQ      : Nat
  seqPred   : Nat
  batchAddr : BitVec 64
  record    : CtxRec
  groupMap  : List Byte
  granBase  : Tbl Nat
  chanBase  : Nat
deriving DecidableEq, Repr

structure QueueCfg where
  ctx      : Nat
  prio     : Nat
  slot     : Nat
  log2n    : Nat
  ring     : BitVec 64
  statAddr : BitVec 64
  timeout  : Nat
deriving DecidableEq, Repr

/-- Host-memory requests by purpose (Tables 11.2 and 11.3), with bits 62:0 of their address (R187). -/
inductive HostReq where
  | summaryRead (addr : BitVec 63)
  | summaryAnd (q : Nat) (addr : BitVec 63)
  | piRead (q : Nat) (addr : BitVec 63)
  | fetch (q : Nat) (addr : BitVec 63)
  | statusWrite (q : Nat) (addr : BitVec 63) (bytes : List Byte)
  | resultWrite (q : Nat) (addr : BitVec 63) (bytes : List Byte)
  | valueRead (q : Nat) (addr : BitVec 63)
  | valueWrite (q : Nat) (addr : BitVec 63) (value : BitVec 64)
  | imageRead (addr : BitVec 63) (bytes : Nat)
  | firmwareRead (addr : BitVec 63) (bytes : Nat)
  /-- Patch records or STEP lists of a descriptor of queue `q`, and the copy of a dump. -/
  | descRead (q : Nat) (addr : BitVec 63) (bytes : Nat)
  | dumpRead (addr : BitVec 63) (bytes : Nat)
  | dumpWrite (addr : BitVec 63) (bytes : Nat)
deriving DecidableEq, Repr

/-- An outstanding request whose queue has ended, or that was made before a block reset: its response only frees its tag,
is counted if it is an error, and ends the bell that it was for. `ctx` is the context that an error of it tears down. -/
structure LateReq where
  req : HostReq
  ctx : Nat
  who : Option AskedBy := none
deriving DecidableEq, Repr

/-- The write of a FENCE that is not acknowledged: its queue, context and descriptor index (R196, R313). -/
structure FenceOut where
  queue : Nat
  ctx   : Nat
  index : Nat
deriving DecidableEq, Repr

/-- The poll of the summary (R179, R181). -/
structure Poll where
  busy      : Bool := false
  abandoned : Bool := false
  reading   : Bool := false
  bells     : List Nat := []
  timerDue  : Bool := false
  hintDue   : Bool := false
  /-- Pulses of hints that no edge has followed yet. -/
  hints     : List Nat := []
  polledAt  : Nat := 0
  /-- The pulse in which the last poll ended. -/
  endedAt   : Option Nat := none
deriving DecidableEq, Repr

/-- Firmware states (Table 8.27). -/
inductive FwState where
  | reset | bootWait | loading | checking | running
deriving DecidableEq, Repr

/-- An entry of a cyclic table (Table 5.7). -/
structure CycEntry where
  valid : Bool := false
  slot  : Nat := 0
  eset  : Nat := 0
  len   : Nat := 0
  start : Nat := 0
deriving DecidableEq, Repr

/-- A cyclic table (Table 5.6). -/
structure CycTable where
  switchEdge : Nat := 0
  arm        : Bool := false
  armEdge    : Nat := 0
  entryN     : Nat := 0
  lead       : Nat := 0
  cycle      : Nat := 0
  entries    : Tbl CycEntry := []
deriving DecidableEq, Repr

/-- The front end. -/
structure Fe where
  queues       : Tbl Queue := []
  ctxs         : Tbl Ctx := [(0, {})]
  poll         : Poll := {}
  startedPulse : Nat := 0
  lastSlot     : Tbl Nat := []
  lastQueue    : Tbl Nat := []
  fwState      : FwState := .bootWait
  fwReason     : Nat := 0
  fwAttempts   : Nat := 0
  cycA         : CycTable := {}
  cycB         : CycTable := {}
  cycActiveB   : Bool := false
  cycBase      : Nat := 0
  /-- LOAD_IMAGE descriptors that the graph loader has, by queue and index; it reads for the first. -/
  loader       : List (Nat × Nat) := []
  loaderHalted : Bool := false
  retirement   : List (BitVec 64) := []
  /-- The retirement table as it stood at the last write of FE_CTL, read at the first edge with EN set (R319, R374). -/
  retireIn     : List (BitVec 64) := []
  stepsIn      : List TaskRef := []
  teardownsIn  : List (Nat × BitVec 8 × Option (Nat × Nat)) := []
  finished     : List Finished := []
  /-- By queue, the pulse of its last status record (R183). -/
  statAt       : Tbl Nat := []
  /-- Queues freed at this edge: their last status record follows their result records (R189, R202). -/
  freed        : List (Nat × Queue × Option Nat) := []
  /-- Host-memory requests outstanding, with their tags, and those that wait for a tag (R260). -/
  hostOut      : List (Nat × HostReq) := []
  hostWait     : List HostReq := []
  /-- Those among them that no longer have an owner, oldest first. -/
  late         : List LateReq := []
  /-- Fence writes that are not acknowledged, in the order in which they were made (R196). -/
  fences       : List FenceOut := []
  /-- The configuration mirror (R199). -/
  mirrorCtxs   : Tbl CtxCfg := []
  mirrorQueues : Tbl QueueCfg := []
  /-- The contents of the CP instruction, CP data and RC memories that firmware loads write (R208). -/
  cpInstr      : List Byte := []
  cpData       : List Byte := []
  rcMem        : List Byte := []
deriving DecidableEq, Repr

/-! ## The router -/

/-- An RSD row entry (Table 7.3). -/
structure RsdRow where
  type    : Nat
  expert  : Nat
  dmaEset : Nat
  cap     : Nat
  tile0   : BitVec 32
  tileN   : Nat
  stream  : BitVec 16
  buf     : BitVec 64
  slot0   : Nat
  fill0   : Nat
deriving DecidableEq, Repr

/-- A route step descriptor (Table 7.2). -/
structure Rsd where
  tokenN     : Nat
  k          : Nat
  expM1      : Nat
  wraw       : Bool
  renorm     : Bool
  quota      : Bool
  dyn        : Bool
  sfp32      : Bool
  tlog       : Nat
  srcN       : Nat
  poolTokens : Nat
  chunkN     : Nat
  predBase   : Nat
  actBase    : BitVec 64
  rowBytes   : Nat
  recBase    : BitVec 64
  slotRec    : BitVec 64
  chunkBuf   : BitVec 64
  chunkRec   : BitVec 64
  cmdBase    : BitVec 64
  fillBase   : BitVec 64
  cntBase    : BitVec 64
  closeTask  : BitVec 32
  combQ0     : Nat
  qlog       : Nat
  rows       : List RsdRow
deriving DecidableEq, Repr

/-- A routing record (Table 7.5). -/
structure RouteRec where
  token  : BitVec 32
  row    : BitVec 16
  expert : BitVec 8
  rfl    : BitVec 8
  slot   : BitVec 32
  weight : BitVec 32
deriving DecidableEq, Repr

/-- The counts of a row in a session (R172) and its admission state. -/
structure RowSt where
  req      : BitVec 32 := 0
  adm      : BitVec 32 := 0
  pool     : BitVec 32 := 0
  drop     : BitVec 32 := 0
  sat      : BitVec 32 := 0
  len      : BitVec 32 := 0
  used     : Nat := 0
  srcUsed  : Tbl Nat := []
  openChunk : Option Nat := none
  bound    : Nat := 0
  sent     : Nat := 0
  released : List Nat := []
  announced : Bool := false
deriving DecidableEq, Repr

/-- A chunk of the chunk space (R165). -/
structure Chunk where
  row       : Option Nat := none
  count     : Nat := 0
  claimable : Bool := false
  claimed   : Bool := false
deriving DecidableEq, Repr

/-- How far a session has come (R168). -/
inductive SessPhase where
  | routing | closePoint | closing | closed
deriving DecidableEq, Repr

/-- An admitted slot: row, whether in the chunk space, its number, its record. -/
structure Placed where
  row    : Nat
  chunk  : Bool
  index  : Nat
  record : RouteRec
  sent   : Bool
  done   : Bool
deriving DecidableEq, Repr

/-- A session (R152). -/
structure Session where
  ctx       : Nat
  rsdIx     : BitVec 32
  round     : BitVec 16
  rsd       : Rsd
  processed : Nat := 0
  poolUsed  : Nat := 0
  poolSrc   : Tbl Nat := []
  lastTok   : Tbl Nat := []
  rowSt     : Tbl RowSt := []
  chunks    : Tbl Chunk := []
  nextChunk : Nat := 0
  wantChunk : Option Nat := none
  placed    : List Placed := []
  /-- Dropped choices: token and rank (R170). -/
  drops     : List (Nat × Nat) := []
  resolved  : List Nat := []
  sendsOut  : Nat := 0
  phase     : SessPhase := .routing
deriving DecidableEq, Repr

/-- A score vector that intake holds (R148), its data beats as 32-bit words. -/
structure Vector where
  engine : Nat
  ctx    : Nat
  rsdIx  : BitVec 32
  round  : BitVec 16
  token  : Nat
  words  : List (BitVec 32)
  /-- The pulse in which intake accepted it. -/
  pulse  : Nat := 0
deriving DecidableEq, Repr

/-- The router. -/
structure Rt where
  sessions  : Tbl Session := []
  /-- The latest closed session of each RSD, whose chunks may still be pulled (R166). -/
  closed    : List Session := []
  intake    : List Vector := []
  /-- Vectors held at their engine ports, with the RSD that each would open (R148, R152). -/
  waiting   : List (Vector × List Byte) := []
  /-- Sends of routed tokens that found no credit (R161): session slot, row, chunk space, slot. -/
  unsent    : List (Nat × Nat × Bool × Nat) := []
  nextSend  : Nat := 0
  err       : BitVec 3 := 0
  notices   : Tbl (List (TaskRef × Bool)) := []
  /-- Announcements whose send records enter at the next edge (R225): context, operands, ROUND. -/
  announces : List (Nat × RsigBlk × BitVec 16) := []
  /-- Announcements received: context, RSD index, ROUND, STREAM, L. -/
  deliver   : List (Nat × BitVec 32 × BitVec 16 × BitVec 16 × BitVec 32) := []
  /-- Announcements that have come, newest last: context, RSD index, STREAM and ROUND (R229; log 127). -/
  heard     : List (Nat × BitVec 32 × BitVec 16 × BitVec 16) := []
deriving DecidableEq, Repr

/-! ## The hub -/

/-- A send record of a stream (R223). -/
structure SendRec where
  owner   : Option Nat := none
  epoch   : BitVec 8 := 0
  nextSeq : BitVec 32 := 0
  issued  : BitVec 32 := 0
deriving DecidableEq, Repr

/-- An entry of the outstanding table (R224, R226). -/
structure Outstanding where
  ctx     : Nat
  stream  : BitVec 16
  dst     : BitVec 16
  epoch   : BitVec 8
  seq     : BitVec 32
  packet  : BitVec 256
  ticket  : Nat
  sentAt  : Option Nat
deriving DecidableEq, Repr

/-- A receive record of a stream (R227). -/
structure RecvRec where
  used   : Bool := false
  src    : BitVec 16 := 0
  epoch  : BitVec 8 := 0
  base   : BitVec 32 := 0
  held   : BitVec 64 := 0
  done   : BitVec 64 := 0
  count  : BitVec 32 := 0
  countN : BitVec 32 := 0
deriving DecidableEq, Repr

/-- A signal packet (Table 9.5). -/
structure Signal where
  kind   : BitVec 8
  epoch  : BitVec 8
  ctx    : BitVec 8
  stream : BitVec 16
  src    : BitVec 16
  dst    : BitVec 16
  round  : BitVec 16
  seq    : BitVec 32
  expect : BitVec 32
  target : BitVec 32
  value  : BitVec 32
deriving DecidableEq, Repr

/-- Index states of a channel (R235). -/
inductive ChState where
  | idle | pending | opened | reset
deriving DecidableEq, Repr

/-- One end of a channel: the engine of its most recent operation (R256), the task that took it, its status address
and the engine whose local memory that may name (R245). -/
structure ChEnd where
  engine : Nat
  statEngine : Nat
  ref    : TaskRef
  stat   : BitVec 64
  closed : Bool := false
deriving DecidableEq, Repr

/-- A channel (R235-R249, Tables 10.5, 10.13). -/
structure Channel where
  ctx      : Nat
  state    : ChState := .pending
  persist  : Bool := false
  autorel  : Bool := false
  rlog     : Nat := 0
  base     : Nat := 0
  sendEnd  : Option ChEnd := none
  recvEnd  : Option ChEnd := none
  fan      : Option (List Nat) := none
  wp       : Nat := 0
  rp       : Nat := 0
  rl       : Nat := 0
  mkp      : Nat := 0
  marked   : Bool := false
  seqNext  : BitVec 32 := 0
  sent     : BitVec 32 := 0
  relsd    : BitVec 32 := 0
  lost     : Nat := 0
  gapCount : Nat := 0
  gapFirst : BitVec 32 := 0
  gapFlag  : Bool := false
  underrun : Bool := false
  drift    : Bool := false
  lastHdr  : BitVec 64 := 0
  corr     : Nat := 0
deriving DecidableEq, Repr

/-- States of a combining queue (R251, R254). -/
inductive CqState where
  | opening | opened | closing
deriving DecidableEq, Repr

/-- A slot of a combine set (Table 10.10): its contributions by position, DONE and MISS. -/
structure CbSlot where
  done : Bool := false
  miss : Bool := false
  puts : Tbl PutOp := []
deriving DecidableEq, Repr

/-- A combining queue that is not idle, with its block (Table 10.8). -/
structure CombQ where
  ctx       : Nat
  state     : CqState
  argix     : BitVec 32
  launch    : Nat
  intMode   : Bool
  osat      : Bool
  ofmt      : Nat
  orderN    : Nat
  slotN     : Nat
  elems     : Nat
  orderBase : BitVec 64
  outBase   : BitVec 64
  outStride : Nat
  slots     : Tbl CbSlot := []
  held      : List (Option (Nat × TaskRef) × PutOp) := []
  closer    : Option TaskRef := none
  reported  : Bool := false
deriving DecidableEq, Repr

/-- The hub. -/
structure Hb where
  gsync       : Tbl SyncObj := []
  gwaits      : Tbl (List Wait) := []
  streams     : Tbl SendRec := []
  outstanding : List Outstanding := []
  recvs       : Tbl RecvRec := []
  held        : List Signal := []
  /-- Signals accepted in this pulse and not released in it. -/
  newHeld     : List Signal := []
  releasing   : List Signal := []
  effects     : List Signal := []
  ackDue      : List (Nat × Signal) := []
  channels    : Tbl Channel := []
  chanMem     : List Host.Cell := []
  cqs         : Tbl CombQ := []
deriving DecidableEq, Repr

/-! ## The power governor -/

/-- The power governor (12_power.md). The bucket B is held in units of 2^-12 pJ, FP32 values as their bits. -/
structure Pg where
  bucket     : Int := 0
  fillFp     : BitVec 32 := 0
  pAvg       : BitVec 32 := 0
  pBase      : BitVec 32 := 0
  factors    : Tbl (BitVec 16) := []
  sums       : Tbl Nat := []
  sample     : Option (BitVec 20) := none
  /-- The latest pg_pwr_mw sample (Table 14.11). -/
  latest     : BitVec 20 := 0
  lastP      : BitVec 20 := 0
  miss       : Nat := 0
  stale      : Bool := false
  metering   : Bool := false
  pulseClks  : List Nat := []
  chunkCharges : Tbl Nat := []
  njFrac     : Nat := 0
  controlAt  : Nat := 0
  calEdges   : Nat := 0
  calDue     : Bool := false
  level      : BitVec 3 := 0
  levelNext  : Option (BitVec 3) := none
  pins       : BitVec 8 := 0
  perInput   : Tbl Nat := []
  /-- The OR of the counted inputs as last seen (R288). -/
  countedOr  : Bool := false
  stretch    : Bool := false
  lastDroop  : Option Nat := none
  boostReq   : Bool := false
  boostDrop  : Bool := false
  boostGrant : Bool := false
  supply     : BitVec 3 := 0
  supplyHist : List (Nat × Nat) := []
  sag        : Nat := 0
  forced     : Nat := 0
  droopOff   : Bool := false
  forcedIn   : Option (Nat × Bool) := none
  shed       : Nat := 0
  permit     : BitVec 64 := 0
deriving DecidableEq, Repr

/-! ## Journal and recovery -/

/-- Journal record types (Table 13.4). -/
inductive JType where
  | complete | pred | launch | step | fence | fenceDone | desc | send | release | pageOut | pageIn
  | close | teardown | ckptBegin | ckptEnd | reset
deriving DecidableEq, Repr

/-- A journal record (Tables 13.3, 13.4): the full edge, the second slot of a two-slot record, its first
slot in the stream, and the ticket by which the effects it releases name it. -/
structure JRec where
  type   : JType
  ctx    : Nat := 0
  status : BitVec 8 := 0
  epoch  : Nat := 0
  defer  : Bool := false
  ending : Bool := false
  gang   : Bool := false
  id     : BitVec 32 := 0
  edge   : Nat := 0
  aux    : BitVec 32 := 0
  second : Option (BitVec 128) := none
  slot   : Nat := 0
  ticket : Nat := 0
  /-- What the record leads to outside the stream: the descriptor of a LAUNCH, STEP or FENCE record, which its ring still
  holds (R312), and the packet of a SEND record (log 134). -/
  desc   : BitVec 512 := 0
deriving DecidableEq, Repr

/-- An effect that leaves the block only once the journal record of a ticket is acknowledged (R27, R303). `gone` is the
context of its queue if that queue has ended. -/
inductive Effect where
  /-- A queue status record, not before a pulse (R183: at most one in a pulse). -/
  | status (q notBefore : Nat) (gone : Option Nat) (addr : BitVec 64) (bytes : List Byte)
  /-- A result record (R189). -/
  | result (q : Nat) (gone : Option Nat) (addr : BitVec 64) (bytes : List Byte)
deriving DecidableEq, Repr

/-- What a checkpoint keeps of a queue: the ticket of its creation, DONE, and the started descriptors whose LAUNCH or
FENCE record lies at or before the copy edge, so that they are not started again (R297; DEDUCED, log 136). -/
structure QueueCopy where
  queue   : Nat
  born    : Nat
  done    : Nat
  started : List Started
deriving DecidableEq, Repr

/-- A context's share of a checkpoint (Table 13.5) at its copy edge: the context as it was, with the frames that
device memory held, its blocks by reach and physical block, backlog records by reach, units by source reach, ledger
entries and queued read-modify-writes by reach, list records, predicate slots, stream send records and outstanding-table
entries, and its queues. -/
structure CtxCopy where
  ctx      : Nat
  edge     : Nat
  image    : Ctx
  blocks   : List (Nat × Nat × Block) := []
  backlogs : List (Nat × Backlog) := []
  units    : List XUnit := []
  ledgers  : List LedgerEntry := []
  lists    : List ListRec := []
  preds    : Tbl (Option Bool) := []
  streams  : Tbl SendRec := []
  outstanding : List Outstanding := []
  queues   : List QueueCopy := []
deriving DecidableEq, Repr

/-- A checkpoint (R306, R307): its number, the slot of its CKPT_BEGIN, its edge, the copies and the hub's part. -/
structure Ckpt where
  number : Nat := 0
  begin_ : Nat := 0
  edge   : Nat := 0
  copies : List CtxCopy := []
  recvs  : Tbl RecvRec := []
  held   : List Signal := []
deriving DecidableEq, Repr

/-- Causes of a block reset (GLB_RESET_STATUS.CAUSE, Table 13.12). -/
inductive Cause where
  | hungRun | cpTrap | cpHeartbeat | rcTrap | sharedUncorrectable | journalHalt | pin | management
deriving DecidableEq, Repr

/-- An error-log record (Table 13.10). -/
structure ELogRec where
  edge    : Nat
  mem     : Nat
  event   : Nat
  source  : Nat
  ctx     : Nat
  page    : Nat
  word    : Nat
  symbols : Nat
  outcome : BitVec 8
  count   : Nat
deriving DecidableEq, Repr

/-- Recovery: journal, checkpoints, block reset, stored data, maker port. -/
structure Rel where
  journal     : List JRec := []
  slots       : Nat := 0
  acked       : Nat := 0
  jHalted     : Bool := false
  waiting     : List (Option Nat × Effect) := []
  staged      : List (Nat × JRec) := []
  tickets     : Nat := 0
  windows     : List (Nat × Nat × Nat) := []
  ckptNext    : Nat := 1
  ckptActive  : Option Ckpt := none
  ckptLast    : Ckpt := {}
  /-- Slots entered when the last checkpoint began, and whether one begins or ends at the coming edge (R306, R307). -/
  ckptSince   : Nat := 0
  ckptBegin   : Bool := false
  ckptEnd     : Bool := false
  phase       : Nat := 0
  cause       : Nat := 0
  count       : Nat := 0
  pendingCause : Option Cause := none
  resetEdge   : Nat := 0
  teardowns   : Tbl Nat := []
  elogPi      : Nat := 0
  elogCi      : Nat := 0
  elogLost    : Nat := 0
  wordLogged  : List (Nat × Nat) := []
  validPages  : List (Nat × Nat) := []
  /-- Pages written in part so far: memory, page, and the 64-byte parts written (R316). -/
  partPages   : List (Nat × Nat × BitVec 32) := []
  lapSeen     : List (Nat × Nat) := []
  lapStart    : Tbl Nat := []
  laps        : Tbl (BitVec 32) := []
  mkOpen      : Bool := false
  mkPending   : Option (BitVec 32) := none
  mkTries     : Nat := 0
  mkAsked     : Nat := 0
deriving DecidableEq, Repr

/-! ## Debug -/

/-- The census of one format (Table 14.6). -/
structure CensusFmt where
  values : Nat := 0
  ovf    : Nat := 0
  van    : Nat := 0
  nan    : Nat := 0
  sat    : BitVec 4 := 0
deriving DecidableEq, Repr

/-- A trace record (Table 14.7). -/
structure TraceRec where
  edge   : Nat
  type   : Nat
  sub    : Nat := 0
  shadow : Bool := false
  ctx    : Nat := 0xFF
  id     : BitVec 32 := 0
  engine : Nat := 0xFFFF
  status : BitVec 8 := 0
  range  : BitVec 32 := 0
  aux    : BitVec 64 := 0
  /-- Byte 0x13, zero but in a TIME record (R337). -/
  pad    : Nat := 0
deriving DecidableEq, Repr

/-- A pending DUMP_TENSOR (R343). -/
structure Dump where
  ctx      : Nat
  src      : BitVec 64
  dst      : BitVec 64
  bytes    : Nat
  tensor   : BitVec 32
  atLaunch : Nat
  taken    : Bool := false
deriving DecidableEq, Repr

/-- Who asked for a stop (Table 14.9 header CAUSE), and whether the image is still being written. -/
structure Snap where
  cause   : Nat
  edge    : Nat
  writing : Bool
  length  : Nat
deriving DecidableEq, Repr

/-- The debug unit. -/
structure Db where
  ctxCtr      : Tbl (Tbl Nat) := []
  census      : Tbl (Tbl CensusFmt) := []
  periods     : Tbl Nat := []
  trcBuf      : List TraceRec := []
  trcPi       : Nat := 0
  trcCi       : Nat := 0
  trcLoss     : Nat := 0
  trcHalted   : Bool := false
  /-- PI of the trace ring as it was last written, and the pulse of that write (R336). -/
  trcPiOut    : Nat := 0
  trcPiAt     : Option Nat := none
  snapHalted  : Bool := false
  loadMap     : Tbl (BitVec 16) := []
  stopped     : Bool := false
  stopEdge    : Nat := 0
  stopReq     : Option Nat := none
  resumeReq   : Bool := false
  snap        : Option Snap := none
  snapEdge    : Nat := 0
  cpHalted    : Bool := false
  rcHalted    : Bool := false
  /-- A core was halted at the last edge (R342); the breakpoint at which each core halted. -/
  haltSeen    : Bool := false
  haltIx      : Tbl Nat := []
  /-- The instruction address at which each core halted (R342). -/
  haltPc      : Tbl Nat := []
  /-- The stop of a block reset whose resume is not recorded yet (R103, R336). -/
  resetStop   : Bool := false
  /-- The edges of the last TIME record and of the last load-map sample. -/
  timeAt      : Nat := 0
  loadAt      : Nat := 0
  dumps       : List Dump := []
  fabTel      : Tbl (BitVec 52) := []
  /-- A counter snapshot is asked for at the coming edge; the EDGE and LENGTH of one being written (R331). -/
  csnapReq    : Bool := false
  csnap       : Option (Nat × Nat) := none
  flushUpto   : Option Nat := none
deriving DecidableEq, Repr

/-! ## The management controller -/

/-- Who asked for an always-complete operation. -/
inductive Asker where
  | port
  | station (s : Nat) (tag : BitVec 8)
deriving DecidableEq, Repr

/-- An operation of Table 15.1, waiting or running. -/
structure McOp where
  op    : Nat
  args  : List (BitVec 32)
  asker : Asker
  /-- Its effect is under way, and its response waits for an edge or for acknowledgements. -/
  started : Bool := false
deriving DecidableEq, Repr

/-- The attachment states (MC_SEG_STATUS.ATTACH, Table 15.10). -/
inductive Attach where
  | off | probing | listening | electing | joined | lantern
deriving DecidableEq, Repr

/-- A frame that waits for transmission or is on the segment: its header fields (Table 15.2), the bytes from 0x10 up
to the CRC, its priority, its collisions, and whether it has a slot of its own (R361, R362). -/
structure TxFrame where
  type     : Nat
  dst      : Nat
  seq      : Nat
  prio     : Nat
  body     : List Byte
  tries    : Nat := 0
  slotted  : Bool := false
  /-- The words that it has put on the segment, its start word first; empty before it starts (R352). -/
  sent     : List (BitVec 64) := []
deriving DecidableEq, Repr

/-- The management controller and the segment attachment. -/
structure Mc where
  running    : Option McOp := none
  waiting    : List McOp := []
  rspStatus  : BitVec 8 := 0
  rspOp      : Nat := 0
  rspDone    : Bool := false
  rspData    : List (BitVec 32) := []
  attach     : Attach := .off
  echo       : Nat := 0
  echoFault  : Bool := false
  /-- The lantern's station, if one is known. -/
  lantern    : Option Nat := none
  /-- The beacon cycle, once one has been heard or sent (R360). -/
  cycle      : Option (BitVec 64) := none
  /-- CYCLE of the last beacon heard, or of the lantern's own last one (R360). -/
  heardCycle : Option (BitVec 64) := none
  missed     : Nat := 0
  alarmN     : Nat := 0
  /-- By station, the cycles since its last valid frame, of the last 16 cycles (R361). -/
  heardFrom  : Tbl Nat := []
  txQueue    : List TxFrame := []
  /-- Frames whose reflection check has not ended, oldest first. -/
  onAir      : List TxFrame := []
  /-- Slots that the station waits after a collision (R358). -/
  backoff    : Option Nat := none
  seqs       : Tbl (BitVec 16) := []
  /-- The pending alarm summary, counts by kind, and the frozen one whose frame is not yet sent (R362). -/
  alarms     : Tbl Nat := []
  frozen     : Tbl Nat := []
  /-- The cycle in which the summary was last frozen (R362). -/
  frozeAt    : Option (BitVec 64) := none
  telD       : Nat := 0
  telClean   : Nat := 0
  telAt      : Option (BitVec 64) := none
  logQueue   : List ELogRec := []
  logLoss    : Nat := 0
  rxQueue    : List (List Byte) := []
  samples    : List Int := []
  sampleWait : Nat := 0
  offset     : BitVec 64 := 0
  offValid   : Bool := false
  strangers  : Nat := 0
  /-- The ser_clk periods for which mg_seg_cs had been low at the last edge, negative if it has gone low since; `none` if
  it has not been high (R356; log 149). -/
  quiet      : Option Int := none
deriving DecidableEq, Repr

/-! ## What the block puts on its ports -/

/-- A request on the device-memory port (R262): channel, 64-byte-aligned address, 64 or 128 bytes, and the bytes that a
write brings, `none` for a lane that it leaves alone. -/
structure DmReq where
  channel : Nat
  addr    : Nat
  bytes   : Nat
  lanes   : List (Option Byte)
deriving DecidableEq, Repr

/-- An item the block has put on a port. -/
inductive Out where
  /-- Requests of one purpose on the host-memory port, by their lines (`HostReq.lines`) under one tag (R260). -/
  | host (tag : Nat) (r : HostReq)
  /-- A write to device memory by the owning subject, as its requests (R262). -/
  | device (reqs : List DmReq)
  /-- A read of device memory, as its requests (R262). -/
  | deviceRead (reqs : List DmReq)
  /-- Zero in `n` records of 16 bytes, `stride` bytes apart, in device memory. -/
  | deviceZero (base : BitVec 64) (stride n : Nat)
  /-- A write to the local memory of an engine. -/
  | engineLocal (e off : Nat) (bytes : List Byte)
  | powerReq (d : Nat) (level : Bool)
  | present (e : Nat) (word : BitVec 256)
  | abort (e : Nat)
  | gate (e : Nat) (on : Bool)
  | opResult (e : Nat) (status : BitVec 8) (value : BitVec 32) (words : List (BitVec 64))
  | holdRefused (e : Nat)
  | itemRelease (e : Nat) (item : HoldItem)
  | pullAnswer (e : Nat) (answer : BitVec 32)
  /-- The 256-bit send word of Send on an engine port (R270). -/
  | sendWord (e : Nat) (w : BitVec 256)
  | epoch (e : Nat) (v : BitVec 8)
  | watchpoints (e : Nat) (ws : List (Nat × BitVec 64 × BitVec 32 × Nat))
  /-- A beat of fb_tx: slot mask and 512 bits (R271). Each packet leaves in a beat of its own, in slot 0 (log 122). -/
  | fabric (beat : FbBeat)
  | countQuery (stream : BitVec 16) (epoch : BitVec 8)
  | stretch (on : Bool) (len : Nat)
  | boost (on : Bool)
  /-- A frame on the management segment, its start word first (R352). -/
  | frame (words : List (BitVec 64))
  | regRead (addr : BitVec 24) (data : BitVec 32)
  /-- A hang snapshot at DB_SNAP_BASE: its header, and for each section its header, the bytes of those whose layout
  R339 gives, and for the others the fields of each record in the order of Table 14.9 (log 80). -/
  | snapshot (base : BitVec 64) (header : List Byte) (sections : List (List Byte × List Byte × List (List Nat)))
  /-- A counter snapshot at DB_CSNAP_BASE: its header, and for each section KIND, INSTANCE, BASE_EDGE and values. -/
  | counters (base : BitVec 64) (header : List Byte) (sections : List (Nat × Nat × Nat × List Nat))
  /-- A write of the configuration mirror at FE_MIRROR_BASE: a context or a queue, none for one that is gone (R199). -/
  | mirrorCtx (base : BitVec 64) (c : Nat) (x : Option CtxCfg)
  | mirrorQueue (base : BitVec 64) (q : Nat) (x : Option QueueCfg)
  /-- Writes of a checkpoint to its slot (R306, R307): a context's items, the hub's items, the slot header. -/
  | ckptCopy (slot : BitVec 64) (x : CtxCopy)
  | ckptHub (slot : BitVec 64) (recvs : Tbl RecvRec) (held : List Signal)
  | ckptHeader (slot : BitVec 64) (number : Nat) (edges : List (Nat × Nat))
  /-- The response to a register write (R274, R374). -/
  | regWritten (addr : BitVec 24)
  | dumpCopy (src dst : BitVec 64) (bytes : Nat)
deriving DecidableEq, Repr

/-! ## The whole state -/

/-- The always-on domain's time, identity and power pins (R7, R273, R276). -/
structure Aon where
  grade     : Grade
  pulse     : Nat
  mtime     : Nat
  dieId     : BitVec 64
  station   : BitVec 6
  lanternOk : Bool
  makerEn   : Bool
  pdReq     : BitVec 20
  pdAck     : BitVec 20
  /-- The mg_clk periods that have passed since the last pulse edge, as far as steps have shown (log 70). -/
  since     : Nat
deriving DecidableEq, Repr

/-- The configuration registers (R372, R374) and the flags of GLB_STATUS that writes set. -/
structure RegFile where
  stored    : Tbl Word32 := []
  active    : Tbl Word32 := []
  lock      : Bool := false
  lockSaved : Bool := false
  frozen    : Bool := false
  accErr    : Bool := false
  lockedWr  : Bool := false
  errAddr   : Word32 := 0
  /-- Upper halves captured by reads of RO _LO registers and not yet read, by the offset of the _LO (R373). -/
  capture   : Tbl Word32 := []
deriving DecidableEq, Repr

/-- Everything but the always-on domain's time and identity and the configuration registers. -/
structure Blk where
  reaches  : Tbl Reach := []
  preds    : Tbl (Option Bool) := []
  history  : Tbl Hist := []
  predOps  : List PredMsg := []
  predNext : List PredMsg := []
  agents   : Tbl Agent := []
  fe       : Fe := {}
  rt       : Rt := {}
  hb       : Hb := {}
  pg       : Pg := {}
  rel      : Rel := {}
  db       : Db := {}
  mc       : Mc := {}
  counters : Tbl Nat := []
  out      : List Out := []
  fresh    : Nat := 0
deriving DecidableEq, Repr

/-- The block, and the commands that wait, first in first out. -/
structure State where
  aon     : Aon
  cfg     : RegFile
  blk     : Blk
  pending : List Instr
deriving DecidableEq, Repr

/-- The block right after a cold reset (R276, R278 step 2, R372): the pulse count zero, every register at its
Reset column, every store empty, MC asking for the power of FE. The straps and die_id hold zero until
POWER_ON_RESET samples them (DESIGN CHOICE, log 3). The grade is O6 (R4; DESIGN CHOICE, log 2). -/
def State.reset : State :=
  { aon := { grade := .o6, pulse := 0, mtime := 0, dieId := 0, station := 0, lanternOk := false,
             makerEn := false, pdReq := 0x10000, pdAck := 0, since := 0 }
    cfg := {}
    blk := {}
    pending := [] }

end Sys2Proof.Machine
end

