-- ==== Sys2Proof/Machine/Table.lean ====
section
/-! DEFINITION. Operations on sparse tables and lists that every part uses. -/

namespace Sys2Proof

variable {ν : Type}

/-- The entry at `k`, if one is listed. -/
def tget : Tbl ν → Nat → Option ν
  | [], _ => none
  | (k', v) :: r, k => if k' = k then some v else tget r k

/-- The entry at `k`, or the default of an unlisted number. -/
def tgetD (d : ν) (t : Tbl ν) (k : Nat) : ν := (tget t k).getD d

/-- List `v` at `k`, keeping the numbers rising. -/
def tput (t : Tbl ν) (k : Nat) (v : ν) : Tbl ν :=
  match t with
  | [] => [(k, v)]
  | (k', v') :: r =>
    if k < k' then (k, v) :: (k', v') :: r
    else if k = k' then (k, v) :: r
    else (k', v') :: tput r k v

/-- Unlist `k`. -/
def tdel (t : Tbl ν) (k : Nat) : Tbl ν := t.filter (fun p => p.1 != k)

/-- Change the entry at `k`, an unlisted one starting from the default. -/
def tmod (d : ν) (t : Tbl ν) (k : Nat) (f : ν → ν) : Tbl ν := tput t k (f (tgetD d t k))

/-- Write `v` at `k` in the canonical form in which no entry equals the default. -/
def tset [DecidableEq ν] (d : ν) (t : Tbl ν) (k : Nat) (v : ν) : Tbl ν :=
  if v = d then tdel t k else tput t k v

/-- Numbers strictly rising above a bound. -/
def tsorted : Option Nat → Tbl ν → Bool
  | _, [] => true
  | lo, (k, _) :: r => (match lo with | none => true | some b => decide (b < k)) && tsorted (some k) r

/-- The canonical form: numbers strictly rising, no entry equal to the default. -/
def twf [DecidableEq ν] (d : ν) (t : Tbl ν) : Bool :=
  tsorted none t && t.all (fun p => decide (p.2 ≠ d))

/-- Replace the first member that satisfies `p`. -/
def lreplace (p : ν → Bool) (f : ν → ν) (l : List ν) : List ν := l.modify (l.findIdx p) f

/-- Drop the first member that satisfies `p`. -/
def ldrop1 (p : ν → Bool) (l : List ν) : List ν := l.eraseP p

/-- Insert into a list that is in ascending order of `key`, after equal members. -/
def linsert (key : ν → Nat) (x : ν) (l : List ν) : List ν :=
  l.takeWhile (fun y => key y ≤ key x) ++ x :: l.dropWhile fun y => key y ≤ key x

/-- Stable sort by ascending `key`. -/
def lsort (key : ν → Nat) (l : List ν) : List ν := l.foldl (fun acc x => linsert key x acc) []

/-- Bits `lo` to `lo + n - 1` of a word, as a number. -/
def bits {w : Nat} (x : BitVec w) (lo n : Nat) : Nat := (x.toNat >>> lo) % 2 ^ n

/-- Little-endian bytes of a number (R9). -/
def leBytes : Nat → Nat → List Byte
  | 0, _ => []
  | n + 1, v => BitVec.ofNat 8 v :: leBytes n (v / 256)

/-- The number that little-endian bytes spell (R9). -/
def leNat : List Byte → Nat
  | [] => 0
  | b :: r => b.toNat + 256 * leNat r

/-- `n` bytes from an offset, as a little-endian number. -/
def leAt (bs : List Byte) (off n : Nat) : Nat := leNat ((bs.drop off).take n)

/-- Whether the bytes from an offset are all zero. -/
def zeroAt (bs : List Byte) (off n : Nat) : Bool := ((bs.drop off).take n).all (fun b => b == 0)

/-- `⌈a / b⌉` for a positive `b`. -/
def ceilDiv (a b : Nat) : Nat := (a + b - 1) / b

end Sys2Proof
end

