-- ==== Sys2Proof/Machine/Counters.lean ====
section
/-! DEFINITION. The monotonic counters of the block (R105, R325), by name and instance. -/

namespace Sys2Proof.Machine

/-- Every monotonic counter the spec names, in the order of its tables (R331): Tables 4.9, R88, 5.9, 6.9 for a
reach; 5.9, 6.9, 9.14, 14.15 for an engine agent; then the units. -/
inductive Ctr where
  -- reach: Table 4.9
  | unitsSent | unitsApplied | groupEntry | lateDecrement | lateUnitPulse | readStall | holdOver
  | excessDecrement | discardedUnit | selection | dispatchRefusal
  -- reach: R88
  | pageIn | pageOut | ledgerRmw | pageInWait
  -- reach: Table 5.9
  | lcSelection | fillSelection | beSelection | permitPass | preemption | gangWithdraw | tilePull
  | abortAlreadyDone
  -- reach: Table 6.9
  | shadowLaunch | shadowCommit | shadowSquash | shadowPreempt | shadowFaultDiscard
  -- reach: Table 14.1
  | lcDepthSum | fillDepthSum | beDepthSum
  -- engine agent: Tables 5.9, 6.9, 9.14, 14.15
  | busyClk | shadowBusyClk | holdStallClk | heldBytesReleased | heldBytesDiscarded
  | syncOp | gateClk | syncSat | censusShadowDiscard | watchHitLost
  -- router: Table 7.7
  | tokensRouted | choicesAdmitted | choicesPooled | choicesDropped | sendIssued | deferredSend
  | sendStallClk | releaseNotice | skipNotice | chunkBind | chunkPull | nanScore | sessionOpen
  -- hub: Table 9.14
  | hubSyncSat | globalOp | rsSent | rsResend | rsAcked | rsAckRefused | rsTableFull
  | rsAccepted | rsHeld | rsReleased | rsAckSent
  | rsDiscard | rsStale | rsEpochWait | rsWindow | rsDuplicate | rsHoldFull | fabricThrottleClk
  -- hub: Table 10.18
  | chOpen | chMsg | chLost | chPad | chUnderrun | chPeerDrop | chCorrected | tide | tideDrift
  | cbOpen | cbPut | cbSlot | cbMissing | cbIntSat
  -- front end: Table 8.28
  | poll | bell | strayBell | wmHint | piOverrun | lastLook | lastLookHit | descStarted | descFault
  | lateCompletion | timeoutContext | timeoutReset | fwReject | hostError
  -- power governor: Table 12.13
  | throttlePulse | chargedNj | controlEdge | sampleMissing | calUpdate | boostReqPulse
  | boostGrantPulse | droopEvent | stretchClk | droopInput | shedPulse
  -- reliability: Table 13.13
  | blockReset | resetRestart | contextTeardown | replayRecord | replayDrop | checkpoint
  | jnlFullStall | wordCorrected | pageCorrected | uncorrectable | scrubPage | elogLost
  | channelHalt | engineFenced
  -- management: Table 15.11
  | segTx | segRx | segCollision | segExcess | segCrcError | segStranger | segDiscard
  | segBeaconSent | segBeaconMissed | segLanternChange | segAlarmSummary | segTelDrop | segLogLost
  | segRxLost | mcReq | mcReqOverlap
  -- debug: Table 14.15
  | bytesSram | bytesDev | bytesHost | bytesFab | traceRecord | traceLost | traceLossRecord
  | snapshot | snapshotTrunc | counterSnapshot | latch | censusClose | watchHit | bpHalt
  | dump | dumpDiscard | rangeMismatch | telemetryDiscard
deriving DecidableEq, Repr

/-- Where a counter of an instance (a reach, an engine, an input, a link or a shed level) is held. -/
def ctrKey (c : Ctr) (inst : Nat) : Nat := inst * 256 + c.ctorIdx

/-- The value of a counter. -/
def Blk.ctr (b : Blk) (c : Ctr) (inst : Nat := 0) : Nat := tgetD 0 b.counters (ctrKey c inst)

/-- Raise a counter by `n`. -/
def Blk.bump (b : Blk) (c : Ctr) (inst : Nat := 0) (n : Nat := 1) : Blk :=
  if n = 0 then b else { b with counters := tmod 0 b.counters (ctrKey c inst) (· + n) }

end Sys2Proof.Machine
end

