-- ==== Sys2Proof/Machine/Layout.lean ====
section
/-! DEFINITION. Layouts: how words, records and packets hold their fields, each read and written once. -/

namespace Sys2Proof.Machine

/-- A field of a word under construction: value `v` at bit `lo`. -/
def fieldAt (lo v : Nat) : Nat := v * 2 ^ lo

/-- One bit as a number. -/
def b2n (b : Bool) : Nat := if b then 1 else 0

/-! ## Codes -/

/-- Status codes (Table 0.5). -/
def stOk : BitVec 8 := 0x00
def stSkipped : BitVec 8 := 0x01
def stAlreadyDone : BitVec 8 := 0x02
def stBusy : BitVec 8 := 0x03
def stPeerClosed : BitVec 8 := 0x04
def stPeerReset : BitVec 8 := 0x05
def stGap : BitVec 8 := 0x06
def stUnderrun : BitVec 8 := 0x07
def stTimeout : BitVec 8 := 0x08
def stContextFault : BitVec 8 := 0x09
def stUncorrectable : BitVec 8 := 0x0A
def stDenied : BitVec 8 := 0x0B
def stSaturated : BitVec 8 := 0x0C

/-- KIND (Table 2.1); 0b111 is reserved. -/
def kindOf : Nat → Option Kind
  | 0 => some .plain | 1 => some .list | 2 => some .gang | 3 => some .expert
  | 4 => some .combineClose | 5 => some .marker | 6 => some .step | _ => none

def Kind.code : Kind → Nat
  | .plain => 0 | .list => 1 | .gang => 2 | .expert => 3 | .combineClose => 4 | .marker => 5 | .step => 6

/-- STATE (Table 2.3). -/
def TState.code : TState → Nat
  | .idle => 0 | .waiting => 1 | .ready => 2 | .dispatched => 3 | .shadow => 4 | .done => 5
  | .skipped => 6 | .faulted => 7

def QState.code : QState → Nat
  | .idle => 0 | .active => 1 | .faulted => 2 | .closing => 3 | .closed => 4

def FwState.code : FwState → Nat
  | .reset => 0 | .bootWait => 1 | .loading => 2 | .checking => 3 | .running => 4

def Attach.code : Attach → Nat
  | .off => 0 | .probing => 1 | .listening => 2 | .electing => 3 | .joined => 4 | .lantern => 5

def Cause.code : Cause → Nat
  | .hungRun => 1 | .cpTrap => 2 | .cpHeartbeat => 3 | .rcTrap => 4 | .sharedUncorrectable => 5
  | .journalHalt => 6 | .pin => 7 | .management => 8

def JType.code : JType → Nat
  | .complete => 0 | .pred => 1 | .launch => 2 | .step => 3 | .fence => 4 | .fenceDone => 5 | .desc => 6
  | .send => 7 | .release => 8 | .pageOut => 9 | .pageIn => 10 | .close => 11 | .teardown => 12
  | .ckptBegin => 13 | .ckptEnd => 14 | .reset => 15

/-- POP (Table 11.6). -/
def popOf : Nat → Option PredOp
  | 1 => some .resolveTrue | 2 => some .resolveFalse | 3 => some .clear | _ => none

def PredOp.code : PredOp → Nat
  | .resolveTrue => 1 | .resolveFalse => 2 | .clear => 3

/-! ## Identifiers (R73) -/

/-- The reach in ID[19:16], the virtual block in ID[15:8], the entry in ID[7:0], the segment in ID[31:20]. -/
def TaskRef.reach (t : TaskRef) : Nat := bits t.id 16 4
def TaskRef.vblock (t : TaskRef) : Nat := bits t.id 8 8
def TaskRef.entry (t : TaskRef) : Nat := bits t.id 0 8
def TaskRef.seg (t : TaskRef) : Nat := bits t.id 20 12
def TaskRef.index (t : TaskRef) : Nat := bits t.id 0 16

/-- Order of "ascending task index"; equal indices of different contexts go by context, then segment
(DEDUCED, log 12). -/
def TaskRef.order (t : TaskRef) : Nat := t.index * 2 ^ 18 + t.ctx * 2 ^ 12 + t.seg

/-- The identifier of an entry. -/
def mkId (seg reach vblock entry : Nat) : BitVec 32 :=
  BitVec.ofNat 32 (fieldAt 20 seg + fieldAt 16 reach + fieldAt 8 vblock + entry)

/-- Whether a run of tasks starting at `t` covers the entry (R46). -/
def TaskRef.plus (t : TaskRef) (n : Nat) : TaskRef :=
  { t with id := mkId t.seg t.reach ((t.index + n) / 256 % 256) ((t.index + n) % 256) }

/-! ## The task entry (Table 3.1) and the edge entry (R74) -/

/-- The 256 bits of a task entry in the task store. -/
def taskBits (ctx : Nat) (t : Task) : BitVec 256 :=
  BitVec.ofNat 256
    (t.kind.code + fieldAt 3 t.state.code + fieldAt 6 (b2n t.be)
      + fieldAt 7 (b2n t.preempt) + fieldAt 8 (b2n t.fill) + fieldAt 9 (b2n t.shadowOk)
      + fieldAt 10 (b2n t.gangHead) + fieldAt 11 (b2n t.loop)
      + fieldAt 12 ctx + fieldAt 18 t.depcnt.toNat + fieldAt 34 t.depinit.toNat
      + fieldAt 50 t.pred.toNat + fieldAt 62 (b2n t.pol)
      + fieldAt 64 t.home.toNat + fieldAt 75 t.last.toNat + fieldAt 86 t.group.toNat
      + fieldAt 94 t.succPtr.toNat + fieldAt 116 t.succN.toNat
      + fieldAt 128 t.argPtr.toNat + fieldAt 160 t.code.toNat
      + fieldAt 192 t.energy.toNat + fieldAt 204 t.iter.toNat + fieldAt 220 t.gang.toNat
      + fieldAt 232 t.tiles.toNat)

/-- The fields of a task entry of an image; `none` if KIND is reserved. -/
def taskOf (w : BitVec 256) : Option Task :=
  (kindOf (bits w 0 3)).map fun k =>
    { kind := k
      be := w.getLsbD 6
      preempt := w.getLsbD 7
      fill := w.getLsbD 8
      shadowOk := w.getLsbD 9
      gangHead := w.getLsbD 10
      loop := w.getLsbD 11
      depinit := BitVec.ofNat 16 (bits w 34 16)
      pred := BitVec.ofNat 12 (bits w 50 12)
      pol := w.getLsbD 62
      home := BitVec.ofNat 11 (bits w 64 11)
      last := BitVec.ofNat 11 (bits w 75 11)
      group := BitVec.ofNat 8 (bits w 86 8)
      succPtr := BitVec.ofNat 22 (bits w 94 22)
      succN := BitVec.ofNat 12 (bits w 116 12)
      argPtr := BitVec.ofNat 32 (bits w 128 32)
      code := BitVec.ofNat 32 (bits w 160 32)
      energy := BitVec.ofNat 12 (bits w 192 12)
      iter := BitVec.ofNat 16 (bits w 204 16)
      gang := BitVec.ofNat 12 (bits w 220 12)
      tiles := BitVec.ofNat 16 (bits w 232 16) }

/-- The FLAGS field of an entry (Table 3.1). -/
def Task.flags (t : Task) : Nat :=
  b2n t.preempt + 2 * b2n t.fill + 4 * b2n t.shadowOk + 8 * b2n t.gangHead + 16 * b2n t.loop

/-- Edge entry: kind in [11:9], target in [31:12], KB in [8:0] (R74). -/
def edgeKind (w : Word32) : Nat := bits w 9 3
def edgeTarget (w : Word32) : Nat := bits w 12 20
def edgeKb (w : Word32) : Nat := bits w 0 9

/-- The energy estimate in pJ: M × 4^E (R72). -/
def energyPj (e : BitVec 12) : Nat := bits e 0 8 * 4 ^ bits e 8 4

/-! ## Dispatch and completion words (Tables 11.5 and 11.6) -/

/-- The fields of a dispatch word that do not come from the task entry. -/
structure DispatchArgs where
  arg : BitVec 64
  tileN : Nat := 0
  tile : Nat := 0
  gangN : Nat := 0
  gangM : Nat := 0
  head : Nat := 0
  engine : Nat
  expert : Nat := 0
  epoch : Nat
  shadow : Bool := false
  preempting : Bool := false

/-- The dispatch word of a task (Table 11.5). -/
def dispatchWord (ref : TaskRef) (t : Task) (a : DispatchArgs) : BitVec 256 :=
  BitVec.ofNat 256
    (t.kind.code + fieldAt 3 (b2n t.be) + fieldAt 4 t.flags + fieldAt 9 (b2n a.preempting)
      + fieldAt 10 (b2n a.shadow) + fieldAt 40 ref.ctx + fieldAt 46 (bits ref.id 0 20)
      + fieldAt 66 (a.epoch % 256) + fieldAt 74 a.expert + fieldAt 82 a.engine + fieldAt 93 a.head
      + fieldAt 104 a.gangM + fieldAt 116 a.gangN + fieldAt 128 a.tile + fieldAt 144 a.tileN
      + fieldAt 160 t.code.toNat + fieldAt 192 a.arg.toNat)

/-- KIND, CLASS, PREEMPT of the task that a dispatch word carries. -/
def DWord.kind (d : DWord) : Kind := (kindOf (bits d.word 0 3)).getD .plain
def DWord.be (d : DWord) : Bool := d.word.getLsbD 3
def DWord.taskPreempt (d : DWord) : Bool := d.word.getLsbD 4
def DWord.tileField (d : DWord) : Nat := bits d.word 128 16

/-- Fields of a completion word (Table 11.6). -/
def cplStatus (w : BitVec 128) : BitVec 8 := BitVec.ofNat 8 (bits w 0 8)
def cplPop (w : BitVec 128) : Option PredOp := popOf (bits w 8 2)
def cplSlot (w : BitVec 128) : Nat := bits w 10 12
def cplEpoch (w : BitVec 128) : Nat := bits w 42 8
def cplLink (w : BitVec 128) : Nat := bits w 66 4
def cplUnit (w : BitVec 128) : Nat := 64 * 16 ^ bits w 70 2
def cplSram (w : BitVec 128) : Nat := bits w 72 14 * cplUnit w
def cplDev (w : BitVec 128) : Nat := bits w 86 14 * cplUnit w
def cplHost (w : BitVec 128) : Nat := bits w 100 14 * cplUnit w
def cplFab (w : BitVec 128) : Nat := bits w 114 14 * cplUnit w

/-- The word with another status in [7:0]. -/
def withStatus (w : BitVec 128) (s : BitVec 8) : BitVec 128 :=
  BitVec.ofNat 128 (w.toNat / 256 * 256 + s.toNat)

/-! ## SYNC_ID and CH_ID (Tables 9.2 and 10.3) -/

def syncScope (id : BitVec 32) : Nat := bits id 30 2
def syncEngine (id : BitVec 32) : Nat := bits id 16 11
def syncIndex (id : BitVec 32) : Nat := bits id 0 12
/-- Reserved fields of a SYNC_ID zero, ENGINE zero where it names nothing, INDEX[11:8] zero when local. -/
def syncIdOk (id : BitVec 32) : Bool :=
  bits id 27 3 == 0 && bits id 12 4 == 0 && syncScope id != 3
    && (syncScope id == 1 || syncEngine id == 0)
    && (syncScope id == 2 || syncIndex id < 256)

def chType (id : BitVec 32) : Nat := bits id 30 2
def chIndex (id : BitVec 32) : Nat := bits id 0 16
def chIdOk (id : BitVec 32) : Bool := bits id 16 14 == 0
def mkChId (type index : Nat) : BitVec 32 := BitVec.ofNat 32 (fieldAt 30 type + index)

/-! ## Descriptors (Tables 8.4, 8.7-8.19) -/

/-- A field of a 64-byte descriptor: `n` bytes at a byte offset. -/
def dField (d : BitVec 512) (off n : Nat) : Nat := bits d (8 * off) (8 * n)
def dOpcode (d : BitVec 512) : Nat := dField d 0 1
def dFence (d : BitVec 512) : Bool := d.getLsbD 8
def dLatch (d : BitVec 512) : Bool := d.getLsbD 9
def dTag (d : BitVec 512) : Nat := dField d 4 4
def dResult (d : BitVec 512) : BitVec 64 := BitVec.ofNat 64 (dField d 8 8)

/-- Body bytes of each opcode that its table names, as (offset, bytes); every other body byte is reserved. -/
def bodyFields : Nat → List (Nat × Nat)
  | 0x01 => [(0x10, 4), (0x14, 1), (0x18, 4), (0x20, 8)]
  | 0x02 => [(0x10, 8), (0x18, 8)]
  | 0x03 => [(0x10, 1), (0x14, 4), (0x18, 8)]
  | 0x04 => [(0x10, 8), (0x18, 8), (0x20, 1), (0x24, 4)]
  | 0x05 => [(0x10, 8), (0x18, 8)]
  | 0x06 => [(0x10, 4)]
  | 0x07 => [(0x10, 4)]
  | 0x08 => [(0x10, 1), (0x12, 2), (0x14, 2), (0x18, 8)]
  | 0x09 => [(0x10, 1), (0x11, 1), (0x12, 2), (0x14, 2), (0x18, 8), (0x20, 8), (0x28, 8)]
  | 0x0A => [(0x10, 1)]
  | 0x0B => [(0x10, 2), (0x12, 1), (0x13, 1), (0x14, 1), (0x15, 1), (0x18, 8), (0x20, 8), (0x28, 8)]
  | 0x0C => [(0x10, 2), (0x12, 1)]
  | 0x0D => [(0x10, 8), (0x18, 8), (0x20, 4), (0x24, 4), (0x28, 8)]
  | _ => []

/-- Whether a byte of the descriptor belongs to a named field. -/
def byteNamed (op i : Nat) : Bool :=
  i < 2 || (4 ≤ i && i < 16) || (bodyFields op).any (fun f => f.1 ≤ i && i < f.1 + f.2)

/-- Every reserved byte of the header and body, and DFLAGS[7:2], is zero (R186). -/
def dReservedZero (d : BitVec 512) : Bool :=
  bits d 10 6 == 0 && (List.range 64).all (fun i => byteNamed (dOpcode d) i || dField d i 1 == 0)

/-! ## Journal records (Table 13.3) -/

/-- The 128 bits of the first slot of a record. -/
def jrecBits (r : JRec) : BitVec 128 :=
  BitVec.ofNat 128
    (r.type.code + fieldAt 4 (r.status.toNat % 128) + fieldAt 11 r.ctx + fieldAt 17 (r.epoch % 256)
      + fieldAt 25 (b2n r.defer) + fieldAt 29 (b2n r.ending) + fieldAt 30 (b2n r.gang)
      + fieldAt 32 r.id.toNat + fieldAt 64 (r.edge % 2 ^ 32) + fieldAt 96 r.aux.toNat)

/-- Slots of a record: SEND, RELEASE and FENCE occupy two (R299). -/
def JRec.size (r : JRec) : Nat :=
  match r.type with
  | .send | .release | .fence => 2
  | _ => 1

/-- LAUNCH, STEP, FENCE and DESC records name queue [31:22] and descriptor index mod 2^22 [21:0] (Table 13.4). -/
def descId (q index : Nat) : BitVec 32 := BitVec.ofNat 32 (fieldAt 22 q + index % 2 ^ 22)

/-! ## Signal and acknowledgement packets (Tables 9.5 and 9.6) -/

def signalBits (s : Signal) : BitVec 256 :=
  BitVec.ofNat 256
    (1 + fieldAt 8 s.kind.toNat + fieldAt 16 s.epoch.toNat + fieldAt 24 s.ctx.toNat
      + fieldAt 32 s.stream.toNat + fieldAt 48 s.src.toNat + fieldAt 64 s.dst.toNat
      + fieldAt 80 s.round.toNat + fieldAt 96 s.seq.toNat + fieldAt 128 s.expect.toNat
      + fieldAt 160 s.target.toNat + fieldAt 192 s.value.toNat)

def signalOf (w : BitVec 256) : Signal :=
  { kind := BitVec.ofNat 8 (bits w 8 8), epoch := BitVec.ofNat 8 (bits w 16 8)
    ctx := BitVec.ofNat 8 (bits w 24 8), stream := BitVec.ofNat 16 (bits w 32 16)
    src := BitVec.ofNat 16 (bits w 48 16), dst := BitVec.ofNat 16 (bits w 64 16)
    round := BitVec.ofNat 16 (bits w 80 16), seq := BitVec.ofNat 32 (bits w 96 32)
    expect := BitVec.ofNat 32 (bits w 128 32), target := BitVec.ofNat 32 (bits w 160 32)
    value := BitVec.ofNat 32 (bits w 192 32) }

/-- No reserved PTYPE, KIND or field (Table 9.7, first row): PTYPE 1, KIND below 3, CTX[7:6] and the last
word zero, ROUND zero unless ANNOUNCE, VALUE zero for TASK. -/
def signalWellFormed (w : BitVec 256) : Bool :=
  let s := signalOf w
  bits w 0 8 == 1 && decide (s.kind.toNat < 3) && decide (s.ctx.toNat < 64) && bits w 224 32 == 0
    && (s.kind == 2 || s.round == 0) && (s.kind != 0 || s.value == 0)

/-- An acknowledgement of a signal (Table 9.6). -/
def ackBits (s : Signal) (node : BitVec 16) (status : BitVec 8) : BitVec 128 :=
  BitVec.ofNat 128
    (2 + fieldAt 8 status.toNat + fieldAt 16 s.epoch.toNat + fieldAt 32 s.stream.toNat
      + fieldAt 48 node.toNat + fieldAt 64 s.src.toNat + fieldAt 96 s.seq.toNat)

/-! ## The host-memory port (Table 11.2, R260) -/

/-- One request on the host-memory port; the byte enables and the data lie within the 64-byte line. -/
structure HmReq where
  op   : Nat
  addr : BitVec 63
  be   : BitVec 64
  data : BitVec 512
deriving DecidableEq, Repr

/-- The requests that carry `n` bytes from `addr` on, none across a 64-byte line: op, and for a write its bytes. -/
def hmLines (op : Nat) (addr : BitVec 63) (n : Nat) (bytes : List Byte) : List HmReq :=
  let a := addr.toNat
  (List.range (if n = 0 then 0 else (a + n - 1) / 64 - a / 64 + 1)).map fun k =>
    let lo := max a (64 * (a / 64 + k))
    let hi := min (a + n) (64 * (a / 64 + k) + 64)
    { op := op, addr := BitVec.ofNat 63 lo
      be := BitVec.ofNat 64 ((2 ^ (hi - lo) - 1) * 2 ^ (lo % 64))
      data := BitVec.ofNat 512 (leNat ((bytes.drop (lo - a)).take (hi - lo)) * 2 ^ (8 * (lo % 64))) }

/-- The lines of a request: READ 0, WRITE 1, AND64 2. The AND of a bell has every bit set but the bell's (R179). -/
def HostReq.lines : HostReq → List HmReq
  | .summaryRead a => hmLines 0 a 128 []
  | .summaryAnd q a => hmLines 2 a 8 (leBytes 8 (2 ^ 64 - 1 - 2 ^ (q % 64)))
  | .piRead _ a => hmLines 0 a 8 []
  | .fetch _ a => hmLines 0 a 64 []
  | .statusWrite _ a bs => hmLines 1 a bs.length bs
  | .resultWrite _ a bs => hmLines 1 a bs.length bs
  | .valueRead _ a => hmLines 0 a 8 []
  | .valueWrite _ a x => hmLines 1 a 8 (leBytes 8 x.toNat)
  | .imageRead a n => hmLines 0 a n []
  | .firmwareRead a n => hmLines 0 a n []
  | .descRead _ a n => hmLines 0 a n []
  | .dumpRead a n => hmLines 0 a n []
  | .dumpWrite a n => hmLines 1 a n []

/-! ## The device-memory port (R262) -/

/-- The requests that cover `n` bytes from `addr` on, as channel, address and length: each of the 128 bytes of one
channel's turn that they touch, or the half of them that holds them. -/
def dmSpans (addr n : Nat) : List (Nat × Nat × Nat) :=
  (List.range (if n = 0 then 0 else (addr + n - 1) / 128 - addr / 128 + 1)).map fun k =>
    let turn := addr / 128 + k
    let lo := max addr (128 * turn)
    let hi := min (addr + n) (128 * turn + 128)
    let half := lo / 64 == (hi - 1) / 64
    (turn % 2, if half then 64 * (lo / 64) else 128 * turn, if half then 64 else 128)

/-- The requests by which `bytes` are written from `addr` on. -/
def dmRequests (addr : Nat) (bytes : List Byte) : List DmReq :=
  (dmSpans addr bytes.length).map fun s =>
    { channel := s.1, addr := s.2.1, bytes := s.2.2
      lanes := (List.range s.2.2).map fun i => if addr ≤ s.2.1 + i then bytes[s.2.1 + i - addr]? else none }

/-- The requests by which `n` bytes are read from `addr` on. -/
def dmReads (addr n : Nat) : List DmReq :=
  (dmSpans addr n).map fun s => { channel := s.1, addr := s.2.1, bytes := s.2.2, lanes := [] }

/-- A write of `bytes` to device memory, and a read of `n` bytes of it, on the port. -/
def Out.dmWrite (addr : BitVec 64) (bytes : List Byte) : Out := .device (dmRequests addr.toNat bytes)
def Out.dmRead (addr : BitVec 64) (n : Nat) : Out := .deviceRead (dmReads addr.toNat n)

/-! ## Beats of the fabric port (R271) and send words (R270) -/

/-- A beat of fb_tx: the slot mask and the 512 bits; a signal packet fills a slot, an acknowledgement packet its first
16 bytes with 16 zero bytes after it. -/
def fabricBeat (slot0 slot1 : Option Nat) : FbBeat :=
  { mask := BitVec.ofNat 2 (b2n slot0.isSome + 2 * b2n slot1.isSome)
    bits := BitVec.ofNat 512 (slot0.getD 0 + fieldAt 256 (slot1.getD 0)) }

/-- The packets of a beat of fb_rx, slot 0 first: 32 bytes each (R271). -/
def packetsOf (x : FbBeat) : List (BitVec 256) :=
  ([0, 1].filter fun i => x.mask.getLsbD i).map fun i => BitVec.ofNat 256 (bits x.bits (256 * i) 256)

/-- The 256 bits of a send word. -/
def SendWord.bits256 (w : SendWord) : BitVec 256 :=
  BitVec.ofNat 256 (w.src.toNat + fieldAt 64 w.dst.toNat + fieldAt 128 w.len.toNat + fieldAt 160 w.id.toNat
    + fieldAt 192 w.stream.toNat + fieldAt 208 w.epoch.toNat + fieldAt 216 (b2n w.fab))

/-! ## Records in host memory -/

/-- The queue status record (Table 8.3). -/
def statusRecord (q : Queue) : List Byte :=
  leBytes 8 q.ci ++ leBytes 8 q.done ++ leBytes 1 q.qstate.code ++ leBytes 1 q.slot
    ++ leBytes 1 q.lastStatus.toNat ++ leBytes 5 0 ++ leBytes 8 q.eventEdge ++ leBytes 32 0

/-- The first 16 bytes of a result record (Table 8.5). -/
def resultHead (status : BitVec 8) (d : BitVec 512) (info edge : Nat) : List Byte :=
  leBytes 1 status.toNat ++ leBytes 1 (dOpcode d) ++ leBytes 1 info ++ leBytes 1 0
    ++ leBytes 4 (dTag d) ++ leBytes 8 edge

/-- The batch record (Table 5.8). -/
def batchRecord (c : Ctx) : List Byte :=
  let occ (i : Nat) : Option (BitVec 32) := tgetD none c.seqSlots i
  let active := (List.range c.seqQ).foldl (fun acc i => if (occ i).isSome then acc + 2 ^ i else acc) 0
  leBytes 8 c.stepCount ++ leBytes 64 active
    ++ (List.range c.seqQ).flatMap (fun i => leBytes 4 (((occ i).map BitVec.toNat).getD 0))

/-- A routing record (Table 7.5). -/
def routeBytes (r : RouteRec) : List Byte :=
  leBytes 4 r.token.toNat ++ leBytes 2 r.row.toNat ++ leBytes 1 r.expert.toNat ++ leBytes 1 r.rfl.toNat
    ++ leBytes 4 r.slot.toNat ++ leBytes 4 r.weight.toNat

/-- A chunk command (Table 7.6). -/
def chunkCommand (rsd : Rsd) (c : Nat) (k : Chunk) : List Byte :=
  let row := (k.row.bind (fun r => rsd.rows[r]?))
  leBytes 2 (k.row.getD 0xFFFF) ++ leBytes 1 ((row.map RsdRow.expert).getD 0) ++ leBytes 1 (b2n k.row.isSome)
    ++ leBytes 4 k.count ++ leBytes 4 (c * 2 ^ rsd.tlog) ++ leBytes 4 0

/-- A row counter record (R172). -/
def rowCounter (r : RowSt) : List Byte :=
  leBytes 4 r.req.toNat ++ leBytes 4 r.adm.toNat ++ leBytes 4 r.pool.toNat ++ leBytes 4 r.drop.toNat
    ++ leBytes 4 r.sat.toNat ++ leBytes 4 r.len.toNat ++ leBytes 8 0

/-- An error-log record (Table 13.10). -/
def elogBytes (r : ELogRec) : List Byte :=
  leBytes 8 r.edge ++ leBytes 1 r.mem ++ leBytes 1 r.event ++ leBytes 1 r.source ++ leBytes 1 r.ctx
    ++ leBytes 4 r.page ++ leBytes 2 r.word ++ leBytes 2 r.symbols ++ leBytes 1 r.outcome.toNat
    ++ leBytes 3 0 ++ leBytes 8 r.count

/-- A trace record (Table 14.7); a TIME record lays OFFSET and the lantern over ID to RANGE (R337). -/
def traceBytes (r : TraceRec) : List Byte :=
  leBytes 8 r.edge ++ leBytes 1 r.type ++ leBytes 1 r.sub ++ leBytes 1 (b2n r.shadow) ++ leBytes 1 r.ctx
    ++ leBytes 4 r.id.toNat ++ leBytes 2 r.engine ++ leBytes 1 r.status.toNat ++ leBytes 1 r.pad
    ++ leBytes 4 r.range.toNat ++ leBytes 8 r.aux.toNat

/-! ## The context record (Table 8.15) -/

/-- Bytes of the context record that no field names. -/
def ctxRecReserved (bs : List Byte) : Bool :=
  zeroAt bs 0x1C 4 && zeroAt bs 0x3C 4 && zeroAt bs 0x50 0x30
    && (List.range 16).all (fun r => zeroAt bs (0x84 + 8 * r) 4)

def ctxRecOf (bs : List Byte) : CtxRec :=
  { spillBase := BitVec.ofNat 64 (leAt bs 0x00 8), spillBytes := BitVec.ofNat 64 (leAt bs 0x08 8)
    btabBase := BitVec.ofNat 64 (leAt bs 0x10 8), btabN := leAt bs 0x18 4
    argBase := BitVec.ofNat 64 (leAt bs 0x20 8), argBytes := leAt bs 0x28 8
    htabBase := BitVec.ofNat 64 (leAt bs 0x30 8), htabN := leAt bs 0x38 4
    gsyncQ := leAt bs 0x40 4, chanQ := leAt bs 0x44 4, cqQ := leAt bs 0x48 2, tideN := leAt bs 0x4A 2
    chanKib := leAt bs 0x4C 4
    blocks := (List.range 16).map (fun r => leAt bs (0x80 + 8 * r) 2)
    granules := (List.range 16).map (fun r => leAt bs (0x82 + 8 * r) 2) }

/-! ## Route step descriptors (Tables 7.2 and 7.3) -/

def rsdRowOf (bs : List Byte) (off : Nat) : RsdRow :=
  { type := leAt bs off 1, expert := leAt bs (off + 1) 1, dmaEset := leAt bs (off + 2) 1
    cap := leAt bs (off + 4) 4, tile0 := BitVec.ofNat 32 (leAt bs (off + 8) 4)
    tileN := leAt bs (off + 0x0C) 2, stream := BitVec.ofNat 16 (leAt bs (off + 0x0E) 2)
    buf := BitVec.ofNat 64 (leAt bs (off + 0x10) 8), slot0 := leAt bs (off + 0x18) 4
    fill0 := leAt bs (off + 0x1C) 4 }

def rsdOf (bs : List Byte) : Rsd :=
  let fl := leAt bs 0x08 4
  let bit (i : Nat) : Bool := (fl >>> i) % 2 == 1
  { tokenN := leAt bs 0 4, k := leAt bs 6 1, expM1 := leAt bs 7 1
    wraw := bit 0, renorm := bit 1, quota := bit 2, dyn := bit 3, sfp32 := bit 4
    tlog := leAt bs 0x0C 1, srcN := leAt bs 0x10 4, poolTokens := leAt bs 0x14 4, chunkN := leAt bs 0x18 4
    predBase := leAt bs 0x1C 2, actBase := BitVec.ofNat 64 (leAt bs 0x20 8), rowBytes := leAt bs 0x28 4
    recBase := BitVec.ofNat 64 (leAt bs 0x30 8), slotRec := BitVec.ofNat 64 (leAt bs 0x38 8)
    chunkBuf := BitVec.ofNat 64 (leAt bs 0x40 8), chunkRec := BitVec.ofNat 64 (leAt bs 0x48 8)
    cmdBase := BitVec.ofNat 64 (leAt bs 0x50 8), fillBase := BitVec.ofNat 64 (leAt bs 0x58 8)
    cntBase := BitVec.ofNat 64 (leAt bs 0x60 8), closeTask := BitVec.ofNat 32 (leAt bs 0x68 4)
    combQ0 := leAt bs 0x6C 2, qlog := leAt bs 0x6E 1
    rows := (List.range (leAt bs 4 2)).map (fun r => rsdRowOf bs (0x80 + 32 * r)) }

/-- Reserved bytes and flag bits of an RSD are zero, and so are those of its rows (R151). -/
def rsdReserved (bs : List Byte) : Bool :=
  leAt bs 0x08 4 < 32 && zeroAt bs 0x0D 3 && zeroAt bs 0x1E 2 && zeroAt bs 0x2C 4 && zeroAt bs 0x6F 17
    && (List.range (leAt bs 4 2)).all (fun r => zeroAt bs (0x80 + 32 * r + 3) 1)

/-! ## The channel ring header (Table 10.4) -/

def chHeader (kind len : Nat) (seq : BitVec 32) : BitVec 64 :=
  BitVec.ofNat 64 (fieldAt 60 kind + fieldAt 44 len + seq.toNat)

end Sys2Proof.Machine
end

