-- ==== Sys2Proof/Machine/RegMap.lean ====
section
/-! DEFINITION. The register map (R371, R380): which offsets hold a register, its access type (Table 0.4), its
reset value, its writable bits, and the fields the block acts on. -/

namespace Sys2Proof.Machine

open Sys2Proof.Config

/-- Access types (Table 0.4). `status` is GLB_STATUS, RO with W1C flags. -/
inductive Access where
  | rw | ro | w1c | w1s | wo | rwl | status
deriving DecidableEq, Repr

/-- A register at an offset: its access type, its reset value, the bits a write may set (the others are
reserved or RO). -/
structure Reg where
  access : Access
  reset  : Word32
  mask   : Word32
deriving DecidableEq, Repr

/-- Switched domains by window (Table 16.1): the domain number, or none for always-on. -/
def windowDomain (off : Nat) : Option Nat :=
  let w := off / 0x100000
  if w = 1 then some 16
  else if w = 2 ∨ w = 3 then some ((off - 0x200000) / 0x1000)
  else if w = 8 then some 17
  else if w = 9 then some 18
  else if w = 0xB then some 19
  else none

/-- GLB_ window (Tables 16.2, 16.6). -/
def regGlb (g : Grade) (o : Nat) : Option Reg :=
  match o with
  | 0x000 => some ⟨.status, 0, 3⟩
  | 0x004 => some ⟨.w1s, 0, 1⟩
  | 0x008 | 0x00C | 0x010 | 0x014 => some ⟨.ro, 0, 0⟩
  | 0x100 | 0x104 | 0x10C | 0x110 | 0x114 | 0x118 | 0x120 | 0x124 | 0x128 => some ⟨.rwl, 0, 0xFFFFFFFF⟩
  | 0x108 => some ⟨.rwl, 0x1416, 0x1F3F⟩
  | 0x11C => some ⟨.rwl, 0xC, 0x1F⟩
  | 0x12C => some ⟨.rwl, 1, 1⟩
  | 0x130 | 0x134 => some ⟨.ro, 0, 0⟩
  | 0x200 => some ⟨.ro, BitVec.ofNat 32 (0x01020000 + patchLevel.toNat), 0⟩
  | 0x204 => some ⟨.ro, BitVec.ofNat 32 (0x300 + g.number), 0⟩
  | 0x208 | 0x20C => some ⟨.ro, 0, 0⟩
  | _ => if 0x140 ≤ o ∧ o ≤ 0x190 then some ⟨.ro, 0xFFFFFFFF, 0⟩ else none

/-- FE_ window (Table 16.7), by offset within it. Bits of FE_ENGSET for engine ports that the grade lacks
read as zero and ignore writes (R110). -/
def regFe (g : Grade) (o : Nat) : Option Reg :=
  match o with
  | 0x00 => some ⟨.rwl, 0, 3⟩
  | 0x04 => some ⟨.rwl, 0x20, 0x7FF⟩
  | 0x08 | 0x0C | 0x10 | 0x14 | 0x18 | 0x1C | 0x20 | 0x24 | 0x28 | 0x2C | 0x34 | 0x38 =>
    some ⟨.rwl, 0, 0xFFFFFFFF⟩
  | 0x30 => some ⟨.rwl, 6, 0x1F⟩
  | 0x100 | 0x104 | 0x108 => some ⟨.rwl, 0, 0xFFFFFFFF⟩
  | 0x10C => some ⟨.wo, 0, 1⟩
  | 0x110 => some ⟨.ro, 1, 0⟩
  | 0x400 => some ⟨.ro, 4, 0⟩
  | 0x404 | 0x408 => some ⟨.ro, 0, 0⟩
  | _ =>
    if 0x10000 ≤ o ∧ o < 0x20000 then
      let w := (o % 0x100) / 4
      let m : Word32 := if 32 * w < g.engines then 0xFFFFFFFF else 0
      some ⟨.rwl, if o < 0x10100 then m else 0, m⟩
    else none

/-- PG_ window (Table 16.11), by offset within it. -/
def regPg (o : Nat) : Option Reg :=
  match o with
  | 0x00 => some ⟨.rwl, 0x230, 0xFFF9⟩
  | 0x04 | 0x08 => some ⟨.rwl, 0xFFFFF, 0xFFFFF⟩
  | 0x0C | 0x10 => some ⟨.rwl, 0, 0xFFFFF⟩
  | 0x14 => some ⟨.rwl, 0x400, 0xFFFFF⟩
  | 0x18 => some ⟨.rwl, 0x0100C350, 0xFFFFFFFF⟩
  | 0x1C => some ⟨.rwl, 0x00107001, 0xFFFF7777⟩
  | 0x20 => some ⟨.rwl, 0x400, 0xFFFF⟩
  | 0x24 | 0x28 | 0x2C => some ⟨.ro, 0, 0⟩
  | _ => if 0x40 ≤ o ∧ o < 0x80 then some ⟨.rwl, 0x10001000, 0xFFFF⟩ else none

/-- DB_ window (Table 16.12), by offset within it; at O1-O4 the watchpoint registers read zero and discard
writes (R344). -/
def regDb (g : Grade) (o : Nat) : Option Reg :=
  match o with
  | 0x00 => some ⟨.rwl, 0xA01, 0x1F03⟩
  | 0x04 => some ⟨.ro, 0, 0⟩
  | 0x08 | 0x0C | 0x20 | 0x24 | 0x28 | 0x40 | 0x44 => some ⟨.rwl, 0, 0xFFFFFFFF⟩
  | 0x10 => some ⟨.rwl, 0xFFFF0010, 0xFFFF071F⟩
  | 0x14 | 0x18 => some ⟨.rwl, 0xFFFFFFFF, 0xFFFFFFFF⟩
  | 0x2C => some ⟨.rw, 0, 3⟩
  | 0x30 => some ⟨.wo, 0, 1⟩
  | 0x34 | 0x38 | 0x48 | 0x4C => some ⟨.ro, 0, 0⟩
  | 0x54 => some ⟨.wo, 0, 3⟩
  | 0x60 | 0x64 | 0x68 | 0x6C | 0x70 | 0x74 | 0x78 | 0x7C => some ⟨.rw, 0, 0xFFFFFFFD⟩
  | _ =>
    if 0x10000 ≤ o ∧ o < 0x10000 + 0x400 * g.contexts then
      let m : Word32 := if o % 16 = 12 then 7 else 0xFFFFFFFF
      some ⟨.rw, 0, if g.hasWatchpoints then m else 0⟩
    else none

/-- MC_ window (Table 16.13), by offset within it. -/
def regMc (o : Nat) : Option Reg :=
  match o with
  | 0x00 => some ⟨.rwl, 0x406, 0xF1F⟩
  | 0x04 => some ⟨.rwl, 0, 0xFFFFFFFF⟩
  | 0x08 => some ⟨.ro, 0, 0⟩
  | 0x10 => some ⟨.rw, 0, 0xF⟩
  | 0x14 | 0x18 | 0x1C | 0x20 => some ⟨.rw, 0, 0xFFFFFFFF⟩
  | 0x24 | 0x58 => some ⟨.wo, 0, 1⟩
  | 0x28 | 0x54 => some ⟨.ro, 0, 0⟩
  | 0x50 => some ⟨.wo, 0, 0xFF⟩
  | _ =>
    if 0x30 ≤ o ∧ o < 0x50 then some ⟨.ro, 0, 0⟩
    else if 0x1000 ≤ o ∧ o < 0x1800 then some ⟨.ro, 0, 0⟩
    else none

/-- The register at an offset of the aperture, if one exists (R380). -/
def regAt (g : Grade) (off : Nat) : Option Reg :=
  if off % 4 ≠ 0 then none
  else
    let o := off % 0x100000
    match off / 0x100000 with
    | 0x0 => regGlb g o
    | 0x1 => regFe g o
    | 0x2 =>
      if o / 0x1000 < g.reaches then
        (if o % 0x1000 = 0x40 then some ⟨.rwl, 0x40, 0x7F⟩
         else if o % 0x1000 = 0x44 then some ⟨.rw, 0, 3⟩ else none)
      else none
    | 0x4 => if o / 4 < g.engines then some ⟨.ro, 0, 0⟩ else none
    | 0x8 =>
      if g.hasRouter then
        (if o = 0 then some ⟨.rwl, 0x1001, 0xFF01⟩ else if o = 4 then some ⟨.ro, 0, 0⟩
         else if o = 8 then some ⟨.w1c, 0, 7⟩ else none)
      else none
    | 0x9 =>
      (match o with
       | 0x1000 => some ⟨.rwl, 0x04000001, 0xFFFF0001⟩
       | 0x1004 => some ⟨.rwl, 0, 0xFFFF⟩
       | 0x1008 | 0x2000 | 0x2008 => some ⟨.ro, 0, 0⟩
       | 0x2004 => some ⟨.ro, 0x2000, 0⟩
       | _ => none)
    | 0xA => regPg o
    | 0xB => regDb g o
    | 0xC => regMc o
    | 0xF => if o = 0 then some ⟨.ro, 0, 0⟩ else none
    | _ => none

/-- The RWL fields frozen by FE_CTL.EN (Table 16.4). -/
def frozenByEn (off : Nat) : Bool :=
  (0x100 ≤ off && off ≤ 0x110) || (0x120 ≤ off && off ≤ 0x128)
    || (0x100008 ≤ off && off ≤ 0x100030) || (0x110000 ≤ off && off < 0x120000) || off == 0x901004

/-- The value that a write left at an offset, or its Reset column (R372). -/
def RegFile.storedAt (g : Grade) (f : RegFile) (off : Nat) : Word32 :=
  (tget f.stored off).getD (((regAt g off).map Reg.reset).getD 0)

/-! ## What the block acts on (R374) -/

/-- The time, identity and configuration that a step sees. -/
structure Env where
  aon : Aon
  cfg : RegFile

/-- The environment of a step. -/
def State.env (s : State) : Env := { aon := s.aon, cfg := s.cfg }

/-- The value of a register that the block acts on: since the last edge (R374). -/
def Env.reg (v : Env) (off : Nat) : Word32 :=
  (tget v.cfg.active off).getD (((regAt v.aon.grade off).map Reg.reset).getD 0)

/-- The configuration as the coming edge will see it. -/
def Env.coming (v : Env) : Env := { v with cfg := { v.cfg with active := v.cfg.stored } }

/-- A field of a register the block acts on. -/
def Env.field (v : Env) (off lo n : Nat) : Nat := bits (v.reg off) lo n

/-- A 64-bit value held in a _LO and _HI pair. -/
def Env.pair (v : Env) (lo : Nat) : BitVec 64 :=
  BitVec.ofNat 64 ((v.reg lo).toNat + 2 ^ 32 * (v.reg (lo + 4)).toNat)

/-- The pulse count now. -/
def Env.n (v : Env) : Nat := v.aon.pulse

def Env.engines (v : Env) : Nat := v.aon.grade.engines
def Env.reaches (v : Env) : Nat := v.aon.grade.reaches
def Env.contexts (v : Env) : Nat := v.aon.grade.contexts

/-- FE_CTL.EN and WM_EN (Table 8.24). -/
def Env.feEn (v : Env) : Bool := v.field 0x100000 0 1 == 1
def Env.wmEn (v : Env) : Bool := v.field 0x100000 1 1 == 1

/-- FE_DB_POLL.DB_POLL: 0 acts as 1, values above 1,024 act as 1,024 (Table 8.25). -/
def Env.dbPoll (v : Env) : Nat :=
  let x := v.field 0x100004 0 11
  if x = 0 then 1 else if x > 1024 then 1024 else x

/-- FE_Q0_CFG.LOG2N: values outside 6-16 act as 6 (Table 8.25). -/
def Env.q0Log2n (v : Env) : Nat :=
  let x := v.field 0x100030 0 5
  if x < 6 ∨ x > 16 then 6 else x

/-- RCH_SHADOW_CTL_n.LIMIT: values above 64 act as 64 (Table 6.2). -/
def Env.shadowLimit (v : Env) (r : Nat) : Nat :=
  let x := v.field (0x200040 + 0x1000 * r) 0 7
  if x > 64 then 64 else x

/-- RT_CTL (Table 7.9): EN, and SEND_CREDIT with 0 acting as 1 and values above 32 as 32. -/
def Env.rtEn (v : Env) : Bool := v.field 0x800000 0 1 == 1
def Env.sendCredit (v : Env) : Nat :=
  let x := v.field 0x800000 8 8
  if x = 0 then 1 else if x > 32 then 32 else x

/-- HB_RS_CTL and HB_RS_NODE (Tables 9.11, 9.12); RESEND 0 acts as 1. -/
def Env.resend (v : Env) : Nat := max 1 (v.field 0x901000 16 16)
def Env.rsAccept (v : Env) : Bool := v.field 0x901000 0 1 == 1
def Env.node (v : Env) : BitVec 16 := BitVec.ofNat 16 (v.field 0x901004 0 16)

/-- Whether engine `e` is in engine set `set` (R110). -/
def Env.inSet (v : Env) (set e : Nat) : Bool :=
  decide (e < v.engines) && (v.reg (0x110000 + 0x100 * set + 4 * (e / 32))).getLsbD (e % 32)

/-- GLB_JNL_CFG with its clamps (Table 13.12). -/
def Env.ckptLog (v : Env) : Nat :=
  let x := v.field 0x108 8 5
  if x < 16 then 16 else if x > 21 then 21 else x
def Env.jlog (v : Env) : Nat :=
  let x := v.field 0x108 0 6
  if x < v.ckptLog + 2 then v.ckptLog + 2 else if x > 28 then 28 else x

/-- GLB_ELOG_CFG.ELOG clamped to 8-20. -/
def Env.elogLog (v : Env) : Nat := min 20 (max 8 (v.field 0x11C 0 5))
def Env.scrubEn (v : Env) : Bool := v.field 0x12C 0 1 == 1

/-- DB_CTL, DB_TRC_CFG, DB_TRC_CTX, DB_SNAP_CTL (Table 14.14). -/
def Env.statEn (v : Env) : Bool := v.field 0xB00000 0 1 == 1
def Env.trcEn (v : Env) : Bool := v.field 0xB00000 1 1 == 1
def Env.loadLog (v : Env) : Nat := min 16 (max 6 (v.field 0xB00000 8 5))
def Env.trcEvents (v : Env) (t : Nat) : Bool := v.field 0xB00010 (16 + t) 1 == 1
def Env.trcLog (v : Env) : Nat := min 24 (max 10 (v.field 0xB00010 0 5))
def Env.trcCores (v : Env) : Nat := v.field 0xB00010 8 3
def Env.trcCtx (v : Env) (c : Nat) : Bool :=
  v.field (if c < 32 then 0xB00014 else 0xB00018) (c % 32) 1 == 1
def Env.snapHold (v : Env) : Bool := v.field 0xB0002C 1 1 == 1
def Env.snapBeforeReset (v : Env) : Bool := v.field 0xB0002C 0 1 == 1

/-- PG_CTL (Table 12.5). -/
def Env.pgEn (v : Env) : Bool := v.field 0xA00000 0 1 == 1
def Env.pgFixed (v : Env) : Bool := v.field 0xA00000 3 1 == 1
def Env.calEn (v : Env) : Bool := v.field 0xA00000 4 1 == 1
def Env.droopEn (v : Env) : Bool := v.field 0xA00000 5 1 == 1
def Env.gain (v : Env) : Nat := v.field 0xA00000 6 4
def Env.windowS (v : Env) : Nat := v.field 0xA00000 10 6 + 1

/-- PG_SAG.HOLD, 0 acting as 1 (Table 12.10); PG_BURST, 0 acting as 1 (Table 12.7). -/
def Env.sagHold (v : Env) : Nat := max 1 (v.field 0xA00020 0 16)
def Env.burstUj (v : Env) : Nat := max 1 (v.field 0xA00014 0 20)

/-- Fields read only by MC take effect at the response (R374): MC_SEG_CTL and MC_SEG_KEY are read as stored. -/
def Env.stored (v : Env) (off : Nat) : Word32 := v.cfg.storedAt v.aon.grade off
def Env.segCtl (v : Env) (lo n : Nat) : Nat := bits (v.stored 0xC00000) lo n
def Env.segKey (v : Env) : Nat := (v.stored 0xC00004).toNat

end Sys2Proof.Machine
end

