-- ==== Sys2Proof/Machine/Ops.lean ====
section
/-! DEFINITION. The operations that the meanings share: answers, accessors of each part, journal records and the
effects that wait on them, trace, teardown and reset requests, task lookup. -/

namespace Sys2Proof.Machine

open Sys2Proof.Config

/-! ## Answers -/

/-- The next state in which only the block changed: time, identity, registers and the queue stand. -/
def onBlk (s : State) (f : Env → Blk → Blk) : Host.Outcome State Fault Refusal :=
  .next { s with blk := f s.env s.blk }

/-- A command about one unit of `have_`: what no unit of the grade is named by does not happen in the block (R2;
log 9). -/
def atUnit (s : State) (have_ unit : Nat) (f : Env → Blk → Blk) : Host.Outcome State Fault Refusal :=
  onBlk s fun v b => if unit < have_ then f v b else b

/-- A command about engine port `e` (R2). -/
def atEngine (s : State) (e : Nat) (f : Env → Blk → Blk) : Host.Outcome State Fault Refusal :=
  atUnit s s.aon.grade.engines e f

/-- A command about reach `r` (R2). -/
def atReach (s : State) (r : Nat) (f : Env → Blk → Blk) : Host.Outcome State Fault Refusal :=
  atUnit s s.aon.grade.reaches r f

/-- A command about context `c` (R2). -/
def atContext (s : State) (c : Nat) (f : Env → Blk → Blk) : Host.Outcome State Fault Refusal :=
  atUnit s s.aon.grade.contexts c f

/-- A command about software queue `q`, 0 to 1,023 (R176). -/
def atQueue (s : State) (q : Nat) (f : Env → Blk → Blk) : Host.Outcome State Fault Refusal := atUnit s 1024 q f

/-- Domain `d` is powered, and MC does not isolate it to power it down (R276). -/
def Env.domainUp (v : Env) (d : Nat) : Bool := v.aon.pdAck.getLsbD d && v.aon.pdReq.getLsbD d

/-! ## Accessors -/

/-- Put an item on a port. -/
def Blk.emit (b : Blk) (o : Out) : Blk := { b with out := b.out ++ [o] }

/-- The lowest host-memory tag that no outstanding request has (R260). -/
def Fe.freeTag (f : Fe) : Option Nat := (List.range 64).find? fun t => !f.hostOut.any fun p => p.1 == t

/-- Ask host memory: under a free tag at once, else when one of the 64 outstanding requests has its response. A request
of several lines sends them one after another under its tag (R260; log 123). -/
def Blk.ask (r : HostReq) (b : Blk) : Blk :=
  match b.fe.freeTag with
  | some t => { b with fe := { b.fe with hostOut := b.fe.hostOut ++ [(t, r)] } }.emit (.host t r)
  | none => { b with fe := { b.fe with hostWait := b.fe.hostWait ++ [r] } }

/-- The response to the oldest outstanding request that `p` names has arrived: its tag is free, and the request that
has waited longest takes it. -/
def Blk.answered (p : HostReq → Bool) (b : Blk) : Blk :=
  if b.fe.hostOut.any fun x => p x.2 then
    let b := { b with fe := { b.fe with hostOut := ldrop1 (fun x => p x.2) b.fe.hostOut } }
    match b.fe.hostWait with
    | [] => b
    | r :: rest => { b with fe := { b.fe with hostWait := rest } }.ask r
  else b

/-- Ask host memory for a queue that has ended: its context is given, and nobody waits for the response. -/
def Blk.askFor (gone : Option Nat) (r : HostReq) (b : Blk) : Blk :=
  match gone with
  | none => b.ask r
  | some c =>
    let b := b.ask r
    { b with fe := { b.fe with late := b.fe.late ++ [{ req := r, ctx := c }] } }

/-- Read host or device memory for a descriptor that starts: the read lasts no longer than the command that brings its
data (log 123). -/
def Blk.readNow (q : Nat) (a : BitVec 64) (n : Nat) (b : Blk) : Blk :=
  if n = 0 then b
  else if !a.getLsbD 63 then b.emit (.dmRead a n)
  else match b.fe.freeTag with
    | some t => b.emit (.host t (.descRead q (a.setWidth 63) n))
    | none => b

/-- The next free value (log 4), and the block with it used. -/
def Blk.free (b : Blk) : BitVec 64 := freeValue b.fresh
def Blk.spend (b : Blk) : Blk := { b with fresh := b.fresh + 1 }

def Blk.reach (b : Blk) (r : Nat) : Reach := tgetD {} b.reaches r
def Blk.modReach (b : Blk) (r : Nat) (f : Reach → Reach) : Blk :=
  { b with reaches := tmod {} b.reaches r f }

def Blk.agent (b : Blk) (e : Nat) : Agent := tgetD {} b.agents e
def Blk.modAgent (b : Blk) (e : Nat) (f : Agent → Agent) : Blk :=
  { b with agents := tmod {} b.agents e f }

def Blk.queue? (b : Blk) (q : Nat) : Option Queue := tget b.fe.queues q
def Blk.modFe (b : Blk) (f : Fe → Fe) : Blk := { b with fe := f b.fe }
def Blk.modQueue (b : Blk) (q : Nat) (f : Queue → Queue) : Blk :=
  match b.queue? q with
  | some x => b.modFe fun fe => { fe with queues := tput fe.queues q (f x) }
  | none => b

def Blk.ctx? (b : Blk) (c : Nat) : Option Ctx := tget b.fe.ctxs c
def Blk.modCtx (b : Blk) (c : Nat) (f : Ctx → Ctx) : Blk :=
  match b.ctx? c with
  | some x => b.modFe fun fe => { fe with ctxs := tput fe.ctxs c (f x) }
  | none => b

def Blk.modRt (b : Blk) (f : Rt → Rt) : Blk := { b with rt := f b.rt }
def Blk.modHb (b : Blk) (f : Hb → Hb) : Blk := { b with hb := f b.hb }
def Blk.modPg (b : Blk) (f : Pg → Pg) : Blk := { b with pg := f b.pg }
def Blk.modRel (b : Blk) (f : Rel → Rel) : Blk := { b with rel := f b.rel }
def Blk.modDb (b : Blk) (f : Db → Db) : Blk := { b with db := f b.db }
def Blk.modMc (b : Blk) (f : Mc → Mc) : Blk := { b with mc := f b.mc }

/-- Apply a change for each member of a list, in order. -/
def Blk.forEach {α : Type} (b : Blk) (l : List α) (f : α → Blk → Blk) : Blk := l.foldl (fun b x => f x b) b

/-- Whether a context exists (R199), and whether it is torn down (R206). -/
def Blk.ctxExists (b : Blk) (c : Nat) : Bool := (b.ctx? c).isSome
def Blk.torn (b : Blk) (c : Nat) : Bool :=
  match b.ctx? c with | some x => x.faulted | none => true

/-- The launch epoch of a context: the low 8 bits of its launch count (R192). -/
def Blk.epoch (b : Blk) (c : Nat) : Nat := ((b.ctx? c).map (fun x => x.launchCount % 256)).getD 0

/-- The argument block address of R70; all ones if there is none. -/
def Blk.argAddr (b : Blk) (c : Nat) (n : BitVec 32) : BitVec 64 :=
  if n = 0xFFFFFFFF then BitVec.allOnes 64
  else ((b.ctx? c).map (fun x => x.record.argBase + BitVec.ofNat 64 (64 * n.toNat))).getD 0

/-- The hardware slot of a context's tasks (R126). -/
def Blk.launchSlot (b : Blk) (c : Nat) : Nat := ((b.ctx? c).map Ctx.launchSlot).getD 0

/-- The launch of a context is closed, or its queue is closing: R202 discards units to the tasks it removed. -/
def Blk.launchAborted (b : Blk) (c : Nat) : Bool :=
  match b.ctx? c with
  | none => false
  | some x => x.closedLaunch || (match x.launchQueue.bind b.queue? with
      | some q => q.qstate == .closing
      | none => false)

/-! ## The permit (Table 12.1) -/

def Blk.dspEn (b : Blk) : Bool := b.pg.permit.getLsbD 0
def Blk.beEn (b : Blk) : Bool := b.pg.permit.getLsbD 1
def Blk.shEn (b : Blk) : Bool := b.pg.permit.getLsbD 2
def Blk.sasEn (b : Blk) : Bool := b.pg.permit.getLsbD 3
/-- ALLOW in pJ; none when it is unlimited. -/
def Blk.allow (b : Blk) : Option Nat :=
  let a := bits b.pg.permit 32 32
  if a = 0xFFFFFFFF then none else some (a * 256)

/-- A core was halted at a breakpoint at the last edge: every reach passes over every candidate and answers no pull
(R342). -/
def Blk.coreHalted (b : Blk) : Bool := b.db.haltSeen

/-- The data plane does no work: stopped (R103) or in a block reset (R309). -/
def Blk.frozen (b : Blk) : Bool := b.db.stopped || b.rel.phase != 0

/-- Sampled statistics are taken (R325). -/
def Blk.sampling (v : Env) (b : Blk) : Bool := v.statEn && b.pg.shed == 0 && !b.frozen

/-! ## Context counter blocks (Table 14.2): counts by byte offset -/

/-- Raise a count of a context's block; the block of context 0 is never written (R327). -/
def Blk.ctxBump (b : Blk) (c off : Nat) (n : Nat := 1) : Blk :=
  if c = 0 ∨ n = 0 then b
  else b.modDb fun d => { d with ctxCtr := tmod [] d.ctxCtr c (fun t => tmod 0 t off (· + n)) }

def Blk.ctxCount (b : Blk) (c off : Nat) : Nat := tgetD 0 (tgetD [] b.db.ctxCtr c) off

/-- The range ID on top of a context's stack, 0 if it is empty (R330). -/
def Blk.range (b : Blk) (c : Nat) : BitVec 32 := ((b.ctx? c).bind (fun x => x.ranges.head?)).getD 0

/-- The block of one context as 72 words: EDGE, the counts, RANGE with RANGE_DEPTH, padding. -/
def Blk.ctxWords (v : Env) (b : Blk) (c : Nat) : List Nat :=
  let depth := ((b.ctx? c).map (fun x => min 255 x.rangeDepth)).getD 0
  (List.range 72).map fun i =>
    if i = 0 then v.n
    else if i < 66 then b.ctxCount c (8 * i)
    else if i = 66 then (b.range c).toNat + 2 ^ 32 * depth
    else 0

/-- A latch (R329); for context 0 the sum over every context, with no range (R327). -/
def Blk.latch (v : Env) (b : Blk) (c : Nat) : List Nat :=
  if c ≠ 0 then b.ctxWords v c
  else (List.range 72).map fun i =>
    if i = 0 then v.n
    else if i < 66 then (b.db.ctxCtr.map (fun p => tgetD 0 p.2 (8 * i))).foldl (· + ·) 0
    else 0

/-! ## Trace (R336) -/

/-- Enter a trace record, or count it lost: the ring is full (PI − CI = 2^TLOG), the buffer of 1,024 is, SHED is 1 or
above, or the channel is halted. The first that fits after a loss is preceded by a LOSS record. -/
def Blk.trace (v : Env) (taskEvent : Bool) (r : TraceRec) (b : Blk) : Blk :=
  let typeOn := r.type == 13 || (r.type != 9 && v.trcEvents r.type)
    || (r.type == 9 && (v.trcCores >>> (r.aux.toNat % 4)) % 2 == 1)
  if !v.trcEn || !typeOn || (taskEvent && !v.trcCtx r.ctx) then b
  else
    let loss : List TraceRec :=
      if b.db.trcLoss = 0 then []
      else [{ edge := v.n, type := 0, aux := BitVec.ofNat 64 b.db.trcLoss }]
    let full := decide (1024 < b.db.trcBuf.length + loss.length + 1)
    if 1 ≤ b.pg.shed ∨ b.db.trcHalted ∨ full ∨ 2 ^ v.trcLog ≤ b.db.trcPi - b.db.trcCi then
      (b.modDb fun d => { d with trcLoss := d.trcLoss + 1 }).bump .traceLost
    else b.modDb fun d => { d with trcBuf := d.trcBuf ++ loss ++ [r], trcLoss := 0 }

/-- A trace record of a task event (Table 14.8). -/
def Blk.traceTask (v : Env) (type sub : Nat) (t : TaskRef) (b : Blk) (engine : Nat := 0xFFFF)
    (status : BitVec 8 := 0) (aux : BitVec 64 := 0) (shadow : Bool := false) : Blk :=
  b.trace v true { edge := v.n, type := type, sub := sub, shadow := shadow, ctx := t.ctx, id := t.id
                   engine := engine, status := status, range := b.range t.ctx, aux := aux }

/-! ## The journal stream (R299-R303)

Records entered at an edge are staged with their place in the order of R301: 0-15 the reaches, 16 router
announcements, 17 RELEASE, 18 PRED, 19 the front end, 20-35 page records by reach, 36 TEARDOWN, 37 CLOSE, 38
checkpoints. A ticket names a record until it has its slot. -/

def Blk.stage (b : Blk) (place : Nat) (r : JRec) : Blk :=
  b.modRel fun l => { l with staged := l.staged ++ [(place, { r with ticket := l.tickets })]
                             tickets := l.tickets + 1 }

/-- The ticket of the record staged last. -/
def Blk.lastTicket (b : Blk) : Nat := b.rel.tickets - 1

/-- A record of the front end about a descriptor (Table 13.4). -/
def Blk.stageDesc (b : Blk) (type : JType) (c q index : Nat) (status : BitVec 8) (aux : Nat)
    (second : Option (BitVec 128) := none) (desc : BitVec 512 := 0) : Blk :=
  b.stage 19 { type := type, ctx := c, status := status, epoch := b.epoch c, id := descId q index
               aux := BitVec.ofNat 32 aux, second := second, desc := desc }

/-- Device memory has acknowledged the slots of a record and all before it. -/
def Rel.slotDone (l : Rel) (r : JRec) : Bool := decide (r.slot + r.size ≤ l.acked)

/-- The record of a ticket counts as acknowledged for R27: its slots are, and so is its CLOSE if it is a DEFER
record (R303). -/
def Blk.ticketDone (b : Blk) (t : Nat) : Bool :=
  match b.rel.journal.find? (fun r => r.ticket == t) with
  | none => false
  | some r => b.rel.slotDone r
      && (!r.defer || b.rel.journal.any (fun c => c.type == .close && c.ctx == r.ctx
            && decide (r.slot < c.slot) && b.rel.slotDone c))

/-- The record of a ticket is itself acknowledged: the exception of R303 for signals. -/
def Blk.ticketWritten (b : Blk) (t : Nat) : Bool :=
  match b.rel.journal.find? (fun r => r.ticket == t) with
  | none => false
  | some r => b.rel.slotDone r

/-- Slots that replay from the latest completed checkpoint still needs (R299). -/
def Blk.journalUsed (b : Blk) : Nat :=
  b.rel.slots + (b.rel.staged.map (fun p => p.2.size)).foldl (· + ·) 0
    - b.rel.ckptLast.begin_

/-- Whether `n` more slots fit the ring (R299). -/
def Blk.journalFits (v : Env) (b : Blk) (n : Nat) : Bool := decide (b.journalUsed + n ≤ 2 ^ v.jlog)

/-! ## Status and result records -/

/-- Issue an effect that the record of a ticket has released. -/
def Blk.issue (v : Env) (t : Option Nat) (x : Effect) (b : Blk) : Blk :=
  match x with
  | .status q _ gone addr bytes =>
    (b.askFor gone (.statusWrite q (addr.setWidth 63) bytes)).modFe fun fe => { fe with statAt := tput fe.statAt q v.n }
  | .result q gone addr bytes =>
    if addr.getLsbD 63 then
      let b := b.askFor gone (.resultWrite q (addr.setWidth 63) bytes)
      if gone.isSome then b
      else b.modQueue q fun u => { u with resOut := u.resOut ++ (bytes.take 1).map fun s => (s, t.getD 0) }
    else b.emit (.dmWrite addr bytes)

/-- Whether an effect may leave: its record is acknowledged (R27), and a status record is the first of its
queue in the pulse (R183). -/
def Blk.mayIssue (v : Env) (b : Blk) (t : Option Nat) (x : Effect) : Bool :=
  (match t with | none => true | some k => b.ticketDone k)
    && (match x with
        | .status q _ _ _ _ => tget b.fe.statAt q != some v.n
        | _ => true)

/-- The queue whose status record an effect is. -/
def Effect.statusOf : Effect → Option Nat
  | .status q _ _ _ _ => some q
  | _ => none

/-- An effect of queue `q`, which has ended (R202). -/
def Effect.orphan (q c : Nat) : Effect → Effect
  | .status k n g a bs => .status k n (if k = q then g.orElse fun _ => some c else g) a bs
  | .result k g a bs => .result k (if k = q then g.orElse fun _ => some c else g) a bs

/-- Issue every waiting effect that may leave; the status records of one queue leave in order. -/
def Blk.releaseEffects (v : Env) (b : Blk) : Blk :=
  let go (acc : Blk × List (Option Nat × Effect)) (p : Option Nat × Effect) :=
    let held := acc.2.any (fun h => h.2.statusOf.isSome && h.2.statusOf == p.2.statusOf)
    if !held && acc.1.mayIssue v p.1 p.2 then (acc.1.issue v p.1 p.2, acc.2) else (acc.1, acc.2 ++ [p])
  let r := b.rel.waiting.foldl go (b, [])
  r.1.modRel fun l => { l with waiting := r.2 }

/-- The status record of a queue joins the effects that wait; a record of the same pulse that has not left is
replaced. -/
def Blk.putStatus (v : Env) (q : Nat) (u : Queue) (b : Blk) (gone : Option Nat := none) : Blk :=
  let x : Effect := .status q v.n gone u.statAddr (statusRecord u)
  let same (p : Option Nat × Effect) : Bool :=
    match p.2 with | .status q' n _ _ _ => q' == q && n == v.n | _ => false
  (b.modRel fun l => { l with waiting := (l.waiting.filter (fun p => !same p)) ++ [(u.cause, x)] }).releaseEffects v

/-- The status record of queue `q` has changed (R183), by the record of a ticket if one caused it. -/
def Blk.writeStatus (v : Env) (q : Nat) (cause : Option Nat) (b : Blk) : Blk :=
  let b := match cause with
    | some t => b.modQueue q fun u => { u with cause := some t }
    | none => b
  match b.queue? q with
  | none => b
  | some u => b.putStatus v q u

/-- The record at this edge that an effect on a context waits for: the last one of the context (R27). -/
def Blk.causeOf (b : Blk) (c : Nat) : Option Nat :=
  ((b.rel.staged.filter fun p => p.2.ctx == c).getLast?).map fun p => p.2.ticket

/-! ## Requests that an edge or MC acts on -/

/-- A context that a teardown can be asked for: not context 0, not torn down, and none asked for yet. -/
def Blk.canTearDown (b : Blk) (c : Nat) : Bool := c != 0 && !b.torn c && !b.fe.teardownsIn.any fun p => p.1 == c

/-- Ask for the teardown of a context with a cause; the first cause asked for stands. Context 0 is never torn
down. The causing descriptor keeps its own status (R206). -/
def Blk.tearDown (b : Blk) (c : Nat) (cause : BitVec 8) (desc : Option (Nat × Nat) := none) : Blk :=
  if !b.canTearDown c then b
  else b.modFe fun fe => { fe with teardownsIn := fe.teardownsIn ++ [(c, cause, desc)] }

/-- A cause of a block reset (R298, R309). During a reset it restarts it. -/
def Blk.askReset (b : Blk) (cause : Cause) : Blk :=
  if b.rel.pendingCause.isSome then b else b.modRel fun l => { l with pendingCause := some cause }

/-- A hang snapshot is asked for with a cause (R338). -/
def Blk.askStop (b : Blk) (cause : Nat) : Blk :=
  if b.db.snap.isSome ∨ b.db.stopReq.isSome then b else b.modDb fun d => { d with stopReq := some cause }

/-- An alarm event raises its kind's bit and its count in the pending summary (R362). -/
def Blk.alarm (k : Nat) (b : Blk) : Blk :=
  b.modMc fun m => { m with alarms := tmod 0 m.alarms k (fun c => min 0xFFFF (c + 1)) }

/-! ## Tasks -/

/-- What a lookup by identifier finds (R73, R77). -/
inductive Found where
  | away
  | unused
  | at (slot : Nat) (blk : Block) (t : Task)

def Reach.find (rc : Reach) (c seg vb : Nat) : Option (Nat × Block) :=
  rc.blocks.find? fun p => p.2.ctx == c && p.2.seg == seg && p.2.vblock == vb

def Blk.locate (b : Blk) (t : TaskRef) : Found :=
  match (b.reach t.reach).find t.ctx t.seg t.vblock with
  | none => .away
  | some (k, bl) => match tget bl.entries t.entry with
    | some x => .at k bl x
    | none => .unused

def Blk.task? (b : Blk) (t : TaskRef) : Option Task :=
  match b.locate t with | .at _ _ x => some x | _ => none

/-- Change the entry of a resident task. -/
def Blk.modTask (b : Blk) (t : TaskRef) (f : Task → Task) : Blk :=
  match b.locate t with
  | .at k bl x => b.modReach t.reach fun rc =>
      { rc with blocks := tput rc.blocks k { bl with entries := tput bl.entries t.entry (f x) } }
  | _ => b

/-- Note that a decrement reached the block of a task (R85). -/
def Blk.touchBlock (v : Env) (b : Blk) (t : TaskRef) : Blk :=
  b.modReach t.reach fun rc =>
    match rc.find t.ctx t.seg t.vblock with
    | some (k, bl) => { rc with blocks := tput rc.blocks k { bl with lastDec := v.n } }
    | none => rc

/-- A gang member that is not the head. Members carry no count and follow their head (R42). -/
def Task.isMember (x : Task) : Bool := x.kind == .gang && !x.gangHead

/-- The task `n` indices lower in the same reach and segment. -/
def TaskRef.minus (t : TaskRef) (n : Nat) : TaskRef :=
  { t with id := mkId t.seg t.reach ((t.index - n) / 256) ((t.index - n) % 256) }

/-- The gang head of a member (R42); any other task is itself. -/
def Blk.headOf (b : Blk) (t : TaskRef) : TaskRef :=
  match b.task? t with
  | some x => if x.isMember then t.minus x.gang.toNat else t
  | none => t

/-- Set the STATE of a task, and with a gang head that of its members (R42; DEDUCED, log 14). -/
def Blk.setState (b : Blk) (t : TaskRef) (st : TState) : Blk :=
  match b.task? t with
  | none => b
  | some x =>
    let b := b.modTask t fun x => { x with state := st }
    if x.kind == .gang && x.gangHead then
      b.forEach ((List.range (x.gang.toNat - 1)).map (· + 1)) fun m b =>
        b.modTask (t.plus m) fun y => { y with state := st }
    else b

/-- Every resident task of a reach, as (task, entry), by physical block. -/
def Reach.tasks (r : Nat) (rc : Reach) : List (TaskRef × Task) :=
  rc.blocks.flatMap fun p => p.2.entries.map fun e =>
    ({ ctx := p.2.ctx, id := mkId p.2.seg r p.2.vblock e.1 }, e.2)

/-- Whether a context has a resident task of some STATE. -/
def Blk.anyTask (v : Env) (b : Blk) (c : Nat) (p : Task → Bool) : Bool :=
  (List.range v.reaches).any fun r =>
    (b.reach r).blocks.any fun bl => bl.2.ctx == c && bl.2.entries.any (fun e => p e.2)

/-- Whether a context has an entry in some spill ledger. -/
def Blk.anyLedger (v : Env) (b : Blk) (c : Nat) : Bool :=
  (List.range v.reaches).any fun r =>
    (b.reach r).ledger.any (fun l => l.ref.ctx == c) || (b.reach r).rmw.any (fun u => u.target.ctx == c)

/-- Remove a task from its reach's ready lists. -/
def Reach.unlist (rc : Reach) (t : TaskRef) : Reach :=
  { rc with lc := rc.lc.filter (· != t), fillList := rc.fillList.filter (· != t)
            plainList := rc.plainList.filter (· != t), becoming := rc.becoming.filter (· != t)
            returning := rc.returning.filter (· != t) }

/-- List records (R116). -/
def Reach.listRec (rc : Reach) (t : TaskRef) : Option ListRec := rc.listRecs.find? (fun l => l.ref == t)
def Reach.modRec (rc : Reach) (t : TaskRef) (f : ListRec → ListRec) : Reach :=
  { rc with listRecs := lreplace (fun l => l.ref == t) f rc.listRecs }

/-- Unclaimed tiles: those of N − NEXT and those in the pool (R117). -/
def Reach.unclaimed (rc : Reach) (t : TaskRef) (n : Nat) : Nat :=
  (n - ((rc.listRec t).map ListRec.next).getD 0) + (rc.pool.filter (fun p => p.1 == t)).length

/-- Take the tile of R118: the lowest index in the pool, or else NEXT, which rises by one. -/
def Reach.takeTile (rc : Reach) (t : TaskRef) (n : Nat) : Option (Nat × Reach) :=
  match (lsort id ((rc.pool.filter (fun p => p.1 == t)).map (·.2))).head? with
  | some k => some (k, { rc with pool := ldrop1 (fun p => p.1 == t && p.2 == k) rc.pool })
  | none =>
    let next := ((rc.listRec t).map ListRec.next).getD 0
    if next < n then some (next, rc.modRec t fun l => { l with next := l.next + 1 }) else none

/-- Lower HOLD by one (R118, R384, R115). -/
def Reach.lowerHold (rc : Reach) (t : TaskRef) : Reach := rc.modRec t fun l => { l with hold := l.hold - 1 }

/-- Release the records that a task holds: list record and its pool, shadow record, gang members. -/
def Reach.dropRecords (rc : Reach) (t : TaskRef) : Reach :=
  { rc with listRecs := rc.listRecs.filter (fun l => l.ref != t), pool := rc.pool.filter (fun p => p.1 != t)
            shadowRecs := rc.shadowRecs.filter (fun s => s.ref != t)
            members := rc.members.filter (fun m => m.1 != t) }

/-! ## Predicates (R51, R52) -/

/-- The value of a slot; slot 0 always holds true. -/
def Blk.pred (b : Blk) (c slot : Nat) : Option Bool :=
  if slot = 0 then some true else tgetD none b.preds (c * 4096 + slot)

/-- Satisfied, refused, or open (R52). -/
def Blk.predTest (b : Blk) (c : Nat) (x : Task) : Option Bool := (b.pred c x.pred.toNat).map (· == x.pol)

/-! ## Channels and combining queues by number (R233) -/

/-- Where channel index `i` of context `c` is held, and combining queue `q` of it. -/
def chKey (c i : Nat) : Nat := c * 65536 + i
def cqKey (c q : Nat) : Nat := c * 1024 + q

/-- Free the channels that `p` names; a freed member drops out of its fan-out's list (R236, R247). -/
def Hb.freeChannels (h : Hb) (p : Nat → Channel → Bool) : Hb :=
  let kept := h.channels.filter fun x => !p x.1 x.2
  { h with channels := kept.map fun x => (x.1, { x.2 with
      fan := x.2.fan.map fun ms => ms.filter fun i => (tget kept (chKey x.2.ctx i)).isSome }) }

/-! ## Faults of a run -/

/-- Put a status in the completion word of an engine's run: the one that ranks higher stands (R16). -/
def Blk.faultRun (rank : BitVec 8 → Nat) (b : Blk) (e : Nat) (status : BitVec 8) : Blk :=
  b.modAgent e fun a => { a with run := a.run.map fun r =>
    { r with status := if rank status < rank r.status then status else r.status } }

/-- Answer an operation of the engine port (R98): status and value. -/
def Blk.opReply (b : Blk) (e : Nat) (status : BitVec 8) (value : BitVec 32 := 0)
    (words : List (BitVec 64) := []) : Blk := b.emit (.opResult e status value words)

end Sys2Proof.Machine
end

