-- ==== Sys2Proof/Machine/Flags.lean ====
section
/-! DEFINITION. Status ranking and every flag that the spec computes from other state. -/

namespace Sys2Proof.Machine

/-- The rank of a status code, 1 the highest (R16). -/
def statusRank (s : BitVec 8) : Nat :=
  if s = stUncorrectable then 1
  else if s = stContextFault then 2
  else if s = stTimeout then 3
  else if s = stDenied then 4
  else if s = stPeerReset then 5
  else if s = stPeerClosed then 6
  else if s = stGap then 7
  else if s = stUnderrun then 8
  else if s = stSaturated then 9
  else if s = stBusy then 10
  else if s = stAlreadyDone then 11
  else if s = stSkipped then 12
  else 13

/-- The status that ranks higher (R16). -/
def rankMax (a b : BitVec 8) : BitVec 8 := if statusRank b < statusRank a then b else a

/-- A task fault of the run on an engine's port with a status (R213, R216, R234, R248, R333). -/
def Blk.runFault (b : Blk) (e : Nat) (status : BitVec 8) : Blk := b.faultRun statusRank e status

/-- Status of a completion word: only OK, CONTEXT_FAULT and UNCORRECTABLE are taken from the engine (R265),
and the agent's own status replaces it if it ranks higher. -/
def completionStatus (engine agent : BitVec 8) : BitVec 8 :=
  let e := if engine = stOk ∨ engine = stContextFault ∨ engine = stUncorrectable then engine
    else stContextFault
  rankMax e agent

/-- Add a two's-complement delta to a sync object, clamped; whether clamping occurred (Table 9.3). -/
def syncAdd (value delta : BitVec 32) : BitVec 32 × Bool :=
  let r : Int := value.toNat + delta.toInt
  if r < 0 then (0, true)
  else if 0xFFFFFFFF < r then (0xFFFFFFFF, true)
  else (BitVec.ofInt 32 r, false)

/-! ## Channel flags (R238, R245, Table 10.5) -/

/-- Pointer arithmetic modulo 2^(RLOG+1). -/
def ptrMod (rlog : Nat) : Nat := 2 ^ (rlog + 1)
def ptrSub (rlog a b : Nat) : Nat := (a + ptrMod rlog - b) % ptrMod rlog
def ptrAdd (rlog a n : Nat) : Nat := (a + n) % ptrMod rlog

def Channel.occupied (c : Channel) : Nat := ptrSub c.rlog c.wp c.rl
def Channel.freeWords (c : Channel) : Nat := 2 ^ c.rlog - c.occupied
def Channel.unread (c : Channel) : Nat := ptrSub c.rlog c.wp c.rp

/-- CFLAGS of a status word. -/
def Channel.cflags (c : Channel) : Nat :=
  b2n (c.unread == 0) + 2 * b2n c.underrun + 4 * b2n c.gapFlag + 8 * b2n (c.persist && c.state != .pending)
    + 16 * b2n c.drift + 32 * b2n c.marked + 64 * b2n c.autorel

/-- CSTATE of an end: PENDING, OPEN, CLOSED (this end), RESET. A block reset shows RESET at both ends, a closed one
included (R246). -/
def Channel.cstate (c : Channel) (own : Option ChEnd) : Nat :=
  if c.state == .reset then 3
  else if (own.map ChEnd.closed).getD false then 2
  else b2n (c.state == .opened)

/-- STATUS of an end: the highest-ranking that applies. -/
def Channel.endStatus (c : Channel) (other : Option ChEnd) : BitVec 8 :=
  if c.state == .reset then stPeerReset
  else if (other.map ChEnd.closed).getD false then stPeerClosed
  else if c.gapFlag then stGap
  else if c.underrun then stUnderrun
  else stOk

/-- The 32-byte status word of an end (Table 10.5). -/
def Channel.statusWord (c : Channel) (own other : Option ChEnd) : List Byte :=
  leBytes 4 c.wp ++ leBytes 4 c.rp ++ leBytes 4 c.rl ++ leBytes 4 (if c.marked then c.mkp else 0)
    ++ leBytes 4 c.sent.toNat ++ leBytes 4 c.relsd.toNat ++ leBytes 2 (min 0xFFFF c.lost)
    ++ leBytes 1 (c.cstate own) ++ leBytes 1 (c.endStatus other).toNat ++ leBytes 1 c.cflags
    ++ leBytes 1 c.rlog ++ leBytes 2 0

/-! ## Admission flags of a record (Table 7.5), and bounded counts (R172, R335) -/

/-- RFL: RANK, POOL, DROPPED, RENORMED. -/
def rflBits (rank : Nat) (pool dropped renormed : Bool) : BitVec 8 :=
  BitVec.ofNat 8 (rank % 16 + 16 * b2n pool + 32 * b2n dropped + 64 * b2n renormed)

/-- A 32-bit count that saturates, and the SAT bit that saturation sets. -/
def count32 (c : BitVec 32) (n : Nat) (sat : BitVec 32) (bit : Nat) : BitVec 32 × BitVec 32 :=
  let t := c.toNat + n
  if t ≤ 0xFFFFFFFF then (BitVec.ofNat 32 t, sat) else (0xFFFFFFFF, sat ||| BitVec.ofNat 32 (2 ^ bit))

/-- A count of `w` bits that saturates (R335): its value and whether it saturated. -/
def countW (w c n : Nat) : Nat × Bool := if c + n < 2 ^ w then (c + n, false) else (2 ^ w - 1, true)

end Sys2Proof.Machine
end

