-- ==== Sys2Proof/Machine/Stored.lean ====
section
/-! DEFINITION. Stored data: corrected and uncorrectable words, the error log and the log queue of the segment
(R314-R316, R318, R365), halted internal channels (R89, Table 13.9). -/

namespace Sys2Proof.Machine

/-- One of the values that OUTCOME of an error-log record may have: OK, UNCORRECTABLE or BUSY (Table 13.10). -/
def logOutcome (x : Nat) : BitVec 8 := if x % 3 = 0 then stOk else if x % 3 = 1 then stUncorrectable else stBusy

/-- A loss record (Table 13.10): EVENT 5 and COUNT. The fields the spec does not give it hold a free value within their
range: MEM up to 37, SOURCE up to 2, CTX, PAGE, WORD up to 255, SYMBOLS, OUTCOME (log 4). -/
def Blk.lossRecord (v : Env) (b : Blk) (count : Nat) : ELogRec :=
  let x := b.free
  { edge := v.n, mem := bits x 0 8 % 38, event := 5, source := bits x 8 8 % 3, ctx := bits x 16 8, page := bits x 24 8
    word := bits x 32 8, symbols := bits x 40 8, outcome := logOutcome (bits x 48 8), count := count }

/-- Place a record in the segment's log queue of 256 (R365). -/
def Blk.queueLog (v : Env) (r : ELogRec) (b : Blk) : Blk :=
  if v.segCtl 2 1 = 0 then b
  else
    let lost := b.mc.logLoss
    let need := if lost = 0 then 1 else 2
    if 256 < b.mc.logQueue.length + need then
      ((b.modMc fun m => { m with logLoss := m.logLoss + 1 }).bump .segLogLost).alarm 13
    else
      let pre := if lost = 0 then [] else [b.lossRecord v lost]
      let b := if lost = 0 then b else b.spend
      b.modMc fun m => { m with logQueue := m.logQueue ++ pre ++ [r], logLoss := 0 }

/-- The address of the error-log ring (R318). -/
def Env.elogBase (v : Env) : BitVec 64 := v.pair 0x114

/-- Write a record at PI of the error log, and PI. -/
def Blk.writeLog (v : Env) (r : ELogRec) (b : Blk) : Blk :=
  let at_ := v.elogBase + BitVec.ofNat 64 (0x40 + 32 * (b.rel.elogPi % 2 ^ v.elogLog))
  let b := b.emit (.dmWrite at_ (elogBytes r))
  let b := b.modRel fun l => { l with elogPi := l.elogPi + 1 }
  b.emit (.dmWrite v.elogBase (leBytes 8 b.rel.elogPi))

/-- The ring of the error log has a free slot (R318). -/
def Blk.elogFree (v : Env) (b : Blk) : Bool := decide (b.rel.elogPi < b.rel.elogCi + 2 ^ v.elogLog)

/-- Space has returned after a loss: the loss record is written first (R318). -/
def Blk.elogReturn (v : Env) (b : Blk) : Blk :=
  if 0 < b.rel.elogLost ∧ b.elogFree v then
    ((b.writeLog v (b.lossRecord v b.rel.elogLost)).spend).modRel fun l => { l with elogLost := 0 }
  else b

/-- Log a record (R318, R365); it is dropped if the ring is full. -/
def Blk.logError (v : Env) (r : ELogRec) (b : Blk) : Blk :=
  let b := (b.queueLog v r).elogReturn v
  if b.elogFree v then b.writeLog v r
  else (b.modRel fun l => { l with elogLost := l.elogLost + 1 }).bump .elogLost

/-- CI of the error log as the block reads it, at each edge (R318; log 125). -/
def Blk.elogSeen (v : Env) (ci : Nat) (b : Blk) : Blk := (b.modRel fun l => { l with elogCi := ci }).elogReturn v

/-- The place of a word of stored data: memory, page, word (Table 13.10), and the context that owns it. -/
structure Place where
  mem  : Nat
  page : Nat
  word : Nat
  ctx  : Nat := 0xFF

/-- What becomes of a word that is read (R314, R315). -/
inductive EccOutcome where
  | clean
  | corrected
  | pageCorrected (symbols : Nat)
  | uncorrectable
deriving DecidableEq, Repr

/-- The Reed–Solomon codeword of a byte of a page: sixteen are interleaved (R314). -/
def codewordOf (i : Nat) : Nat := i % 16

/-- Each codeword of a page corrects up to 8 symbol errors (R314). -/
def pageCorrects (bytes : List Nat) : Bool :=
  !bytes.isEmpty && (List.range 16).all fun k => decide (((bytes.eraseDups).filter fun i => codewordOf i == k).length ≤ 8)

/-- The outcome under the nested codes: the page code is consulted only where the word code cannot correct, and holds only
on a page that is valid (R314, R316). -/
def eccOutcome (valid : Bool) : Ecc → EccOutcome
  | .clean => .clean
  | .corrected => .corrected
  | .detected l => if valid && pageCorrects l then .pageCorrected l.eraseDups.length else .uncorrectable

/-- The page code of a page is valid (R316). Of the writes that count none is to the hub's tables, whose errors only
the word code corrects (DEDUCED, log 126). -/
def Blk.pageValid (b : Blk) (mem page : Nat) : Bool := b.rel.validPages.contains (mem, page)

/-- Count and log the outcome of a read of stored data (R315). -/
def Blk.storedRead (v : Env) (p : Place) (source : Nat) (ecc : Ecc) (b : Blk) : Blk :=
  let r : ELogRec := { edge := v.n, mem := p.mem, event := 0, source := source, ctx := p.ctx, page := p.page
                       word := p.word, symbols := 0, outcome := stOk, count := 0 }
  match eccOutcome (b.pageValid p.mem p.page) ecc with
  | .clean => b
  | .corrected =>
    let b := b.bump .wordCorrected
    if b.rel.wordLogged.contains (p.mem, p.page) then b
    else (b.modRel fun l => { l with wordLogged := l.wordLogged ++ [(p.mem, p.page)] }).logError v r
  | .pageCorrected n => (b.bump .pageCorrected).logError v { r with event := 1, symbols := n }
  | .uncorrectable =>
    ((b.bump .uncorrectable).alarm 2).logError v { r with event := 2, outcome := stUncorrectable }

/-- A device-memory error on an internal channel counts as an uncorrectable error (R263). PAGE and WORD of its
record are not given: free values, WORD up to 255 (log 4). -/
def Blk.deviceError (v : Env) (ctx : Option Nat) (b : Blk) : Blk :=
  let x := b.free
  (b.spend).storedRead v { mem := 37, page := bits x 0 32, word := bits x 32 8, ctx := ctx.getD 0xFF } 0 (.detected [])

/-- A host-memory error response: counted (R261). -/
def Blk.hostErr (b : Blk) : Blk := b.bump .hostError

/-- A response on the host-memory port to a request that `p` names: its tag is free, and an error is counted whatever
becomes of the response (R260, R261). -/
def Blk.hostRsp (p : HostReq → Bool) (err : Bool) (b : Blk) : Blk :=
  if err then (b.answered p).hostErr else b.answered p

/-- Purposes whose error response tears the context of their queue down, unless it is context 0 (Table 11.3). -/
def HostReq.tears : HostReq → Bool
  | .piRead _ _ | .fetch _ _ | .statusWrite _ _ _ | .resultWrite _ _ _ | .valueWrite _ _ _ => true
  | .summaryRead _ | .summaryAnd _ _ | .valueRead _ _ | .imageRead _ _ | .firmwareRead _ _ | .descRead _ _ _
  | .dumpRead _ _ | .dumpWrite _ _ => false

/-- The oldest request that `p` names and that has no owner any more. -/
def Blk.lateReq (p : HostReq → Bool) (b : Blk) : Option LateReq := b.fe.late.find? fun x => p x.req

/-- The response to such a request: an error still tears down the context that its queue belonged to. -/
def Blk.lateRsp (p : HostReq → Bool) (err : Bool) (x : LateReq) (b : Blk) : Blk :=
  let b := b.hostRsp p err
  let b := { b with fe := { b.fe with late := ldrop1 (fun y => p y.req) b.fe.late } }
  if err && x.req.tears then b.tearDown x.ctx stContextFault else b

/-- An internal channel halts until the next block reset (Table 13.9). -/
def Blk.countHalt (b : Blk) : Blk := (b.bump .channelHalt).alarm 3

/-- An internal channel meets an uncorrectable error and halts. -/
def Blk.haltChannel (v : Env) (ctx : Option Nat) (b : Blk) : Blk := (b.deviceError v ctx).countHalt

/-- Which 64-byte parts of a page a write of `n` bytes from `lo` covers. -/
def pageParts (lo n page : Nat) : BitVec 32 :=
  (List.range 32).foldl (fun m u =>
    let a := 2048 * page + 64 * u
    if lo ≤ a ∧ a + 64 ≤ lo + n then m ||| 1#32 <<< u else m) 0

/-- A write to one page: the page is valid once every part of it has been written (R316). -/
def Rel.pageWritten (mem lo n page : Nat) (l : Rel) : Rel :=
  if l.validPages.contains (mem, page) then l
  else
    let mine (x : Nat × Nat × BitVec 32) : Bool := x.1 == mem && x.2.1 == page
    let m := (l.partPages.filter mine).foldl (fun m x => m ||| x.2.2) (pageParts lo n page)
    let rest := l.partPages.filter fun x => !mine x
    if m = BitVec.allOnes 32 then { l with validPages := l.validPages ++ [(mem, page)], partPages := rest }
    else { l with partPages := rest ++ [(mem, page, m)] }

/-- A write of `n` bytes from `lo` to a memory that carries page codes (R316). -/
def Blk.validate (mem lo n : Nat) (b : Blk) : Blk :=
  if n = 0 then b
  else b.modRel fun l =>
    ((List.range ((lo + n - 1) / 2048 - lo / 2048 + 1)).map (lo / 2048 + ·)).foldl (fun l p => l.pageWritten mem lo n p) l

/-- Every page of a memory is invalid again. -/
def Blk.invalidate (mem : Nat) (b : Blk) : Blk :=
  b.modRel fun l => { l with validPages := l.validPages.filter (fun p => p.1 != mem)
                             partPages := l.partPages.filter fun x => x.1 != mem }

/-! ## Reads that found an error in a pulse (R263, R315, Table 13.9) -/

/-- What an uncorrectable word means to the reader of Table 13.9: a task or edge entry tears its context down, a shared
structure or a hub table resets the block, a word of CP or RC memory traps its core. Channel words are READ's own
(R248); a failed write of the router or the hub is counted and logged, and the spec gives it no other effect here. -/
def Blk.meetUncorrectable (x : Met) (b : Blk) : Blk :=
  if x.mem < 32 then (if x.shared then b.askReset .sharedUncorrectable else b.tearDown x.ctx stUncorrectable)
  else if x.mem = 33 then b.askReset .sharedUncorrectable
  else if x.mem = 34 ∨ x.mem = 35 then b.askReset .cpTrap
  else if x.mem = 36 then b.askReset .rcTrap
  else b

/-- One read of the pulse. -/
def Blk.meet (v : Env) (x : Met) (b : Blk) : Blk :=
  if 37 < x.mem then b
  else
    let out := eccOutcome (b.pageValid x.mem x.page) x.ecc
    let b := b.storedRead v { mem := x.mem, page := x.page, word := x.word, ctx := x.ctx } 0 x.ecc
    if out = .uncorrectable then b.meetUncorrectable x else b

end Sys2Proof.Machine
end

