-- ==== Sys2Proof/Machine/Power.lean ====
section
/-! DEFINITION. Cold reset, the switched domains and engine power (R267, R273, R276, R278). -/

namespace Sys2Proof.Machine

open Sys2Proof.Config

/-- POWER_ON_RESET (R273, R276, R278): the cold state, with die_id and the straps sampled at the release of por_n.
The grade is fixed at synthesis (R2), and waiting commands are not the block's. -/
def execPowerOnReset (dieId : BitVec 64) (station : BitVec 6) (lanternOk makerEn : Bool) (s : State) :
    Host.Outcome State Fault Refusal :=
  .next { State.reset with
    aon := { State.reset.aon with
      grade := s.aon.grade, dieId := dieId, station := station, lanternOk := lanternOk, makerEn := makerEn }
    pending := s.pending }

/-- The switched domains of a grade in the order of R278 step 2 (Table 11.9). -/
def domainOrder (g : Grade) : List Nat :=
  [16, 18, 19] ++ (if g.hasRouter then [17] else []) ++ List.range g.reaches

/-- The domain that MC powers after `d`. -/
def nextDomain (d : Nat) : List Nat → Option Nat
  | x :: y :: r => if x = d then some y else nextDomain d (y :: r)
  | _ => none

/-- The power word of 20 domains with the bit of one set or cleared. -/
def setBit20 (x : BitVec 20) (d : Nat) (on : Bool) : BitVec 20 :=
  if on then x ||| (1#20 <<< d) else x &&& ~~~(1#20 <<< d)

/-- The front end powers up: it waits in BOOT_WAIT, with no image and nothing loaded since (R208, R372); its
memories' pages are not valid, and no request of it is outstanding. -/
def Blk.fePowerUp (b : Blk) : Blk :=
  ((b.modFe fun fe => { fe with
    fwState := .bootWait, fwReason := 0, fwAttempts := 0, cpInstr := [], cpData := [], hostOut := [], hostWait := []
    late := [] }).invalidate 34).invalidate 35

/-- Raise a power request. -/
def State.requestPower (s : State) (d : Nat) : State :=
  if s.aon.pdReq.getLsbD d then s
  else { s with aon := { s.aon with pdReq := setBit20 s.aon.pdReq d true }, blk := s.blk.emit (.powerReq d true) }

/-- DOMAIN_POWER_ACK (R276, R278): pd_ack of domain `d` rises or falls. A domain that is not requested does not rise;
after a rise its isolation and internal reset are released, and MC requests the next domain. After a fall that MC asked
for (R315) it requests the domain again. -/
def execDomainPowerAck (d : Nat) (level : Bool) (s : State) : Host.Outcome State Fault Refusal :=
  if !(domainOrder s.aon.grade).contains d || s.aon.pdAck.getLsbD d == level || (level && !s.aon.pdReq.getLsbD d) then
    .next s
  else if !level && s.aon.pdReq.getLsbD d then .fault .obligationBroken
  else
    let t := { s with aon := { s.aon with pdAck := setBit20 s.aon.pdAck d level } }
    if level then
      let t := if d = 16 then { t with blk := t.blk.fePowerUp } else t
      match nextDomain d (domainOrder s.aon.grade) with
      | some k => .next (t.requestPower k)
      | none => .next t
    else .next (t.requestPower d)

/-- ea_idle: the agent holds no word, run, item, send or pull (R267). -/
def Agent.idle (a : Agent) : Bool :=
  a.queue.isEmpty && a.pre.isNone && a.present.isNone && a.run.isNone && a.listWord.isNone && a.items.isEmpty
    && a.sends.isEmpty && a.pull == .none && a.cplHold.isEmpty && a.stalled.isNone

/-- The counters held in an engine's domain (R325). -/
def agentCounters : List Ctr :=
  [.busyClk, .shadowBusyClk, .holdStallClk, .heldBytesReleased, .heldBytesDiscarded, .syncOp, .gateClk, .syncSat,
   .censusShadowDiscard, .watchHitLost]

/-- ENGINE_POWER_GOOD (R267, R211, R309, R325): a fall takes the engine out of selection; after a rise the agent
rejoins at the first edge with local objects and counters zero and no fence. Power is not removed from an engine
whose ea_idle is low. -/
def execEnginePowerGood (e : Nat) (level : Bool) (s : State) : Host.Outcome State Fault Refusal :=
  if s.aon.grade.engines ≤ e then .next s
  else
    let a := s.blk.agent e
    if a.pwrGood = level then .next s
    else if !level && !a.idle then .fault .obligationBroken
    else onBlk s fun _ b =>
      if level then
        let b := b.modAgent e fun a => { a with pwrGood := true, joined := false, locals := [], fenced := false }
        { b with counters := agentCounters.foldl (fun t c => tdel t (ctrKey c e)) b.counters }
      else b.modAgent e fun a => { a with pwrGood := false, joined := false, bcast := {} }

end Sys2Proof.Machine
end

