-- ==== Sys2Proof/Machine/Tasks.lean ====
section
/-! DEFINITION. The task rules that many steps share: decrements and re-arms (R35-R39, R49, R86, R99), completions
and skips (R48, R55, R92-R95), predicate operations with commit and squash (R53, R142, R143), arming (R83), aborts
and returns (R115, R122, R383, R384). -/

namespace Sys2Proof.Machine

/-- A task that uses no engine: HOME, LAST, GROUP, CODE, PREEMPT and FILL are ignored (R40). -/
def Task.bare (x : Task) : Bool := x.kind == .marker || x.kind == .step || x.kind == .combineClose

/-! ## Entries of blocks that are not resident (R84-R87) -/

/-- The frame of a block of the loaded image. -/
def Ctx.frame (x : Ctx) (r seg vb : Nat) : Option Frame :=
  x.image.frames.find? fun f => f.reach == r && f.seg == seg && f.vblock == vb

def Blk.modFrame (b : Blk) (c r seg vb : Nat) (f : Frame → Frame) : Blk :=
  b.modCtx c fun x => { x with image := { x.image with
    frames := lreplace (fun g => g.reach == r && g.seg == seg && g.vblock == vb) f x.image.frames } }

/-- An entry as arming leaves it. -/
def Task.armed (loop : Bool) (launch : Option Task) (x : Task) : Task :=
  { x with state := .waiting, depcnt := x.depinit, cf := false, sk := false, ra := false, rf := false
           released := false, kept := 0
           iter := if loop then (launch.map Task.iter).getD x.iter else x.iter }

def armEntries (loop : Bool) (launch : Tbl Task) (es : Tbl Task) : Tbl Task :=
  es.map fun p => (p.1, p.2.armed loop (tget launch p.1))

/-- The entries a page-in brings: the live copy of this launch, or the launch copy armed. LAST is then that of the copy
(R71, R87; DEDUCED, log 139). -/
def Frame.pageEntries (epoch : Nat) (f : Frame) : Tbl Task :=
  match f.live with
  | some es => if f.epoch = epoch then es else armEntries f.loop f.launch f.launch
  | none => armEntries f.loop f.launch f.launch

/-- The live copy is of the launch that an epoch names. -/
def Frame.liveNow (epoch : Nat) (f : Frame) : Bool := f.live.isSome && f.epoch == epoch

/-- A block is that of a task. -/
def Block.isOf (t : TaskRef) (k : Block) : Bool := k.ctx == t.ctx && k.seg == t.seg && k.vblock == t.vblock

/-- The entry of a task whose block is not resident: of the block that is being paged out, or as a page-in would bring
it. -/
def Blk.away? (b : Blk) (t : TaskRef) : Option Task :=
  match (b.reach t.reach).pagingOut.find? fun p => p.2.isOf t with
  | some p => tget p.2.entries t.entry
  | none => ((b.ctx? t.ctx).bind fun x => x.frame t.reach t.seg t.vblock).bind fun f =>
      tget (f.pageEntries (b.epoch t.ctx)) t.entry

/-- Change the entry of a task whose block is not resident, in its live copy (R85, R86). -/
def Blk.modAway (b : Blk) (t : TaskRef) (f : Task → Task) : Blk :=
  let change (es : Tbl Task) : Tbl Task := match tget es t.entry with
    | some x => tput es t.entry (f x)
    | none => es
  if (b.reach t.reach).pagingOut.any (fun p => p.2.isOf t) then
    b.modReach t.reach fun rc => { rc with
      pagingOut := rc.pagingOut.map fun p => if p.2.isOf t then (p.1, { p.2 with entries := change p.2.entries }) else p }
  else b.modFrame t.ctx t.reach t.seg t.vblock fun g =>
    { g with live := some (change (g.pageEntries (b.epoch t.ctx))), epoch := b.epoch t.ctx }

/-- The entry of a task, wherever its block is. -/
def Blk.anyTask? (b : Blk) (t : TaskRef) : Option Task := (b.task? t).orElse fun _ => b.away? t

/-- Change the entry of a task, wherever its block is. -/
def Blk.modAny (b : Blk) (t : TaskRef) (f : Task → Task) : Blk :=
  if (b.task? t).isSome then b.modTask t f else b.modAway t f

/-- The gang head of a member (R42), wherever its block is; any other task is itself. -/
def Blk.headAny (b : Blk) (t : TaskRef) : TaskRef :=
  match b.anyTask? t with
  | some x => if x.isMember then t.minus x.gang.toNat else t
  | none => t

/-! ## Counts -/

/-- A task is to be faulted at the next edge; a gang member brings its whole gang (R42, R101). -/
def Blk.awaitFault (b : Blk) (t : TaskRef) : Blk :=
  let h := b.headAny t
  b.modReach h.reach fun rc => { rc with cfSet := if rc.cfSet.contains h then rc.cfSet else rc.cfSet ++ [h] }

/-- The count flag of a task becomes set, and the task is faulted at the next edge (R39, R101). -/
def Blk.setFlag (b : Blk) (t : TaskRef) : Blk := (b.modTask t fun x => { x with cf := true }).awaitFault t

/-- An excess decrement (R36). -/
def Blk.countFlag (b : Blk) (t : TaskRef) : Blk := (b.setFlag t).bump .excessDecrement t.reach

/-- A unit is discarded and counted (R99, R202). -/
def Blk.discard (b : Blk) (r : Nat) : Blk := b.bump .discardedUnit r

/-- Ask for a block's page-in (R86, R87), once. -/
def Blk.requestPage (b : Blk) (r c seg vb : Nat) : Blk :=
  b.modReach r fun rc =>
    if rc.pageReqs.any (fun q => q.ctx == c && q.seg == seg && q.vblock == vb) || (rc.find c seg vb).isSome
        || (rc.pagingIn.map (fun p => (p.ctx, p.seg, p.vblock))) == some (c, seg, vb) then rc
    else { rc with pageReqs := rc.pageReqs ++ [{ ctx := c, seg := seg, vblock := vb }] }

/-- The context works in backwater mode (R90). -/
def Blk.inBackwater (b : Blk) (c : Nat) : Bool := ((b.ctx? c).map Ctx.backwater).getD false

/-- What a unit adds to a ledger entry: its decrements, and whether it sets the skip bit. -/
def UnitKind.ledgered : UnitKind → Nat × Bool
  | .plain => (1, false)
  | .skip => (1, true)
  | .notice => (0, true)
  | .group _ | .rearm _ => (0, false)

/-- Deliver a unit to a block that is not resident: the spill ledger, a page-in for the block's first entry, and the
spill DMA when the ledger is full (R86). In backwater mode a retired block or a full ledger tears the context down
(R90). -/
def Blk.ledgerAdd (b : Blk) (t : TaskRef) (u : UnitKind) : Blk :=
  let rc := b.reach t.reach
  let bw := b.inBackwater t.ctx
  let retired := (((b.ctx? t.ctx).bind fun x => x.frame t.reach t.seg t.vblock).map Frame.retired).getD false
  let n := u.ledgered
  if bw && retired then b.tearDown t.ctx stContextFault
  else if rc.ledger.any (fun l => l.ref == t) then
    b.modReach t.reach fun rc => { rc with
      ledger := lreplace (fun l => l.ref == t)
        (fun l => { l with count := l.count + n.1, skip := l.skip || n.2 }) rc.ledger }
  else if rc.ledger.length < 4096 then
    let first := !rc.ledger.any (fun l => l.ref.ctx == t.ctx && l.ref.seg == t.seg && l.ref.vblock == t.vblock)
    let b := b.modReach t.reach fun rc => { rc with ledger := rc.ledger ++ [{ ref := t, count := n.1, skip := n.2 }] }
    if first && !bw then b.requestPage t.reach t.ctx t.seg t.vblock else b
  else if bw then b.tearDown t.ctx stContextFault
  else b.modReach t.reach fun rc => { rc with rmw := rc.rmw ++ [{ kind := u, target := t }] }

/-- What a decrement does to a task entry. -/
inductive DecResult where
  | applied (x : Task)
  | excess
  | discarded

/-- A decrement to a task entry, by its STATE (R35, R36, R37, R55, R99); `aborted`: R202 discards units to the
idle tasks of this launch. -/
def Task.decremented (x : Task) (skip aborted : Bool) : DecResult :=
  match x.state with
  | .faulted => .discarded
  | .waiting =>
    if x.depcnt = 0 then .excess else .applied { x with depcnt := x.depcnt - 1, sk := x.sk || skip }
  | .idle => if aborted then .discarded else .excess
  | .ready | .dispatched | .shadow | .done | .skipped =>
    if !x.loop || x.depcnt == 0xFFFF then .excess else .applied { x with depcnt := x.depcnt + 1 }

/-- What becomes of a unit at its target (R36, R99). -/
inductive Fate where
  | applied | excess | discarded
deriving DecidableEq, Repr

/-- A decrement to a task in the task store. -/
def Blk.decrementAt (b : Blk) (t : TaskRef) (x : Task) (skip : Bool) : Blk × Fate :=
  match x.decremented skip (b.launchAborted t.ctx) with
  | .applied y => (b.modTask t fun _ => y, .applied)
  | .excess => (b.countFlag t, .excess)
  | .discarded => (b, .discarded)

/-- A resident block has retired (R90). -/
def Block.isRetired (k : Block) : Bool :=
  k.entries.all fun p => (p.2.state == .done || p.2.state == .skipped) && !p.2.ra && !(p.2.loop && p.2.iter != 0)

/-- A decrement, or a skip decrement, delivered to a task (R99); one to a retired block of a context in backwater mode
tears the context down (R90). -/
def Blk.decrement (v : Env) (t : TaskRef) (skip : Bool) (b : Blk) : Blk × Fate :=
  if b.torn t.ctx then (b, .discarded)
  else match b.locate t with
    | .away => if b.launchAborted t.ctx then (b, .discarded) else (b.ledgerAdd t (if skip then .skip else .plain), .applied)
    | .unused => ((b.bump .excessDecrement t.reach).tearDown t.ctx stSaturated, .excess)
    | .at _ bl x =>
      if b.inBackwater t.ctx && bl.isRetired then (b.tearDown t.ctx stContextFault, .discarded)
      else (b.touchBlock v t).decrementAt t x skip

/-- The entry after a re-arm (R48); none if the bank exceeds the new count. -/
def Task.rearmed (x : Task) (rf : Bool) : Option Task :=
  let bank := x.depcnt.toNat + b2n rf
  if x.depinit.toNat < bank then none
  else some { x with state := .waiting, sk := false, ra := false, rf := false, kept := 0
                     depcnt := BitVec.ofNat 16 (x.depinit.toNat - bank) }

/-- Re-arm a task, or set its count flag (R48). -/
def Blk.rearm (b : Blk) (t : TaskRef) (rf : Bool) : Blk :=
  match b.task? t with
  | none => b
  | some x => match x.rearmed rf with
    | some y => (b.setState t .waiting).modTask t fun _ => y
    | none => b.setFlag t

/-- A re-arm delivered to a task (R49, R99). -/
def Blk.applyRearm (t : TaskRef) (rf : Bool) (b : Blk) : Blk × Fate :=
  if b.torn t.ctx then (b, .discarded)
  else match b.locate t with
    | .away => (b, .applied)
    | .unused => ((b.bump .excessDecrement t.reach).tearDown t.ctx stSaturated, .excess)
    | .at _ _ x =>
      if x.state == .faulted then (b, .discarded)
      else if x.iter = 0 then (b, .applied)
      else match x.state with
        | .done | .skipped => (b.rearm t rf, .applied)
        | .ready | .dispatched | .shadow =>
          if x.ra then (b.countFlag t, .excess) else (b.modTask t fun x => { x with ra := true, rf := rf }, .applied)
        | .idle => if b.launchAborted t.ctx then (b, .discarded) else (b.countFlag t, .excess)
        | .waiting | .faulted => (b.countFlag t, .excess)

/-- A skip notice that waited for its tile's block: the mark of R164. -/
def Blk.applyNotice (b : Blk) (t : TaskRef) : Blk :=
  b.modTask t fun x => if x.state == .waiting then { x with sk := true } else x

/-- A group delivery: the block after its decrements, and how many entries it decremented (R46). -/
def Blk.decrementRun (v : Env) (t : TaskRef) (len : Nat) (b : Blk) : Blk × Nat :=
  (List.range (len + 1)).foldl (fun a i =>
    let d := a.1.decrement v (t.plus i) false
    (d.1, a.2 + b2n (d.2 == .applied))) (b, 0)

/-- What a crossbar unit does at its target (R45, R46, R99). A group delivery is discarded with its context as one
unit. -/
def Blk.unitEffect (v : Env) (u : XUnit) (b : Blk) : Blk × Fate :=
  match u.kind with
  | .plain => b.decrement v u.target false
  | .skip => b.decrement v u.target true
  | .group len =>
    if b.torn u.target.ctx then (b, .discarded)
    else
      let d := b.decrementRun v u.target len
      (d.1.bump .groupEntry u.target.reach d.2, .applied)
  | .rearm rf => b.applyRearm u.target rf
  | .notice => (b.applyNotice u.target, .applied)

/-- Apply a unit, and count it as applied or as discarded (Table 4.9). -/
def Blk.applyUnit (v : Env) (u : XUnit) (b : Blk) : Blk :=
  let c := b.unitEffect v u
  match c.2 with
  | .applied => c.1.bump .unitsApplied u.target.reach
  | .excess => c.1
  | .discarded => c.1.discard u.target.reach

/-- A single decrement that the router delivers at an edge (R168). -/
def Blk.edgeDecrement (v : Env) (t : TaskRef) (b : Blk) : Blk := b.applyUnit v { kind := .plain, target := t }

/-- A single decrement that the hub delivers in a pulse (R229): it arrives with the pulse's units, so that a re-arm of
the same target goes before it (R99). -/
def Blk.hubDecrement (t : TaskRef) (b : Blk) : Blk :=
  b.modReach t.reach fun rc => { rc with arrivals := rc.arrivals ++ [{ kind := .plain, target := t }] }

/-! ## Completions and skips -/

/-- RUN-scope channels end with their task (R236). -/
def Blk.freeRunChannels (b : Blk) (t : TaskRef) : Blk :=
  b.modHb fun h => h.freeChannels fun _ c => !c.persist && (c.recvEnd.map ChEnd.ref) == some t

/-- The queue of a launch sees a completion of it (R204), and END_TASK's completion (R192); the members of a gang
complete with their head (R42). -/
def Blk.noteLaunch (b : Blk) (t : TaskRef) (ending : Bool) : Blk :=
  match (b.ctx? t.ctx).bind Ctx.launchQueue with
  | none => b
  | some q =>
    let n := ((b.ctx? t.ctx).map Ctx.launchCount).getD 0
    let gang := match b.task? t with
      | some x => if x.kind == .gang && x.gangHead then x.gang.toNat else 1
      | none => 1
    let ends (id : Nat) : Bool := (List.range gang).any fun m => (t.plus m).id.toNat == id
    b.modQueue q fun u => { u with
      progress := true
      started := u.started.map fun s =>
        match s.phase with
        | .launched k false =>
          if ending && k == n && ends (dField s.desc 0x10 4) then { s with phase := .launched k true } else s
        | _ => s }

/-- The bank that a LOOP task kept in the zero set counts again once it leaves STATE waiting (R37; log 113). -/
def Task.takeBank (x : Task) : Task := { x with depcnt := x.depcnt + x.kept, kept := 0 }

/-- A completion applied with status OK or SKIPPED: STATE, ITER, the COMPLETE record, the backlog record, and a
pending re-arm right after (R48, R49, R55, R92, R94). `engine`: whose word completes it, for the trace (Table 14.7). -/
def Blk.finishTask (v : Env) (t : TaskRef) (skipped : Bool) (aux : Nat) (b : Blk) (engine : Nat := 0xFFFF) : Blk :=
  match b.task? t with
  | none => b
  | some x =>
    let iter := if x.loop && x.iter != 0 then x.iter - 1 else x.iter
    let continuing := x.loop && !skipped && iter != 0
    let status := if skipped then stSkipped else stOk
    let b := (b.setState t (if skipped then .skipped else .done)).modTask t fun x => { x.takeBank with iter := iter }
    let b := b.stage t.reach { type := .complete, ctx := t.ctx, status := status, epoch := b.epoch t.ctx
                               ending := x.loop && !continuing, gang := x.kind == .gang, id := t.id
                               aux := BitVec.ofNat 32 aux }
    let rec_ : Backlog := { ref := t, skipped := skipped, continuing := continuing, succPtr := x.succPtr.toNat
                            succN := x.succN.toNat
                            portal := if x.kind == .marker && x.argPtr != 0xFFFFFFFF then some x.argPtr else none }
    let b := b.modReach t.reach fun rc =>
      { (rc.unlist t).dropRecords t with backlog := rc.backlog ++ [rec_] }
    let b := ((b.ctxBump t.ctx (if skipped then 0x010 else 0x008)).traceTask v 2 0 t (engine := engine) (status := status)
      (aux := BitVec.ofNat 64 v.n)).noteLaunch t (!continuing)
    let b := b.freeRunChannels t
    if x.ra then
      let b := b.modTask t fun x => { x with ra := false, rf := false }
      if iter = 0 then b else b.rearm t x.rf
    else b

/-- What a task fault brings beside STATE: a COMPLETE record with the status, and the teardown of its context
(Table 2.4, R39, R53). -/
def Blk.faultRecord (v : Env) (t : TaskRef) (gang : Bool) (status : BitVec 8) (aux engine : Nat) (b : Blk) : Blk :=
  let b := b.stage t.reach { type := .complete, ctx := t.ctx, status := status, epoch := b.epoch t.ctx
                             gang := gang, id := t.id, aux := BitVec.ofNat 32 aux }
  let b := (b.modReach t.reach fun rc => rc.unlist t).ctxBump t.ctx 0x018
  (((b.traceTask v 2 0 t (engine := engine) (status := status) (aux := BitVec.ofNat 64 v.n)).noteLaunch t false).freeRunChannels
    t).tearDown t.ctx status

/-- STATE faulted for a task, and with a gang head for its members (R42), wherever their blocks are. -/
def Blk.faultState (t : TaskRef) (x : Task) (b : Blk) : Blk :=
  b.forEach (List.range (if x.kind == .gang && x.gangHead then x.gang.toNat else 1)) fun m b =>
    b.modAny (t.plus m) fun y => { y with state := .faulted }

/-- A task fault (Table 2.4). -/
def Blk.faultTask (v : Env) (t : TaskRef) (status : BitVec 8) (aux : Nat) (b : Blk) (engine : Nat := 0xFFFF) : Blk :=
  match b.anyTask? t with
  | none => b
  | some x => (b.faultState t x).faultRecord v t (x.kind == .gang) status aux engine

/-- The fault of a task whose count flag was set (R39, R101). -/
def Blk.faultFlagged (v : Env) (t : TaskRef) (b : Blk) : Blk :=
  if b.torn t.ctx || (b.anyTask? t).any (fun x => x.state == .faulted) then b else b.faultTask v t stSaturated 0

/-- A backlog record fits (R95). -/
def Blk.backlogFits (b : Blk) (r : Nat) : Bool := decide ((b.reach r).backlog.length < 65536)

/-- The bytes that a completion word reports (R328). -/
def Blk.countBytes (b : Blk) (c : Nat) (w : BitVec 128) : Blk :=
  ((((((((b.ctxBump c 0x050 (cplSram w)).ctxBump c 0x058 (cplDev w)).ctxBump c 0x060 (cplHost w)).ctxBump c 0x068
    (cplFab w)).ctxBump c (0x070 + 8 * cplLink w) (cplFab w)).bump .bytesSram 0 (cplSram w)).bump .bytesDev 0
    (cplDev w)).bump .bytesHost 0 (cplHost w)).bump .bytesFab (cplLink w) (cplFab w)

/-- Number a signal on its stream and enter it in the outstanding table, with its SEND record (R224, R225). -/
def Blk.sendSignal (v : Env) (place ctx : Nat) (s : RsigBlk) (round : BitVec 16) (b : Blk) : Blk :=
  let rec_ := tgetD {} b.hb.streams s.stream.toNat
  let issued := rec_.issued + s.n
  let pkt : Signal := { kind := s.kind, epoch := rec_.epoch, ctx := s.ctx, stream := s.stream, src := v.node
                        dst := s.dstNode, round := round, seq := rec_.nextSeq, expect := issued
                        target := s.target, value := s.value }
  let b := b.modHb fun h => { h with
    streams := tput h.streams s.stream.toNat { rec_ with nextSeq := rec_.nextSeq + 1, issued := issued } }
  let b := b.stage place
    { type := .send, ctx := ctx, epoch := rec_.epoch.toNat
      id := BitVec.ofNat 32 (s.stream.toNat + fieldAt 16 s.dstNode.toNat), aux := rec_.nextSeq
      second := some (BitVec.ofNat 128 (issued.toNat + fieldAt 32 s.target.toNat + fieldAt 64 s.value.toNat
        + fieldAt 96 round.toNat + fieldAt 112 ctx)), desc := (signalBits pkt).setWidth 512 }
  b.modHb fun h => { h with outstanding := h.outstanding ++
    [{ ctx := ctx, stream := s.stream, dst := s.dstNode, epoch := rec_.epoch, seq := rec_.nextSeq
       packet := signalBits pkt, ticket := b.lastTicket, sentAt := none }] }

/-- Add a run's census to its context's, with saturation (R335). -/
def CensusFmt.add (f : CensusFmt) (p : Nat × Nat × Nat × Nat) : CensusFmt :=
  let a := countW 48 f.values p.1
  let o := countW 32 f.ovf p.2.1
  let n := countW 32 f.van p.2.2.1
  let k := countW 32 f.nan p.2.2.2
  { values := a.1, ovf := o.1, van := n.1, nan := k.1
    sat := f.sat ||| BitVec.ofNat 4 (b2n a.2 + 2 * b2n o.2 + 4 * b2n n.2 + 8 * b2n k.2) }

def Blk.addCensus (b : Blk) (c : Nat) (l : List (Nat × (Nat × Nat × Nat × Nat))) : Blk :=
  b.modDb fun d => { d with
    census := tmod [] d.census c fun t => l.foldl (fun t p => tmod {} t p.1 (fun f => f.add p.2)) t }

/-- The gate of a census (R335 step 2): every counted kind of every format in the mask is zero and unsaturated. -/
def censusGate (t : Tbl CensusFmt) (fmask : BitVec 16) (kmask : BitVec 3) : Bool :=
  (List.range 11).all fun f =>
    let x := tgetD {} t f
    !fmask.getLsbD f
      || ((!kmask.getLsbD 0 || (x.ovf == 0 && !x.sat.getLsbD 1))
        && (!kmask.getLsbD 1 || (x.van == 0 && !x.sat.getLsbD 2))
        && (!kmask.getLsbD 2 || (x.nan == 0 && !x.sat.getLsbD 3)))

/-- The census record (Table 14.6). -/
def censusRecord (t : Tbl CensusFmt) (period edge slot result : Nat) (fmask : BitVec 16) (kmask : BitVec 3) :
    List Byte :=
  leBytes 8 period ++ leBytes 8 edge ++ leBytes 2 slot ++ leBytes 1 result ++ leBytes 1 0
    ++ leBytes 2 fmask.toNat ++ leBytes 1 kmask.toNat ++ leBytes 9 0
    ++ (List.range 11).flatMap (fun f =>
        let x := tgetD {} t f
        leBytes 8 x.values ++ leBytes 4 x.ovf ++ leBytes 4 x.van ++ leBytes 4 x.nan ++ leBytes 1 x.sat.toNat
          ++ leBytes 3 0)
    ++ leBytes 24 0

/-- Close a census period (R335): the record, the gate's resolution for the next edge, the counts to zero. -/
def Blk.closeCensus (v : Env) (c : Nat) (p : BitVec 12 × BitVec 16 × BitVec 3 × BitVec 64) (b : Blk) : Blk :=
  let t := tgetD [] b.db.census c
  let period := tgetD 0 b.db.periods c + 1
  let slot := p.1.toNat
  let gate := censusGate t p.2.1 p.2.2.1
  let result := if slot = 0 then 0 else if gate then 1 else 2
  let b := if p.2.2.2 = 0 then b
    else b.emit (.dmWrite p.2.2.2 (censusRecord t period v.n slot result p.2.1 p.2.2.1))
  let b := if slot = 0 then b
    else { b with predNext := b.predNext ++
      [{ ctx := c, slot := slot, op := if gate then .resolveTrue else .resolveFalse, record := true }] }
  let b := b.modDb fun d => { d with census := tdel d.census c, periods := tput d.periods c period }
  (b.bump .censusClose).trace v true
    { edge := v.n, type := 15, sub := result, ctx := c, id := BitVec.ofNat 32 slot, range := b.range c
      aux := BitVec.ofNat 64 period }

/-- What a run's completion brings beside its task's: bytes, pended signals, census (R222, R328, R335). -/
def Blk.runEffects (v : Env) (t : TaskRef) (c : Cpl) (b : Blk) : Blk :=
  let b := b.countBytes t.ctx c.word
  let b := b.forEach c.rsig fun s b => b.sendSignal v t.reach t.ctx s 0
  if cplStatus c.word ≠ stOk then b
  else
    let b := b.addCensus t.ctx c.census
    match c.close with
    | some p => b.closeCensus v t.ctx p
    | none => b

/-- Raise the predicate operation of a completion word for this edge (R53). -/
def Blk.wordPred (b : Blk) (c : Nat) (w : BitVec 128) (record : Bool) : Blk :=
  match cplPop w with
  | some op => { b with predOps := b.predOps ++ [{ ctx := c, slot := cplSlot w, op := op, record := record }] }
  | none => b

/-- Whether a completion fits (R95, R224, R299): backlog when it finishes its task, outstanding-table entries, journal
slots for its COMPLETE record, the PRED record of a tile's or member's operation and two for each signal; the counters
that its hold-over raises otherwise. -/
def Blk.wordFits (v : Env) (b : Blk) (r sigs : Nat) (finishes : Bool) (pred : Bool := false) : Bool × List Ctr :=
  let bl := !finishes || b.backlogFits r
  let tab := decide (b.hb.outstanding.length + sigs ≤ 4096)
  let jn := b.journalFits v (1 + b2n pred + 2 * sigs)
  (bl && tab && jn, (if bl then [] else [.holdOver]) ++ (if tab then [] else [.rsTableFull])
    ++ (if jn then [] else [.jnlFullStall]))

/-- POP and PSLOT as a COMPLETE record holds them (Table 13.4). -/
def popAux (w : BitVec 128) : Nat := cplSlot w + fieldAt 12 (((cplPop w).map PredOp.code).getD 0)

/-- Apply a landed completion word (R41, R42, R92, R101, R119); none if it is held over. -/
def Blk.applyWord (v : Env) (c : Cpl) (b : Blk) : Option Blk × List Ctr :=
  let t := b.headOf c.ref
  let r := t.reach
  match b.task? t with
  | none => (some (b.discard r), [])
  | some x =>
    let active := x.state == .dispatched || (x.state == .ready && x.kind == .list)
    if !active || (b.reach r).cfSet.contains t then (some (b.discard r), [])
    else
      let status := cplStatus c.word
      let tileDone := ((b.reach r).listRec t).map ListRec.done
      let left := (((b.reach r).members.find? (fun m => m.1 == t)).map (·.2)).getD []
      let finishes := match x.kind with
        | .list => (tileDone.getD 0) + 1 == x.tiles.toNat
        | .gang => (left.filter (· != c.engine)).isEmpty
        | _ => true
      let multi := x.kind == .list || x.kind == .gang
      let fits := b.wordFits v r c.rsig.length (finishes && status == stOk)
        (multi && status == stOk && (cplPop c.word).isSome)
      if !fits.1 then (none, fits.2)
      else
        if status ≠ stOk then
          (some ((b.faultTask v t status (if multi then 0 else popAux c.word) (engine := c.engine)).runEffects v t c), [])
        else
          let b := b.modReach r fun rc => match x.kind with
            | .list => rc.modRec t fun l => { l with done := l.done + 1 }
            | .gang => { rc with
                members := lreplace (fun m => m.1 == t) (fun m => (m.1, m.2.filter (· != c.engine))) rc.members }
            | _ => rc
          let b := b.wordPred t.ctx c.word multi
          let b := if finishes then b.finishTask v t false (if multi then 0 else popAux c.word) (engine := c.engine)
            else b.noteLaunch t false
          (some (b.runEffects v t c), [])

/-- Apply a router skip notice (R164); none if it is held over. It is discarded for a tile that is faulted at this edge
(R101). One for a tile whose block is not resident waits in the spill ledger, as a skip without a decrement (log 114). -/
def Blk.applySkipNote (v : Env) (t : TaskRef) (b : Blk) : Option Blk × List Ctr :=
  match b.task? t with
  | none => (some (match b.locate t with
      | .away => if b.torn t.ctx || b.launchAborted t.ctx then b else b.ledgerAdd t .notice
      | _ => b), [])
  | some x =>
    if (b.reach t.reach).cfSet.contains t then (some (b.discard t.reach), [])
    else if x.state == .ready || (x.state == .waiting && x.depcnt == 0) then
      let fits := b.wordFits v t.reach 0 true
      if fits.1 then (some (b.finishTask v t true 0), []) else (none, fits.2)
    else if x.state == .waiting then (some (b.modTask t fun x => { x with sk := true }), [])
    else (some b, [])

/-- A completion that comes from no engine (R44, R130, R254): marker, step or combine-close. -/
def Blk.applySelf (v : Env) (t : TaskRef) (b : Blk) : Option Blk × List Ctr :=
  match b.task? t with
  | none => (some b, [])
  | some x =>
    if x.state != .dispatched || (b.reach t.reach).cfSet.contains t then (some (b.discard t.reach), [])
    else
      let fits := b.wordFits v t.reach 0 true
      if !fits.1 then (none, fits.2)
      else
        let b := b.finishTask v t false 0
        if x.kind == .combineClose then
          (some (b.modHb fun h => { h with cqs := h.cqs.filter fun p => p.2.closer != some t }), [])
        else (some b, [])

/-- Apply the fault of a flagged task (R101); none if the journal has no room for its record (R299). -/
def Blk.applyFlagged (v : Env) (t : TaskRef) (b : Blk) : Option Blk × List Ctr :=
  if b.journalFits v 1 then
    (some ((b.faultFlagged v t).modReach t.reach fun rc => { rc with cfSet := rc.cfSet.filter (· != t) }), [])
  else (none, [.jnlFullStall])

/-- Apply one completion, or hold it over. -/
def Blk.applyArrival (v : Env) (x : Arrival) (b : Blk) : Option Blk × List Ctr :=
  match x with
  | .word c => b.applyWord v c
  | .skip t => b.applySkipNote v t
  | .own t => b.applySelf v t
  | .flagged t => b.applyFlagged v t

/-- Count a completion that is held over, by what it does not fit (R95, R224, R299); the backlog's count is the
reach's. -/
def Blk.countHeld (r : Nat) (why : List Ctr) (b : Blk) : Blk :=
  why.foldl (fun b c => b.bump c (if c == .holdOver then r else 0)) b

/-- The completions of an edge in order until the first that does not fit: the block, and whether one was held over.
What is held over stays ahead of what lands in the next pulse (R95). -/
def Blk.applyInOrder (v : Env) (r : Nat) : List Arrival → Blk → Blk × Bool
  | [], b => (b, false)
  | x :: xs, b =>
    match b.applyArrival v x with
    | (some c, _) => c.applyInOrder v r xs
    | (none, why) =>
      let b := b.forEach (x :: xs) fun _ b => b.countHeld r why
      (b.modReach r fun rc => { rc with landed := x :: xs }, true)

/-- The completions of reach `r` at an edge, in the order of R92: what landed, then completions from no engine, then the
faults of flagged tasks. -/
def Reach.arrivalsInOrder (rc : Reach) : List Arrival :=
  let waits (t : TaskRef) : Bool := rc.landed.any fun x => match x with | .flagged u => u == t | _ => false
  rc.landed ++ (lsort TaskRef.order rc.selfDone).map .own
    ++ (lsort TaskRef.order (rc.cfSet.filter fun t => !waits t)).map .flagged

/-- The completions stage of reach `r` (R92, R95, R101). -/
def Blk.applyCompletions (v : Env) (b : Blk) (r : Nat) : Blk × Bool :=
  let xs := (b.reach r).arrivalsInOrder
  (b.modReach r fun rc => { rc with landed := [], selfDone := [] }).applyInOrder v r xs

/-! ## Predicate operations (R53, R93, R134, R142, R143) -/

/-- Commit a shadow task at a resolution (R142). -/
def Blk.commit (v : Env) (t : TaskRef) (b : Blk) : Blk :=
  match b.task? t with
  | none => b
  | some x =>
    let rc := b.reach t.reach
    let engines := ((rc.shadowRecs.find? (fun s => s.ref == t)).map ShadowRec.engines).getD []
    let last := (engines.foldl (fun (acc : Nat × Nat) p => if acc.1 ≤ p.1 then (p.1, p.2) else acc) (0, x.last.toNat)).2
    let b := b.modTask t fun x => { x with state := .dispatched, last := BitVec.ofNat 11 last }
    let b := b.modReach t.reach fun rc => { rc with
      shadowRecs := rc.shadowRecs.filter (fun s => s.ref != t)
      committing := if x.kind = .list then rc.committing ++ [t] else rc.committing }
    let b := b.forEach engines fun p b => b.modAgent p.2 fun a => { a with inCommits := a.inCommits ++ [t] }
    ((b.bump .shadowCommit t.reach).ctxBump t.ctx 0x038).traceTask v 3 0 t (shadow := true)

/-- Squash a shadow task at a resolution (R143); its skip is applied with those of the readiness test (R92). -/
def Blk.squash (v : Env) (t : TaskRef) (b : Blk) : Blk :=
  let rc := b.reach t.reach
  let engines := ((rc.shadowRecs.find? (fun s => s.ref == t)).map ShadowRec.engines).getD []
  let b := b.modTask t fun x => { x with state := .skipped }
  let b := b.modReach t.reach fun rc => { rc with
    shadowRecs := rc.shadowRecs.filter (fun s => s.ref != t), squashed := rc.squashed ++ [t] }
  let b := b.forEach engines fun p b => b.modAgent p.2 fun a => { a with inSquashes := a.inSquashes ++ [t] }
  ((b.bump .shadowSquash t.reach).ctxBump t.ctx 0x040).traceTask v 3 1 t (shadow := true)

/-- Resolve an unknown slot: its value and history in all reaches, then every shadow task it gates. -/
def Blk.resolve (v : Env) (c slot : Nat) (value : Bool) (b : Blk) : Blk :=
  let b := { b with preds := tput b.preds (c * 4096 + slot) (some value)
                    history := tput b.history (c * 4096 + slot) (if value then .lastTrue else .lastFalse) }
  let gated := (List.range v.reaches).flatMap fun r =>
    lsort (fun p => TaskRef.order p.1) ((b.reach r).tasks r |>.filter fun p =>
      p.1.ctx == c && p.2.state == .shadow && p.2.pred.toNat == slot)
  b.forEach gated fun p b => if p.2.pol == value then b.commit v p.1 else b.squash v p.1

/-- Apply one predicate operation (R53). -/
def Blk.applyPred (v : Env) (m : PredMsg) (b : Blk) : Blk :=
  let b := if m.record then
      b.stage 18 { type := .pred, ctx := m.ctx, epoch := b.epoch m.ctx, id := BitVec.ofNat 32 m.slot
                   aux := BitVec.ofNat 32 m.op.code }
    else b
  if m.slot = 0 then b
  else match m.op with
    | .clear => { b with preds := tdel b.preds (m.ctx * 4096 + m.slot) }
    | .resolveTrue | .resolveFalse =>
      let value := m.op == .resolveTrue
      match b.pred m.ctx m.slot with
      | none => b.resolve v m.ctx m.slot value
      | some old => if old = value then b else b.tearDown m.ctx stContextFault

/-- The predicate stage of an edge: all clears before any resolution (R93). -/
def Blk.predStage (v : Env) (b : Blk) : Blk :=
  let ops := b.predOps
  let b := { b with predOps := [] }
  let b := b.forEach (ops.filter (fun m => m.op == .clear)) fun m b => b.applyPred v m
  b.forEach (ops.filter (fun m => m.op != .clear)) fun m b => b.applyPred v m

/-! ## Arming (R83) -/

/-- Arm every resident block of a context, raise its launch count, and ask for its ROOTS blocks (R83, R87). ITER of a LOOP
block is not read back through a spill DMA that has halted (R89; log 146). -/
def Blk.armContext (v : Env) (c : Nat) (b : Blk) : Blk :=
  let frames := ((b.ctx? c).map (fun x => x.image.frames)).getD []
  let bw := b.inBackwater c
  let b := b.modCtx c fun x => { x with
    launchCount := x.launchCount + 1, closedLaunch := false, armEdge := v.n }
  let epoch := b.epoch c
  let stale (x : Arrival) : Bool := match x with | .flagged t => t.ctx == c | _ => false
  let b := b.forEach (List.range v.reaches) fun r b => b.modReach r fun rc => { rc with
    blocks := rc.blocks.map fun p =>
      if p.2.ctx = c then
        let launch := if rc.spillHalted then [] else
          ((frames.find? (fun f => f.reach == r && f.seg == p.2.seg && f.vblock == p.2.vblock)).map Frame.launch).getD []
        (p.1, { p.2 with entries := armEntries p.2.loop launch p.2.entries, epoch := epoch })
      else p
    cfSet := rc.cfSet.filter (fun t => t.ctx != c), landed := rc.landed.filter (fun x => !stale x) }
  if bw then b
  else b.forEach (frames.filter Frame.roots) fun f b => b.requestPage f.reach c f.seg f.vblock

/-- A context was armed at this edge: what it armed is first tested at the next (R35). -/
def Blk.armedNow (v : Env) (b : Blk) (c : Nat) : Bool := ((b.ctx? c).map fun x => x.armEdge == v.n).getD false

/-! ## Aborts and returns at an edge (R122, Table 5.4) -/

/-- An agent holds a word, run, item or unreported completion of a task. -/
def Blk.holds (b : Blk) (a : Agent) (t : TaskRef) : Bool :=
  let is (d : DWord) : Bool := b.headOf d.ref == t
  a.queue.any is || a.inWords.any is || (a.pre.map is).getD false || (a.present.map is).getD false
    || (a.run.map (fun r => is r.dw)).getD false || (a.listWord.map is).getD false
    || a.items.any (fun i => i.1 == t) || (a.stalled.map (·.1)) == some t || a.outCpl.any (fun c => b.headOf c.ref == t)
    || a.cplHold.any (fun c => b.headOf c.ref == t) || a.outReturns.any (fun x => b.headOf x.ref == t)

def Blk.holders (v : Env) (b : Blk) (t : TaskRef) : List Nat :=
  (b.agents.filter fun p => decide (p.1 < v.engines) && b.holds p.2 t).map (·.1)

/-- A task goes to idle: its DEPCNT is then undefined (Table 2.3), a free value (log 4). -/
def Blk.toIdle (b : Blk) (t : TaskRef) : Blk :=
  let w := (b.free).setWidth 16
  ((((b.setState t .idle).modTask t fun x => { x with depcnt := w, cf := false, sk := false, ra := false, kept := 0 }).modReach
    t.reach fun rc => (rc.unlist t).dropRecords t).freeRunChannels t).spend

/-- Send abort requests to every agent that holds a word or run of a task (Table 5.4). A dispatched task that no agent
holds, such as a step that waits or a combine-close, has no reply to wait for: its result is reported at the next edge
(DESIGN CHOICE, log 144). -/
def Blk.abortAgents (v : Env) (t : TaskRef) (why : AbortWhy) (b : Blk) : Blk :=
  let es := b.holders v t
  let b := b.forEach es fun e b => b.modAgent e fun a => { a with inAborts := a.inAborts ++ [(t, why)] }
  b.modReach t.reach fun rc =>
    if rc.abortRecs.any (fun a => a.ref == t) then rc
    else { rc with abortRecs := rc.abortRecs ++ [{ ref := t, waiting := es, row := if es.isEmpty then 4 else 5 }] }

/-- An agent aborts an active run of a task whose abort is outstanding. -/
def Blk.runAborted (t : TaskRef) (b : Blk) : Blk :=
  b.modReach t.reach fun rc => { rc with
    abortRecs := lreplace (fun a => a.ref == t) (fun a => { a with row := 6 }) rc.abortRecs }

/-- Apply an abort to a task by its STATE (Table 5.4). An abort is traced once, with its outcome (Table 14.8). -/
def Blk.applyAbort (v : Env) (t : TaskRef) (why : AbortWhy) (b : Blk) : Blk :=
  match b.task? t with
  | none => b
  | some x =>
    if x.isMember then b
    else match x.state with
    | .done | .skipped => (b.bump .abortAlreadyDone t.reach).traceTask v 5 0 t (status := stAlreadyDone)
    | .idle => b.traceTask v 5 1 t
    | .faulted => b.traceTask v 5 2 t (status := stContextFault)
    | .waiting | .ready => (b.toIdle t).traceTask v 5 3 t
    | .dispatched | .shadow => b.abortAgents v t why

/-- Report the aborts whose last reply has landed (R122). A LOOP task that completed and was re-armed meanwhile reports OK
and goes to idle, and one that faulted reports nothing here (DESIGN CHOICE, log 115). -/
def Blk.reportAborts (v : Env) (r : Nat) (b : Blk) : Blk :=
  let replies := (b.reach r).repliesIn
  let b := b.modReach r fun rc => { rc with
    repliesIn := []
    abortRecs := rc.abortRecs.map fun a =>
      { a with waiting := a.waiting.filter fun e => !replies.contains (a.ref, e) } }
  let due := (b.reach r).abortRecs.filter (fun a => a.waiting.isEmpty)
  let b := b.modReach r fun rc => { rc with abortRecs := rc.abortRecs.filter (fun a => !a.waiting.isEmpty) }
  b.forEach due fun a b =>
    match b.task? a.ref with
    | none => b
    | some x =>
      match x.state with
      | .done | .skipped =>
        (b.bump .abortAlreadyDone r).traceTask v 5 7 a.ref (status := stAlreadyDone)
      | .faulted => b
      | _ => ((b.traceTask v 5 a.row a.ref (shadow := x.state == .shadow)).modCtx a.ref.ctx fun c => { c with
          requests := c.requests.filter (· != a.ref) }).toIdle a.ref

/-- Put a task back at the head of its ready list (R106). -/
def Blk.returnHead (v : Env) (t : TaskRef) (b : Blk) : Blk :=
  (b.setState t .ready).modTask t (fun x => { x with readyEdge := v.n }) |>.modReach t.reach fun rc =>
    { rc.unlist t with returning := (rc.unlist t).returning ++ [t] }

/-- Return tiles to the pool (R116). -/
def Reach.addTiles (rc : Reach) (t : TaskRef) (tiles : List Nat) : Reach :=
  { rc with pool := rc.pool ++ tiles.map (fun k => (t, k)) }

/-- Count and trace an applied pre-emption notice (R115, R147, Table 14.8): that of a shadow run among the shadow
counters and with the shadow mark. A refusal is counted where it happened. -/
def Blk.countPreempt (v : Env) (t : TaskRef) (x : Return) (b : Blk) : Blk :=
  if x.refused then b
  else
    let b := (b.bump (if x.shadow then .shadowPreempt else .preemption) t.reach).ctxBump t.ctx 0x048
    b.traceTask v 4 0 t (engine := x.engine) (aux := BitVec.ofNat 64 x.by_.toNat) (shadow := x.shadow)

/-- A task taken back from shadow is in the zero set again (R383, Table 6.6): its count is zero, and what it has banked
waits until it leaves STATE waiting (log 113). -/
def Task.fromShadow (x : Task) : Task := { x with state := .waiting, depcnt := 0, kept := x.depcnt }

/-- A shadow word or run is taken back while its task is in STATE shadow (R383, Table 6.6). -/
def Blk.returnShadow (t : TaskRef) (x : Return) (b : Blk) : Blk :=
  let b := b.modReach t.reach fun rc => { (rc.addTiles t x.tiles) with
    shadowRecs := rc.shadowRecs.map fun s =>
      if s.ref = t then { s with engines := s.engines.filter (fun p => p.2 != x.engine) } else s }
  if (((b.reach t.reach).shadowRecs.find? (fun s => s.ref == t)).map ShadowRec.engines).getD [] == [] then
    (b.modTask t Task.fromShadow).modReach t.reach fun rc =>
      { rc with shadowRecs := rc.shadowRecs.filter (fun s => s.ref != t) }
  else b

/-- Apply the return of a refused or pre-empted word at the position of aborts (R115, R383, R384, Table 6.6). -/
def Blk.applyReturn (v : Env) (x : Return) (b : Blk) : Blk :=
  let t := b.headOf x.ref
  match b.task? t with
  | none => b
  | some k =>
    let b := if x.lowerHold then b.modReach t.reach fun rc => rc.lowerHold t else b
    if x.shadow && k.state == .shadow then (b.returnShadow t x).countPreempt v t x
    else if x.shadow && k.state == .skipped then b.countPreempt v t x
    else if k.kind == .list && (k.state == .dispatched || k.state == .ready) then
      let b := b.modReach t.reach fun rc => rc.addTiles t x.tiles
      (if x.refused && k.state == .ready then b.returnHead v t else b).countPreempt v t x
    else if k.kind != .list && k.state == .dispatched then (b.returnHead v t).countPreempt v t x
    else b

/-- The abort stage of a reach: replies and results, new aborts, returns (R24, R122, R384). -/
def Blk.abortStage (v : Env) (b : Blk) (r : Nat) : Blk :=
  let b := b.reportAborts v r
  let aborts := (b.reach r).abortsIn
  let returns := (b.reach r).returns
  let b := b.modReach r fun rc => { rc with abortsIn := [], returns := [] }
  let b := b.forEach aborts fun p b => b.applyAbort v p.1 p.2
  b.forEach returns fun x b => b.applyReturn v x

end Sys2Proof.Machine
end

