-- ==== Sys2Proof/Machine/Sync.lean ====
section
/-! DEFINITION. Sync objects (R211-R219) and the operations of CLASS 0 on the engine port (Table 9.3). -/

namespace Sys2Proof.Machine

/-! ## Operations of a run -/

/-- An operation on the engine port of `e`: it belongs to the run that is active there. While the data plane is
stopped (R219) or the engine waits (R215) the engine stalls at it. An operation with no run breaks R266. -/
def atRun (s : State) (e : Nat) (f : Env → Run → Blk → Blk) : Host.Outcome State Fault Refusal :=
  if s.aon.grade.engines ≤ e then .next s
  else
    let a := s.blk.agent e
    if s.blk.frozen || a.wait.isSome || a.stalled.isSome then .next s
    else match a.run with
      | none => .fault .obligationBroken
      | some r => if r.active then onBlk s fun v b => f v r b else .fault .obligationBroken

/-- The task of a run. -/
def Run.ref (r : Run) : TaskRef := r.dw.ref

/-- The effects of a run are parked: it is in shadow, or committed with items before them still to be released
(R139, R142; `committed`: nothing is left before them). -/
def Run.parks (r : Run) : Bool := r.shadow && !r.committed

/-- A task fault of a task's run on an engine: in the run's completion word, or in the word it has parked (R16,
R213, R216, R248). -/
def Blk.taskFault (b : Blk) (e : Nat) (t : TaskRef) (status : BitVec 8) : Blk :=
  let a := b.agent e
  if (a.run.map Run.ref) = some t then b.runFault e status
  else b.modAgent e fun a => { a with
    items := a.items.map fun i => match i.2 with
      | .completion w => if i.1 = t then (i.1, .completion (withStatus w (rankMax (cplStatus w) status))) else i
      | _ => i }

/-- A malformed or reserved operation: the result and the run's completion word carry CONTEXT_FAULT (R213, R234,
R263, R333). -/
def Blk.opFault (b : Blk) (e : Nat) (t : TaskRef) (status : BitVec 8 := stContextFault) : Blk :=
  (b.taskFault e t status).opReply e status

/-! ## Objects -/

/-- Where a sync object is: local object `i` of an engine's agent, or a global object. -/
inductive SyncLoc where
  | ofAgent (e i : Nat)
  | ofHub (i : Nat)
deriving DecidableEq, Repr

/-- What an operation on a sync object came from (Table 9.4). -/
structure SyncSrc where
  kind : Nat
  src  : Nat

/-- Where global object `i` of a context is held (R212). -/
def gsyncKey (c i : Nat) : Nat := c * 4096 + i

/-- The object a SYNC_ID names for an engine and context; none where the operation is a task fault (R212, R213). -/
def Blk.syncLoc (v : Env) (b : Blk) (e c : Nat) (id : BitVec 32) : Option SyncLoc :=
  if !syncIdOk id then none
  else match syncScope id with
    | 0 => some (.ofAgent e (syncIndex id))
    | 1 => if syncEngine id < v.engines then some (.ofAgent (syncEngine id) (syncIndex id)) else none
    | 2 => match b.ctx? c with
      | some x => if syncIndex id < x.record.gsyncQ then some (.ofHub (gsyncKey c (syncIndex id))) else none
      | none => none
    | _ => none

def Blk.syncObj (b : Blk) : SyncLoc → SyncObj
  | .ofAgent e i => tgetD {} (b.agent e).locals i
  | .ofHub i => tgetD {} b.hb.gsync i

/-- Whether a run is active on the engine whose agent holds an object (R217). -/
def Blk.runActive (b : Blk) (e : Nat) : Bool := ((b.agent e).run.map Run.active).getD false

/-- Apply one operation to an object: its new value and SAT, the touched bit and start value of a local object while
a run is active (R217), the debugger's fields, the counters. -/
def Blk.syncSet (v : Env) (l : SyncLoc) (src : SyncSrc) (value : BitVec 32) (clamped : Bool) (b : Blk) : Blk :=
  let upd (track : Bool) (o : SyncObj) : SyncObj :=
    { o with value := value, sat := o.sat || clamped
             start := if track && !o.touched then o.value else o.start
             touched := o.touched || track
             lastKind := src.kind, lastSrc := src.src, lastEdge := v.n }
  match l with
  | .ofAgent e i =>
    let track := b.runActive e
    ((b.modAgent e fun a => { a with locals := tmod {} a.locals i (upd track) }).bump .syncOp e).bump .syncSat e
      (b2n clamped)
  | .ofHub i =>
    ((b.modHb fun h => { h with gsync := tmod {} h.gsync i (upd false) }).bump .globalOp).bump .hubSyncSat 0
      (b2n clamped)

/-! ## Waits (R215) -/

def Wait.holds (w : Wait) (x : BitVec 32) : Bool :=
  match w.op with
  | .ge | .take => decide (w.operand.toNat ≤ x.toNat)
  | .eq => x == w.operand

/-- The number under which an agent's `wait` names an object. -/
def SyncLoc.number : SyncLoc → Nat
  | .ofAgent _ i => i
  | .ofHub i => 4096 + i

/-- The waits on an object in the order in which they began. -/
def Blk.waitsOn (b : Blk) : SyncLoc → List Wait
  | .ofAgent e i => match (b.agent e).wait with
    | some (k, w) => if k = i then [w] else []
    | none => []
  | .ofHub i => tgetD [] b.hb.gwaits i

/-- A wait ends: it leaves the object, its engine's gate is released by wake. -/
def Blk.endWait (l : SyncLoc) (w : Wait) (b : Blk) : Blk :=
  let b := b.modAgent w.engine fun a => { a with wait := none }
  match l with
  | .ofAgent _ _ => b.emit (.gate w.engine false)
  | .ofHub i =>
    let b := b.modHb fun h => { h with gwaits := tmod [] h.gwaits i fun ws => ws.filter fun x => x.engine != w.engine }
    b.emit (.gate w.engine false)

def Blk.wake (l : SyncLoc) (w : Wait) (b : Blk) : Blk := (b.endWait l w).opReply w.engine stOk

/-- A wait is satisfied: it is an operation applied to the object (R217, Table 9.4), which a TAKE lowers. -/
def Blk.satisfy (v : Env) (l : SyncLoc) (x : BitVec 32) (w : Wait) (b : Blk) : Blk :=
  (b.wake l w).syncSet v l { kind := 0, src := w.engine } (if w.op = .take then x - w.operand else x) false

/-- Test the waits on an object after an operation: every WAIT that holds is satisfied; then the first TAKE that can
proceed subtracts, which is an operation after which they are tested again. -/
def Blk.testWaits (v : Env) (l : SyncLoc) : Nat → Blk → Blk
  | 0, b => b
  | n + 1, b =>
    let x := (b.syncObj l).value
    let b := b.forEach ((b.waitsOn l).filter fun w => w.op != .take && w.holds x) fun w b => b.satisfy v l x w
    match (b.waitsOn l).find? (fun w => w.op == .take && w.holds x) with
    | none => b
    | some w => (b.satisfy v l x w).testWaits v l n

def Blk.syncApply (v : Env) (l : SyncLoc) (src : SyncSrc) (value : BitVec 32) (clamped : Bool) (b : Blk) : Blk :=
  let b := b.syncSet v l src value clamped
  b.testWaits v l ((b.waitsOn l).length + 1)

/-- ADD (Table 9.3); whether it clamped. -/
def Blk.syncAddAt (v : Env) (l : SyncLoc) (src : SyncSrc) (delta : BitVec 32) (b : Blk) : Blk × Bool :=
  let r := syncAdd (b.syncObj l).value delta
  (b.syncApply v l src r.1 r.2, r.2)

/-- An ADD of a run of task `t` on engine `e`; a clamp puts SATURATED in its completion word (R216). -/
def Blk.runAdd (v : Env) (e : Nat) (t : TaskRef) (l : SyncLoc) (src : SyncSrc) (delta : BitVec 32) (b : Blk) : Blk :=
  let r := b.syncAddAt v l src delta
  if r.2 then r.1.taskFault e t stSaturated else r.1

/-- Restore the touched local objects of an agent when its run is aborted or pre-empted (R217). -/
def Agent.restoreLocals (a : Agent) : Agent :=
  { a with locals := a.locals.map fun p =>
      if p.2.touched then (p.1, { p.2 with value := p.2.start, sat := false, touched := false }) else p }

/-- Starting a run clears every touched bit and notes the start values (R217). -/
def Agent.startLocals (a : Agent) : Agent :=
  { a with locals := a.locals.map fun p => (p.1, { p.2 with touched := false, start := p.2.value }) }

/-! ## The write-hold buffer takes the effects of a shadow run (R139, R140) -/

/-- Bytes of an item (Table 6.3). The table gives no number for a contribution and no row for a CB_OPEN: 32 bytes for the
contribution's operands, and the 64 of the block that a CB_OPEN carries (DESIGN CHOICE, log 121). -/
def itemBytes : HoldItem → Nat
  | .memWrite _ d => 16 + 16 * ceilDiv d.length 16
  | .syncSignal _ _ => 16
  | .chanSend _ p => 16 + 16 * ceilDiv (8 * p.length) 16
  | .chanMove _ _ => 16
  | .contribution _ => 16 + 32
  | .combineOpen _ _ => 16 + 64
  | .remoteSignal _ => 32
  | .dmaSignal _ _ => 16
  | .completion _ => 32

/-- Bytes in use of the buffer of 64 KiB. -/
def Agent.held (a : Agent) : Nat := (a.items.map (fun i => itemBytes i.2)).foldl (· + ·) 0

/-- Park an item at the tail, or refuse it, so that the engine stalls at it (R140). -/
def Blk.park (e : Nat) (t : TaskRef) (i : HoldItem) (b : Blk) : Blk :=
  if (b.agent e).held + itemBytes i ≤ 65536 then b.modAgent e fun a => { a with items := a.items ++ [(t, i)] }
  else (b.modAgent e fun a => { a with stalled := some (t, i) }).emit (.holdRefused e)

/-! ## CLASS 0 operations -/

/-- SYNC_READ (R213). -/
def execSyncRead (e : Nat) (id : BitVec 32) (s : State) : Host.Outcome State Fault Refusal :=
  atRun s e fun v r b => match b.syncLoc v e r.ref.ctx id with
    | none => b.opFault e r.ref
    | some l =>
      let x := (b.syncObj l).value
      (b.syncApply v l { kind := 0, src := e } x false).opReply e stOk x

/-- SYNC_ADD (R213-R216); in a shadow run it is parked (Table 6.4). -/
def execSyncAdd (e : Nat) (id : BitVec 32) (delta : BitVec 32) (s : State) : Host.Outcome State Fault Refusal :=
  atRun s e fun v r b => match b.syncLoc v e r.ref.ctx id with
    | none => b.opFault e r.ref
    | some l =>
      if r.parks then b.park e r.ref (.syncSignal id delta)
      else (b.runAdd v e r.ref l { kind := 0, src := e } delta).opReply e stOk

/-- An operation of a run on a local object has been issued: it is touched from then on (R217). -/
def Blk.touchObj (l : SyncLoc) (b : Blk) : Blk :=
  match l with
  | .ofHub _ => b
  | .ofAgent e i =>
    if b.runActive e then b.modAgent e fun a => { a with locals := tmod {} a.locals i fun o =>
      { o with touched := true, start := if o.touched then o.start else o.value } }
    else b

/-- A wait that a run begins: satisfied at once if its condition holds, else the engine is gated (R215). A wait on
another engine's local object is a task fault (R213). A TAKE of a shadow run is a wait, and subtracts when it is
satisfied; Table 6.4 does not say otherwise (DESIGN CHOICE, log 120). -/
def Blk.beginWait (v : Env) (e : Nat) (t : TaskRef) (id : BitVec 32) (w : Wait) (b : Blk) : Blk :=
  match b.syncLoc v e t.ctx id with
  | none => b.opFault e t
  | some l =>
    let other := match l with | .ofAgent k _ => k != e | .ofHub _ => false
    if other then b.opFault e t
    else
      let x := (b.syncObj l).value
      if w.holds x then
        (b.syncApply v l { kind := 0, src := e } (if w.op = .take then x - w.operand else x) false).opReply e stOk
      else
        let b := ((b.touchObj l).modAgent e fun a => { a with wait := some (l.number, w) }).emit (.gate e true)
        match l with
        | .ofAgent _ _ => b
        | .ofHub i => b.modHb fun h => { h with gwaits := tmod [] h.gwaits i (· ++ [w]) }

/-- SYNC_WAIT_GE (R215). -/
def execSyncWaitGe (e : Nat) (id : BitVec 32) (threshold : BitVec 32) (s : State) :
    Host.Outcome State Fault Refusal :=
  atRun s e fun v r b => b.beginWait v e r.ref id { engine := e, op := .ge, operand := threshold }

/-- SYNC_WAIT_EQ (R215). -/
def execSyncWaitEq (e : Nat) (id : BitVec 32) (value : BitVec 32) (s : State) :
    Host.Outcome State Fault Refusal :=
  atRun s e fun v r b => b.beginWait v e r.ref id { engine := e, op := .eq, operand := value }

/-- SYNC_TAKE (R215). -/
def execSyncTake (e : Nat) (id : BitVec 32) (amount : BitVec 32) (s : State) :
    Host.Outcome State Fault Refusal :=
  atRun s e fun v r b => b.beginWait v e r.ref id { engine := e, op := .take, operand := amount }

/-! ## Remote signals of a run (R222, R223) -/

/-- Bind a stream to the issuing context, or say that it is bound to another (R223). -/
def Blk.bindStream (c : Nat) (stream : BitVec 16) (b : Blk) : Option Blk :=
  let r := tgetD {} b.hb.streams stream.toNat
  match r.owner with
  | some o => if o = c then some b else none
  | none => some (b.modHb fun h => { h with
      streams := tput h.streams stream.toNat { owner := some c, epoch := r.epoch + 1, nextSeq := 0, issued := 0 } })

/-- An RSIG block has a kind of Table 9.5 and no reserved bit set (R213). -/
def rsigOk (x : RsigBlk) : Bool := decide (x.kind.toNat < 3) && decide (x.ctx.toNat < 64)

/-- Place a remote signal in the pend of a task's run on `e`; a 17th, a malformed one, or a stream of another context,
is a task fault. -/
def Blk.pendSignal (e : Nat) (t : TaskRef) (pend : List RsigBlk) (keep : List RsigBlk → Blk → Blk) (x : RsigBlk)
    (b : Blk) : Blk :=
  if 16 ≤ pend.length || !rsigOk x then b.taskFault e t stContextFault
  else match b.bindStream t.ctx x.stream with
    | none => b.taskFault e t stContextFault
    | some b => keep (pend ++ [x]) b

/-- Keep the pend in the active run. -/
def keepInRun (e : Nat) (l : List RsigBlk) (b : Blk) : Blk :=
  b.modAgent e fun a => { a with run := a.run.map fun r => { r with rsig := l } }

/-- SYNC_RSIG (R222). -/
def execSyncRsig (e : Nat) (blk : RsigBlk) (s : State) : Host.Outcome State Fault Refusal :=
  atRun s e fun _ r b =>
    if !rsigOk blk then b.opFault e r.ref
    else if r.parks then b.park e r.ref (.remoteSignal blk)
    else
      let c := b.pendSignal e r.ref r.rsig (keepInRun e) blk
      let bad := 16 ≤ r.rsig.length ∨ (b.bindStream r.ref.ctx blk.stream).isNone
      c.opReply e (if bad then stContextFault else stOk)

/-- SYNC_RESERVED_OP (R213). -/
def execSyncReservedOp (e : Nat) (s : State) : Host.Outcome State Fault Refusal :=
  atRun s e fun _ r b => b.opFault e r.ref

/-- OPERATION_CLASS_RESERVED (Table 11.4, R263): CLASS 3. -/
def execOperationClassReserved (e : Nat) (s : State) : Host.Outcome State Fault Refusal :=
  atRun s e fun _ r b => b.opFault e r.ref

/-- DMA_COMPLETION_SIGNAL (R218): the ADD that a DMA run's arguments name, every earlier write acknowledged. -/
def execDmaCompletionSignal (e : Nat) (id : BitVec 32) (delta : BitVec 32) (s : State) :
    Host.Outcome State Fault Refusal :=
  atRun s e fun v r b => match b.syncLoc v e r.ref.ctx id with
    | none => b.taskFault e r.ref stContextFault
    | some l =>
      if r.parks then b.park e r.ref (.dmaSignal id delta)
      else b.runAdd v e r.ref l { kind := 1, src := e } delta

end Sys2Proof.Machine
end

