-- ==== Sys2Proof/Machine/Channels.lean ====
section
/-! DEFINITION. Channels (R233-R249): ring memory, status words, the operations of CLASS 1 on channels, the tide. -/

namespace Sys2Proof.Machine

/-! ## Channel memory: 8 MiB of words, held by byte; an unlisted byte reads zero (log 16) -/

def Hb.readByte (h : Hb) (a : Nat) : Byte := tgetD 0 h.chanMem a
def Hb.writeByte (h : Hb) (a : Nat) (x : Byte) : Hb := { h with chanMem := tset 0 h.chanMem a x }

def Hb.readWord (h : Hb) (a : Nat) : BitVec 64 :=
  BitVec.ofNat 64 (leNat ((List.range 8).map fun i => h.readByte (a + i)))

def Hb.writeBytes (h : Hb) : Nat → List Byte → Hb
  | _, [] => h
  | a, x :: r => (h.writeByte a x).writeBytes (a + 1) r

def Hb.writeWord (h : Hb) (a : Nat) (w : BitVec 64) : Hb := h.writeBytes a (leBytes 8 w.toNat)

/-- Byte address of ring word P mod 2^RLOG (R238). -/
def Channel.addr (c : Channel) (p : Nat) : Nat := c.base + 8 * (p % 2 ^ c.rlog)

/-- Store words from pointer `p` on. -/
def Hb.putWords (c : Channel) : Nat → List (BitVec 64) → Hb → Hb
  | _, [], h => h
  | p, w :: r, h => Hb.putWords c (ptrAdd c.rlog p 1) r (h.writeWord (c.addr p) w)

/-- Bytes `lo` to `lo + n − 1` zero: what an ACCEPT leaves in its ring, whose contents the spec does not give and
nothing reads (R316, log 16). -/
def Hb.clearBytes (h : Hb) (lo n : Nat) : Hb :=
  { h with chanMem := h.chanMem.filter fun p => !(decide (lo ≤ p.1) && decide (p.1 < lo + n)) }

/-! ## Lookup -/

def Blk.chan? (b : Blk) (c i : Nat) : Option Channel := tget b.hb.channels (chKey c i)
def Blk.putChan (b : Blk) (c i : Nat) (x : Channel) : Blk :=
  b.modHb fun h => { h with channels := tput h.channels (chKey c i) x }

/-- CHAN_Q of a context (R233). -/
def Blk.chanQ (b : Blk) (c : Nat) : Nat := ((b.ctx? c).map (fun x => x.record.chanQ)).getD 0

/-- The channel index of a CH_ID of the given TYPE; none where it is a task fault (R234). -/
def Blk.chanIndex (b : Blk) (c type : Nat) (id : BitVec 32) : Option Nat :=
  if chIdOk id && chType id == type && decide (chIndex id < b.chanQ c) then some (chIndex id) else none

/-- A RUN-scope channel is operated only from runs of its task (R236). -/
def Channel.inScope (c : Channel) (t : TaskRef) : Bool :=
  c.persist || (match c.recvEnd with | some e => e.ref == t | none => true)

def endOpen (e : Option ChEnd) : Bool := match e with | some x => !x.closed | none => false
def endClosed (e : Option ChEnd) : Bool := match e with | some x => x.closed | none => false

/-! ## Status words (R245) -/

/-- Write the status word of an end to its STAT_ADDR. -/
def Blk.writeEnd (c : Channel) (own other : Option ChEnd) (b : Blk) : Blk :=
  match own with
  | none => b
  | some e =>
    let w := c.statusWord own other
    if e.stat.getLsbD 63 then b.emit (.dmWrite (BitVec.ofNat 64 (bits e.stat 0 63)) w)
    else b.emit (.engineLocal e.statEngine (bits e.stat 0 32) w)

/-- CSTATE and STATUS of both ends, and CFLAGS. -/
def Channel.shown (c : Channel) : (Nat × Nat) × (BitVec 8 × BitVec 8) × Nat :=
  ((c.cstate c.sendEnd, c.cstate c.recvEnd), (c.endStatus c.recvEnd, c.endStatus c.sendEnd), c.cflags)

/-- Store a channel after an operation and write the status words that R245 calls for. -/
def Blk.update (c i : Nat) (old new : Channel) (toSend toRecv : Bool) (b : Blk) : Blk :=
  let both := decide (old.shown ≠ new.shown)
  let b := b.putChan c i new
  let b := if toSend || both then b.writeEnd new new.sendEnd new.recvEnd else b
  if toRecv || both then b.writeEnd new new.recvEnd new.sendEnd else b

/-! ## Entries (R239, Table 10.4) -/

/-- A ring entry: pointer of its header, kind, header, payload, pointer past it. -/
structure Entry where
  kind    : Nat
  header  : BitVec 64
  payload : List (BitVec 64)
  next    : Nat

def Hb.entryAt (h : Hb) (c : Channel) (p : Nat) : Entry :=
  let hd := h.readWord (c.addr p)
  let kind := bits hd 60 4
  let len := if kind = 1 then 0 else bits hd 44 16
  { kind := kind, header := hd
    payload := (List.range len).map (fun j => h.readWord (c.addr (p + 1 + j)))
    next := ptrAdd c.rlog p (1 + len) }

/-- The entry that a READ at `p` acts on: a PAD is moved past (R242). -/
def Hb.nextEntry (h : Hb) (c : Channel) (p : Nat) : Option Entry :=
  if p = c.wp then none
  else
    let e := h.entryAt c p
    if e.kind = 2 then (if e.next = c.wp then none else some (h.entryAt c e.next)) else some e

/-- DATA entries between two pointers. -/
def Hb.countData (h : Hb) (c : Channel) (stop : Nat) : Nat → Nat → Nat
  | 0, _ => 0
  | n + 1, p =>
    if p = stop then 0
    else
      let e := h.entryAt c p
      b2n (e.kind == 0) + h.countData c stop n e.next

/-- RL moves to RP, and RELSD rises by the DATA entries released (R242, R243). MK, which no mark holds then, moves
with RL: measured from RL it never lies below (R238). -/
def Channel.releaseAll (h : Hb) (c : Channel) : Channel :=
  { c with rl := c.rp, mkp := c.rp, relsd := c.relsd + BitVec.ofNat 32 (h.countData c c.rp (2 ^ c.rlog) c.rl) }

/-! ## Writing (R240, R241) -/

/-- The pending gap marker, as a list of words. -/
def Channel.gapWords (c : Channel) : List (BitVec 64) :=
  if c.gapCount = 0 then [] else [chHeader 1 (min 0xFFFF c.gapCount) c.gapFirst]

/-- A send end that closed with a gap pending: the marker alone, as soon as one word is free (R241). -/
def Blk.flushGap (c i : Nat) (b : Blk) : Blk :=
  match b.chan? c i with
  | none => b
  | some x =>
    if endClosed x.sendEnd && x.gapCount != 0 && decide (1 ≤ x.freeWords) then
      let b := b.modHb (Hb.putWords x x.wp x.gapWords)
      b.update c i x { x with wp := ptrAdd x.rlog x.wp 1, gapCount := 0 } false true
    else b

/-- Drop a message (R241). -/
def Channel.dropped (c : Channel) : Channel :=
  { c with seqNext := c.seqNext + 1, sent := c.sent + 1, lost := min 0xFFFF (c.lost + 1), gapFlag := true
           gapFirst := if c.gapCount = 0 then c.seqNext else c.gapFirst, gapCount := c.gapCount + 1 }

/-- Offer a message to an open channel: written, or dropped (R240, R241); its status. -/
def Blk.offer (c i : Nat) (x : Channel) (payload : List (BitVec 64)) (b : Blk) : Blk × BitVec 8 :=
  let words := x.gapWords ++ chHeader 0 payload.length x.seqNext :: payload
  let u := words.length
  let t := 2 ^ x.rlog - x.wp % 2 ^ x.rlog
  let write (pad : List (BitVec 64)) (skip : Nat) : Blk × BitVec 8 :=
    let b := b.modHb fun h => Hb.putWords x (ptrAdd x.rlog x.wp skip) words (Hb.putWords x x.wp pad h)
    let y := { x with wp := ptrAdd x.rlog x.wp (skip + u), gapCount := 0, seqNext := x.seqNext + 1, sent := x.sent + 1 }
    (((b.update c i x y false true).bump .chMsg).bump .chPad 0 (b2n (decide (0 < skip))), stOk)
  if u ≤ t ∧ u ≤ x.freeWords then write [] 0
  else if t < u ∧ t + u ≤ x.freeWords then write [chHeader 2 (t - 1) 0] t
  else ((b.update c i x x.dropped true false).bump .chLost, stGap)

/-- A SEND of task `t` to one channel: its status, none for a task fault (R235, R237, R240, R246). -/
def Blk.sendChan (e c i : Nat) (t : TaskRef) (payload : List (BitVec 64)) (b : Blk) : Blk × Option (BitVec 8) :=
  match b.chan? c i with
  | none => (b, none)
  | some x =>
    if !x.inScope t || x.fan.isSome then (b, none)
    else match x.state with
      | .idle => (b, none)
      | .pending => (b, if endClosed x.sendEnd then none else some stBusy)
      | .reset => (b.bump .chPeerDrop, some stPeerReset)
      | .opened =>
        if endClosed x.sendEnd || decide (2 ^ x.rlog - 2 < payload.length) then (b, none)
        else
          let y := { x with sendEnd := x.sendEnd.map fun z => { z with engine := e } }
          if endClosed x.recvEnd then
            ((b.putChan c i { y with seqNext := y.seqNext + 1 }).bump .chPeerDrop, some stPeerClosed)
          else
            let r := (b.putChan c i y).offer c i y payload
            (r.1, some r.2)

/-- A SEND, on a send end or a fan-out (R247). -/
def Blk.sendOn (e : Nat) (t : TaskRef) (id : BitVec 32) (payload : List (BitVec 64)) (b : Blk) :
    Blk × Option (BitVec 8) :=
  match b.chanIndex t.ctx 0 id with
  | some i => b.sendChan e t.ctx i t payload
  | none => match b.chanIndex t.ctx 2 id with
    | none => (b, none)
    | some i => match (b.chan? t.ctx i).bind Channel.fan with
      | none => (b, none)
      | some ms =>
        ms.foldl (fun acc m =>
          let r := acc.1.sendChan e t.ctx m t payload
          (r.1, match acc.2, r.2 with | some x, some y => some (rankMax x y) | _, _ => none)) (b, some stOk)

/-! ## Reading (R242, R248) -/

/-- The channel of a read-side operation: none where it is a task fault (R234, R236). In RESET a closed end is
answered like an open one (R246). -/
def Blk.recvChan (b : Blk) (t : TaskRef) (id : BitVec 32) : Option (Nat × Channel) :=
  match b.chanIndex t.ctx 1 id with
  | none => none
  | some i => match b.chan? t.ctx i with
    | none => none
    | some x => if x.inScope t && x.fan.isNone && (x.state == .reset || endOpen x.recvEnd) then some (i, x) else none

/-- What a READ returns: status and words. -/
structure ReadResult where
  status : BitVec 8
  words  : List (BitVec 64)

/-- A READ at RP that moves the pointers. -/
def Blk.readMove (c i : Nat) (x : Channel) (b : Blk) : Blk × ReadResult :=
  match b.hb.nextEntry x x.rp with
  | none =>
    let closed := endClosed x.sendEnd
    let b := (b.update c i x { x with underrun := true } false false).bump .chUnderrun 0 (b2n !closed)
    (b, { status := if closed then stPeerClosed else stUnderrun, words := [x.lastHdr] })
  | some en =>
    let y := { x with rp := en.next, underrun := false, gapFlag := x.gapFlag && en.kind != 1
                      lastHdr := if en.kind = 0 then en.header else x.lastHdr }
    let y' := if x.autorel && !x.marked then y.releaseAll b.hb else y
    let b := (b.update c i x y' (y'.rl != x.rl) false).flushGap c i
    (b, { status := if en.kind = 1 then stGap else stOk, words := en.header :: en.payload })

/-- The place of a channel word (Table 13.10). -/
def chanPlace (c a : Nat) : Place := { mem := 32, page := a / 2048, word := a / 8 % 256, ctx := c }

/-- A persistent channel enters RESET, both status words written (R246). -/
def Blk.resetChan (c i : Nat) (x : Channel) (b : Blk) : Blk :=
  let y := { x with state := .reset, rp := x.wp, rl := x.wp, mkp := x.wp, marked := false, gapCount := 0 }
  b.update c i x y true true

/-- The ring words that a READ at pointer `p` meets, as distances from it: a PAD's header, then the header and the
payload of the entry. -/
def Hb.metWords (h : Hb) (c : Channel) (p : Nat) : List Nat :=
  let words (q : Nat) : List Nat :=
    (List.range ((h.entryAt c q).payload.length + 1)).map (ptrSub c.rlog q p + ·)
  let e := h.entryAt c p
  if e.kind = 2 then 0 :: words e.next else words p

/-- What the codes find in the words that a READ meets, each at its own place (R248): the channel afterwards, none if
one is uncorrectable. -/
def Blk.checkWords (v : Env) (c i p : Nat) : List (Nat × Ecc) → Channel → Blk → Blk × Option Channel
  | [], x, b => (b, some x)
  | w :: ws, x, b =>
    let a := chanPlace c (x.addr (ptrAdd x.rlog p w.1))
    let out := eccOutcome (b.pageValid a.mem a.page) w.2
    let b := b.storedRead v a 0 w.2
    match out with
    | .clean => b.checkWords v c i p ws x
    | .corrected | .pageCorrected _ =>
      let y := { x with corr := min 0xFFFF (x.corr + 1) }
      ((b.putChan c i y).bump .chCorrected).checkWords v c i p ws y
    | .uncorrectable => (if x.persist then b.resetChan c i x else b, none)

/-- Check the words that a READ at pointer `p` meets; `ecc` names them by their distance from it. -/
def Blk.readCheck (v : Env) (c i p : Nat) (x : Channel) (ecc : List (Nat × Ecc)) (b : Blk) : Blk × Option Channel :=
  let met := b.hb.metWords x p
  b.checkWords v c i p (ecc.filter fun w => met.contains w.1) x

/-- The engine of the receive end's most recent operation (R256). -/
def Channel.recvBy (c : Channel) (e : Nat) : Channel :=
  { c with recvEnd := c.recvEnd.map fun z => { z with engine := e } }

/-- A read-side move of task `t` (R243, R244): its status, none for a task fault. -/
def Blk.moveOn (e : Nat) (t : TaskRef) (id : BitVec 32) (m : ReadMove) (b : Blk) : Blk × Option (BitVec 8) :=
  match b.recvChan t id with
  | none => (b, none)
  | some (i, x0) =>
    if x0.state == .reset then (b, some stPeerReset)
    else
      let x := x0.recvBy e
      let b := b.putChan t.ctx i x
      match m with
      | .advance =>
        let r := b.readMove t.ctx i x
        (r.1, some r.2.status)
      | .mark => (b.update t.ctx i x { x with mkp := x.rp, marked := true } false false, some stOk)
      | .rewind =>
        if x.marked then (b.update t.ctx i x { x with rp := x.mkp } false false, some stOk) else (b, some stBusy)
      | .release =>
        let y := { x.releaseAll b.hb with marked := false }
        ((b.update t.ctx i x y (y.rl != x.rl) false).flushGap t.ctx i, some stOk)

/-! ## Opening and closing (R235-R237, R247) -/

/-- A channel opens when both ends are taken (R235). -/
def Blk.openIfBoth (c i : Nat) (old new : Channel) (b : Blk) : Blk :=
  if new.sendEnd.isSome && new.recvEnd.isSome then
    (b.update c i old { new with state := .opened } true true).bump .chOpen
  else b.putChan c i new

/-- Channel-memory pages that retirement withholds; an entry with a reserved value is ignored (R319). -/
def Fe.retiredChan (f : Fe) : List Nat :=
  (f.retirement.filter fun w => bits w 0 8 == 32 && bits w 8 8 == 0 && bits w 16 16 == 0).map fun w => bits w 32 32

/-- Whether bytes `lo` to `lo + n − 1` of channel memory hold no retired page. -/
def Fe.chanSound (f : Fe) (lo n : Nat) : Bool :=
  f.retiredChan.all fun p => decide (2048 * p + 2048 ≤ lo) || decide (lo + n ≤ 2048 * p)

/-- The lowest offset in a context's region at which an aligned ring is free (R235; lowest: log 17). -/
def Blk.ringPlace (b : Blk) (c rlog : Nat) : Option Nat :=
  match b.ctx? c with
  | none => none
  | some x =>
    let size := 8 * 2 ^ rlog
    let lo := x.chanBase
    let hi := lo + 1024 * x.record.chanKib
    let rings := (b.hb.channels.filter fun p => p.2.ctx == c && p.2.recvEnd.isSome).map fun p =>
      (p.2.base, 8 * 2 ^ p.2.rlog)
    ((List.range ((hi - lo) / size + 1)).map (fun k => (ceilDiv lo size + k) * size)).find? fun a =>
      decide (a + size ≤ hi) && b.fe.chanSound a size
        && rings.all fun r => decide (a + size ≤ r.1) || decide (r.1 + r.2 ≤ a)

/-- An operation of CLASS 1 that names an index: none where it is a task fault (R234, R244). -/
def Blk.openIndex (b : Blk) (r : Run) (index : Nat) : Option Nat :=
  if r.parks || b.chanQ r.ref.ctx ≤ index then none else some index

/-- CONNECT (R235, R236). -/
def execConnect (e : Nat) (index : Nat) (statAddr : BitVec 64) (s : State) : Host.Outcome State Fault Refusal :=
  atRun s e fun _ r b =>
    let t := b.headOf r.ref
    let c := t.ctx
    if (b.openIndex r index).isNone then b.opFault e r.ref
    else
      let x := (b.chan? c index).getD { ctx := c }
      if x.state != .pending || x.sendEnd.isSome || x.fan.isSome then b.opReply e stBusy
      else if !x.inScope t then b.opFault e r.ref
      else
        let y := { x with sendEnd := some { engine := e, statEngine := e, ref := t, stat := statAddr } }
        (b.openIfBoth c index x y).opReply e stOk (mkChId 0 index)

/-- ACCEPT (R235, R236, R316). -/
def execAccept (e : Nat) (index : Nat) (rlog : Nat) (persist autorel : Bool) (statAddr : BitVec 64) (s : State) :
    Host.Outcome State Fault Refusal :=
  atRun s e fun _ r b =>
    let t := b.headOf r.ref
    let c := t.ctx
    if (b.openIndex r index).isNone || decide (rlog < 4) || decide (16 < rlog) then b.opFault e r.ref
    else
      let x := (b.chan? c index).getD { ctx := c }
      if x.state != .pending || x.recvEnd.isSome || x.fan.isSome then b.opReply e stBusy
      else if !persist && (match x.sendEnd with | some z => z.ref != t | none => false) then b.opFault e r.ref
      else match b.ringPlace c rlog with
        | none => b.opReply e stBusy
        | some a =>
          let y := { x with
            persist := persist, autorel := autorel, rlog := rlog, base := a
            recvEnd := some { engine := e, statEngine := e, ref := t, stat := statAddr } }
          let b := (b.modHb fun h => h.clearBytes a (8 * 2 ^ rlog)).validate 32 a (8 * 2 ^ rlog)
          (b.openIfBoth c index x y).opReply e stOk (mkChId 1 index)

/-- Answer an operation: a status, or a task fault. -/
def Blk.answer (e : Nat) (t : TaskRef) (p : Blk × Option (BitVec 8)) : Blk :=
  match p.2 with
  | some x => p.1.opReply e x
  | none => p.1.opFault e t

/-- SEND (R239-R241, R247). -/
def execSend (e : Nat) (chId : BitVec 32) (payload : List (BitVec 64)) (s : State) :
    Host.Outcome State Fault Refusal :=
  atRun s e fun _ r b =>
    if r.parks then b.park e r.ref (.chanSend chId payload)
    else Blk.answer e r.ref (b.sendOn e (b.headOf r.ref) chId payload)

/-- A READ of a shadow run (R244): from the private position; the move is parked. -/
def Blk.shadowRead (v : Env) (e : Nat) (r : Run) (id : BitVec 32) (i : Nat) (x : Channel) (ecc : List (Nat × Ecc))
    (b : Blk) :
    Blk :=
  let c := r.ref.ctx
  let pos := (tget r.readPos (chKey c i)).getD (x.rp, x.lastHdr)
  match b.hb.nextEntry x pos.1 with
  | none => b.opReply e (if endClosed x.sendEnd then stPeerClosed else stUnderrun) 0 [pos.2]
  | some en =>
    let k := b.readCheck v c i pos.1 x ecc
    match k.2 with
    | none => k.1.opFault e r.ref stUncorrectable
    | some _ =>
      let hdr := if en.kind = 0 then en.header else pos.2
      let b := k.1.modAgent e fun a => { a with run := a.run.map fun r =>
        { r with readPos := tput r.readPos (chKey c i) (en.next, hdr) } }
      (b.park e r.ref (.chanMove id .advance)).opReply e (if en.kind = 1 then stGap else stOk) 0
        (en.header :: en.payload)

/-- READ (R242, R244, R248). -/
def execRead (e : Nat) (chId : BitVec 32) (ecc : List (Nat × Ecc)) (s : State) : Host.Outcome State Fault Refusal :=
  atRun s e fun v r b =>
    let t := b.headOf r.ref
    match b.recvChan t chId with
    | none => b.opFault e r.ref
    | some (i, x) =>
      if x.state == .reset then b.opReply e stPeerReset
      else if r.parks then b.shadowRead v e r chId i x ecc
      else if (b.hb.nextEntry x x.rp).isNone then
        let m := (b.putChan t.ctx i (x.recvBy e)).readMove t.ctx i (x.recvBy e)
        m.1.opReply e m.2.status 0 m.2.words
      else
        let k := (b.putChan t.ctx i (x.recvBy e)).readCheck v t.ctx i x.rp (x.recvBy e) ecc
        match k.2 with
        | none => k.1.opFault e r.ref stUncorrectable
        | some y =>
          let m := k.1.readMove t.ctx i y
          m.1.opReply e m.2.status 0 m.2.words

/-- A read-side operation of a run: parked in a shadow run (R244). -/
def Blk.runMove (e : Nat) (r : Run) (id : BitVec 32) (m : ReadMove) (b : Blk) : Blk :=
  if r.parks then b.park e r.ref (.chanMove id m)
  else Blk.answer e r.ref (b.moveOn e (b.headOf r.ref) id m)

/-- MARK (R243). -/
def execMark (e : Nat) (chId : BitVec 32) (s : State) : Host.Outcome State Fault Refusal :=
  atRun s e fun _ r b => b.runMove e r chId .mark

/-- REWIND (R243). -/
def execRewind (e : Nat) (chId : BitVec 32) (s : State) : Host.Outcome State Fault Refusal :=
  atRun s e fun _ r b => b.runMove e r chId .rewind

/-- RELEASE (R243). -/
def execRelease (e : Nat) (chId : BitVec 32) (s : State) : Host.Outcome State Fault Refusal :=
  atRun s e fun _ r b => b.runMove e r chId .release

/-- Free one channel index. -/
def Blk.freeChan (c i : Nat) (b : Blk) : Blk := b.modHb fun h => h.freeChannels fun k _ => k == chKey c i

/-- Close an end of a channel: its status, none for a task fault (R237, R246). -/
def Blk.closeEnd (e : Nat) (t : TaskRef) (send : Bool) (i : Nat) (b : Blk) : Blk × Option (BitVec 8) :=
  let c := t.ctx
  match b.chan? c i with
  | none => (b, none)
  | some x =>
    let own := if send then x.sendEnd else x.recvEnd
    if !x.inScope t || own.isNone || x.fan.isSome then (b, none)
    else
      let shut (z : ChEnd) : ChEnd := { z with closed := true, engine := e }
      let y := if send then { x with sendEnd := x.sendEnd.map shut } else { x with recvEnd := x.recvEnd.map shut }
      let b := (b.update c i x y false false).flushGap c i
      (if y.persist && endClosed y.sendEnd && endClosed y.recvEnd then b.freeChan c i else b, some stOk)

/-- CLOSE (R237). -/
def execClose (e : Nat) (chId : BitVec 32) (s : State) : Host.Outcome State Fault Refusal :=
  atRun s e fun _ r b =>
    let t := b.headOf r.ref
    if r.parks then b.opFault e r.ref
    else match b.chanIndex t.ctx 0 chId, b.chanIndex t.ctx 1 chId, b.chanIndex t.ctx 2 chId with
      | some i, _, _ => Blk.answer e r.ref (b.closeEnd e t true i)
      | none, some i, _ => Blk.answer e r.ref (b.closeEnd e t false i)
      | none, none, some i =>
        if ((b.chan? t.ctx i).bind Channel.fan).isSome then (b.freeChan t.ctx i).opReply e stOk
        else b.opFault e r.ref
      | none, none, none => b.opFault e r.ref

/-- FANOUT (R247). -/
def execFanout (e : Nat) (index : Nat) (ids : List (BitVec 32)) (s : State) : Host.Outcome State Fault Refusal :=
  atRun s e fun _ r b =>
    let t := b.headOf r.ref
    let c := t.ctx
    let ms := ids.map (b.chanIndex c 0)
    if (b.openIndex r index).isNone || ids.isEmpty || decide (16 < ids.length) || ms.any Option.isNone then
      b.opFault e r.ref
    else
      let is := ms.filterMap id
      let usable (i : Nat) : Bool := match b.chan? c i with
        | some x => (x.state == .pending || x.state == .opened) && x.sendEnd.isSome && x.fan.isNone
        | none => false
      let within (i : Nat) : Bool := match b.chan? c i with | some x => x.inScope t | none => true
      if !is.all within then b.opFault e r.ref
      else if (b.chan? c index).isSome || !is.all usable then b.opReply e stBusy
      else (b.putChan c index { ctx := c, state := .opened, fan := some is }).opReply e stOk (mkChId 2 index)

/-- CHANNEL_RESERVED_OP (R234): codes 0xB to 0xF of CLASS 1. -/
def execChannelReservedOp (e : Nat) (s : State) : Host.Outcome State Fault Refusal :=
  atRun s e fun _ r b => b.opFault e r.ref

/-! ## The tide barrier (R249) -/

/-- What a tide does to a channel whose two ends are open, and whether it drifted. -/
def Channel.tide (c : Channel) : Channel × Bool :=
  let d := c.sent - BitVec.ofNat 32 c.lost - c.relsd
  let level := d == 0 && c.gapCount == 0
  let x := if level then { c with drift := false }
    else { c with drift := true, rp := c.wp, rl := c.wp, mkp := c.wp, marked := false, gapCount := 0 }
  ({ x with sent := 0, lost := 0, relsd := 0 }, !level)

/-- A tide of a context, right after its STEP application. -/
def Blk.tide (c : Nat) (b : Blk) : Blk :=
  b.forEach (b.hb.channels.filter fun p => p.2.ctx == c && p.2.state == .opened && endOpen p.2.sendEnd && endOpen p.2.recvEnd)
    fun p b =>
      let r := p.2.tide
      ((b.update c (p.1 % 65536) p.2 r.1 true true).bump .tide).bump .tideDrift 0 (b2n r.2)

/-! ## Teardown and block reset (R246, R308) -/

/-- Context teardown frees every channel of the context. -/
def Blk.freeContextChannels (c : Nat) (b : Blk) : Blk := b.modHb fun h => h.freeChannels fun _ x => x.ctx == c

/-- Block reset: RUN-scope channels freed; persistent ones reset, and both status words of each written, those of one
that is in RESET already among them. -/
def Blk.resetChannels (b : Blk) : Blk :=
  let b := b.modHb fun h => h.freeChannels fun _ x => !x.persist && x.fan.isNone
  b.forEach (b.hb.channels.filter fun p => p.2.persist) fun p b =>
    b.resetChan p.2.ctx (p.1 % 65536) p.2

end Sys2Proof.Machine
end

