-- ==== Sys2Proof/Machine/Float.lean ====
section
/-! DEFINITION. FP32 arithmetic, rounded to nearest even (R253, R283), and the element formats of
Table 10.9. A finite value is held exactly as a sign, a magnitude and a power of two. -/

namespace Sys2Proof

/-- A value of a binary format: `fin neg m e` is m·2^e with its sign. -/
inductive Fp where
  | nan
  | inf (neg : Bool)
  | fin (neg : Bool) (m : Nat) (e : Int)
deriving DecidableEq, Repr

/-- Shift right by `k`, to nearest, ties to even; `sticky` stands for bits already lost below. -/
def shiftRne (m k : Nat) (sticky : Bool) : Nat :=
  if k = 0 then m
  else
    let q := m >>> k
    let rem := m % 2 ^ k
    let half := 2 ^ (k - 1)
    if rem > half ∨ (rem = half ∧ (sticky ∨ q % 2 = 1)) then q + 1 else q

/-- Round m·2^e to `p` significant bits with no bit below 2^qmin. -/
def roundTo (p : Nat) (qmin : Int) (m : Nat) (e : Int) (sticky : Bool := false) : Nat × Int :=
  if m = 0 then (0, qmin)
  else
    let q := max (e + (Nat.log2 m + 1 : Nat) - (p : Int)) qmin
    if q ≤ e then (m * 2 ^ (e - q).toNat, q)
    else
      let r := shiftRne m (q - e).toNat sticky
      if r = 2 ^ p then (2 ^ (p - 1), q + 1) else (r, q)

/-- Read a value with `eb` exponent bits and `mb` fraction bits whose top exponent is for infinity and NaN. -/
def fpOf (eb mb : Nat) (x : Nat) : Fp :=
  let frac := x % 2 ^ mb
  let ex := (x / 2 ^ mb) % 2 ^ eb
  let neg := decide ((x / 2 ^ (mb + eb)) % 2 = 1)
  let bias : Int := 2 ^ (eb - 1) - 1
  if ex = 2 ^ eb - 1 then (if frac = 0 then .inf neg else .nan)
  else if ex = 0 then .fin neg frac (1 - bias - mb)
  else .fin neg (frac + 2 ^ mb) (ex - bias - mb)

/-- Encode a rounded magnitude; `top` is the largest biased exponent of a finite value. -/
def fpBits (eb mb : Nat) (neg : Bool) (m : Nat) (q : Int) : Nat :=
  let sign := if neg then 2 ^ (mb + eb) else 0
  let bias : Int := 2 ^ (eb - 1) - 1
  if m < 2 ^ mb then sign + m
  else sign + (q + bias + mb).toNat * 2 ^ mb + (m - 2 ^ mb)

/-- FP32 of the bits. -/
def fp32 (x : BitVec 32) : Fp := fpOf 8 23 x.toNat

/-- The one NaN that results carry (R253). -/
def fpNan : BitVec 32 := 0x7FC00000

/-- FP32 bits of an exact value, rounded to nearest even, overflow to infinity. -/
def toFp32 (v : Fp) (sticky : Bool := false) : BitVec 32 :=
  match v with
  | .nan => fpNan
  | .inf neg => if neg then 0xFF800000 else 0x7F800000
  | .fin neg m e =>
    let (r, q) := roundTo 24 (-149) m e sticky
    if r ≥ 2 ^ 23 ∧ q > 104 then (if neg then 0xFF800000 else 0x7F800000)
    else BitVec.ofNat 32 (fpBits 8 23 neg r q)

/-- The signed magnitude of m·2^e over a lower power of two. -/
def fpScaled (neg : Bool) (m : Nat) (e lo : Int) : Int :=
  let v : Int := (m * 2 ^ (e - lo).toNat : Nat)
  if neg then -v else v

/-- Exact sum. -/
def fpAdd (a b : Fp) : Fp :=
  match a, b with
  | .nan, _ | _, .nan => .nan
  | .inf x, .inf y => if x = y then .inf x else .nan
  | .inf x, _ => .inf x
  | _, .inf y => .inf y
  | .fin n₁ m₁ e₁, .fin n₂ m₂ e₂ =>
    let lo := min e₁ e₂
    let s := fpScaled n₁ m₁ e₁ lo + fpScaled n₂ m₂ e₂ lo
    if s = 0 then .fin (n₁ && n₂) 0 lo else .fin (decide (s < 0)) s.natAbs lo

/-- Exact product. -/
def fpMul (a b : Fp) : Fp :=
  match a, b with
  | .nan, _ | _, .nan => .nan
  | .inf x, .inf y => .inf (x != y)
  | .inf x, .fin n m _ => if m = 0 then .nan else .inf (x != n)
  | .fin n m _, .inf y => if m = 0 then .nan else .inf (n != y)
  | .fin n₁ m₁ e₁, .fin n₂ m₂ e₂ => .fin (n₁ != n₂) (m₁ * m₂) (e₁ + e₂)

/-- Negation. -/
def fpNeg : Fp → Fp
  | .nan => .nan
  | .inf n => .inf (!n)
  | .fin n m e => .fin (!n) m e

/-- FP32 sum, difference, product. -/
def addFp (a b : BitVec 32) : BitVec 32 := toFp32 (fpAdd (fp32 a) (fp32 b))
def subFp (a b : BitVec 32) : BitVec 32 := toFp32 (fpAdd (fp32 a) (fpNeg (fp32 b)))
def mulFp (a b : BitVec 32) : BitVec 32 := toFp32 (fpMul (fp32 a) (fp32 b))

/-- FP32 quotient: a long division to 40 bits beyond the divisor, the remainder kept as a sticky bit. -/
def divFp (a b : BitVec 32) : BitVec 32 :=
  match fp32 a, fp32 b with
  | .nan, _ | _, .nan => fpNan
  | .inf _, .inf _ => fpNan
  | .inf x, .fin n _ _ => toFp32 (.inf (x != n))
  | .fin n _ _, .inf y => toFp32 (.fin (n != y) 0 0)
  | .fin n₁ m₁ e₁, .fin n₂ m₂ e₂ =>
    if m₂ = 0 then (if m₁ = 0 then fpNan else toFp32 (.inf (n₁ != n₂)))
    else
      let k := Nat.log2 m₂ + 40
      let num := m₁ * 2 ^ k
      toFp32 (.fin (n₁ != n₂) (num / m₂) (e₁ - e₂ - k)) (num % m₂ != 0)

/-- FP32 of an integer, rounded. -/
def ofIntFp (v : Int) : BitVec 32 := toFp32 (.fin (decide (v < 0)) v.natAbs 0)

/-- Whether a value is below another (NaN is below nothing). -/
def ltFp (a b : BitVec 32) : Bool :=
  match fp32 a, fp32 b with
  | .nan, _ | _, .nan => false
  | .inf x, .inf y => x && !y
  | .inf x, _ => x
  | _, .inf y => !y
  | .fin n₁ m₁ e₁, .fin n₂ m₂ e₂ =>
    let lo := min e₁ e₂
    decide (fpScaled n₁ m₁ e₁ lo < fpScaled n₂ m₂ e₂ lo)

/-- The larger, the smaller of two values. -/
def maxFp (a b : BitVec 32) : BitVec 32 := if ltFp a b then b else a
def minFp (a b : BitVec 32) : BitVec 32 := if ltFp b a then b else a

/-- 2^-k in FP32. -/
def pow2Fp (k : Nat) : BitVec 32 := toFp32 (.fin false 1 (-(k : Int)))

/-- The nearest integer in units of 2^-k, ties to even; infinities and NaN give 0. -/
def roundFp (x : BitVec 32) (k : Nat := 0) : Int :=
  match fp32 x with
  | .fin n m e =>
    let e' := e + k
    let r : Nat := if e' ≥ 0 then m * 2 ^ e'.toNat else shiftRne m (-e').toNat false
    if n then -(r : Int) else r
  | _ => 0

/-- Whether the bits are a NaN. -/
def isNanFp (x : BitVec 32) : Bool := match fp32 x with | .nan => true | _ => false

/-! ## The exponential (R154) -/

/-- The largest FP32 magnitude at or below m·2^e. -/
def floorFp (m : Nat) (e : Int) : BitVec 32 :=
  if m = 0 then 0
  else
    let q := max (e + (Nat.log2 m + 1 : Nat) - 24) (-149)
    let r := if q ≤ e then m * 2 ^ (e - q).toNat else m >>> (q - e).toNat
    if r ≥ 2 ^ 23 ∧ q > 104 then 0x7F7FFFFF else BitVec.ofNat 32 (fpBits 8 23 false r q)

/-- Fixed point with 320 bits below the point. -/
def fixOne : Nat := 2 ^ 320

/-- The terms y^k / k! of the exponential of y, for k up to `n` more, from one term on. -/
def expTerms (y : Nat) : Nat → Nat → Nat → Nat
  | 0, _, _ => 0
  | n + 1, k, term => term + expTerms y n (k + 1) (term * y / fixOne / (k + 1))

/-- A value squared `n` times. -/
def squareTimes : Nat → Nat → Nat
  | 0, x => x
  | n + 1, x => squareTimes n (x * x / fixOne)

/-- exp of a = m·2^e below 128, in fixed point: the series at a / 128, squared seven times. -/
def expFix (m : Nat) (e : Int) : Nat := squareTimes 7 (expTerms (m * 2 ^ (e + 313).toNat) 70 0 fixOne)

/-- The largest FP32 value at or below exp of a value that is no NaN. -/
def expFloor (x : BitVec 32) : BitVec 32 :=
  match fp32 x with
  | .nan => fpNan
  | .inf neg => if neg then 0 else 0x7F800000
  | .fin neg m e =>
    if 2 ^ 7 * 2 ^ 149 ≤ m * 2 ^ (e + 149).toNat then (if neg then 0 else 0x7F800000)
    else if neg then floorFp (fixOne * fixOne / expFix m e) (-320)
    else floorFp (expFix m e) (-320)

/-- The exponential: an FP32 value within 1 ulp of the exact one, which of them by `pick` (log 4). Only exp 0 is a value
of the format, so for it there are three, and else two. -/
def expFp (pick : BitVec 32 → Nat) (x : BitVec 32) : BitVec 32 :=
  let d := expFloor x
  if isNanFp x || d == 0x7F800000 then d
  else if d == 0x3F800000 then BitVec.ofNat 32 (0x3F7FFFFF + pick x % 3)
  else d + BitVec.ofNat 32 (pick x % 2)

/-! ## Element formats (Table 10.9) -/

/-- Widen an element to FP32 exactly; `none` for INT32 and reserved codes. -/
def widen (fmt : Nat) (x : BitVec 32) : Option (BitVec 32) :=
  match fmt with
  | 0 => some x
  | 1 => some (toFp32 (fpOf 8 7 x.toNat))
  | 2 => some (toFp32 (fpOf 5 10 x.toNat))
  | 3 =>
    let n := x.toNat % 256
    if n % 128 = 127 then some fpNan
    else
      let frac := n % 8
      let ex := (n / 8) % 16
      let neg := decide (n ≥ 128)
      some (toFp32 (if ex = 0 then .fin neg frac (-9) else .fin neg (frac + 8) (ex - 10)))
  | 4 => some (toFp32 (fpOf 5 2 x.toNat))
  | _ => none

/-- Narrow to a format with infinities: BF16, FP16, E5M2. -/
def narrowIeee (eb mb : Nat) (nanBits : Nat) (osat : Bool) (x : BitVec 32) : Nat :=
  let sign (n : Bool) := if n then 2 ^ (eb + mb) else 0
  let infBits := (2 ^ eb - 1) * 2 ^ mb
  match fp32 x with
  | .nan => nanBits
  | .inf n => sign n + (if osat then infBits - 1 else infBits)
  | .fin n m e =>
    let bias : Int := 2 ^ (eb - 1) - 1
    let (r, q) := roundTo (mb + 1) (1 - bias - mb) m e
    if r ≥ 2 ^ mb ∧ q > bias - mb then sign n + (if osat then infBits - 1 else infBits)
    else fpBits eb mb n r q

/-- Narrow to E4M3: overflow to ±448 with OSAT, else NaN 0x7F. -/
def narrowE4M3 (osat : Bool) (x : BitVec 32) : Nat :=
  let tooBig (n : Bool) := if osat then (if n then 0xFE else 0x7E) else 0x7F
  match fp32 x with
  | .nan => 0x7F
  | .inf n => tooBig n
  | .fin n m e =>
    let (r, q) := roundTo 4 (-9) m e
    if r ≥ 8 ∧ (q > 5 ∨ (q = 5 ∧ r > 14)) then tooBig n else fpBits 4 3 n r q

/-- Convert the accumulator to the output format (Table 10.9). -/
def convertOut (fmt : Nat) (osat : Bool) (x : BitVec 32) : BitVec 32 :=
  match fmt with
  | 1 => BitVec.ofNat 32 (narrowIeee 8 7 0x7FC0 false x)
  | 2 => BitVec.ofNat 32 (narrowIeee 5 10 0x7E00 false x)
  | 3 => BitVec.ofNat 32 (narrowE4M3 osat x)
  | 4 => BitVec.ofNat 32 (narrowIeee 5 2 0x7E osat x)
  | _ => x

/-- Bytes of an element in a format (Table 10.9). -/
def fmtBytes : Nat → Nat
  | 1 | 2 => 2
  | 3 | 4 => 1
  | _ => 4

end Sys2Proof
end

