-- ==== Sys2Proof/Machine/Combine.lean ====
section
/-! DEFINITION. Combining queues (R250-R255): opening, contributions, combination, close. -/

namespace Sys2Proof.Machine

/-! ## The argument block (Table 10.8) -/

/-- The set that a block describes, for a context, a launch and an ARGIX. -/
def combOf (ctx launch : Nat) (argix : BitVec 32) (d : BitVec 512) : CombQ :=
  { ctx := ctx, state := .opening, argix := argix, launch := launch
    intMode := dField d 2 1 % 2 == 1, osat := dField d 2 1 / 2 % 2 == 1, ofmt := dField d 3 1
    orderN := dField d 4 1, slotN := dField d 8 4, elems := dField d 0x0C 4
    orderBase := BitVec.ofNat 64 (dField d 0x10 8), outBase := BitVec.ofNat 64 (dField d 0x18 8)
    outStride := dField d 0x20 4 }

/-- Reserved fields zero, every field in range, INT and OFMT agree (R251). -/
def combBlockOk (d : BitVec 512) : Bool :=
  let q := combOf 0 0 0 d
  decide (dField d 2 1 < 4) && dField d 5 3 == 0 && dField d 0x24 28 == 0
    && decide (q.ofmt ≤ 5) && decide (1 ≤ q.orderN) && decide (q.orderN ≤ 16)
    && decide (1 ≤ q.slotN) && decide (q.slotN ≤ 65536)
    && q.elems % 32 == 0 && decide (32 ≤ q.elems) && decide (q.elems ≤ 65536)
    && q.orderBase.toNat % 64 == 0 && q.outStride % 64 == 0 && decide (q.elems * fmtBytes q.ofmt ≤ q.outStride)
    && q.intMode == (q.ofmt == 5)

def Blk.cq? (b : Blk) (c q : Nat) : Option CombQ := tget b.hb.cqs (cqKey c q)
def Blk.putCq (b : Blk) (c q : Nat) (x : CombQ) : Blk :=
  b.modHb fun h => { h with cqs := tput h.cqs (cqKey c q) x }
def Blk.cqQ (b : Blk) (c : Nat) : Nat := ((b.ctx? c).map (fun x => x.record.cqQ)).getD 0

/-! ## The order table (Table 10.10) -/

def CombQ.headerAddr (q : CombQ) (s : Nat) : BitVec 64 := q.orderBase + BitVec.ofNat 64 (16 * s * (q.orderN + 1))

/-- MASK of a slot: the positions present. -/
def CbSlot.mask (s : CbSlot) : Nat := (s.puts.map (fun p => 2 ^ p.1)).foldl (· + ·) 0
def CombQ.full (q : CombQ) (s : CbSlot) : Bool := s.puts.length == q.orderN

def CbSlot.header (s : CbSlot) : List Byte :=
  leBytes 2 s.mask ++ leBytes 1 (b2n s.done + 2 * b2n s.miss) ++ leBytes 13 0

def putRecord (p : PutOp) : List Byte :=
  leBytes 8 p.addr.toNat ++ leBytes 4 p.weight.toNat ++ leBytes 1 p.fmt.toNat ++ leBytes 1 p.cfl.toNat ++ leBytes 2 0

def putWeighted (p : PutOp) : Bool := p.cfl.getLsbD 0
def putEmpty (p : PutOp) : Bool := p.cfl.getLsbD 1

/-! ## Opening (R251) -/

/-- CB_OPEN of context `c`: whether it is a task fault, and what it does. -/
def Blk.combOpen (c : Nat) (argix : BitVec 32) (d : BitVec 512) (b : Blk) : Blk × Bool :=
  let q := dField d 0 2
  let launch := ((b.ctx? c).map Ctx.launchCount).getD 0
  if b.cqQ c ≤ q then (b, true)
  else match b.cq? c q with
    | none =>
      if !combBlockOk d then (b, true)
      else
        let x := combOf c launch argix d
        ((b.putCq c q x).emit (.deviceZero x.orderBase (16 * (x.orderN + 1)) x.slotN), false)
    | some x => (b, x.state == .closing || x.argix != argix || x.launch != launch)

/-- Answer an operation that only succeeds or is a task fault. -/
def Blk.answerFault (e : Nat) (t : TaskRef) (p : Blk × Bool) : Blk :=
  if p.2 then p.1.opFault e t else p.1.opReply e stOk

/-- CB_OPEN (R250, R251). -/
def execCbOpen (e : Nat) (argix : BitVec 32) (block : BitVec 512) (s : State) : Host.Outcome State Fault Refusal :=
  atRun s e fun _ r b =>
    if r.parks then b.park e r.ref (.combineOpen argix block)
    else Blk.answerFault e r.ref (b.combOpen r.ref.ctx argix block)

/-! ## Contributions (R252, R255) -/

/-- A CB_PUT that its operands or its set make a task fault (R234, R252). -/
def CombQ.refuses (q : CombQ) (p : PutOp) : Bool :=
  decide (q.slotN ≤ p.slot) || decide (q.orderN ≤ p.pos) || (putWeighted p && q.intMode) || (p.fmt == 5) != q.intMode

/-- Record a contribution in an open set: whether it is a task fault. A position already present tears the context
down. -/
def Blk.record (c : Nat) (p : PutOp) (b : Blk) : Blk × Bool :=
  match b.cq? c p.queue with
  | none => (b, false)
  | some q =>
    if q.refuses p then (b, true)
    else
      let s := tgetD {} q.slots p.slot
      if (tget s.puts p.pos).isSome then (b.tearDown c stContextFault, false)
      else
        let s := { s with puts := tput s.puts p.pos p }
        let b := b.putCq c p.queue { q with slots := tput q.slots p.slot s }
        let h := q.headerAddr p.slot
        (((b.emit (.dmWrite (h + BitVec.ofNat 64 (16 * (p.pos + 1))) (putRecord p))).emit (.dmWrite h s.header)).bump
          .cbPut, false)

/-- A contribution at the hub, from a run or from the router: whether it is a task fault. -/
def Blk.contribute (c : Nat) (src : Option (Nat × TaskRef)) (p : PutOp) (b : Blk) : Blk × Bool :=
  if b.cqQ c ≤ p.queue || decide (6 ≤ p.fmt.toNat) || decide (4 ≤ p.cfl.toNat) then (b, true)
  else match b.cq? c p.queue with
    | none => (b.tearDown c stContextFault, false)
    | some q => match q.state with
      | .closing => (b.tearDown c stContextFault, false)
      | .opening =>
        if q.refuses p then (b, true) else (b.putCq c p.queue { q with held := q.held ++ [(src, p)] }, false)
      | .opened => b.record c p

/-- A task fault of a contribution: of its run; one that the router made tears its context down (log 18). -/
def Blk.putFault (c : Nat) (src : Option (Nat × TaskRef)) (p : Blk × Bool) : Blk :=
  if !p.2 then p.1
  else match src with
    | some x => p.1.taskFault x.1 x.2 stContextFault
    | none => p.1.tearDown c stContextFault

/-- CB_PUT (R252). -/
def execCbPut (e : Nat) (p : PutOp) (s : State) : Host.Outcome State Fault Refusal :=
  atRun s e fun _ r b =>
    if r.parks then b.park e r.ref (.contribution p)
    else Blk.answerFault e r.ref (b.contribute r.ref.ctx (some (e, r.ref)) p)

/-- CB_QUEUE_OPEN (R251, R252): the header writes of an opening set are acknowledged. -/
def execCbQueueOpen (ctx : Nat) (queue : Nat) (s : State) : Host.Outcome State Fault Refusal :=
  atContext s ctx fun _ b =>
    match b.cq? ctx queue with
    | none => b
    | some q =>
      if q.state != .opening || b.frozen then b
      else
        let b := (b.putCq ctx queue { q with state := .opened, held := [] }).bump .cbOpen
        b.forEach q.held fun x b => Blk.putFault ctx x.1 (b.record ctx x.2)

/-! ## Combination (R253) -/

/-- The contributions that a slot sums, in position order. -/
def CombQ.terms (q : CombQ) (s : CbSlot) : List PutOp :=
  (List.range q.orderN).filterMap fun p => (tget s.puts p).bind fun x => if putEmpty x then none else some x

/-- Saturating INT32 addition and whether it saturated. -/
def addInt (a x : BitVec 32) : BitVec 32 × Bool :=
  let r := a.toInt + x.toInt
  if r < -2147483648 then (0x80000000, true)
  else if 2147483647 < r then (0x7FFFFFFF, true)
  else (BitVec.ofInt 32 r, false)

/-- One FP32 term: widened and weighted. -/
def fpTerm (p : PutOp) (x : BitVec 32) : BitVec 32 :=
  let w := (widen p.fmt.toNat x).getD x
  if putWeighted p then mulFp p.weight w else w

/-- One element: its terms in position order; the number of saturations. -/
def combineElem (intMode : Bool) (xs : List (PutOp × BitVec 32)) : BitVec 32 × Nat :=
  match xs with
  | [] => (0, 0)
  | (p, x) :: r =>
    if intMode then
      r.foldl (fun acc y => let a := addInt acc.1 y.2; (a.1, acc.2 + b2n a.2)) (x, 0)
    else (r.foldl (fun acc y => addFp acc (fpTerm y.1 y.2)) (fpTerm p x), 0)

/-- The output row of a slot and its saturations. -/
def CombQ.combine (q : CombQ) (ts : List PutOp) (rows : List (List (BitVec 32))) : List Byte × Nat :=
  let cols := (List.range q.elems).map fun j =>
    combineElem q.intMode (ts.zip (rows.map fun r => (r[j]?).getD 0))
  (cols.flatMap fun c =>
      leBytes (fmtBytes q.ofmt) (if q.intMode then c.1 else convertOut q.ofmt q.osat c.1).toNat,
   (cols.map (·.2)).foldl (· + ·) 0)

/-- A slot may be combined: all positions present, or its queue is closing (R253, R254). -/
def CombQ.ripe (q : CombQ) (k : Nat) : Bool :=
  let s := tgetD {} q.slots k
  decide (k < q.slotN) && !s.done && (q.state == .closing || (q.state == .opened && q.full s))

/-- SLOT_COMBINE (R253, R254): a combining unit ends slot `slot`, whose contributed rows it has read. -/
def execSlotCombine (ctx : Nat) (queue slot : Nat) (rows : List (List (BitVec 32))) (s : State) :
    Host.Outcome State Fault Refusal :=
  if s.aon.grade.contexts ≤ ctx ∨ s.blk.frozen then .next s
  else match s.blk.cq? ctx queue with
    | none => .next s
    | some q =>
      if !q.ripe slot then .next s
      else
        let k := tgetD {} q.slots slot
        let ts := q.terms k
        if rows.length ≠ ts.length ∨ rows.any (fun r => r.length != q.elems) then .fault .obligationBroken
        else onBlk s fun _ b =>
          let r := q.combine ts rows
          let k := { k with done := true, miss := q.state == .closing }
          let b := b.emit (.dmWrite (q.outBase + BitVec.ofNat 64 (q.outStride * slot)) r.1)
          let b := (b.putCq ctx queue { q with slots := tput q.slots slot k }).emit
            (.dmWrite (q.headerAddr slot) k.header)
          (b.bump .cbSlot).bump .cbIntSat 0 r.2

/-! ## Close (R254) -/

/-- A combine-close task is issued to the hub: the queue named by its block must be open with its ARG_PTR. -/
def Blk.combineIssue (t : TaskRef) (argPtr : BitVec 32) (b : Blk) : Blk :=
  let launch := ((b.ctx? t.ctx).map Ctx.launchCount).getD 0
  match b.hb.cqs.find? (fun p => p.2.ctx == t.ctx && p.2.state == .opened && p.2.argix == argPtr && p.2.launch == launch) with
  | none => b.tearDown t.ctx stContextFault
  | some (k, q) =>
    let present := (q.slots.map (fun s => s.2.puts.length)).foldl (· + ·) 0
    (b.modHb fun h => { h with cqs := tput h.cqs k { q with state := .closing, closer := some t } }).bump .cbMissing 0
      (q.slotN * q.orderN - present)

/-- Slots that are done. -/
def CombQ.doneN (q : CombQ) : Nat := (q.slots.filter fun s => s.2.done).length

/-- COMBINE_CLOSE_DONE (R254): every output write is acknowledged, and the completion lands at the task's reach. -/
def execCombineCloseDone (ctx : Nat) (queue : Nat) (s : State) : Host.Outcome State Fault Refusal :=
  atContext s ctx fun _ b =>
    match b.cq? ctx queue with
    | none => b
    | some q => match q.closer with
      | none => b
      | some t =>
        if q.state != .closing || q.reported || q.doneN != q.slotN || b.frozen then b
        else (b.putCq ctx queue { q with reported := true }).modReach t.reach fun rc =>
          { rc with selfDone := rc.selfDone ++ [t] }

/-- Discard the open sets of a context (R254). -/
def Blk.dropSets (c : Nat) (b : Blk) : Blk :=
  b.modHb fun h => { h with cqs := h.cqs.filter fun p => p.2.ctx != c }

/-- Discard the open sets of a context's current launch, which its queue's destruction ended (R202, R254). -/
def Blk.dropLaunchSets (c : Nat) (b : Blk) : Blk :=
  let launch := ((b.ctx? c).map Ctx.launchCount).getD 0
  b.modHb fun h => { h with cqs := h.cqs.filter fun p => !(p.2.ctx == c && p.2.launch == launch) }

/-! ## Debugger view (R256, Table 10.13) -/

/-- DONE_N and HEAD of a queue: the slots with DONE, and MASK of the lowest slot without it (0 if none). -/
def CombQ.head (q : CombQ) : Nat :=
  (((List.range q.slotN).find? fun k => !(tgetD {} q.slots k).done).map fun k => (tgetD {} q.slots k).mask).getD 0

end Sys2Proof.Machine
end

