-- ==== Sys2Proof/Machine/Signals.lean ====
section
/-! DEFINITION. Journal acknowledgements and what waits on them (R27, R299, R303), remote signals (R221-R229), fabric
counts and telemetry (R272, R332, R341). -/

namespace Sys2Proof.Machine

/-! ## What device memory's acknowledgement of the journal lets go -/

/-- First transmission of every signal whose send record is acknowledged (R224; R303: not deferred). -/
def Blk.transmitSignals (v : Env) (b : Blk) : Blk :=
  let due (o : Outstanding) : Bool := o.sentAt.isNone && b.ticketWritten o.ticket
  let os := b.hb.outstanding.filter due
  let b := b.modHb fun h => { h with
    outstanding := h.outstanding.map fun o => if due o then { o with sentAt := some v.n } else o }
  (b.forEach os fun o b => b.emit (.fabric (fabricBeat (some o.packet.toNat) none))).bump .rsSent 0 os.length

/-- Send an acknowledgement of a signal. -/
def Blk.ackSignal (v : Env) (s : Signal) (status : BitVec 8) (b : Blk) : Blk :=
  (b.emit (.fabric (fabricBeat (some (ackBits s v.node status).toNat) none))).bump .rsAckSent

/-- Acknowledge every released signal whose release record is acknowledged (R229). -/
def Blk.ackReleased (v : Env) (b : Blk) : Blk :=
  let due (p : Nat × Signal) : Bool := b.ticketWritten p.1
  let ps := b.hb.ackDue.filter due
  let b := b.modHb fun h => { h with ackDue := h.ackDue.filter fun p => !due p }
  b.forEach ps fun p b => b.ackSignal v p.2 stOk

/-- The write of a WRITE_VALUE, the descriptor `index` of queue `q` of context `c`. -/
def Blk.fenceWrite (q c index : Nat) (d : BitVec 512) (b : Blk) : Blk :=
  let addr := BitVec.ofNat 64 (dField d 0x10 8)
  let value := BitVec.ofNat 64 (dField d 0x18 8)
  let b := b.modFe fun fe => { fe with fences := fe.fences ++ [{ queue := q, ctx := c, index := index }] }
  if addr.getLsbD 63 then b.ask (.valueWrite q (addr.setWidth 63) value) else b.emit (.dmWrite addr (leBytes 8 value.toNat))

/-- Issue the write of every fence whose record is acknowledged (R196). -/
def Blk.startFences (b : Blk) : Blk :=
  b.forEach b.fe.queues fun p b => b.forEach p.2.started fun x b =>
    match x.phase with
    | .fenceRecord t =>
      if !b.ticketDone t then b
      else (b.fenceWrite p.1 p.2.ctx x.index x.desc).modQueue p.1 fun u => { u with
        started := u.started.map fun y => if y.index = x.index then { y with phase := .fenceWrite } else y }
    | _ => b

/-- Everything that an acknowledgement lets go. -/
def Blk.afterAck (v : Env) (b : Blk) : Blk := (((b.releaseEffects v).transmitSignals v).ackReleased v).startFences

/-- JOURNAL_ACK (R27, R196, R224, R229, R299, R303): device memory acknowledges `slots` more slots in order; an
error response halts the journal channel and resets the block (Table 13.9). In a stop, signals, their acknowledgements and
fences wait for the resume (R103). -/
def execJournalAck (slots : Nat) (err : Bool) (s : State) : Host.Outcome State Fault Refusal :=
  onBlk s fun v b =>
    if b.rel.jHalted then b
    else if err then
      ((b.modRel fun l => { l with jHalted := true }).haltChannel v none).askReset .journalHalt
    else
      let b := b.modRel fun l => { l with acked := min l.slots (l.acked + slots) }
      if b.frozen then b.releaseEffects v else b.afterAck v

/-! ## The sender's side (R226) -/

/-- The hub and the debug unit are powered, so that what arrives for them passes their isolation (R276). -/
def Env.hubOn (v : Env) : Bool := v.domainUp 18
def Env.debugOn (v : Env) : Bool := v.domainUp 19

/-- SIGNAL_RESEND: an entry of the outstanding table, RESEND pulses after its last transmission. -/
def execSignalResend (stream : BitVec 16) (seq : BitVec 32) (s : State) : Host.Outcome State Fault Refusal :=
  onBlk s fun v b => if b.frozen then b else
    let due (o : Outstanding) : Bool := o.stream == stream && o.seq == seq
      && (match o.sentAt with | some p => decide (p + v.resend ≤ v.n) | none => false)
    match b.hb.outstanding.find? due with
    | none => b
    | some o =>
      let b := b.modHb fun h => { h with
        outstanding := lreplace due (fun o => { o with sentAt := some v.n }) h.outstanding }
      (b.emit (.fabric (fabricBeat (some o.packet.toNat) none))).bump .rsResend

/-- PTYPE 2 and no reserved field set (Table 9.6). -/
def ackWellFormed (p : BitVec 128) : Bool := bits p 0 8 == 2 && bits p 24 8 == 0 && bits p 80 16 == 0

/-- An acknowledgement matches an entry's destination node, STREAM, EPOCH and SEQ. -/
def Outstanding.matches (o : Outstanding) (p : BitVec 128) : Bool :=
  o.epoch.toNat == bits p 16 8 && o.stream.toNat == bits p 32 16 && o.dst.toNat == bits p 48 16
    && o.seq.toNat == bits p 96 32 && o.sentAt.isSome

/-- An arriving acknowledgement (R226). -/
def Blk.receiveAck (pkt : BitVec 128) (b : Blk) : Blk :=
  if !ackWellFormed pkt || !b.hb.outstanding.any (fun o => o.matches pkt) then b.bump .rsDiscard
  else
    let status := BitVec.ofNat 8 (bits pkt 8 8)
    let b := b.bump .rsAckRefused 0 (b2n (status != stOk))
    if status = stOk ∨ status = stPeerReset ∨ status = stContextFault then
      (b.modHb fun h => { h with outstanding := ldrop1 (fun o => o.matches pkt) h.outstanding }).bump .rsAcked
    else b

/-! ## The receiver's side (R227, R228) -/

def Blk.recv (b : Blk) (stream : BitVec 16) : RecvRec := tgetD {} b.hb.recvs stream.toNat
def Blk.putRecv (b : Blk) (stream : BitVec 16) (r : RecvRec) : Blk :=
  b.modHb fun h => { h with recvs := tput h.recvs stream.toNat r }

/-- A record takes an epoch: BASE 0, empty maps, the fabric counts shifted to it. -/
def RecvRec.adopt (r : RecvRec) (epoch : BitVec 8) : RecvRec :=
  let e := epoch - r.epoch
  { r with epoch := epoch, base := 0, held := 0, done := 0
           count := if e = 0 then r.count else if e = 1 then r.countN else 0
           countN := if e = 0 then r.countN else 0 }

/-- Move BASE past the signal at it, which is released: DONE and HELD shift (R228). -/
def RecvRec.advance (r : RecvRec) : RecvRec :=
  { r with base := r.base + 1, held := r.held >>> 1, done := r.done >>> 1 }

/-- Release the held signals of a stream that its count covers, in SEQ order (R228). -/
def Blk.releaseStream (stream : BitVec 16) : Nat → Blk → Blk
  | 0, b => b
  | n + 1, b =>
    let r := b.recv stream
    match b.hb.held.find? (fun s => s.stream == stream && s.seq == r.base) with
    | none => b
    | some s =>
      if (r.count - s.expect).toNat < 2 ^ 31 then
        let b := (b.putRecv stream r.advance).modHb fun h => { h with
          held := h.held.filter (· != s), newHeld := h.newHeld.filter (· != s), releasing := h.releasing ++ [s] }
        (b.bump .rsReleased).releaseStream stream n
      else b

/-- Release what every stream's count covers (R228). -/
def Blk.releaseHeld (b : Blk) : Blk :=
  b.forEach (b.hb.held.map Signal.stream) fun st b => b.releaseStream st 64

/-- A signal was released and its first acknowledgement is still to be sent; the repeat is not acknowledged before
it (R229; DEDUCED, log 20). -/
def Blk.ackPending (b : Blk) (s : Signal) : Bool :=
  let same (t : Signal) : Bool := t.stream == s.stream && t.seq == s.seq && t.epoch == s.epoch
  b.hb.releasing.any same || b.hb.ackDue.any (fun p => same p.2)

/-- Acknowledge a repeat of a released signal again. -/
def Blk.ackAgain (v : Env) (s : Signal) (b : Blk) : Blk := if b.ackPending s then b else b.ackSignal v s stOk

/-- The tests of Table 9.7 from the epoch on, for a record in use with the signal's epoch. -/
def Blk.acceptSignal (v : Env) (s : Signal) (b : Blk) : Blk :=
  let r := b.recv s.stream
  let d := (s.seq - r.base).toNat
  if b.torn s.ctx.toNat then (b.ackSignal v s stPeerReset).bump .rsStale
  else if 2 ^ 31 ≤ d then (b.ackAgain v s).bump .rsDuplicate
  else if 64 ≤ d then b.bump .rsWindow
  else if r.done.getLsbD d then (b.ackAgain v s).bump .rsDuplicate
  else if r.held.getLsbD d then b.bump .rsDuplicate
  else if 4096 ≤ b.hb.held.length then b.bump .rsHoldFull
  else
    let b := (b.putRecv s.stream { r with held := r.held ||| BitVec.ofNat 64 (2 ^ d) }).modHb fun h => { h with
      held := h.held ++ [s], newHeld := h.newHeld ++ [s] }
    (b.bump .rsAccepted).releaseStream s.stream 64

/-- An arriving signal (Table 9.7). -/
def Blk.receiveSignal (v : Env) (w : BitVec 256) (b : Blk) : Blk :=
  let s := signalOf w
  let r := b.recv s.stream
  if !signalWellFormed w || s.dst != v.node || !v.rsAccept then b.bump .rsDiscard
  else if !r.used then
    (b.putRecv s.stream { (r.adopt s.epoch) with used := true, src := s.src }).acceptSignal v s
  else if s.src ≠ r.src then b.bump .rsDiscard
  else
    let e := (s.epoch - r.epoch).toNat
    if 128 ≤ e then (b.ackSignal v s stPeerReset).bump .rsStale
    else if e = 0 then b.acceptSignal v s
    else if r.held ≠ 0 then b.bump .rsEpochWait
    else (b.putRecv s.stream (r.adopt s.epoch)).acceptSignal v s

/-- A packet of a beat by its PTYPE: an acknowledgement is followed by 16 zero bytes (R271); the rest are signals or are
discarded as such (Table 9.7). In a stop every packet is discarded and counted (R341). -/
def Blk.receivePacket (v : Env) (w : BitVec 256) (b : Blk) : Blk :=
  if b.frozen then b.bump .rsDiscard
  else if bits w 0 8 ≠ 2 then b.receiveSignal v w
  else if bits w 128 128 = 0 then b.receiveAck (w.setWidth 128)
  else b.bump .rsDiscard

/-- A beat of fb_rx (R271): the packets of its slots, slot 0 first. -/
def Blk.receiveBeat (v : Env) (x : FbBeat) (b : Blk) : Blk :=
  if !v.hubOn then b else b.forEach (packetsOf x) fun w b => b.receivePacket v w

/-- SIGNAL_RECEIVE (R227, R228, R271, R341): a beat with a signal. -/
def execSignalReceive (beat : FbBeat) (s : State) : Host.Outcome State Fault Refusal :=
  onBlk s fun v b => b.receiveBeat v beat

/-- SIGNAL_ACK_RECEIVE (R226, R271, R341): a beat with an acknowledgement. -/
def execSignalAckReceive (beat : FbBeat) (s : State) : Host.Outcome State Fault Refusal :=
  onBlk s fun v b => b.receiveBeat v beat

/-- FABRIC_COUNT_PUSH (R221, R228, R272, R341): the count of (STREAM, EPOCH); other epochs are discarded. -/
def execFabricCountPush (push : BitVec 56) (s : State) : Host.Outcome State Fault Refusal :=
  onBlk s fun v b => if !v.hubOn then b else
    let stream := BitVec.ofNat 16 (bits push 0 16)
    let epoch := BitVec.ofNat 8 (bits push 16 8)
    let count := BitVec.ofNat 32 (bits push 24 32)
    let r := b.recv stream
    if epoch = r.epoch then
      let b := b.putRecv stream { r with count := count }
      if b.frozen then b else b.releaseStream stream 64
    else if epoch = r.epoch + 1 then b.putRecv stream { r with countN := count }
    else b

/-! ## Effects of released signals (R229) -/

/-- An announcement passes to the router; a second one for its STREAM, RSD index and ROUND is discarded (R229). Of each
STREAM and RSD index the last 65,535 ROUNDs are known (DESIGN CHOICE, log 127). -/
def Blk.announced (c : Nat) (s : Signal) (b : Blk) : Blk :=
  let key := (c, s.target, s.stream, s.round)
  if b.rt.heard.contains key then b.bump .rsDuplicate
  else b.modRt fun t =>
    let same (k : Nat × BitVec 32 × BitVec 16 × BitVec 16) : Bool := k.1 == c && k.2.1 == s.target && k.2.2.1 == s.stream
    let old := if (t.heard.filter same).length < 65535 then t.heard else ldrop1 same t.heard
    { t with deliver := t.deliver ++ [(c, s.target, s.round, s.stream, s.value)], heard := old ++ [key] }

/-- A SYNC signal adds to a global object; one outside the context's objects tears the context down, and so does a sum
that saturates (R229, R216). -/
def Blk.syncSignal (v : Env) (s : Signal) (b : Blk) : Blk :=
  let c := s.ctx.toNat
  match b.ctx? c with
  | none => b
  | some x =>
    if x.faulted then b
    else if x.record.gsyncQ ≤ s.target.toNat then b.tearDown c stContextFault
    else
      let r := b.syncAddAt v (.ofHub (gsyncKey c s.target.toNat)) { kind := 2, src := s.stream.toNat } s.value
      if r.2 then r.1.tearDown c stSaturated else r.1

/-- The effect of one signal; none while its reach takes no more in this pulse. -/
def Blk.signalEffect (v : Env) (s : Signal) (b : Blk) : Option Blk :=
  let c := s.ctx.toNat
  match s.kind.toNat with
  | 0 =>
    let t : TaskRef := { ctx := c, id := s.target }
    if 16 ≤ (b.reach t.reach).hubSent then none
    else some ((b.hubDecrement t).modReach t.reach fun rc => { rc with hubSent := rc.hubSent + 1 })
  | 1 => some (b.syncSignal v s)
  | _ => some (b.announced c s)

/-- Deliver every effect that may be delivered in this pulse, in release order. -/
def Blk.signalEffects (v : Env) (b : Blk) : Blk :=
  let es := b.hb.effects
  let b := b.modHb fun h => { h with effects := [] }
  b.forEach es fun s b => match b.signalEffect v s with
    | some c => c
    | none => b.modHb fun h => { h with effects := h.effects ++ [s] }

/-- RELEASE_EFFECT (R229). -/
def execReleaseEffect (s : State) : Host.Outcome State Fault Refusal :=
  onBlk s fun v b => if b.frozen then b else b.signalEffects v

/-- The release records of the signals released in the pulse just ended (R229, Table 13.4). -/
def Blk.stageReleases (v : Env) (b : Blk) : Blk :=
  let ss := b.hb.releasing
  let b := b.bump .rsHeld 0 b.hb.newHeld.length
  let b := b.modHb fun h => { h with releasing := [], newHeld := [] }
  b.forEach ss fun s b =>
    let b := b.stage 17
      { type := .release, ctx := s.ctx.toNat, status := s.kind, epoch := s.epoch.toNat
        id := BitVec.ofNat 32 (s.stream.toNat + fieldAt 16 s.src.toNat), edge := v.n, aux := s.seq
        second := some (BitVec.ofNat 128 (s.expect.toNat + fieldAt 32 s.target.toNat + fieldAt 64 s.value.toNat
          + fieldAt 96 s.round.toNat)) }
    b.modHb fun h => { h with effects := h.effects ++ [s], ackDue := h.ackDue ++ [(b.lastTicket, s)] }

/-! ## Ends of streams -/

/-- Teardown of a context: held signals are discarded and answered, outstanding entries freed (R226, R229). -/
def Blk.dropSignals (v : Env) (c : Nat) (b : Blk) : Blk :=
  let mine := b.hb.held.filter fun s => s.ctx.toNat == c
  let b := b.bump .rsHeld 0 (b.hb.newHeld.filter fun s => s.ctx.toNat == c).length
  let b := b.modHb fun h => { h with
    held := h.held.filter (fun s => s.ctx.toNat != c), newHeld := h.newHeld.filter (fun s => s.ctx.toNat != c)
    outstanding := h.outstanding.filter (fun o => o.ctx != c) }
  b.forEach mine fun s b =>
    let r := b.recv s.stream
    (b.putRecv s.stream { r with held := r.held &&& ~~~(BitVec.ofNat 64 (2 ^ (s.seq - r.base).toNat)) }).ackSignal v s
      stPeerReset

/-- CONTEXT_DESTROY unbinds every stream of the context and keeps their EPOCH (R223). -/
def Blk.unbindStreams (c : Nat) (b : Blk) : Blk :=
  b.modHb fun h => { h with
    streams := h.streams.map fun p => if p.2.owner = some c then (p.1, { p.2 with owner := none }) else p }

/-! ## Queries and telemetry -/

/-- EPOCH_QUERY (R221): the stream's current EPOCH. -/
def execEpochQuery (e : Nat) (stream : BitVec 16) (s : State) : Host.Outcome State Fault Refusal :=
  atEngine s e fun _ b => b.emit (.epoch e (tgetD {} b.hb.streams stream.toNat).epoch)

/-- FABRIC_TELEMETRY (R272, R332). -/
def execFabricTelemetry (report : BitVec 64) (s : State) : Host.Outcome State Fault Refusal :=
  onBlk s fun v b => if !v.debugOn then b else
    let kind := bits report 8 4
    if kind < 4 then
      b.modDb fun d => { d with fabTel := tput d.fabTel (bits report 0 8 * 4 + kind) (BitVec.ofNat 52 (bits report 12 52)) }
    else b.bump .telemetryDiscard

end Sys2Proof.Machine
end

