-- ==== Sys2Proof/Machine/Shadow.lean ====
section
/-! DEFINITION. The write-hold buffer (R139-R143, R383): items parked, released in issue order after a commit,
discarded by a squash, pre-emption or abort. -/

namespace Sys2Proof.Machine

/-! ## What an agent has of a task -/

def DWord.isOf (t : TaskRef) (d : DWord) : Bool := d.ref == t

/-- The run that an agent has of a task. -/
def Agent.runOf (a : Agent) (t : TaskRef) : Option Run := a.run.filter fun r => r.ref == t

/-- An agent has a word that is not yet taken, a run or items of a task. -/
def Agent.has (a : Agent) (t : TaskRef) : Bool :=
  a.queue.any (DWord.isOf t) || (a.pre.map (DWord.isOf t)).getD false || (a.present.map (DWord.isOf t)).getD false
    || (a.runOf t).isSome || a.items.any (fun i => i.1 == t) || (a.stalled.map (·.1)) == some t || a.ackDue == some t

/-- The pend of remote signals that an agent keeps for a task: of its run, or of one that has ended (R222). -/
def Agent.pendOf (a : Agent) (t : TaskRef) : List RsigBlk :=
  match a.runOf t with
  | some r => r.rsig
  | none => ((a.ended.find? (fun r => r.ref == t)).map Run.rsig).getD []

def Agent.keepPend (a : Agent) (t : TaskRef) (l : List RsigBlk) : Agent :=
  if (a.runOf t).isSome then { a with run := a.run.map fun r => { r with rsig := l } }
  else { a with ended := lreplace (fun r => r.ref == t) (fun r => { r with rsig := l }) a.ended }

/-! ## Release (R142, Table 6.4) -/

/-- A fault of a released CB_OPEN, in the completion word that its task has still to release. -/
def Blk.openFault (e : Nat) (t : TaskRef) (p : Blk × Bool) : Blk :=
  if p.2 then p.1.taskFault e t stContextFault else p.1

/-- The completion word of an ended run, on its way to its reach. -/
def Blk.sendCompletion (e : Nat) (r : Run) (word : BitVec 128) (b : Blk) : Blk :=
  b.modAgent e fun a => { a with outCpl := a.outCpl ++
    [{ ref := r.ref, engine := e, word := word, rsig := r.rsig, census := r.census, close := r.close
       gang := r.dw.kind == .gang, shadow := r.dw.shadow }] }

/-- The effect of one released item. A memory write goes to the engine, which carries it out and acknowledges it;
the others act in the block (log 21). -/
def Blk.releaseItem (v : Env) (e : Nat) (t : TaskRef) (i : HoldItem) (b : Blk) : Blk :=
  match i with
  | .memWrite _ _ => (b.emit (.itemRelease e i)).modAgent e fun a => { a with ackDue := some t }
  | .syncSignal id delta => match b.syncLoc v e t.ctx id with
    | some l => b.runAdd v e t l { kind := 0, src := e } delta
    | none => b.taskFault e t stContextFault
  | .dmaSignal id delta => match b.syncLoc v e t.ctx id with
    | some l => b.runAdd v e t l { kind := 1, src := e } delta
    | none => b.taskFault e t stContextFault
  | .chanSend id p =>
    let r := b.sendOn e t id p
    if r.2.isNone then b.taskFault e t stContextFault else r.1
  | .chanMove id m =>
    let r := b.moveOn e t id m
    if r.2.isNone then b.taskFault e t stContextFault else r.1
  | .contribution p => Blk.putFault t.ctx (some (e, t)) (b.contribute t.ctx (some (e, t)) p)
  | .combineOpen argix d => Blk.openFault e t (b.combOpen t.ctx argix d)
  | .remoteSignal x => b.pendSignal e t ((b.agent e).pendOf t) (fun l b => b.modAgent e fun a => a.keepPend t l) x
  | .completion w => match (b.agent e).ended.find? (fun r => r.ref == t) with
    | some r => (b.sendCompletion e r w).modAgent e fun a => { a with ended := a.ended.filter (fun x => x.ref != t) }
    | none => b

/-- Remove an item from the buffer. -/
def Blk.takeItem (e : Nat) (x : TaskRef × HoldItem) (b : Blk) : Blk :=
  (b.modAgent e fun a => { a with items := ldrop1 (· == x) a.items }).bump .heldBytesReleased e (itemBytes x.2)

/-- A stalled item that now fits takes its place at the tail (R140); a completion word ends its run. -/
def Blk.unstall (e : Nat) (b : Blk) : Blk :=
  let a := b.agent e
  match a.stalled with
  | none => b
  | some (t, i) =>
    if 65536 < a.held + itemBytes i then b
    else
      let b := b.modAgent e fun a => { a with items := a.items ++ [(t, i)], stalled := none }
      match i with
      | .completion _ => b.modAgent e fun a => { a with ended := a.ended ++ a.run.toList, run := none }
      | _ => b

/-- A committed task whose items are all released: a run of it that goes on acts directly from then on. -/
def Agent.drained (a : Agent) (t : TaskRef) : Agent :=
  if a.items.any (fun i => i.1 == t) || a.ackDue == some t || (a.stalled.map (·.1)) == some t then a
  else
    let a := { a with run := a.run.map fun r => if r.ref = t then { r with committed := true } else r }
    if a.has t then a else { a with committed := a.committed.filter (· != t) }

/-- Release items of committed tasks in issue order, one memory write outstanding at a time, so that whatever
follows a write waits for its acknowledgement (R142). -/
def Blk.pump (v : Env) (e : Nat) : Nat → Blk → Blk
  | 0, b => b
  | n + 1, b =>
    let b := b.unstall e
    let a := b.agent e
    if a.ackDue.isSome then b
    else match a.items.find? (fun i => a.committed.contains i.1) with
      | none => b.modAgent e fun a => a.committed.foldl Agent.drained a
      | some x => ((b.takeItem e x).releaseItem v e x.1 x.2).pump v e n

/-- Release what may go; nothing while the data plane is stopped (R103, R219). -/
def Blk.release (v : Env) (e : Nat) (b : Blk) : Blk :=
  if b.frozen then b else b.pump v e ((b.agent e).items.length + 3)

/-! ## Discarding (R143, R145, Table 6.6) -/

/-- Fault statuses that a squash discards (Table 6.9): of a parked completion word, or of an active run. -/
def Agent.faultsHeld (a : Agent) (t : TaskRef) : Nat :=
  (a.items.filter fun i => i.1 == t && (match i.2 with | .completion w => cplStatus w != stOk | _ => false)).length
    + b2n (((a.runOf t).map fun r => r.status != stOk).getD false)

/-- Discard every item of a task. -/
def Blk.discardItems (e : Nat) (t : TaskRef) (squash : Bool) (b : Blk) : Blk :=
  let a := b.agent e
  let bytes := ((a.items.filter (fun i => i.1 == t)).map (fun i => itemBytes i.2)).foldl (· + ·) 0
  let b := b.modAgent e fun a => { a with
    items := a.items.filter (fun i => i.1 != t), ended := a.ended.filter (fun r => r.ref != t)
    committed := a.committed.filter (· != t), ackDue := if a.ackDue = some t then none else a.ackDue
    stalled := if (a.stalled.map (·.1)) = some t then none else a.stalled }
  let b := b.bump .heldBytesDiscarded e bytes
  if squash then b.bump .shadowFaultDiscard t.reach (a.faultsHeld t) else b

/-! ## Commands -/

/-- A memory-write item carries 1 to 256 bytes (Table 6.3). -/
def itemOk : HoldItem → Bool
  | .memWrite _ d => decide (1 ≤ d.length) && decide (d.length ≤ 256)
  | .completion _ => false
  | _ => true

/-- HOLD_ITEM (R139, R140, R142): an item of a shadow run at the tail of the buffer, or refused. After a commit it
goes behind the items that remain. -/
def execHoldItem (e : Nat) (item : HoldItem) (s : State) : Host.Outcome State Fault Refusal :=
  if s.aon.grade.engines ≤ e then .next s
  else
    let a := s.blk.agent e
    if s.blk.frozen || a.wait.isSome || a.stalled.isSome then .next s
    else match a.run with
      | none => .fault .obligationBroken
      | some r =>
        if !r.shadow || !r.active || !itemOk item then .fault .obligationBroken
        else onBlk s fun v b => (b.park e r.ref item).release v e

/-- A commit notice at an agent (R142, R383): it has effect where the agent holds the task. -/
def Blk.commitAt (v : Env) (e : Nat) (t : TaskRef) (b : Blk) : Blk :=
  if (b.agent e).has t then
    (b.modAgent e fun a => { a with committed := if a.committed.contains t then a.committed else a.committed ++ [t] }).release v e
  else b

/-- COMMIT_NOTICE (R142). -/
def execCommitNotice (e : Nat) (s : State) : Host.Outcome State Fault Refusal :=
  atEngine s e fun v b =>
    match (b.agent e).inCommits with
    | [] => b
    | t :: rest =>
      if b.frozen then b else (b.modAgent e fun a => { a with inCommits := rest }).commitAt v e t

/-- RELEASE_ITEM_ACK (R142): the released write is acknowledged at its destination. -/
def execReleaseItemAck (e : Nat) (s : State) : Host.Outcome State Fault Refusal :=
  atEngine s e fun v b =>
    if (b.agent e).ackDue.isNone then b
    else
      let b := b.modAgent e fun a => { a with ackDue := none }
      if b.frozen then b else b.release v e

/-- A squash notice at an agent (R143): a word not taken is dropped; an active run is aborted and its items go when
the engine acknowledges; otherwise the items go at once. -/
def Blk.squashAt (e : Nat) (t : TaskRef) (b : Blk) : Blk :=
  let b := b.modAgent e fun a => { a with queue := a.queue.filter fun d => d.ref != t || a.present == some d }
  let a := b.agent e
  let offered := (a.present.map (DWord.isOf t)).getD false
  if (a.runOf t).isSome || offered then
    let b := if a.abort.isNone then b.emit (.abort e) else b
    b.modAgent e fun a => { a with abort := if a.abort = some .request then a.abort else some .squash }
  else b.discardItems e t true

/-- SQUASH_NOTICE (R143). -/
def execSquashNotice (e : Nat) (s : State) : Host.Outcome State Fault Refusal :=
  atEngine s e fun _ b =>
    match (b.agent e).inSquashes with
    | [] => b
    | t :: rest => if b.frozen then b else (b.modAgent e fun a => { a with inSquashes := rest }).squashAt e t

end Sys2Proof.Machine
end

