-- ==== Sys2Proof/Machine/Agents.lean ====
section
/-! DEFINITION. Engine agents: dispatch words, runs, completions, pre-emption, aborts and tile pulls (R31, R62,
R113-R122, R202, R264-R266, R384). -/

namespace Sys2Proof.Machine

/-- The launch epoch that a dispatch word carries. -/
def DWord.epoch (d : DWord) : Nat := bits d.word 66 8

/-! ## Charges (R109, R281) -/

/-- The correction class of a task's charges: CODE[31:28] (R281); class 0 for the kinds whose CODE is ignored (R40;
DESIGN CHOICE, log 140). -/
def Task.chargeClass (x : Task) : Nat := if x.bare then 0 else bits x.code 28 4

/-- A charge fits the allowance that a reach has left in the pulse, or is its first. -/
def Blk.chargeOk (b : Blk) (r amount : Nat) : Bool :=
  match b.allow with
  | none => true
  | some _ => decide (amount ≤ (b.reach r).allowLeft) || !(b.reach r).charged

/-- Charge an amount of a class to a reach; a charge above the rest uses all of it. -/
def Blk.charge (r k amount : Nat) (b : Blk) : Blk :=
  b.modReach r fun rc => { rc with
    allowLeft := rc.allowLeft - amount, charged := rc.charged || decide (0 < amount)
    charges := if amount = 0 then rc.charges else tmod 0 rc.charges k (· + amount) }

/-! ## What an agent is doing -/

/-- A run in shadow: its task is not committed (R138). -/
def Agent.shadowRun (a : Agent) : Bool :=
  match a.run with
  | some r => r.shadow && !r.committed && !a.committed.contains r.ref
  | none => false

/-- The word of the task that an agent reports as running (R30, R115). -/
def Agent.running (a : Agent) : Option DWord :=
  match a.run with | some r => some r.dw | none => a.listWord

/-- What the broadcast says: class BE, and PREEMPT (R30, R121, R138). -/
def Agent.reportsBe (a : Agent) : Bool := a.shadowRun || ((a.running.map DWord.be).getD false)
def Agent.reportsPreempt (a : Agent) : Bool :=
  a.shadowRun || ((a.running.map fun d => d.taskPreempt && d.kind != .gang).getD false)

/-- Hold-busy: the buffer holds an item, or a run that began in shadow has not ended, committed or not (R136, R142). -/
def Agent.holdBusy (a : Agent) : Bool :=
  !a.items.isEmpty || a.stalled.isSome || ((a.run.map Run.shadow).getD false)

/-- The engine runs a BE task with PREEMPT set (R114). -/
def Agent.preemptible (a : Agent) : Bool := a.running.isSome && a.reportsBe && a.reportsPreempt

/-- Idle, with an empty dispatch queue (R30). -/
def Agent.free (a : Agent) : Bool :=
  a.joined && a.pwrGood && !a.fenced && a.run.isNone && a.listWord.isNone && a.present.isNone && a.pre.isNone
    && a.queue.isEmpty && a.abort.isNone && a.stalled.isNone

/-! ## Arrival of a word (R31, R114, R383, R384) -/

/-- A word is refused: counted, and returned to its reach for the next edge. -/
def Blk.refuse (e : Nat) (d : DWord) (b : Blk) : Blk :=
  let t := b.headOf d.ref
  let b := b.bump .dispatchRefusal t.reach
  b.modReach t.reach fun rc =>
    if d.gangMember.isSome then
      { rc with gangs := rc.gangs.map fun g => if g.ref = t then { g with refused := true } else g }
    else { rc with returns := rc.returns ++
      [{ ref := d.ref, engine := e, refused := true, tiles := d.tile.toList, shadow := d.shadow
         lowerHold := d.kind == .list && !d.shadow, epoch := d.epoch }] }

/-- The end of an agent's hold on a list task: HOLD falls, an index held in advance returns to the pool, an
outstanding pull is answered with nothing (R115, R118). -/
def Blk.endListHold (e : Nat) (b : Blk) : Blk :=
  let a := b.agent e
  match a.listWord with
  | none => b
  | some d =>
    let t := d.ref
    let b := if a.pull = .none then b else b.emit (.pullAnswer e 0xFFFFFFFF)
    let b := b.modReach t.reach fun rc =>
      (if a.pullEmpty then rc else rc.lowerHold t).addTiles t a.advance.toList
    b.modAgent e fun a => { a with
      listWord := none, advance := none, pull := .none, pullEmpty := false, fedFirst := false }

/-- The word that an agent may offer now: the pre-empting word, or the head of its queue unless it is held for its
gang (R113, R121). -/
def Agent.offer (a : Agent) : Option DWord :=
  if a.run.isSome || a.listWord.isSome || a.present.isSome || a.abort.isSome || a.stalled.isSome || a.fenced
      || !a.joined then none
  else match a.pre with
    | some d => some d
    | none => match a.queue with
      | d :: _ => if d.held then none else some d
      | [] => none

/-- Present a word on the engine port; ep_irq is high while it is presented. -/
def Blk.presentAt (v : Env) (e : Nat) (b : Blk) : Blk :=
  if b.frozen then b
  else match (b.agent e).offer with
    | none => b
    | some d => (b.modAgent e fun a => { a with present := some d, presentEdge := v.n }).emit (.present e d.word)

/-- Assert abort on an engine port for a cause; a request or a squash takes the place of a pre-emption (R115). -/
def Blk.assertAbort (e : Nat) (cause : AbortCause) (b : Blk) : Blk :=
  let b := if (b.agent e).abort.isNone then b.emit (.abort e) else b
  b.modAgent e fun a => { a with abort := some cause }

/-- A word joins the dispatch queue of 4, or is refused. -/
def Blk.enqueue (e : Nat) (d : DWord) (b : Blk) : Blk :=
  if (b.agent e).queue.length < 4 then b.modAgent e fun a => { a with queue := a.queue ++ [d] } else b.refuse e d

/-- A dispatch word reaches its agent. -/
def Blk.wordArrive (v : Env) (e : Nat) (d : DWord) (b : Blk) : Blk :=
  let a := b.agent e
  if !a.joined || !a.pwrGood || a.fenced then b.refuse e d
  else if d.preempting && a.pre.isNone && a.preemptible then
    let b := b.modAgent e fun a => { a with pre := some d }
    if a.run.isNone then (b.endListHold e).presentAt v e
    else if a.abort.isNone then b.assertAbort e .preempt else b
  else b.enqueue e d

/-- DISPATCH_WORD_ARRIVE (R31, R114): the oldest word on its way to the agent. -/
def execDispatchWordArrive (e : Nat) (s : State) : Host.Outcome State Fault Refusal :=
  atEngine s e fun v b =>
    match (b.agent e).inWords with
    | [] => b
    | d :: rest => (b.modAgent e fun a => { a with inWords := rest }).wordArrive v e d

/-- DISPATCH_PRESENT (R103, R113, R121). -/
def execDispatchPresent (e : Nat) (s : State) : Host.Outcome State Fault Refusal :=
  atEngine s e fun v b => b.presentAt v e

/-! ## Runs -/

/-- Where a register of watchpoint `w` of context `c` is (Table 14.13). -/
def wpOff (c w : Nat) : Nat := 0xB10000 + 0x400 * c + 0x10 * w

/-- The enabled watchpoints of a context: number, BASE, LEN, KIND (R344). -/
def Env.watchpoints (v : Env) (c : Nat) : List (Nat × BitVec 64 × BitVec 32 × Nat) :=
  if !v.aon.grade.hasWatchpoints then []
  else (List.range 64).filterMap fun w =>
    let kind := v.field (wpOff c w + 12) 0 2
    let len := v.reg (wpOff c w + 8)
    if kind = 0 ∨ len = 0 then none else some (w, v.pair (wpOff c w), len, kind)

/-- A run begins, presented at edge `since`: its local objects and its context's watchpoints are noted (R217, R344); a
shadow run whose task is committed with nothing parked acts directly. -/
def Blk.startRun (v : Env) (since e tile : Nat) (d : DWord) (b : Blk) : Blk :=
  b.modAgent e fun a =>
    let r : Run :=
      { dw := d, tile := tile, shadow := d.shadow, startEdge := since, watch := v.watchpoints d.ref.ctx }
    (a.committed.foldl Agent.drained { a.startLocals with run := some r })

/-- ENGINE_TAKE_DISPATCH (R266): the engine takes the presented word. A list word starts no run before a tile is
pulled. -/
def execEngineTakeDispatch (e : Nat) (s : State) : Host.Outcome State Fault Refusal :=
  atEngine s e fun v b =>
    match (b.agent e).present with
    | none => b
    | some d =>
      let b := b.modAgent e fun a =>
        if a.pre == some d then { a with present := none, pre := none }
        else { a with present := none, queue := a.queue.drop 1 }
      if d.kind == .list && !d.shadow then
        b.modAgent e fun a => { a with
          listWord := some d, fedFirst := false, advance := none, pull := .none, pullEmpty := false }
      else b.startRun v (b.agent e).presentEdge e (d.tile.getD d.tileField) d

/-- A wait of the engine ends without its operation being answered. -/
def Blk.cancelWait (e : Nat) (b : Blk) : Blk :=
  match (b.agent e).wait with
  | none => b
  | some (k, w) => b.endWait (if k < 4096 then .ofAgent e k else .ofHub (k - 4096)) w

/-- A run ends without a completion: local objects restored, its items discarded (R62, R64, R145). -/
def Blk.dropRun (e : Nat) (squash : Bool) (b : Blk) : Blk :=
  match (b.agent e).run with
  | none => b
  | some r =>
    let b := (b.cancelWait e).discardItems e r.ref squash
    b.modAgent e fun a => { a.restoreLocals with run := none, pull := if a.pull = .chunk then .none else a.pull }

/-- After a run of a list task: the tile held in advance starts, or the hold ends after an empty answer; a
pre-empting word that waits ends the hold (R114, R115, R118). -/
def Blk.nextTile (v : Env) (e : Nat) (b : Blk) : Blk :=
  let a := b.agent e
  match a.listWord with
  | none => b
  | some d =>
    if a.pre.isSome then b.endListHold e
    else match a.advance with
      | some k => (b.modAgent e fun a => { a with advance := none }).startRun v v.n e k { d with tile := some k }
      | none => if a.pullEmpty then b.endListHold e else b

/-- Reply to the aborts that waited for a run to end (R202). -/
def Blk.flushLate (e : Nat) (b : Blk) : Blk :=
  let a := b.agent e
  let busy (t : TaskRef) : Bool :=
    (a.run.map (fun r => b.headOf r.ref == t)).getD false || (a.present.map (fun d => b.headOf d.ref == t)).getD false
      || (a.listWord.map (fun d => b.headOf d.ref == t)).getD false || a.items.any (fun i => i.1 == t) || a.ackDue == some t
  let due := a.lateReplies.filter fun t => !busy t
  b.modAgent e fun a => { a with
    lateReplies := a.lateReplies.filter busy, outReplies := a.outReplies ++ due }

/-- The completion word of a run goes to its reach, into the hold of a stopped agent, or into the write-hold
buffer of a shadow run (R103, R113, R139). -/
def Blk.finishRun (v : Env) (e : Nat) (r : Run) (word : BitVec 128) (b : Blk) : Blk :=
  if r.parks then
    let a := b.agent e
    if 65536 < a.held + itemBytes (.completion word) then
      (b.modAgent e fun a => { a with stalled := some (r.ref, .completion word) }).emit (.holdRefused e)
    else
      (b.modAgent e fun a => { a with
        items := a.items ++ [(r.ref, .completion word)], ended := a.ended ++ [r], run := none }).release v e
  else
    let b := b.modAgent e fun a => { a with run := none }
    if b.db.stopped then
      b.modAgent e fun a => { a with cplHold := a.cplHold ++
        [{ ref := r.ref, engine := e, word := word, rsig := r.rsig, census := r.census, close := r.close
           gang := r.dw.kind == .gang, shadow := r.dw.shadow }] }
    else b.sendCompletion e r word

/-- ENGINE_COMPLETION at an active run. -/
def Blk.engineCompletes (v : Env) (e : Nat) (r : Run) (word : BitVec 128) (b : Blk) : Blk :=
  let word := withStatus word (completionStatus (cplStatus word) r.status)
  let t := b.headOf r.ref
  match (b.agent e).abort with
  | some .squash =>
    let b := b.runFault e (cplStatus word)
    ((b.dropRun e true).modAgent e fun a => { a with abort := none }).flushLate e
  | some .reset => ((b.dropRun e false).modAgent e fun a => { a with abort := none }).flushLate e
  | some .request =>
    -- a word that would be parked, or wait behind parked items, has not been sent: the run is aborted (Table 6.6)
    let b := b.modAgent e fun a => { a with abort := none }
    let b := if r.parks then (b.runAborted t).dropRun e false else b.finishRun v e r word
    ((b.endListHold e).modAgent e fun a => { a with outReplies := a.outReplies ++ [t] }).flushLate e
  | some .preempt => (((b.modAgent e fun a => { a with abort := none }).finishRun v e r word).nextTile v e).flushLate e
  | none => ((b.finishRun v e r word).nextTile v e).flushLate e

/-- ENGINE_COMPLETION (R103, R113, R115, R265, R309). While stopped an agent takes four words and the engine then
waits; in a block reset the run produces no completion. -/
def execEngineCompletion (e : Nat) (word : BitVec 128) (s : State) : Host.Outcome State Fault Refusal :=
  if s.aon.grade.engines ≤ e then .next s
  else
    let a := s.blk.agent e
    match a.run with
    | none => .fault .obligationBroken
    | some r =>
      if !r.active || a.wait.isSome then .fault .obligationBroken
      else if a.stalled.isSome || (s.blk.db.stopped && decide (4 ≤ a.cplHold.length)) then .next s
      else onBlk s fun v b =>
        if b.rel.phase ≠ 0 then
          (((b.dropRun e false).endListHold e).modAgent e fun a => { a with abort := none }).flushLate e
        else b.engineCompletes v e r word

/-- Whether what comes from an agent for a task is late: its launch is closed, or it names another launch (R202). -/
def Blk.isLate (b : Blk) (c epoch : Nat) : Bool :=
  ((b.ctx? c).map Ctx.closedLaunch).getD true || b.epoch c != epoch

/-- A completion word reaches its reach (R102, R202, R308). -/
def Blk.landWord (c : Cpl) (b : Blk) : Blk :=
  let t := b.headOf c.ref
  if b.torn t.ctx then b.discard t.reach
  else if b.isLate t.ctx (cplEpoch c.word) then b.bump .lateCompletion
  else b.modReach t.reach fun rc => { rc with landed := rc.landed ++ [.word c] }

/-- Land every completion word that an agent has sent. -/
def Blk.landAll (e : Nat) (b : Blk) : Blk :=
  let cs := (b.agent e).outCpl
  b.modAgent e (fun a => { a with outCpl := [], landDue := 0 }) |>.forEach cs fun c b => b.landWord c

/-- The oldest completion word that an agent has sent lands. -/
def Blk.landNext (e : Nat) (b : Blk) : Blk :=
  match (b.agent e).outCpl with
  | [] => b
  | c :: rest => (b.modAgent e fun a => { a with outCpl := rest, landDue := a.landDue - 1 }).landWord c

/-- Words held over a stop land in the pulse of the resume (R104). -/
def Blk.landHeld (e : Nat) (b : Blk) : Blk :=
  b.forEach (List.range (b.agent e).landDue) fun _ b => b.landNext e

/-- COMPLETION_LAND (R102). -/
def execCompletionLand (e : Nat) (s : State) : Host.Outcome State Fault Refusal :=
  atEngine s e fun _ b => if b.frozen then b else b.landNext e

/-! ## The abort acknowledgement (R114, R115, R122, R143) -/

/-- The notice of a pre-empted run: its tile and the tile held in advance, and HOLD, return with it. -/
def Blk.preemptNotice (e : Nat) (r : Run) (b : Blk) : Blk :=
  let a := b.agent e
  let list := a.listWord.isSome
  let x : Return := { ref := r.ref, engine := e, refused := false
                      tiles := if list || r.dw.tile.isSome then r.tile :: a.advance.toList else []
                      shadow := a.shadowRun, lowerHold := list && !a.pullEmpty
                      by_ := (a.pre.map fun d => d.ref.id).getD 0, epoch := r.dw.epoch }
  let b := if a.pull = .none then b else b.emit (.pullAnswer e 0xFFFFFFFF)
  (b.dropRun e false).modAgent e fun a => { a with
    listWord := none, advance := none, pull := .none, pullEmpty := false, outReturns := a.outReturns ++ [x] }

/-- An offered word that the engine gives back. -/
def Agent.dropOffered (a : Agent) : Agent :=
  match a.present with
  | none => a
  | some d => if a.pre == some d then { a with present := none, pre := none }
    else { a with present := none, queue := a.queue.filter (· != d) }

/-- The engine has acknowledged an abort. -/
def Blk.abortAcked (e : Nat) (cause : AbortCause) (b : Blk) : Blk :=
  let a := b.agent e
  let b := b.modAgent e fun a => { a with abort := none }
  let t := (a.run.map fun r => b.headOf r.ref).orElse fun _ => a.present.map fun d => b.headOf d.ref
  match cause, a.run with
  | .preempt, some r => b.preemptNotice e r
  | .preempt, none => b
  | .request, r =>
    let b := match r, t with | some _, some t => b.runAborted t | _, _ => b
    let b := ((b.dropRun e false).endListHold e).modAgent e Agent.dropOffered
    b.modAgent e fun a => { a with outReplies := a.outReplies ++ t.toList }
  | .squash, _ => (b.dropRun e true).modAgent e fun a => if a.run.isNone && t.isSome then a.dropOffered else a
  | .reset, _ => ((b.dropRun e false).endListHold e).modAgent e Agent.dropOffered

/-- ENGINE_ABORT_ACK (R64, R114, R122, R143, R266); a pre-empting word is then presented ahead of the queue. -/
def execEngineAbortAck (e : Nat) (s : State) : Host.Outcome State Fault Refusal :=
  atEngine s e fun v b =>
    match (b.agent e).abort with
    | none => b
    | some cause =>
      let b := ((b.modAgent e fun a => { a with ackAt := some v.n }).abortAcked e cause).flushLate e
      if (b.agent e).pre.isSome then b.presentAt v e else b

/-- PREEMPTION_NOTICE_LAND (R115, R202, R308): the oldest notice lands at the reach of the aborted task. -/
def execPreemptionNoticeLand (e : Nat) (s : State) : Host.Outcome State Fault Refusal :=
  atEngine s e fun _ b =>
    match (b.agent e).outReturns with
    | [] => b
    | x :: rest =>
      if b.frozen then b
      else
        let b := b.modAgent e fun a => { a with outReturns := rest }
        let t := b.headOf x.ref
        if b.torn t.ctx then b.discard t.reach
        else if b.isLate t.ctx x.epoch then b.bump .lateCompletion
        else b.modReach t.reach fun rc => { rc with returns := rc.returns ++ [x] }

/-! ## Abort requests (R122, R202, Table 5.4) -/

/-- An abort request reaches an agent: words not offered are dropped, an ended run's items discarded, an active run
aborted. A QUEUE_DESTROY without ABORT leaves a presented run that is not in shadow; one that is being pre-empted then
sends its notice at the acknowledgement and its reply after it, which R115 and R202 leave open (DESIGN CHOICE, log 145).
-/
def Blk.abortAt (e : Nat) (t : TaskRef) (why : AbortWhy) (b : Blk) : Blk :=
  let mine (d : DWord) : Bool := b.headOf d.ref == t
  let gentle := match why with | .queue _ force => !force | .teardown => false
  let b := b.modAgent e fun a => { a with
    queue := a.queue.filter fun d => !mine d || a.present == some d
    pre := a.pre.filter fun d => !mine d || a.present == some d }
  let a := b.agent e
  let runMine := (a.run.map fun r => mine r.dw).getD false
  let offered := (a.present.map mine).getD false
  let listMine := (a.listWord.map mine).getD false
  let leave := gentle && ((runMine && !a.shadowRun) || (offered && !((a.present.map DWord.shadow).getD false))
    || (!runMine && !offered && a.committed.contains t))
  if leave then
    let b := if listMine && !a.pullEmpty then
        let b := if a.pull = .none then b else b.emit (.pullAnswer e 0xFFFFFFFF)
        (b.modReach t.reach fun rc => (rc.lowerHold t).addTiles t a.advance.toList).modAgent e fun a =>
          { a with pullEmpty := true, pull := .none, advance := none }
      else b
    (b.modAgent e fun a => { a with lateReplies := a.lateReplies ++ [t] }).flushLate e
  else if runMine || offered then b.assertAbort e .request
  else
    let b := if listMine then b.endListHold e else b
    (b.discardItems e t false).modAgent e fun a => { a with outReplies := a.outReplies ++ [t] }

/-- ABORT_REQUEST (R122). -/
def execAbortRequest (e : Nat) (s : State) : Host.Outcome State Fault Refusal :=
  atEngine s e fun _ b =>
    match (b.agent e).inAborts with
    | [] => b
    | x :: rest => if b.frozen then b else (b.modAgent e fun a => { a with inAborts := rest }).abortAt e x.1 x.2

/-- ABORT_REPLY_LAND (R122): completion words sent before a reply land no later than it. -/
def execAbortReplyLand (e : Nat) (s : State) : Host.Outcome State Fault Refusal :=
  atEngine s e fun _ b =>
    match (b.agent e).outReplies with
    | [] => b
    | t :: rest =>
      if b.frozen then b
      else ((b.modAgent e fun a => { a with outReplies := rest }).landAll e).modReach t.reach fun rc =>
        { rc with repliesIn := rc.repliesIn ++ [(t, e)] }

/-! ## Tile pulls (R118) -/

/-- An empty answer ends the engine's hold, after the tile that it runs. -/
def Blk.emptyPull (e : Nat) (b : Blk) : Blk :=
  let a := b.agent e
  if a.run.isNone then b.endListHold e
  else match a.listWord with
    | none => b
    | some d =>
      ((b.emit (.pullAnswer e 0xFFFFFFFF)).modReach d.ref.reach fun rc => rc.lowerHold d.ref).modAgent e fun a =>
        { a with pull := .none, pullEmpty := true }

/-- A tile goes to an agent: its first starts at once, a later one when the current tile ends. -/
def Blk.giveTile (v : Env) (e k : Nat) (d : DWord) (b : Blk) : Blk :=
  let b := (b.emit (.pullAnswer e (BitVec.ofNat 32 k))).modAgent e fun a => { a with pull := .none, fedFirst := true }
  if (b.agent e).run.isNone then b.startRun v v.n e k { d with tile := some k }
  else b.modAgent e fun a => { a with advance := some k }

/-- LAST of a task is written: the engine of its dispatch, or of its most recent tile (R71). -/
def Blk.setLast (t : TaskRef) (e : Nat) (b : Blk) : Blk := b.modTask t fun x => { x with last := BitVec.ofNat 11 e }

/-- Answer an outstanding tile pull if this pulse's permit and allowance admit it. -/
def Blk.answerPull (v : Env) (e : Nat) (b : Blk) : Blk :=
  let a := b.agent e
  match a.listWord with
  | none => b
  | some d =>
    let t := d.ref
    if a.pull != .tile || b.frozen || b.coreHalted then b
    else if b.torn t.ctx then b.emptyPull e
    else if b.isLate t.ctx d.epoch then (b.bump .lateCompletion).emptyPull e
    else match b.task? t with
      | none => b.emptyPull e
      | some x =>
        if x.state != .ready && x.state != .dispatched then b.emptyPull e
        else if !b.dspEn || (x.be && !b.beEn) then b
        else match (b.reach t.reach).takeTile t x.tiles.toNat with
          | none => b.emptyPull e
          | some (k, rc) =>
            let amount := if a.fedFirst then energyPj x.energy else 0
            if !b.chargeOk t.reach amount then b
            else ((((b.modReach t.reach fun _ => rc).charge t.reach x.chargeClass amount).setLast t e).bump .tilePull
              t.reach).giveTile v e k d

/-- TILE_PULL (R118): the puller of an agent that holds a list word asks for its next tile. -/
def execTilePull (e : Nat) (s : State) : Host.Outcome State Fault Refusal :=
  atEngine s e fun v b =>
    let a := b.agent e
    if a.listWord.isNone || a.pull != .none || a.advance.isSome || a.pullEmpty || a.abort.isSome then b
    else (b.modAgent e fun a => { a with pull := .tile }).answerPull v e

end Sys2Proof.Machine
end

