-- ==== Sys2Proof/Machine/Signature.lean ====
section
/-! DEFINITION. The signature of a firmware image (R207): ECDSA on curve P-384 over a SHA-384 digest. The spec names
the two standards; their text is not part of it (PRESUMED, log 124). -/

namespace Sys2Proof.Machine

/-! ## SHA-384 -/

/-- The largest r below 2^n with r^k at most x, found bit by bit. -/
def rootBits (k x : Nat) : Nat → Nat → Nat
  | 0, r => r
  | n + 1, r => rootBits k x n (if (r + 2 ^ n) ^ k ≤ x then r + 2 ^ n else r)

/-- The first 64 bits after the point of the k-th root of p. -/
def rootFrac (k p : Nat) : BitVec 64 := BitVec.ofNat 64 (rootBits k (p * 2 ^ (64 * k)) 70 0)

/-- The primes from the first one up to 409, which is the eightieth. -/
def smallPrimes : List Nat :=
  (List.range 410).filter fun p => decide (2 ≤ p) && (List.range 21).all fun d => decide (d < 2) || p ≤ d || p % d != 0

/-- Round constants and first hash value: from the cube roots of the primes, and the square roots of the ninth to the
sixteenth. -/
def shaRounds : List (BitVec 64) := smallPrimes.map (rootFrac 3)
def shaFirst : List (BitVec 64) := ((smallPrimes.drop 8).take 8).map (rootFrac 2)

/-- The message with its one bit, zeros and 128-bit length, as 64-bit words, most significant byte first. -/
def shaWords (bs : List Byte) : List (BitVec 64) :=
  let zeros := (239 - bs.length % 128) % 128
  let all := bs ++ 0x80 :: List.replicate zeros 0 ++ (leBytes 16 (8 * bs.length)).reverse
  (List.range (all.length / 8)).map fun i => BitVec.ofNat 64 (leNat ((all.drop (8 * i)).take 8).reverse)

/-- The message schedule, latest word first. -/
def shaExtend : Nat → List (BitVec 64) → List (BitVec 64)
  | 0, w => w
  | n + 1, w =>
    let x := (w[1]?).getD 0
    let y := (w[14]?).getD 0
    let s1 := x.rotateRight 19 ^^^ x.rotateRight 61 ^^^ (x >>> 6)
    let s0 := y.rotateRight 1 ^^^ y.rotateRight 8 ^^^ (y >>> 7)
    shaExtend n ((s1 + (w[6]?).getD 0 + s0 + (w[15]?).getD 0) :: w)

/-- One round on the working variables a to h. -/
def shaRound (s : List (BitVec 64)) (kw : BitVec 64 × BitVec 64) : List (BitVec 64) :=
  match s with
  | [a, b, c, d, e, f, g, h] =>
    let big1 := e.rotateRight 14 ^^^ e.rotateRight 18 ^^^ e.rotateRight 41
    let big0 := a.rotateRight 28 ^^^ a.rotateRight 34 ^^^ a.rotateRight 39
    let t := h + big1 + ((e &&& f) ^^^ (~~~e &&& g)) + kw.1 + kw.2
    [t + big0 + ((a &&& b) ^^^ (a &&& c) ^^^ (b &&& c)), a, b, c, d + t, e, f, g]
  | _ => s

/-- One block of 16 words. -/
def shaBlock (h block : List (BitVec 64)) : List (BitVec 64) :=
  let w := (shaExtend 64 block.reverse).reverse
  (h.zip ((shaRounds.zip w).foldl shaRound h)).map fun p => p.1 + p.2

def shaBlocks : Nat → List (BitVec 64) → List (BitVec 64) → List (BitVec 64)
  | 0, h, _ => h
  | n + 1, h, ws => shaBlocks n (shaBlock h (ws.take 16)) (ws.drop 16)

/-- The SHA-384 digest as a number. -/
def sha384 (bs : List Byte) : Nat :=
  let ws := shaWords bs
  ((shaBlocks (ws.length / 16) shaFirst ws).take 6).foldl (fun n x => n * 2 ^ 64 + x.toNat) 0

/-! ## Curve P-384 -/

def p384 : Nat := 2 ^ 384 - 2 ^ 128 - 2 ^ 96 + 2 ^ 32 - 1
def p384Order : Nat :=
  0xffffffffffffffffffffffffffffffffffffffffffffffffc7634d81f4372ddf581a0db248b0a77aecec196accc52973
def p384B : Nat :=
  0xb3312fa7e23ee7e4988e056be3f82d19181d9c6efe8141120314088f5013875ac656398d8a2ed19d2a85c8edd3ec2aef
def p384G : Nat × Nat :=
  (0xaa87ca22be8b05378eb1c71ef320ad746e1d3b628ba79b9859f741e082542a385502f25dbf55296c3a545e3872760ab7,
   0x3617de4a96262c6f5d9e98bf9292dc29f8f41dbd289a147ce9da3113b5f0b8c00a60b1ce1d7e819d7a431d7c90ea0e5f)

/-- x to the power of the low n bits of e, modulo m. -/
def powMod (m : Nat) : Nat → Nat → Nat → Nat
  | 0, _, _ => 1
  | n + 1, x, e =>
    let half := powMod m n (x * x % m) (e / 2)
    if e % 2 = 1 then half * x % m else half

/-- The inverse modulo a prime of 384 bits. -/
def invMod (m x : Nat) : Nat := powMod m 384 (x % m) (m - 2)

/-- Points: none is the point at infinity. -/
def pointAdd (a b : Option (Nat × Nat)) : Option (Nat × Nat) :=
  match a, b with
  | none, q => q
  | p, none => p
  | some (x, y), some (z, t) =>
    if x = z ∧ (y + t) % p384 = 0 then none
    else
      let slope := if x = z then (3 * x * x + (p384 - 3)) * invMod p384 (2 * y) % p384
        else (t + (p384 - y)) * invMod p384 (z + (p384 - x)) % p384
      let u := (slope * slope + 2 * p384 - x - z) % p384
      some (u, (slope * (x + (p384 - u)) + (p384 - y)) % p384)

def pointMul : Nat → Nat → Option (Nat × Nat) → Option (Nat × Nat)
  | 0, _, _ => none
  | n + 1, k, p =>
    let rest := pointMul n (k / 2) (pointAdd p p)
    if k % 2 = 1 then pointAdd rest p else rest

/-- A public key is a point of the curve. -/
def onCurve (q : Nat × Nat) : Bool :=
  decide (q.1 < p384) && decide (q.2 < p384)
    && (q.2 * q.2) % p384 == (q.1 * q.1 * q.1 + (p384 - 3) * q.1 + p384B) % p384

/-- Verify signature (r, s) of a digest. -/
def ecdsaOk (key : Nat × Nat) (digest r s : Nat) : Bool :=
  if r = 0 ∨ p384Order ≤ r ∨ s = 0 ∨ p384Order ≤ s ∨ !onCurve key then false
  else
    let w := invMod p384Order s
    match pointAdd (pointMul 384 (digest * w % p384Order) (some p384G)) (pointMul 384 (r * w % p384Order) (some key)) with
    | none => false
    | some p => p.1 % p384Order == r

/-- The signature of an image: r and s, 48 bytes each, little-endian, over every byte before them (R207). -/
def signatureOk (key : Nat × Nat) (image : List Byte) : Bool :=
  let n := image.length - 96
  ecdsaOk key (sha384 (image.take n)) (leAt image n 48) (leAt image (n + 48) 48)

end Sys2Proof.Machine
end

