-- ==== Sys2Proof/Machine/Firmware.lean ====
section
/-! DEFINITION. The firmware image and the control cores (R207, R208, R298, R316). -/

namespace Sys2Proof.Machine

open Sys2Proof.Config

/-- A write of GO (R208): in BOOT_WAIT a load starts, and FE_FW_BYTES bytes are read from host memory. -/
def Blk.fwGo (v : Env) (b : Blk) : Blk :=
  if b.fe.fwState ≠ .bootWait then b
  else
    (b.modFe fun fe => { fe with fwState := .loading, fwAttempts := min 0xFFFF (fe.fwAttempts + 1) }).ask
      (.firmwareRead ((v.pair 0x100100).setWidth 63) (v.reg 0x100108).toNat)

def fwCpi (bs : List Byte) : Nat := leAt bs 0x10 4
def fwCpd (bs : List Byte) : Nat := leAt bs 0x14 4
def fwRc (bs : List Byte) : Nat := leAt bs 0x18 4

/-- MAGIC, FORMAT and the reserved bytes of the header (Table 8.22; reserved bytes under REASON 1: log 27). -/
def fwHeadOk (bs : List Byte) : Bool :=
  decide (64 ≤ bs.length) && leAt bs 0 4 == 0x57464B4F && leAt bs 4 2 == 0x0102 && zeroAt bs 6 2 && zeroAt bs 0x0E 2
    && zeroAt bs 0x1C 4 && zeroAt bs 0x28 24

/-- Lengths and TOTAL against FE_FW_BYTES. -/
def fwBoundsOk (bs : List Byte) (bytes : Nat) : Bool :=
  fwCpi bs % 64 == 0 && fwCpd bs % 64 == 0 && fwRc bs % 64 == 0 && decide (fwCpi bs ≤ 262144)
    && decide (fwCpd bs ≤ 524288) && decide (fwRc bs ≤ 65536)
    && leAt bs 0x20 8 == 64 + fwCpi bs + fwCpd bs + fwRc bs + 96 && leAt bs 0x20 8 == bytes

/-- The same of an image that was read whole. -/
def fwLengthsOk (bs : List Byte) (bytes : Nat) : Bool := fwBoundsOk bs bytes && bytes == bs.length

/-- LEVEL is 3 and GRADES names this grade. -/
def fwServes (g : Grade) (bs : List Byte) : Bool :=
  leAt bs 0x0C 1 == 3 && decide (leAt bs 0x0D 1 < 64) && leAt bs 0x0D 1 / 2 ^ (g.number - 1) % 2 == 1

/-- The first check that fails (Table 8.27), 0 if none: in the order in which REASON can tell them apart (log 27). -/
def fwReason (v : Env) (bs : List Byte) : Nat :=
  if !fwHeadOk bs then 1
  else if !fwLengthsOk bs (v.reg 0x100108).toNat then 2
  else if !fwServes v.aon.grade bs then 5
  else if !signatureOk bootKey bs then 4
  else 0

/-- A load has failed with a reason. -/
def Blk.fwReject (reason : Nat) (b : Blk) : Blk :=
  ((b.modFe fun fe => { fe with fwState := .bootWait, fwReason := reason }).bump .fwReject).alarm 8

/-- A section written over the front of a memory. -/
def overFront (new old : List Byte) : List Byte := new ++ old.drop new.length

/-- The sections, as far as they were read, are written into the CP and RC memories as the image is read, whatever the
checks after it find, and their whole pages become valid (R208, R316). A header whose lengths do not fit the image
bounds no section: none is written (DESIGN CHOICE, log 27). -/
def Blk.fwSections (v : Env) (image : List Byte) (b : Blk) : Blk :=
  if image.length < 64 || !fwBoundsOk image (v.reg 0x100108).toNat then b
  else
    let cpi := (image.drop 64).take (fwCpi image)
    let cpd := (image.drop (64 + fwCpi image)).take (fwCpd image)
    let rc := (image.drop (64 + fwCpi image + fwCpd image)).take (fwRc image)
    (((b.modFe fun fe => { fe with
      cpInstr := overFront cpi fe.cpInstr, cpData := overFront cpd fe.cpData, rcMem := overFront rc fe.rcMem }).validate
        34 0 cpi.length).validate 35 0 cpd.length).validate 36 0 rc.length

/-- FIRMWARE_LOAD_DONE (R207, R208, R209, R316): the image has been read, or an error ended its reading after the bytes
given (REASON 3). -/
def execFirmwareLoadDone (image : List Byte) (err : Bool) (s : State) : Host.Outcome State Fault Refusal :=
  onBlk s fun v b =>
    let b := b.hostRsp (fun r => match r with | .firmwareRead _ _ => true | _ => false) err
    if b.fe.fwState ≠ .loading then b
    else if err then (b.fwSections v image).fwReject 3
    else
      let reason := fwReason v image
      let b := b.fwSections v image
      if reason ≠ 0 then b.fwReject reason
      else b.modFe fun fe => { fe with fwState := .running, fwReason := 0 }

def coreCode : Core → Nat | .cp => 0 | .rc => 1

/-- An INSN record at byte address `pc` (Table 14.8). The instructions retired since the core's last INSN record are the
core's own: a free value (log 4). -/
def Blk.traceInsn (v : Env) (core : Core) (sub pc : Nat) (b : Blk) : Blk :=
  let retired := bits b.free 0 16
  b.spend.trace v false { edge := v.n, type := 9, sub := sub, id := BitVec.ofNat 32 pc
                          aux := BitVec.ofNat 64 (coreCode core + fieldAt 16 retired) }

/-- CP_TRAP (R298): a trap of CP or RC causes a block reset, and an INSN record; where the core trapped is its own, a free
value (log 4). Neither core runs before its firmware does. -/
def execCpTrap (core : Core) (s : State) : Host.Outcome State Fault Refusal :=
  onBlk s fun v b =>
    if b.fe.fwState ≠ .running then b
    else (b.spend.traceInsn v core 1 (4 * bits b.free 16 30)).askReset (match core with | .cp => .cpTrap | .rc => .rcTrap)

/-- CP_HEARTBEAT_SILENT (R298): the heartbeat of the running CP has been silent for 65,536 pulses. The
watchdog does not advance while a core is halted at a breakpoint (R342). -/
def execCpHeartbeatSilent (s : State) : Host.Outcome State Fault Refusal :=
  onBlk s fun _ b =>
    if b.fe.fwState ≠ .running || b.db.cpHalted || b.db.rcHalted then b else b.askReset .cpHeartbeat

/-- BLK_RESET_REQ (R298): a rising edge of the pin. -/
def execBlkResetReq (s : State) : Host.Outcome State Fault Refusal := onBlk s fun _ b => b.askReset .pin

end Sys2Proof.Machine
end

