-- ==== Sys2Proof/Machine/Governor.lean ====
section
/-! DEFINITION. The power governor (12_power.md): metering and the permit at an edge, the control loop, calibration,
droop, sag, boost. -/

namespace Sys2Proof.Machine

open Sys2Proof.Config

/-! ## Parameters in use -/

/-- PG_TARGET_MW, PG_CEIL_MW, PG_FLOOR_MW, PG_BASE_MW as FP32. -/
def Env.mwFp (v : Env) (off : Nat) : BitVec 32 := ofIntFp (v.field off 0 20)

/-- The cap of the bucket in units of 2^-12 pJ (Table 12.7). -/
def Env.burst (v : Env) : Int := v.burstUj * 1000000 * 4096

/-- WINDOW_S × 10^9 as FP32 (R283). -/
def Env.windowNs (v : Env) : BitVec 32 := ofIntFp (v.windowS * 1000000000)

/-- The current factor F_k, 4.12 (R281). -/
def Pg.factor (p : Pg) (k : Nat) : Nat := (tgetD 0x1000 p.factors k).toNat

/-- t of R283 in ns: the mg_clk periods of the last 1,024 pulses at 475 MHz. -/
def Pg.periodNs (p : Pg) : BitVec 32 :=
  divFp (ofIntFp (1000 * (p.pulseClks.foldl (· + ·) 0 : Nat))) (ofIntFp 475)

/-- The droop level in use (R289). -/
def Pg.levelInUse (v : Env) (p : Pg) : Nat := if p.metering then p.level.toNat else v.field 0xA0001C 4 3

/-- P_allow (R283); CEIL prevails over FLOOR. -/
def Pg.allowMw (v : Env) (p : Pg) : BitVec 32 :=
  minFp (v.mwFp 0xA00008) (maxFp (v.mwFp 0xA0000C) (subFp (mulFp (ofIntFp 2) (v.mwFp 0xA00004)) p.pAvg))

/-- FILL (R283). -/
def Pg.fill (v : Env) (p : Pg) : BitVec 32 :=
  divFp (mulFp (maxFp 0 (subFp (p.allowMw v) p.pBase)) p.periodNs) (ofIntFp 1024)

/-! ## The edge (R280, R281, R290) -/

/-- The classes charged in the pulse just ended, by every reach and by the router (R281). -/
def Blk.chargesOf (v : Env) (b : Blk) (k : Nat) : Nat :=
  ((List.range v.reaches).map (fun r => tgetD 0 (b.reach r).charges k)).foldl (· + ·) 0
    + tgetD 0 b.pg.chunkCharges k

/-- Start of metering (R284, R289). -/
def Pg.start (v : Env) (p : Pg) : Pg :=
  let p := { p with metering := true, bucket := v.burst, pAvg := v.mwFp 0xA00004, pBase := v.mwFp 0xA00010
                    factors := (List.range 16).map (fun k =>
                      (k, BitVec.ofNat 16 (max 0x400 (v.field (0xA00040 + 4 * k) 0 16))))
                    sums := []
                    level := BitVec.ofNat 3 (v.field 0xA0001C 4 3), levelNext := none }
  { p with fillFp := p.fill v }

/-- Debit, fill and sums of an edge while metering (R281); nJ debited with fractions carried (Table 12.13). -/
def Blk.debit (v : Env) (b : Blk) : Blk :=
  let cs := (List.range 16).map fun k => (k, b.chargesOf v k)
  let d : Nat := (cs.map (fun p => b.pg.factor p.1 * p.2)).foldl (· + ·) 0
  let nj := b.pg.njFrac + d
  (b.modPg fun p => { p with
    bucket := min v.burst (p.bucket - d + roundFp p.fillFp 12)
    sums := cs.foldl (fun t c => if c.2 = 0 then t else tmod 0 t c.1 (· + c.2)) p.sums
    njFrac := nj % 4096000 }).bump .chargedNj 0 (nj / 4096000)

/-- The largest s(m) for m from n − HOLD + 1 to n, of the runs of supply levels, newest first (R290). -/
def sagOf (low : Nat) : List (Nat × Nat) → Nat
  | [] => 0
  | (start, x) :: r => if start ≤ low then x else max x (sagOf low r)

/-- The runs after edge n with the level s(n). -/
def Pg.supplyAt (p : Pg) (n : Nat) : List (Nat × Nat) :=
  let s := min p.supply.toNat 5
  match p.supplyHist with
  | (st, x) :: r => if x = s then (st, x) :: r else (n, s) :: (st, x) :: r
  | [] => [(n, s)]

/-- The runs that a window of the longest HOLD can still reach. -/
def pruneRuns (low : Nat) : List (Nat × Nat) → List (Nat × Nat)
  | [] => []
  | (st, x) :: r => if st ≤ low then [(st, x)] else (st, x) :: pruneRuns low r

/-- The permit word of an edge (R279, R280). -/
def Pg.permitOf (v : Env) (p : Pg) : BitVec 64 :=
  if !v.cfg.frozen then 0
  else
    let throttle := v.pgEn && decide (p.bucket ≤ 0)
    let dsp := v.feEn && decide (p.shed < 5) && !throttle
    let allow : Nat := if v.pgEn then min 0xFFFFFFFE ((max 0 p.bucket).toNat / v.reaches / (4096 * 256))
      else 0xFFFFFFFF
    BitVec.ofNat 64 (b2n dsp + fieldAt 1 (b2n (p.shed < 3)) + fieldAt 2 (b2n (p.shed < 2))
      + fieldAt 3 (b2n (p.shed < 4)) + fieldAt 7 (b2n throttle) + fieldAt 13 p.shed + fieldAt 32 allow)

def Pg.throttle (p : Pg) : Bool := p.permit.getLsbD 7

/-- Lower the boost request (R287). -/
def Blk.setBoost (b : Blk) (on : Bool) : Blk :=
  if b.pg.boostReq = on then b else (b.modPg fun p => { p with boostReq := on }).emit (.boost on)

/-- The inputs counted toward events: those at or above the level in use that are not masked. -/
def Pg.counted (v : Env) (p : Pg) (pins : BitVec 8) : Bool :=
  (List.range 8).any fun i =>
    pins.getLsbD i && decide (p.levelInUse v ≤ i) && v.field 0xA0001C (24 + i) 1 == 0

/-- A rise of the OR of the counted inputs is a droop event, whether an input, LEVEL or MASK made it (R288). -/
def Blk.droopRise (v : Env) (b : Blk) : Blk :=
  let now := b.pg.counted v b.pg.pins
  let event := now && !b.pg.countedOr
  let b := b.modPg fun p => { p with countedOr := now }
  if !event then b
  else
    let b := (b.modPg fun p => { p with lastDroop := some v.n, boostDrop := true }).bump .droopEvent
    if v.droopEn && !b.pg.droopOff && !b.pg.stretch then
      let len := v.field 0xA0001C 0 3
      ((b.modPg fun p => { p with stretch := true }).emit (.stretch true len)).bump .stretchClk 0 (len + 1)
    else b

/-- PG at edge n, `mg` mg_clk periods after the last one: the boost pins of the pulse that has ended are counted; then
debit and fill or the start of metering, supply and forced levels, boost lowering, the permit of the pulse that
follows. -/
def Blk.pgEdge (v : Env) (mg : Nat) (b : Blk) : Blk :=
  let b := (b.bump .boostReqPulse 0 (b2n b.pg.boostReq)).bump .boostGrantPulse 0 (b2n b.pg.boostGrant)
  let b := b.modPg fun p => { p with pulseClks := (mg :: p.pulseClks).take 1024 }
  let b :=
    if !v.pgEn then b.modPg fun p => { p with metering := false }
    else if b.pg.metering then b.debit v
    else b.modPg (Pg.start v)
  let b := if b.pg.boostDrop || !v.pgEn then b.setBoost false else b
  let was := b.pg
  let b := b.modPg fun p =>
    let hist := p.supplyAt v.n
    let sag := sagOf (v.n + 1 - v.sagHold) hist
    let forced := (p.forcedIn.map (·.1)).getD p.forced
    let shed := max sag forced
    { p with supplyHist := pruneRuns (v.n - 65536) hist, sag := sag, forced := forced
             droopOff := (p.forcedIn.map (·.2)).getD p.droopOff, forcedIn := none
             boostDrop := decide (p.shed = 0) && decide (0 < shed), shed := shed
             level := p.levelNext.getD p.level, levelNext := none, chunkCharges := [] }
  let b := if b.pg.shed = was.shed then b else b.alarm 5
  let b := if b.pg.level ≠ was.level ∧ b.pg.level.toNat = v.field 0xA0001C 12 3 then b.alarm 7 else b
  let b := b.modPg fun p => { p with permit := p.permitOf v }
  let b := if b.pg.stretch && (b.pg.droopOff || !v.droopEn) then
      (b.modPg fun p => { p with stretch := false }).emit (.stretch false (v.field 0xA0001C 0 3))
    else b
  let b := (b.droopRise v).bump .throttlePulse 0 (b2n b.pg.throttle)
  if 1 ≤ b.pg.shed ∧ b.pg.shed ≤ 5 then b.bump .shedPulse b.pg.shed else b

/-! ## The control edge (R283, R285, R287) -/

/-- The sample of a control edge: P, the misses in a row, whether it is stale. -/
def Pg.sampleOf (v : Env) (p : Pg) : BitVec 20 × Nat × Bool :=
  match p.sample with
  | some x => (x, 0, false)
  | none =>
    let miss := p.miss + 1
    (if 4 ≤ miss then BitVec.ofNat 20 (v.field 0xA00008 0 20) else p.lastP, miss, decide (4 ≤ miss))

/-- Calibration of P_base and the factors (R283, R286). -/
def Pg.calibrate (v : Env) (t x : BitVec 32) (p : Pg) : Pg :=
  let step := pow2Fp v.gain
  let s (k : Nat) : BitVec 32 := ofIntFp (tgetD 0 p.sums k : Nat)
  let f (k : Nat) : BitVec 32 := mulFp (ofIntFp (p.factor k : Nat)) (pow2Fp 12)
  let ks := (List.range 16)
  if ks.all (fun k => tgetD 0 p.sums k == 0) then
    { p with pBase := addFp p.pBase (mulFp step (subFp x p.pBase)) }
  else
    let spent := ks.foldl (fun acc k => addFp acc (mulFp (f k) (s k))) 0
    let err := subFp (mulFp (subFp x p.pBase) t) spent
    let norm := ks.foldl (fun acc k => addFp acc (mulFp (s k) (s k))) 0
    { p with factors := ks.map fun k =>
        if tgetD 0 p.sums k = 0 then (k, BitVec.ofNat 16 (p.factor k))
        else
          let g := roundFp (addFp (f k) (divFp (mulFp (mulFp step err) (s k)) norm)) 12
          (k, BitVec.ofNat 16 (min 0xFFFF (max 0x400 g)).toNat) }

/-- The conditions of R287 but for the power average. -/
def Pg.quiet (v : Env) (p : Pg) : Bool :=
  v.pgEn && !v.pgFixed && p.shed == 0 && p.forced == 0
    && (match p.lastDroop with
        | none => true
        | some e => decide (e + 1024 * v.field 0xA00018 20 12 < v.n))

/-- Boost at a control edge (R287). -/
def Blk.boostControl (v : Env) (b : Blk) : Blk :=
  let p := b.pg
  let target := v.mwFp 0xA00004
  let margin := subFp target (ofIntFp (v.field 0xA00018 0 20))
  if p.boostReq then b.setBoost (p.quiet v && ltFp p.pAvg target)
  else b.setBoost (p.quiet v && !ltFp margin p.pAvg && !p.boostDrop)

/-- The control edge. -/
def Blk.controlEdge (v : Env) (b : Blk) : Blk :=
  let p := b.pg
  let t := p.periodNs
  let sm := p.sampleOf v
  let x := ofIntFp (sm.1.toNat : Nat)
  let q := { p with lastP := sm.1, miss := sm.2.1, stale := sm.2.2, sample := none
                    pAvg := addFp p.pAvg (divFp (mulFp (subFp x p.pAvg) t) v.windowNs) }
  let q := if v.calEn then q.calibrate v t x else q
  let changed := decide (q.pBase ≠ p.pBase) || (List.range 16).any (fun k => q.factor k != p.factor k)
  let q := { q with fillFp := q.fill v, sums := [], controlAt := v.n, calEdges := q.calEdges + 1
                    calDue := q.calDue || (q.calEdges + 1) % 1024 == 0 }
  let b := { b with pg := q }
  let b := if q.stale && !p.stale then b.alarm 6 else b
  let b := ((b.bump .controlEdge).bump .sampleMissing 0 (b2n p.sample.isNone)).bump .calUpdate 0 (b2n changed)
  b.boostControl v

/-- A control edge is due at the current edge and has not been taken (R283). -/
def Blk.controlDue (v : Env) (b : Blk) : Bool :=
  b.pg.metering && decide (0 < v.n) && v.n % 1024 == 0 && b.pg.controlAt != v.n

/-- CONTROL_EDGE (R283, R285-R287). -/
def execControlEdge (s : State) : Host.Outcome State Fault Refusal :=
  onBlk s fun v b => if b.controlDue v then b.controlEdge v else b

/-- The lowest level whose count is affordable (R289). -/
def Pg.affordable (v : Env) (p : Pg) : Nat :=
  let lo := v.field 0xA0001C 8 3
  let hi := v.field 0xA0001C 12 3
  (((List.range 8).find? fun i =>
    decide (lo ≤ i) && decide (i ≤ hi) && decide (tgetD 0 p.perInput i ≤ v.field 0xA0001C 16 8))).getD hi

/-- DROOP_CALIBRATION_PERIOD (R286, R289): every 1,024 control edges. -/
def execDroopCalibrationPeriod (s : State) : Host.Outcome State Fault Refusal :=
  onBlk s fun v b =>
    if !b.pg.calDue then b
    else b.modPg fun p => { p with
      calDue := false, perInput := []
      levelNext := if v.calEn then some (BitVec.ofNat 3 (p.affordable v)) else p.levelNext }

/-- PG_POWER_SAMPLE (R285): a new sample is latched for the next control edge. -/
def execPgPowerSample (mw : BitVec 20) (s : State) : Host.Outcome State Fault Refusal :=
  onBlk s fun _ b => b.modPg fun p => { p with sample := some mw, latest := mw }

/-! ## Droop (R288, R289) -/

/-- The droop inputs change: rising edges are counted, and a rising edge of the counted OR is an event. -/
def Blk.droopPins (v : Env) (pins : BitVec 8) (b : Blk) : Blk :=
  let rose := (List.range 8).filter fun i => pins.getLsbD i && !b.pg.pins.getLsbD i
  let b := b.modPg fun p => { p with pins := pins
                                     perInput := rose.foldl (fun t i => tmod 0 t i (· + 1)) p.perInput }
  (rose.foldl (fun b i => b.bump .droopInput i) b).droopRise v

/-- DROOP_EVENT (R287, R288, R289): the inputs after the change. -/
def execDroopEvent (pins : BitVec 8) (s : State) : Host.Outcome State Fault Refusal :=
  onBlk s fun v b => b.droopPins v pins

/-- STRETCH_REQUEST_END (R288): the request falls unless a counted input stays high. -/
def execStretchRequestEnd (pins : BitVec 8) (s : State) : Host.Outcome State Fault Refusal :=
  onBlk s fun v b =>
    let b := b.droopPins v pins
    if b.pg.stretch && !b.pg.counted v pins then
      (b.modPg fun p => { p with stretch := false }).emit (.stretch false (v.field 0xA0001C 0 3))
    else b

/-! ## Supply and boost grant -/

/-- SUPPLY_LEVEL_CHANGE (R290): the synchronised level, in effect from the next edge. -/
def execSupplyLevelChange (x : BitVec 3) (s : State) : Host.Outcome State Fault Refusal :=
  onBlk s fun _ b => b.modPg fun p => { p with supply := x }

/-- SAG_HOLD_EXPIRY (R290): the window of HOLD pulses that ends with the coming edge holds lower levels only, so the sag
level falls to the largest of them; HOLD is that of the coming edge (R374). -/
def execSagHoldExpiry (s : State) : Host.Outcome State Fault Refusal :=
  onBlk s fun v b => b.modPg fun p =>
    { p with sag := min p.sag (sagOf (v.n + 2 - v.coming.sagHold) (p.supplyAt (v.n + 1))) }

/-- BOOST_GRANT (R287). -/
def execBoostGrant (level : Bool) (s : State) : Host.Outcome State Fault Refusal :=
  onBlk s fun _ b => b.modPg fun p => { p with boostGrant := level }

def Blk.pgStatus (v : Env) (b : Blk) : Word32 :=
  let p := b.pg
  BitVec.ofNat 32 (p.shed + fieldAt 4 p.supply.toNat + fieldAt 8 p.forced + fieldAt 16 (b2n p.throttle)
    + fieldAt 17 (b2n p.boostReq) + fieldAt 18 (b2n p.boostGrant) + fieldAt 19 (b2n p.stale)
    + fieldAt 20 (b2n p.droopOff) + fieldAt 21 (p.levelInUse v))

end Sys2Proof.Machine
end

