-- ==== Sys2Proof/Machine/Transport.lean ====
section
/-! DEFINITION. Edge read, crossbar and count stage (R94-R99), and the spillway (R84-R90). -/

namespace Sys2Proof.Machine

/-! ## Edge read (R94, R98) -/

/-- Entries that a backlog record still owes: its out-edges and a portal's decrement. -/
def Backlog.total (k : Backlog) : Nat := k.succN + (if k.portal.isSome then 1 else 0)
def Backlog.spent (k : Backlog) : Bool := decide (k.total ≤ k.read)

/-- The target of an edge entry: in the segment of its source (R73, R74). -/
def edgeRef (k : Backlog) (w : Word32) : TaskRef :=
  { ctx := k.ref.ctx, id := BitVec.ofNat 32 (fieldAt 20 k.ref.seg + edgeTarget w) }

/-- The unit that an edge entry generates (R45, R49, R55). -/
def edgeUnit (k : Backlog) (w : Word32) : Option UnitKind :=
  let kb := edgeKb w
  match edgeKind w with
  | 0 | 2 => some (if k.skipped && kb % 2 == 1 then .skip else .plain)
  | 1 => some (.group kb)
  | 3 =>
    if kb / 2 % 2 = 0 then (if k.continuing then some (.rearm (kb % 2 == 1)) else none)
    else (if k.continuing then none else some .plain)
  | _ => none

/-- The destination and the unit of the next entry of a record. It is read where the record says, whatever the edge
store then holds there: R94 does not say what becomes of a record whose block's run is reused before it is read (DESIGN
CHOICE, log 116). -/
def Reach.nextEntry (rc : Reach) (k : Backlog) : TaskRef × Option UnitKind :=
  if k.read < k.succN then
    let w := tgetD 0 rc.edges (k.succPtr + k.read)
    (edgeRef k w, edgeUnit k w)
  else ({ ctx := k.ref.ctx, id := k.portal.getD 0 }, some .plain)

/-- Read one entry of a reach's backlog; none if nothing is left, 256 were read in the pulse, or the queue of the
entry's destination is full. -/
def Reach.readEntry (rc : Reach) : Option Reach :=
  match rc.backlog with
  | [] => none
  | k :: rest =>
    if k.spent then some { rc with backlog := rest }
    else if 256 ≤ rc.readCount then none
    else
      let e := rc.nextEntry k
      let q := tgetD [] rc.outbox e.1.reach
      if 256 ≤ q.length then none
      else
        let rc := { rc with readCount := rc.readCount + 1, backlog := { k with read := k.read + 1 } :: rest }
        match e.2 with
        | none => some rc
        | some u => some { rc with outbox := tput rc.outbox e.1.reach (q ++ [{ kind := u, target := e.1 }]) }

/-- Read entries until the stage stops. -/
def Reach.readEdges : Nat → Reach → Reach
  | 0, rc => rc
  | n + 1, rc => match rc.readEntry with
    | some rc' => rc'.readEdges n
    | none => rc

/-- Entries and spent records that a reach can take from its backlog in a pulse. -/
def Reach.readFuel (rc : Reach) : Nat := 256 + rc.backlog.length

/-- Edge read of a reach, as far as it gets. -/
def Blk.edgeRead (b : Blk) (r : Nat) : Blk := b.modReach r fun rc => rc.readEdges rc.readFuel

/-- EDGE_READ (R94, R98). -/
def execEdgeRead (r : Nat) (s : State) : Host.Outcome State Fault Refusal :=
  atReach s r fun _ b => if b.frozen then b else b.edgeRead r

/-! ## Crossbar (R96, R97) -/

/-- Entries that a unit covers against the limit of R97. -/
def XUnit.span (u : XUnit) : Nat := match u.kind with | .group len => len + 1 | _ => 0

/-- Take up to `room` units from a queue, admitting group deliveries while at most 2,048 entries are covered. -/
def takeUnits : Nat → Nat → List XUnit → List XUnit × List XUnit × Nat
  | 0, a, q => ([], q, a)
  | _ + 1, a, [] => ([], [], a)
  | k + 1, a, u :: q =>
    if 2048 < a + u.span then ([], u :: q, a)
    else
      let t := takeUnits k (a + u.span) q
      (u :: t.1, t.2.1, t.2.2)

/-- Send from reach `r` to reach `dst` what the limits allow. -/
def Blk.sendFrom (dst r : Nat) (b : Blk) : Blk :=
  let rc := b.reach r
  let t := takeUnits (16 - tgetD 0 rc.sentCount dst) (b.reach dst).admitCount (tgetD [] rc.outbox dst)
  let b := b.modReach r fun rc => { rc with
    outbox := tput rc.outbox dst t.2.1, sentCount := tmod 0 rc.sentCount dst (· + t.1.length) }
  let b := b.modReach dst fun rc => { rc with arrivals := rc.arrivals ++ t.1, admitCount := t.2.2 }
  b.bump .unitsSent r t.1.length

/-- The sources of a pulse in turn, from reach n mod 16 upward with wrap-around. -/
def sourceOrder (v : Env) : List Nat :=
  ((List.range 16).map (fun i => (v.n + i) % 16)).filter (fun r => decide (r < v.reaches))

def Blk.outboxSend (v : Env) (b : Blk) (dst : Nat) : Blk :=
  b.forEach (sourceOrder v) fun r b => b.sendFrom dst r

/-- Edge read of every reach. -/
def Blk.readAll (v : Env) (b : Blk) : Blk := b.forEach (List.range v.reaches) fun r b => b.edgeRead r

/-- OUTBOX_SEND (R96-R98): to one destination, once every source has read what it can. -/
def execOutboxSend (dst : Nat) (s : State) : Host.Outcome State Fault Refusal :=
  atReach s dst fun v b => if b.frozen then b else (b.readAll v).outboxSend v dst

/-- Work that the read and send stages still have in this pulse. -/
def Blk.moved (v : Env) (b : Blk) : Nat :=
  ((List.range v.reaches).map fun r =>
    (b.reach r).readCount + ((b.reach r).sentCount.map (·.2)).foldl (· + ·) 0).foldl (· + ·) 0

/-- Read and send until neither gets further: room that sending makes lets reading go on (R98). -/
def Blk.transport (v : Env) : Nat → Blk → Blk
  | 0, b => b
  | n + 1, b =>
    let c := b.forEach (List.range v.reaches) fun dst c => (c.readAll v).outboxSend v dst
    if c.moved v = b.moved v then c else c.transport v n

/-- Apply every unit that has arrived at a reach: re-arms before decrements (R99). -/
def Blk.applyArrivals (v : Env) (b : Blk) (dst : Nat) : Blk :=
  let us := (b.reach dst).arrivals
  let isRearm (u : XUnit) : Bool := match u.kind with | .rearm _ => true | _ => false
  let b := b.modReach dst fun rc => { rc with arrivals := [] }
  let b := b.forEach (us.filter isRearm) fun u b => b.applyUnit v u
  b.forEach (us.filter fun u => !isRearm u) fun u b => b.applyUnit v u

/-- Everything the pulse's edge read and crossbar stages do. -/
def Blk.pulseTransport (v : Env) (b : Blk) : Blk := b.transport v 64

/-- UNIT_APPLY (R99): the units of the pulse for one destination, all of which have then arrived. -/
def execUnitApply (dst : Nat) (s : State) : Host.Outcome State Fault Refusal :=
  atReach s dst fun v b => if b.frozen then b else (b.pulseTransport v).applyArrivals v dst

/-- The end of a pulse's transport in a reach: late units and stalls counted, per-pulse limits cleared (R96-R98,
Table 4.9). Edge read takes 4 entries per clk. -/
def Blk.endTransport (b : Blk) (r : Nat) : Blk :=
  let rc := b.reach r
  let held := (rc.outbox.map (fun p => p.2.length)).foldl (· + ·) 0
  let fresh := (rc.outbox.map (fun p => (p.2.filter (fun u => !u.late)).length)).foldl (· + ·) 0
  let stall := if rc.backlog.isEmpty then 0 else (256 - rc.readCount) / 4
  let b := b.modReach r fun rc => { rc with
    outbox := rc.outbox.map (fun p => (p.1, p.2.map fun u => { u with late := true }))
    readCount := 0, sentCount := [], admitCount := 0 }
  ((b.bump .lateDecrement r fresh).bump .lateUnitPulse r held).bump .readStall r stall

/-- Finish the transport of the pulse in every reach (R22). -/
def Blk.finishTransport (v : Env) (b : Blk) : Blk :=
  let b := b.pulseTransport v
  let b := b.forEach (List.range v.reaches) fun r b => b.applyArrivals v r
  b.forEach (List.range v.reaches) fun r b => b.endTransport r

/-! ## Placement in a reach's stores (R80, R81 step 5, R85, R87) -/

/-- Granules of an edge run (Table 3.6: 64 edges each). -/
def granulesOf (edgeN : Nat) : Nat := ceilDiv edgeN 64

/-! ## Frames as device memory holds them (R84) -/

/-- The bytes of a launch or live copy: 256 entries. R84 gives no bytes for the unused ones, nor for the padding of an
edge run: they are written as zero (DESIGN CHOICE, log 142). -/
def copyBytes (ctx : Nat) (es : Tbl Task) : List Byte :=
  (List.range 256).flatMap fun i => leBytes 32 (((tget es i).map fun x => taskBits ctx x).getD 0).toNat

/-- The edge run of a frame, padded to 64 bytes with zero (log 142). -/
def Frame.edgeBytes (f : Frame) : List Byte :=
  let bs := f.edges.flatMap fun w => leBytes 4 w.toNat
  bs ++ leBytes (64 * ceilDiv bs.length 64 - bs.length) 0

/-- A block-table entry (R84): EDGE_N, TASK_N, ROOTS, LOOP, LIVE and the EPOCH of the live copy, COPY_ADDR. -/
def Frame.tableEntry (f : Frame) : List Byte :=
  leBytes 8 (f.edges.length + fieldAt 22 f.taskN + fieldAt 31 (b2n f.roots) + fieldAt 32 (b2n f.loop)
      + fieldAt 33 (b2n f.live.isSome) + fieldAt 34 (if f.live.isSome then f.epoch % 256 else 0))
    ++ leBytes 8 f.copyAddr.toNat

/-- The index of a block in the block table: ID[31:8]. -/
def Frame.index (f : Frame) : Nat := f.seg * 4096 + f.reach * 256 + f.vblock

/-- Write the block-table entry of a frame (R81 step 4, R84). -/
def Blk.writeTable (c : Nat) (f : Frame) (b : Blk) : Blk :=
  match b.ctx? c with
  | some x => b.emit (.dmWrite (x.record.btabBase + BitVec.ofNat 64 (16 * f.index)) f.tableEntry)
  | none => b

/-- Keep a live copy of a launch in a frame, and write it and the block-table entry to device memory (R84, R85). -/
def Blk.saveLive (c r seg vb : Nat) (es : Tbl Task) (epoch : Nat) (b : Blk) : Blk :=
  let b := b.modFrame c r seg vb fun f => { f with live := some es, epoch := epoch }
  match (b.ctx? c).bind fun x => x.frame r seg vb with
  | some f => (b.emit (.dmWrite (f.copyAddr + 8192) (copyBytes c es))).writeTable c f
  | none => b

/-- Blocks that occupy store space of a context in a reach: resident or being paged out, with physical numbers. -/
def Reach.occupying (rc : Reach) (c : Nat) : List (Nat × Block) :=
  (rc.blocks ++ rc.pagingOut).filter (fun p => p.2.ctx == c)

/-- The physical block that a loaded or paged-in block takes: the lowest that nothing occupies. The spec names no choice
among the free ones (DESIGN CHOICE, log 117). -/
def Reach.freePhys (rc : Reach) : Option Nat :=
  (List.range 256).find? fun k =>
    (tget rc.blocks k).isNone && !rc.pagingOut.any (fun p => p.1 == k) && !rc.retiredBlocks.contains k
      && (rc.pagingIn.map PageIn.phys) != some k

/-- The lowest granule, from `lo` on, at which `need` granules are free. -/
def firstFit (busy : List (Nat × Nat)) (need lo n : Nat) : Option Nat :=
  ((List.range (n + 1 - need)).map (lo + ·)).find? fun g =>
    busy.all fun u => decide (g + need ≤ u.1) || decide (u.1 + u.2 ≤ g) || u.2 == 0

/-- Room for a block of a context: a physical block and the base of its edge run. -/
def Blk.room (b : Blk) (r c edgeN : Nat) : Option (Nat × Nat) :=
  match b.ctx? c with
  | none => none
  | some x =>
    let rc := b.reach r
    let mine := rc.occupying c
    if (x.record.blocks[r]?).getD 0 ≤ mine.length then none
    else
      let busy := mine.map fun p => (p.2.edgeBase / 64, granulesOf p.2.edgeN)
      match rc.freePhys, firstFit busy (granulesOf edgeN) (tgetD 0 x.granBase r) ((x.record.granules[r]?).getD 0) with
      | some k, some g => some (k, g * 64)
      | _, _ => none

/-- Move successor pointers between run-relative and on-chip form, 18 bits (R68). -/
def movePtr (add sub : Nat) (es : Tbl Task) : Tbl Task :=
  es.map fun p => (p.1, { p.2 with succPtr := BitVec.ofNat 22 ((p.2.succPtr.toNat + add + 2 ^ 18 - sub) % 2 ^ 18) })

/-- Put the edges of a run into the edge store. -/
def putRun (base : Nat) (es : List Word32) (t : Tbl Word32) : Tbl Word32 :=
  (es.zip (List.range es.length)).foldl (fun t p => tput t (base + p.2) p.1) t

/-- Make a frame's block resident with the given entries (run-relative pointers). Until a decrement reaches it there, it
counts as never decremented; R85 does not say what a paged-in block counts as (DESIGN CHOICE, log 117). -/
def Blk.install (r c : Nat) (f : Frame) (phys base : Nat) (entries : Tbl Task) (b : Blk) : Blk :=
  (b.modReach r fun rc => { rc with
    blocks := tput rc.blocks phys
      { ctx := c, seg := f.seg, vblock := f.vblock, taskN := f.taskN, roots := f.roots, loop := f.loop
        edgeBase := base, edgeN := f.edges.length, entries := movePtr base 0 entries, lastDec := 0
        epoch := b.epoch c }
    edges := putRun base f.edges rc.edges }).modFrame c r f.seg f.vblock fun g => { g with loaded := true }

/-- Place an image's blocks in some reaches, in directory order until a reach has no room for the next (R81 step 5,
R90); the pages that they are written to whole become valid (R316). -/
def Blk.placeImage (c : Nat) (reaches : List Nat) (b : Blk) : Blk :=
  let frames := ((b.ctx? c).map (fun x => x.image.frames)).getD []
  b.forEach reaches fun r b =>
    ((frames.filter (fun f => f.reach == r)).foldl (fun (acc : Blk × Bool) f =>
      if acc.2 then acc
      else match acc.1.room r c f.edges.length with
        | some p => (((acc.1.install r c f p.1 p.2 f.launch).validate r (8192 * p.1) 8192).validate (16 + r) (4 * p.2)
            (256 * granulesOf f.edges.length), false)
        | none => (acc.1, true)) (b, false)).1

/-- Take every block of a context out of the stores, with its frames' marks. -/
def Blk.unplace (v : Env) (c : Nat) (b : Blk) : Blk :=
  let b := b.forEach (List.range v.reaches) fun r b => b.modReach r fun rc => { rc with
    blocks := rc.blocks.filter (fun p => p.2.ctx != c), pagingOut := rc.pagingOut.filter (fun p => p.2.ctx != c)
    pageReqs := rc.pageReqs.filter (fun p => p.ctx != c)
    pagingIn := if (rc.pagingIn.map PageIn.ctx) = some c then none else rc.pagingIn }
  b.modCtx c fun x => { x with image := { x.image with
    frames := x.image.frames.map fun f => { f with loaded := false, retired := false } } }

/-! ## Page-in (R87) -/

/-- The spill DMA begins to read a block (R84, R262): the copy of it that counts, and its edge run. -/
def Blk.beginPageIn (r c : Nat) (f : Frame) (live : Bool) (phys base : Nat) (b : Blk) : Blk :=
  ((b.modReach r fun rc => { rc with
      pagingIn := some { ctx := c, seg := f.seg, vblock := f.vblock, phys := phys, base := base } }).emit
    (.dmRead (if live then f.copyAddr + 8192 else f.copyAddr) 8192)).emit (.dmRead (f.copyAddr + 16384) f.edgeBytes.length)

/-- Deliver a block's ledger entries as decrements (R86, R87); a skip without a decrement is a notice (log 114). -/
def Blk.applyLedger (v : Env) (r c seg vb : Nat) (b : Blk) : Blk :=
  let mine (l : LedgerEntry) : Bool := l.ref.ctx == c && l.ref.seg == seg && l.ref.vblock == vb
  let es := (b.reach r).ledger.filter mine
  let b := b.modReach r fun rc => { rc with ledger := rc.ledger.filter (fun l => !mine l) }
  b.forEach es fun l b =>
    let b := if l.count = 0 && l.skip then b.applyNotice l.ref else b
    b.forEach (List.range l.count) fun i b =>
      let d := b.decrement v l.ref (l.skip && i == 0)
      if d.2 = .discarded then d.1.discard r else d.1

/-- ID of a page record (Table 13.4). -/
def pageId (r seg vb : Nat) : BitVec 32 := mkId seg r vb 0

/-- A block whose read has completed becomes resident at the edge (R87, R90). -/
def Blk.pageInStage (v : Env) (b : Blk) (r : Nat) : Blk :=
  match (b.reach r).pagingIn with
  | none => b
  | some p =>
    if !p.read then b
    else
      let b := b.modReach r fun rc => { rc with pagingIn := none }
      match (b.ctx? p.ctx).bind (fun x => x.frame r p.seg p.vblock) with
      | none => b
      | some f =>
        let b := b.install r p.ctx f p.phys p.base (f.pageEntries (b.epoch p.ctx))
        let b := b.stage (20 + r) { type := .pageIn, ctx := p.ctx, epoch := b.epoch p.ctx
                                    id := pageId r p.seg p.vblock, aux := BitVec.ofNat 32 p.phys }
        let b := b.traceTask v 6 0 { ctx := p.ctx, id := pageId r p.seg p.vblock } (aux := BitVec.ofNat 64 p.phys)
        (b.bump .pageIn r).applyLedger v r p.ctx p.seg p.vblock

/-- A spill DMA that meets an uncorrectable error halts until the next block reset, and every context with spill
work outstanding on the reach is torn down (R89). A page-in that has been requested and has not begun counts as
outstanding; R89 does not say (DESIGN CHOICE, log 143). -/
def Blk.spillHalt (v : Env) (b : Blk) (r : Nat) : Blk :=
  let rc := b.reach r
  let cs := (rc.pagingIn.map PageIn.ctx).toList ++ rc.pagingOut.map (fun p => p.2.ctx)
    ++ rc.rmw.map (fun u => u.target.ctx) ++ rc.pageReqs.map PageReq.ctx
  let b := (b.modReach r fun rc => { rc with spillHalted := true }).haltChannel v cs.head?
  b.forEach cs fun c b => b.tearDown c stUncorrectable

/-- PAGE_IN_COMPLETE (R87, R89): the read of the block has ended; it becomes resident at the next edge. A response that
comes in a block reset has no effect, as replay restores what was resident (R309). -/
def execPageInComplete (r : Nat) (ok : Bool) (s : State) : Host.Outcome State Fault Refusal :=
  atReach s r fun v b =>
    match (b.reach r).pagingIn with
    | none => b
    | some p =>
      if p.read || (b.reach r).spillHalted || b.rel.phase != 0 then b
      else if ok then b.modReach r fun rc => { rc with pagingIn := some { p with read := true } }
      else b.spillHalt v r

/-! ## Deferral windows (R302) -/

/-- A context has a combining queue that is not idle, or an open router session. -/
def Blk.windowOpen (b : Blk) (c : Nat) : Bool :=
  b.hb.cqs.any (fun p => p.2.ctx == c) || b.rt.sessions.any (fun p => p.2.ctx == c)

/-- A context was in a window after the last edge. -/
def Rel.inWindow (l : Rel) (c : Nat) : Bool := l.windows.any fun w => w.1 == c

/-! ## Page-out (R85) -/

/-- A block may be paged out (R85). -/
def Block.eligible (k : Block) : Bool :=
  k.entries.all fun p =>
    p.2.state != .ready && p.2.state != .dispatched && p.2.state != .shadow && p.2.state != .faulted
      && !p.2.ra && !(p.2.loop && p.2.iter != 0)

/-- The eligible block of a context that received a decrement least recently, and among several of the same pulse the
one with the lowest physical number (DESIGN CHOICE, log 117). -/
def Reach.pageOutNext (rc : Reach) (c : Nat) : Option (Nat × Block) :=
  (lsort (fun p => p.2.lastDec) (rc.blocks.filter fun p => p.2.ctx == c && p.2.eligible)).head?

/-- Serve the first page-in request of a reach: begin its read, or make room for it (R85, R87). It waits, and is counted
once as waiting (R88), while no block is eligible; no page-out begins for a context in a deferral window (R305). -/
def Blk.pageServe (b : Blk) (r : Nat) : Blk :=
  let rc := b.reach r
  match rc.pageReqs with
  | [] => b
  | q :: rest =>
    let c := q.ctx
    if rc.spillHalted || rc.pagingIn.isSome then b
    else if b.torn c || (rc.find c q.seg q.vblock).isSome then b.modReach r fun rc => { rc with pageReqs := rest }
    else if rc.pagingOut.any (fun p => p.2.ctx == c && p.2.seg == q.seg && p.2.vblock == q.vblock) then b
    else match (b.ctx? c).bind (fun x => x.frame r q.seg q.vblock) with
      | none => b.modReach r fun rc => { rc with pageReqs := rest }
      | some f => match b.room r c f.edges.length with
        | some p => (b.modReach r fun rc => { rc with pageReqs := rest }).beginPageIn r c f (f.liveNow (b.epoch c)) p.1 p.2
        | none =>
          if rc.pagingOut.any (fun p => p.2.ctx == c) then b
          else match (if b.rel.inWindow c || b.windowOpen c then none else rc.pageOutNext c) with
            | some p => b.modReach r fun rc => { rc with
                blocks := tdel rc.blocks p.1, pagingOut := rc.pagingOut ++ [p] }
            | none =>
              if q.waits then b
              else (b.bump .pageInWait r).modReach r fun rc => { rc with pageReqs := { q with waits := true } :: rest }

/-- PAGE_OUT_COMPLETE (R85, R89): the live copy is acknowledged; the record enters the stream and the physical
block is free. One that comes in a block reset has no effect (R309). -/
def execPageOutComplete (r : Nat) (ok : Bool) (s : State) : Host.Outcome State Fault Refusal :=
  atReach s r fun v b =>
    match (b.reach r).pagingOut with
    | [] => b
    | (k, bl) :: rest =>
      if (b.reach r).spillHalted || b.rel.phase != 0 then b
      else if !ok then b.spillHalt v r
      else
        let b := b.modReach r fun rc => { rc with pagingOut := rest }
        let b := b.saveLive bl.ctx r bl.seg bl.vblock (movePtr 0 bl.edgeBase bl.entries) bl.epoch
        let b := b.stage (20 + r) { type := .pageOut, ctx := bl.ctx, epoch := b.epoch bl.ctx
                                    id := pageId r bl.seg bl.vblock, aux := BitVec.ofNat 32 k }
        (b.bump .pageOut r).traceTask v 6 1 { ctx := bl.ctx, id := pageId r bl.seg bl.vblock }
          (aux := BitVec.ofNat 64 k)

/-! ## Ledger read-modify-write (R86) -/

/-- A unit of the read-modify-write queue at a task in a live copy. An excess decrement sets the task's count flag, as
in the task store (R36, R39; DEDUCED, log 15). -/
def Blk.unitLive (b : Blk) (t : TaskRef) (es : Tbl Task) (u : UnitKind) : Tbl Task × Blk :=
  match tget es t.entry with
  | none => (es, (b.bump .excessDecrement t.reach).tearDown t.ctx stSaturated)
  | some x =>
    if u = .notice then (tput es t.entry (if x.state == .waiting then { x with sk := true } else x), b)
    else match x.decremented (u == .skip) (b.launchAborted t.ctx) with
    | .applied y => (tput es t.entry y, b)
    | .excess => (tput es t.entry { x with cf := true }, (b.awaitFault t).bump .excessDecrement t.reach)
    | .discarded => (es, b.discard t.reach)

/-- Apply a unit of the read-modify-write queue to the live copy, armed from the launch copy first if it does not
hold the current launch. A block that is resident by then takes it in the task store. -/
def Blk.ledgerRmw (v : Env) (r : Nat) (u : XUnit) (b : Blk) : Blk :=
  let t := u.target
  if b.torn t.ctx then b.discard r
  else if ((b.reach r).find t.ctx t.seg t.vblock).isSome then
    let d := b.unitEffect v u
    if d.2 = .discarded then d.1.discard r else d.1
  else match (b.reach r).pagingOut.find? (fun p => p.2.ctx == t.ctx && p.2.seg == t.seg && p.2.vblock == t.vblock) with
    | some p =>
      let d := b.unitLive t p.2.entries u.kind
      d.2.modReach r fun rc => { rc with
        pagingOut := rc.pagingOut.map fun q => if q.1 = p.1 then (q.1, { q.2 with entries := d.1 }) else q }
    | none => match (b.ctx? t.ctx).bind (fun x => x.frame r t.seg t.vblock) with
      | none => b.discard r
      | some f =>
        let d := b.unitLive t (f.pageEntries (b.epoch t.ctx)) u.kind
        d.2.saveLive t.ctx r t.seg t.vblock d.1 (b.epoch t.ctx)

/-- LEDGER_RMW (R86, R89): the oldest read-modify-write of a reach's spill DMA ends; none ends in a stop (R103). -/
def execLedgerRmw (r : Nat) (ok : Bool) (s : State) : Host.Outcome State Fault Refusal :=
  atReach s r fun v b =>
    match (b.reach r).rmw with
    | [] => b
    | u :: rest =>
      if b.frozen || (b.reach r).spillHalted then b
      else if !ok then b.spillHalt v r
      else ((b.modReach r fun rc => { rc with rmw := rest }).bump .ledgerRmw r).ledgerRmw v r u

/-! ## Backwater mode (R90) -/

/-- BACKWATER_BLOCK_LOAD (R89, R90): the first retired block of the context in the reach leaves, and the read of the next
block in directory order begins from its launch copy; PAGE_IN_COMPLETE ends it, and at the next edge the block is armed
and resident. No load begins in a stop (R103). -/
def execBackwaterBlockLoad (r : Nat) (ctx : Nat) (s : State) : Host.Outcome State Fault Refusal :=
  atReach s r fun _ b =>
    match b.ctx? ctx with
    | none => b
    | some x =>
      if b.frozen || !x.backwater || x.faulted || x.launchQueue.isNone || (b.reach r).pagingIn.isSome || (b.reach r).spillHalted
      then b
      else match x.image.frames.find? (fun f => f.reach == r && !f.loaded),
                 (b.reach r).blocks.find? (fun p => p.2.ctx == ctx && p.2.isRetired) with
        | some f, some p =>
          let b := b.modReach r fun rc => { rc with blocks := tdel rc.blocks p.1 }
          let b := b.modFrame ctx r p.2.seg p.2.vblock fun g => { g with retired := true }
          match b.room r ctx f.edges.length with
          | some k => b.beginPageIn r ctx f false k.1 k.2
          | none => b
        | _, _ => b

end Sys2Proof.Machine
end

