-- ==== Sys2Proof/Machine/Checkpoint.lean ====
section
/-! DEFINITION. The two checkpoint slots, and the copy of a context in a checkpoint (R306, R307, Table 13.5). -/

namespace Sys2Proof.Machine

/-- A context's part of a table that gives 4,096 keys to each. -/
def ctxShare {α : Type} (c : Nat) (t : Tbl α) : Tbl α := t.filter fun p => p.1 / 4096 == c

/-- The slot of a checkpoint: two of 36 MiB each at GLB_CKPT_BASE, used alternately (R306). -/
def Env.ckptSlot (v : Env) (number : Nat) : BitVec 64 := v.pair 0x10C + BitVec.ofNat 64 (number % 2 * (36 * 2 ^ 20))

/-- The record of a started descriptor has entered the journal: an armed launch, a fence (log 136). -/
def Started.recorded (x : Started) : Bool :=
  match x.phase with
  | .launched _ _ | .fenceRecord _ | .fenceWrite => true
  | .finishing _ => dOpcode x.desc == 0x05
  | _ => false

def Queue.copy (q : Nat) (u : Queue) : QueueCopy :=
  { queue := q, born := u.born, done := u.done, started := u.started.filter Started.recorded }

/-- A context's share of a checkpoint as it stands after edge n (Table 13.5). -/
def Blk.copyContext (v : Env) (c : Nat) (x : Ctx) (b : Blk) : CtxCopy :=
  let rs := List.range v.reaches
  { ctx := c, edge := v.n, image := x
    blocks := rs.flatMap fun r => ((b.reach r).occupying c).map fun p => (r, p.1, p.2)
    backlogs := rs.flatMap fun r => ((b.reach r).backlog.filter fun k => k.ref.ctx == c).map fun k => (r, k)
    units := rs.flatMap fun r => ((b.reach r).outbox.flatMap fun p => p.2).filter fun u => u.target.ctx == c
    ledgers := rs.flatMap fun r => ((b.reach r).ledger.filter fun l => l.ref.ctx == c)
      ++ ((b.reach r).rmw.filter fun u => u.target.ctx == c).map fun u =>
        { ref := u.target, count := 1, skip := u.kind == .skip }
    lists := rs.flatMap fun r => (b.reach r).listRecs.filter fun l => l.ref.ctx == c
    preds := ctxShare c b.preds
    streams := b.hb.streams.filter fun p => p.2.owner == some c
    outstanding := b.hb.outstanding.filter fun o => o.ctx == c
    queues := (b.fe.queues.filter fun p => p.2.ctx == c).map fun p => p.2.copy p.1 }

/-- A copy takes its place in a checkpoint. -/
def Ckpt.put (k : Ckpt) (x : CtxCopy) : Ckpt :=
  { k with copies := k.copies.filter (fun y => y.ctx != x.ctx) ++ [x] }

/-- The writes of a copy to the slot of its checkpoint: its items, and the slot header with every copy edge (R307). -/
def Blk.writeCopy (v : Env) (k : Ckpt) (y : CtxCopy) (b : Blk) : Blk :=
  (b.emit (.ckptCopy (v.ckptSlot k.number) y)).emit
    (.ckptHeader (v.ckptSlot k.number) k.number ((k.put y).copies.map fun x => (x.ctx, x.edge)))

/-- A context that is created, or whose image is loaded, has nothing earlier to restore: its copy in either checkpoint
is as it stands now (DEDUCED, log 29). -/
def Blk.recopy (v : Env) (c : Nat) (b : Blk) : Blk :=
  match b.ctx? c with
  | none => b
  | some x =>
    let y := b.copyContext v c x
    let slots := (b.rel.ckptLast :: b.rel.ckptActive.toList).filter fun k => k.number != 0
    let b := b.forEach slots fun k b => b.writeCopy v k y
    b.modRel fun l => { l with ckptLast := l.ckptLast.put y, ckptActive := l.ckptActive.map fun k => k.put y }

/-- A destroyed context has no copy. -/
def Blk.uncopy (c : Nat) (b : Blk) : Blk :=
  let cut (k : Ckpt) : Ckpt := { k with copies := k.copies.filter fun y => y.ctx != c }
  b.modRel fun l => { l with ckptLast := cut l.ckptLast, ckptActive := l.ckptActive.map cut }

end Sys2Proof.Machine
end

