-- ==== Sys2Proof/Machine/Crc.lean ====
section
/-! DEFINITION. CRC-32 with the IEEE 802.3 polynomial (R353, Table 3.4). -/

namespace Sys2Proof

/-- The bits of bytes, the least significant of each byte first: the reflected order. -/
def bitsOfBytes (bs : List Byte) : List Bool := bs.flatMap fun b => (List.range 8).map b.getLsbD

/-- The reflected CRC register after a list of bits. -/
def crcBits : List Bool → BitVec 32 → BitVec 32
  | [], c => c
  | b :: r, c => if c.getLsbD 0 ^^ b then crcBits r ((c >>> 1) ^^^ 0xEDB88320) else crcBits r (c >>> 1)

/-- CRC-32: initial value all ones, reflected bit order, final complement (R353). -/
def crc32 (bs : List Byte) : BitVec 32 := ~~~ crcBits (bitsOfBytes bs) 0xFFFFFFFF

end Sys2Proof
end

