-- ==== Sys2Proof/Machine/Image.lean ====
section
/-! DEFINITION. Graph images (R67-R79, R133): parsing, the load-time rules of Tables 2.5 and 3.2, frames. -/

namespace Sys2Proof.Machine

/-! ## Parsing (R76-R79) -/

/-- A block of the image: directory entry, tasks, length of its edge run. -/
structure ImgBlock where
  vblock : Nat
  bflags : Nat
  taskN  : Nat
  first  : Nat
  edgeN  : Nat
  off    : Nat
  words  : List (BitVec 256)

/-- A section of the image. -/
structure ImgSection where
  reach  : Nat
  seg    : Nat
  blocks : List ImgBlock
  edges  : List Word32

/-- What an image holds. -/
structure Img where
  sections : List ImgSection
  args     : List Byte
  relocs   : List (Nat × Nat × BitVec 64)
  patches  : List (Nat × Nat)

/-- `n` bytes of an image. -/
def slice (bs : List Byte) (off n : Nat) : List Byte := (bs.drop off).take n

/-- An offset is a multiple of 64 and its region lies within the image. -/
def regionOk (bs : List Byte) (off n : Nat) : Bool := off % 64 == 0 && decide (off + n ≤ bs.length)

/-- Header rules: MAGIC, FORMAT, reserved bits, TOTAL, CRC with its field taken as zero, regions. -/
def headerOk (bs : List Byte) (imageBytes : Nat) : Bool :=
  decide (64 ≤ bs.length) && leAt bs 0 4 == 0x474B4C4F && leAt bs 4 2 == 0x0102 && decide (leAt bs 7 1 < 2)
    && decide (1 ≤ leAt bs 8 4) && leAt bs 0x10 8 == bs.length && imageBytes == bs.length
    && leAt bs 0x0C 4 == (crc32 (bs.take 0x0C ++ [0, 0, 0, 0] ++ bs.drop 0x10)).toNat
    && leAt bs 0x20 8 % 64 == 0 && regionOk bs (leAt bs 0x18 8) (leAt bs 0x20 8)
    && regionOk bs (leAt bs 0x28 8) (16 * leAt bs 0x30 4) && regionOk bs (leAt bs 0x38 8) (8 * leAt bs 0x34 4)
    && decide (0x40 + 32 * leAt bs 8 4 ≤ bs.length)

/-- A directory entry keeps Table 3.2. -/
def dirOk (bs : List Byte) (o edgeN : Nat) : Bool :=
  decide (leAt bs (o + 1) 1 < 4) && decide (1 ≤ leAt bs (o + 2) 2) && decide (leAt bs (o + 2) 2 ≤ 256)
    && decide (leAt bs (o + 4) 4 ≤ edgeN) && regionOk bs (leAt bs (o + 8) 8) (32 * leAt bs (o + 2) 2)

/-- A section entry keeps Table 3.2. -/
def sectionOk (bs : List Byte) (o : Nat) : Bool :=
  let n := leAt bs (o + 4) 4
  let dir := leAt bs (o + 8) 8
  let edgeN := leAt bs (o + 0x18) 4
  decide (leAt bs o 1 < 16) && leAt bs (o + 1) 1 == 0 && decide (leAt bs (o + 2) 2 < 4096) && leAt bs (o + 0x1C) 4 == 0
    && decide (1 ≤ n) && decide (n ≤ 256) && regionOk bs dir (16 * n) && regionOk bs (leAt bs (o + 0x10) 8) (4 * edgeN)
    && (List.range n).all (fun i => dirOk bs (dir + 16 * i) edgeN)
    && (List.range (n - 1)).all (fun i => decide (leAt bs (dir + 16 * i + 4) 4 ≤ leAt bs (dir + 16 * (i + 1) + 4) 4))

def parseBlock (bs : List Byte) (o next : Nat) : ImgBlock :=
  let n := leAt bs (o + 2) 2
  let first := leAt bs (o + 4) 4
  let off := leAt bs (o + 8) 8
  { vblock := leAt bs o 1, bflags := leAt bs (o + 1) 1, taskN := n, first := first, edgeN := next - first, off := off
    words := (List.range n).map fun i => BitVec.ofNat 256 (leAt bs (off + 32 * i) 32) }

def parseSection (bs : List Byte) (o : Nat) : ImgSection :=
  let n := leAt bs (o + 4) 4
  let dir := leAt bs (o + 8) 8
  let edgeN := leAt bs (o + 0x18) 4
  { reach := leAt bs o 1, seg := leAt bs (o + 2) 2
    blocks := (List.range n).map fun i =>
      parseBlock bs (dir + 16 * i) (if i + 1 < n then leAt bs (dir + 16 * (i + 1) + 4) 4 else edgeN)
    edges := (List.range edgeN).map fun i => BitVec.ofNat 32 (leAt bs (leAt bs (o + 0x10) 8 + 4 * i) 4) }

/-- An image whose layout rules hold. -/
def parseImage (bs : List Byte) (imageBytes : Nat) : Option Img :=
  if !headerOk bs imageBytes then none
  else
    let secs := (List.range (leAt bs 8 4)).map fun i => 0x40 + 32 * i
    if !secs.all (sectionOk bs) then none
    else some
      { sections := secs.map (parseSection bs)
        args := slice bs (leAt bs 0x18 8) (leAt bs 0x20 8)
        relocs := (List.range (leAt bs 0x30 4)).map fun i =>
          let o := leAt bs 0x28 8 + 16 * i
          (leAt bs o 4, leAt bs (o + 4) 4, BitVec.ofNat 64 (leAt bs (o + 8) 8))
        patches := (List.range (leAt bs 0x34 4)).map fun i =>
          let o := leAt bs 0x38 8 + 8 * i
          (leAt bs o 4, leAt bs (o + 4) 4) }

/-! ## Lookups in a parsed image -/

/-- The task entry of an identifier that the image uses. -/
def Img.task? (m : Img) (t : TaskRef) : Option Task :=
  (m.sections.find? fun s => s.reach == t.reach && s.seg == t.seg).bind fun s =>
    (s.blocks.find? fun k => k.vblock == t.vblock).bind fun k => (k.words[t.entry]?).bind taskOf

/-- Every used task of the image: identifier, word, entry, its block. -/
def Img.tasks (m : Img) : List (TaskRef × BitVec 256 × Task × ImgBlock) :=
  m.sections.flatMap fun s => s.blocks.flatMap fun k =>
    ((List.range k.words.length).zip k.words).filterMap fun p =>
      (taskOf p.2).map fun x => ({ ctx := 0, id := mkId s.seg s.reach k.vblock p.1 }, p.2, x, k)

/-- Every edge of the image: the segment of its source, and the entry. -/
def Img.edges (m : Img) : List (Nat × Word32) := m.sections.flatMap fun s => s.edges.map fun w => (s.seg, w)

def edgeTo (seg : Nat) (w : Word32) : TaskRef := { ctx := 0, id := BitVec.ofNat 32 (fieldAt 20 seg + edgeTarget w) }

/-! ## Load-time rules (Tables 2.5 and 3.2, R69, R133) -/

/-- Reserved bits, STATE, DEPCNT and CTX are zero, and KIND is not reserved. -/
def taskWordOk (w : BitVec 256) : Bool :=
  (taskOf w).isSome && bits w 3 3 == 0 && bits w 12 6 == 0 && bits w 18 16 == 0 && !w.getLsbD 63 && bits w 248 8 == 0

/-- GANG and TILES by kind (Table 3.3). -/
def Task.usesOk (engines : Nat) (x : Task) : Bool :=
  match x.kind with
  | .list => x.gang == 0 && x.tiles != 0
  | .gang => x.tiles == 0 && (!x.gangHead || (decide (2 ≤ x.gang.toNat) && decide (x.gang.toNat ≤ engines)))
  | .expert => decide (x.gang.toNat < 256)
  | .plain | .combineClose | .marker | .step => x.gang == 0 && x.tiles == 0

/-- Flag and loop rules. -/
def Task.flagsOk (x : Task) : Bool :=
  (x.be || (!x.preempt && !x.fill)) && (!x.gangHead || x.kind == .gang) && (x.iter == 0) == !x.loop
    && (!x.shadowOk || x.kind == .plain || x.kind == .list || x.kind == .expert)

/-- A gang head is followed by its members; a member follows its head (R42). -/
def Img.gangOk (m : Img) (t : TaskRef) (x : Task) : Bool :=
  if x.kind != .gang then true
  else if x.gangHead then
    decide (t.index + x.gang.toNat ≤ 65536)
      && ((List.range (x.gang.toNat - 1)).map (· + 1)).all fun i => match m.task? (t.plus i) with
        | some y => y.kind == .gang && !y.gangHead && y.gang.toNat == i && y.depinit == 0 && y.pred == 0 && y.succN == 0
            && y.flags == 0 && y.be == x.be
        | none => false
  else
    decide (1 ≤ x.gang.toNat) && decide (x.gang.toNat ≤ t.index) && match m.task? (t.minus x.gang.toNat) with
      | some h => h.kind == .gang && h.gangHead && decide (x.gang.toNat < h.gang.toNat)
      | none => false

/-- A portal's target is a used entry of the image. -/
def Img.portalOk (m : Img) (x : Task) : Bool :=
  x.kind != .marker || x.argPtr == 0xFFFFFFFF || (m.task? { ctx := 0, id := x.argPtr }).isSome

/-- The out-edges of a task lie in its block's run. -/
def ImgBlock.runOk (k : ImgBlock) (x : Task) : Bool :=
  x.succN == 0 || (decide (k.first ≤ x.succPtr.toNat) && decide (x.succPtr.toNat + x.succN.toNat ≤ k.first + k.edgeN))

/-- An edge keeps Tables 2.5 and 3.2. -/
def Img.edgeOk (m : Img) (seg : Nat) (w : Word32) : Bool :=
  let t := edgeTo seg w
  let kb := edgeKb w
  match edgeKind w, m.task? t with
  | 0, some _ => decide (kb < 2)
  | 1, some _ => decide (t.index + kb ≤ 65535) && (List.range (kb + 1)).all fun i => (m.task? (t.plus i)).isSome
  | 2, some x => decide (kb < 4) && x.pred != 0 && x.pol == (kb / 2 == 1)
  | 3, some x => decide (kb < 4) && (kb / 2 == 1 || x.loop)
  | _, _ => false

/-- Identifiers that re-arm edges target, and those that predicated edges reach. -/
def Img.targets (m : Img) (p : Word32 → Bool) : List (BitVec 32) :=
  (m.edges.filter fun e => p e.2).map fun e => (edgeTo e.1 e.2).id
def isRearm (w : Word32) : Bool := edgeKind w == 3 && edgeKb w / 2 == 0

/-- No member occurs twice. -/
def distinct {α : Type} [BEq α] : List α → Bool
  | [] => true
  | x :: r => !r.contains x && distinct r

/-- Sizes of the frames of an image: 16 KiB and the edge run padded to 64 bytes. -/
def ImgBlock.frameBytes (k : ImgBlock) : Nat := 16384 + 64 * ceilDiv (4 * k.edgeN) 64

def Img.frameBytes (m : Img) : Nat :=
  (m.sections.flatMap fun s => s.blocks.map ImgBlock.frameBytes).foldl (· + ·) 0

/-- Every rule that R61, R69 and R81 step 1 make the loader check, but for the handles. -/
def Img.ok (v : Env) (c : Ctx) (bs : List Byte) (m : Img) : Bool :=
  let rearms := m.targets isRearm
  let preds := m.targets fun w => edgeKind w == 2
  let argBytes := m.args.length
  distinct (m.sections.map fun s => (s.reach, s.seg))
    && leAt bs 6 1 == (m.sections.map ImgSection.reach).foldl max 0
    && m.sections.all (fun s => decide (s.reach < v.reaches) && decide (0 < (c.record.blocks[s.reach]?).getD 0)
        && distinct (s.blocks.map ImgBlock.vblock))
    && m.sections.all (fun s => s.blocks.all fun k => k.words.all taskWordOk)
    && m.tasks.all (fun p => p.2.2.1.usesOk v.engines && p.2.2.1.flagsOk && m.gangOk p.1 p.2.2.1 && m.portalOk p.2.2.1
        && p.2.2.2.runOk p.2.2.1 && (!p.2.2.1.shadowOk || preds.contains p.1.id))
    && m.edges.all (fun e => m.edgeOk e.1 e.2) && distinct rearms
    && (v.aon.grade.hasRouter || (leAt bs 7 1 == 0 && m.tasks.all fun p => p.2.2.1.kind != .expert))
    && m.relocs.all (fun r => r.1 % 8 == 0 && decide (r.1 + 8 ≤ argBytes))
    && m.patches.all (fun p => decide (p.2 < 4) && p.1 % 2 ^ p.2 == 0 && decide (p.1 + 2 ^ p.2 ≤ argBytes))
    && decide (argBytes ≤ c.record.argBytes) && decide (m.frameBytes ≤ c.record.spillBytes.toNat)

/-- R78: every handle is in the table and not zero, every write within the argument area. `handles` are the table
entries that were read, by entry of the list. -/
def relocsOk (c : Ctx) (rs : List (Nat × Nat × BitVec 64)) (handles : List (BitVec 64)) : Bool :=
  (rs.zip (List.range rs.length)).all fun p =>
    decide (p.1.2.1 < c.record.htabN) && ((handles[p.2]?).getD 0) != 0 && decide (p.1.1 + 8 ≤ c.record.argBytes)

/-- Apply a relocation list. -/
def Blk.relocate (c : Ctx) (rs : List (Nat × Nat × BitVec 64)) (handles : List (BitVec 64)) (b : Blk) : Blk :=
  b.forEach (rs.zip handles) fun p b =>
    b.emit (.dmWrite (c.record.argBase + BitVec.ofNat 64 p.1.1) (leBytes 8 (p.2 + p.1.2.2).toNat))

/-! ## Frames (R81 steps 2-5, R84) -/

/-- The frames of an image, one after another from an address. -/
def Img.frames (m : Img) (base : BitVec 64) : List Frame :=
  ((m.sections.flatMap fun s => s.blocks.map fun k => (s, k)).foldl (fun (acc : List Frame × Nat) p =>
    let k := p.2
    let entries := ((List.range k.words.length).zip k.words).filterMap fun q => (taskOf q.2).map fun x => (q.1, x)
    let f : Frame :=
      { reach := p.1.reach, seg := p.1.seg, vblock := k.vblock, taskN := k.taskN, roots := k.bflags % 2 == 1
        loop := k.bflags / 2 % 2 == 1, copyAddr := base + BitVec.ofNat 64 acc.2
        launch := movePtr 0 k.first entries, edges := (p.1.edges.drop k.first).take k.edgeN }
    (acc.1 ++ [f], acc.2 + k.frameBytes)) ([], 0)).1

/-- Write a frame: launch copy and edge run. -/
def Blk.writeFrame (c : Nat) (f : Frame) (b : Blk) : Blk :=
  (b.emit (.dmWrite f.copyAddr (copyBytes c f.launch))).emit (.dmWrite (f.copyAddr + 16384) f.edgeBytes)

/-- Put a checked image into a context (R81 steps 2 to 5). -/
def Blk.loadImage (v : Env) (c : Nat) (m : Img) (handles : List (BitVec 64)) (b : Blk) : Blk :=
  match b.ctx? c with
  | none => b
  | some x =>
    let b := b.unplace v c
    let b := if m.args.isEmpty then b else b.emit (.dmWrite x.record.argBase m.args)
    let b := b.relocate x m.relocs handles
    let fs := m.frames x.record.spillBase
    let b := (b.forEach fs fun f b => b.writeFrame c f).forEach fs fun f b => b.writeTable c f
    ((b.modCtx c fun x => { x with image := { frames := fs, patchMap := m.patches, relocs := m.relocs } }).placeImage
      c (List.range v.reaches)).recopy v c

end Sys2Proof.Machine
end

