-- ==== Sys2Proof/Machine/Select.lean ====
section
/-! DEFINITION. Dispatch select (R106-R121, R125, R132-R137, R163) and the cyclic tables (R123-R126). -/

namespace Sys2Proof.Machine

/-! ## Cyclic schedule (R125) -/

/-- The active and the standby table. -/
def Fe.cycActive (fe : Fe) : CycTable := if fe.cycActiveB then fe.cycB else fe.cycA
def Fe.cycStandby (fe : Fe) : CycTable := if fe.cycActiveB then fe.cycA else fe.cycB

/-- Change the standby table. -/
def Fe.modStandby (fe : Fe) (f : CycTable → CycTable) : Fe :=
  if fe.cycActiveB then { fe with cycA := f fe.cycA } else { fe with cycB := f fe.cycB }

/-- An entry's window covers a phase, wrapping at the cycle. -/
def CycEntry.covers (k : CycEntry) (cycle phase : Nat) : Bool := decide ((phase + cycle - k.start) % cycle < k.len)

/-- The entry that applies to an engine in pulse `m`: the lowest-numbered valid one that names it. -/
def CycTable.applies (t : CycTable) (v : Env) (base e m : Nat) : Option CycEntry :=
  (t.entries.find? fun p => decide (p.1 < t.entryN) && p.2.valid && v.inSet p.2.eset e
    && p.2.covers t.cycle ((m - base) % t.cycle)).map (·.2)

/-- Engine `e` is closed to tasks of hardware slot `x` in this pulse. -/
def Blk.cycClosed (v : Env) (b : Blk) (e x : Nat) : Bool :=
  let t := b.fe.cycActive
  !t.entries.isEmpty && (List.range (t.lead + 1)).any fun i =>
    match t.applies v b.fe.cycBase e (v.n + i) with
    | some k => k.slot != x
    | none => false

/-- The edge at which an armed table becomes active. -/
def CycTable.dueAt (t : CycTable) : Nat := if t.armEdge < t.switchEdge then t.switchEdge else t.armEdge + 1

/-- Exchange the tables at the coming edge if the standby table is due (R125). -/
def Fe.switchTables (n : Nat) (fe : Fe) : Fe :=
  let t := fe.cycStandby
  if t.arm && decide (t.dueAt ≤ n + 1) then
    let fe := fe.modStandby fun t => { t with arm := false }
    { fe with cycActiveB := !fe.cycActiveB, cycBase := t.dueAt }
  else fe

/-- CYCLIC_TABLE_SWITCH (R125): for the coming edge. -/
def execCyclicTableSwitch (s : State) : Host.Outcome State Fault Refusal :=
  onBlk s fun v b => b.modFe (Fe.switchTables v.n)

/-! ## Open engines and the choice (R110-R112, R120, R136) -/

/-- The engine set that a context's affinity group maps to. -/
def Blk.groupSet (b : Blk) (c : Nat) (g : BitVec 8) : Nat :=
  ((((b.ctx? c).map Ctx.groupMap).getD [])[g.toNat]?.map BitVec.toNat).getD 0

/-- R111. -/
def Blk.openTo (v : Env) (b : Blk) (r c : Nat) (x : Task) (e : Nat) : Bool :=
  v.inSet (b.groupSet c x.group) e && !(b.reach r).chosen.contains e && !b.cycClosed v e (b.launchSlot c)

def Blk.freeOpen (v : Env) (b : Blk) (r c : Nat) (x : Task) (e : Nat) : Bool :=
  (b.agent e).bcast.free && b.openTo v r c x e

def Blk.preemptOpen (v : Env) (b : Blk) (r c : Nat) (x : Task) (e : Nat) : Bool :=
  let k := (b.agent e).bcast
  !x.be && x.kind != .gang && k.running && k.be && k.preempt && b.openTo v r c x e

/-- The rotated scan of R112. -/
def Env.scan (v : Env) (r : Nat) : List Nat := (List.range v.engines).map fun i => (v.n + 128 * r + i) % v.engines

/-- Home, then last, then the scan. -/
def Env.chooseFrom (v : Env) (r : Nat) (x : Task) (pool : Nat → Bool) : Option Nat :=
  if pool x.home.toNat then some x.home.toNat
  else if pool x.last.toNat then some x.last.toNat
  else (v.scan r).find? pool

/-- choose_engine of R112: the engine, and whether it is taken by pre-emption. -/
def Blk.chooseEngine (v : Env) (b : Blk) (r c : Nat) (x : Task) : Option (Nat × Bool) :=
  match v.chooseFrom r x (b.freeOpen v r c x) with
  | some e => some (e, false)
  | none => (v.chooseFrom r x (b.preemptOpen v r c x)).map fun e => (e, true)

/-- The engine of a shadow candidate: free-open with hold-busy clear. -/
def Blk.chooseShadow (v : Env) (b : Blk) (r c : Nat) (x : Task) : Option Nat :=
  v.chooseFrom r x fun e => !(b.agent e).bcast.holdBusy && b.freeOpen v r c x e

/-- The engines of a gang in member order (R120), or none. -/
def Blk.chooseGang (v : Env) (b : Blk) (t : TaskRef) (x : Task) : Option (List Nat) :=
  let pool := (v.scan t.reach).filter (b.freeOpen v t.reach t.ctx x)
  if pool.length < x.gang.toNat then none
  else match v.chooseFrom t.reach x pool.contains with
    | none => none
    | some h =>
      let r := ((List.range (x.gang.toNat - 1)).map (· + 1)).foldl (fun (acc : List Nat) m =>
        let last := ((b.task? (t.plus m)).map fun y => y.last.toNat).getD 2048
        let rest := pool.filter fun e => !acc.contains e
        if rest.contains last then acc ++ [last] else acc ++ (rest.head?).toList) [h]
      if r.length = x.gang.toNat then some r else none

/-! ## What a selection does -/

/-- The places in the selection order (R107). -/
inductive SelectFrom where
  | lc | fill | plain | shadow
deriving DecidableEq, Repr

def SelectFrom.code : SelectFrom → Nat
  | .lc => 0 | .fill => 1 | .plain => 2 | .shadow => 3

/-- The bin of a ready wait (R326). -/
def waitBin (w : Nat) : Nat := if w = 0 then 0 else if 16384 ≤ w then 15 else Nat.log2 w + 1

/-- Count, sample and trace a selection (R131, R147, R326). -/
def Blk.countSelect (v : Env) (p : SelectFrom) (t : TaskRef) (readyEdge e tile : Nat) (b : Blk) : Blk :=
  let c := t.ctx
  let w := v.n - readyEdge
  let sample (base sum : Nat) (b : Blk) : Blk :=
    if b.sampling v then (b.ctxBump c (base + 8 * waitBin w)).ctxBump c sum w else b
  let b := match p with
    | .lc => sample 0x100 0x180 (((b.bump .selection t.reach).bump .lcSelection t.reach).ctxBump c 0x020)
    | .fill => sample 0x188 0x208 (((b.bump .selection t.reach).bump .fillSelection t.reach).ctxBump c 0x028)
    | .plain => sample 0x188 0x208 (((b.bump .selection t.reach).bump .beSelection t.reach).ctxBump c 0x028)
    | .shadow => (b.bump .shadowLaunch t.reach).ctxBump c 0x030
  b.traceTask v 1 p.code t (engine := e) (aux := BitVec.ofNat 64 tile) (shadow := p == .shadow)

/-- One clk of the reach's 64. -/
def Blk.useClk (b : Blk) (r : Nat) : Blk := b.modReach r fun rc => { rc with clkUsed := rc.clkUsed + 1 }

/-- The dispatch word of a task for engine `e`, on its way to the agent (R31, R264). -/
def Blk.sendWord (r e : Nat) (t : TaskRef) (x : Task) (a : DispatchArgs) (tile gang : Option Nat) (b : Blk) : Blk :=
  let d : DWord := { ref := t, word := dispatchWord t x a, tile := tile, preempting := a.preempting
                     shadow := a.shadow, gangMember := gang, held := gang.isSome, clk := (b.reach r).clkUsed }
  (b.modAgent e fun g => { g with inWords := g.inWords ++ [d] }).useClk r

/-- The fields of a word that its kind gives it (Table 3.3). -/
def Blk.wordArgs (b : Blk) (t : TaskRef) (x : Task) (e : Nat) : DispatchArgs :=
  { arg := b.argAddr t.ctx x.argPtr, engine := e, epoch := b.epoch t.ctx
    tileN := if x.kind = .list then x.tiles.toNat else 0
    tile := if x.kind = .expert then x.tiles.toNat else 0
    expert := if x.kind = .expert then x.gang.toNat % 256 else 0 }

/-- The engine joins the reach's chosen set (R112). -/
def Blk.choose (r e : Nat) (b : Blk) : Blk := b.modReach r fun rc => { rc with chosen := rc.chosen ++ [e] }

/-- A task leaves its ready list for STATE dispatched. -/
def Blk.takeTask (t : TaskRef) (b : Blk) : Blk := (b.setState t .dispatched).modReach t.reach fun rc => rc.unlist t

/-- Charge of a selection (R109). -/
def Task.selectCharge (x : Task) : Nat :=
  if x.kind = .gang then energyPj x.energy * x.gang.toNat else energyPj x.energy

/-- Admission by the permit's enables (Table 5.1). -/
def Blk.classOk (b : Blk) (x : Task) (p : SelectFrom) : Bool := b.dspEn && (!x.be || b.beEn) && (p != .shadow || b.shEn)

/-- A candidate is passed over by the permit or the allowance. -/
def Blk.permits (b : Blk) (t : TaskRef) (x : Task) (p : SelectFrom) : Bool :=
  b.classOk x p && b.chargeOk t.reach x.selectCharge

/-- Give a list task its record; the list rule of R117 and the limit of R116. -/
def Reach.ensureRec (rc : Reach) (t : TaskRef) : Reach :=
  if (rc.listRec t).isSome then rc else { rc with listRecs := rc.listRecs ++ [{ ref := t }] }

def Reach.listOk (rc : Reach) (t : TaskRef) (x : Task) (p : SelectFrom) : Bool :=
  ((rc.listRec t).isSome || decide (rc.listRecs.length < 256))
    && decide ((if p = .shadow then 0 else ((rc.listRec t).map ListRec.hold).getD 0) < rc.unclaimed t x.tiles.toNat)

/-- A free shadow record, or one that the task holds (R132); with a limit of 0 the reach launches nothing in shadow
(R135). -/
def Reach.shadowOk (v : Env) (r : Nat) (rc : Reach) (t : TaskRef) : Bool :=
  v.shadowLimit r != 0 && (rc.shadowRecs.any (fun s => s.ref == t) || decide (rc.shadowRecs.length < v.shadowLimit r))

/-- Note a shadow word's engine in the task's record, highest tile last (R142). -/
def Reach.addShadow (rc : Reach) (t : TaskRef) (tile e : Nat) : Reach :=
  if rc.shadowRecs.any (fun s => s.ref == t) then
    { rc with shadowRecs := lreplace (fun s => s.ref == t) (fun s => { s with engines := s.engines ++ [(tile, e)] }) rc.shadowRecs }
  else { rc with shadowRecs := rc.shadowRecs ++ [{ ref := t, engines := [(tile, e)] }] }

/-- A shadow selection (R136, R137). -/
def Blk.selectShadow (v : Env) (t : TaskRef) (x : Task) (e : Nat) (b : Blk) : Blk :=
  let r := t.reach
  let b := (b.choose r e).charge r x.chargeClass x.selectCharge
  let b := if x.kind = .list then b.modReach r fun rc => rc.ensureRec t else b
  let got := if x.kind = .list then (b.reach r).takeTile t x.tiles.toNat else none
  let b := match got with | some p => b.modReach r fun _ => p.2 | none => b
  let tile := got.map (·.1)
  let b := ((b.setState t .shadow).modTask t Task.takeBank).modReach r fun rc => rc.addShadow t (tile.getD 0) e
  let a := { b.wordArgs t x e with
    shadow := true, tile := tile.getD (if x.kind = .expert then x.tiles.toNat else 0) }
  (b.sendWord r e t x a tile none).countSelect v .shadow t 0 e (tile.getD 0)

/-- A selection of a plain, list or expert task on an engine (R112, R117). -/
def Blk.selectOn (v : Env) (p : SelectFrom) (t : TaskRef) (x : Task) (e : Nat) (preempting : Bool) (b : Blk) : Blk :=
  let r := t.reach
  let b := ((b.choose r e).charge r x.chargeClass x.selectCharge).setLast t e
  let b := if x.kind = .list then
      b.modReach r fun rc => (rc.ensureRec t).modRec t fun l => { l with hold := l.hold + 1 }
    else b.takeTask t
  (b.sendWord r e t x { b.wordArgs t x e with preempting := preempting } none none).countSelect v p t x.readyEdge e 0

/-- A selection that needs no engine (R44, R130, R254). -/
def Blk.selectBare (v : Env) (p : SelectFrom) (t : TaskRef) (x : Task) (b : Blk) : Blk :=
  let r := t.reach
  let b := (((b.charge r x.chargeClass x.selectCharge).takeTask t).useClk r).countSelect v p t x.readyEdge 0xFFFF 0
  match x.kind with
  | .step => b.modFe fun fe => { fe with stepsIn := fe.stepsIn ++ [t] }
  | .combineClose => b.combineIssue t x.argPtr
  | _ => b.modReach r fun rc => { rc with selfDone := rc.selfDone ++ [t] }

/-! ## Gangs (R120, R121) -/

/-- Send one member's word. A member whose block is not resident gets none, and its STATE does not follow its head's
until its block is paged in: the spec says nothing of a gang that lies in a block that is away (DESIGN CHOICE, log 141).
-/
def Blk.sendMember (g : GangSend) (m e : Nat) (b : Blk) : Blk :=
  let t := g.ref.plus m
  match b.task? t, b.task? g.ref with
  | some y, some h =>
    let a := { b.wordArgs t y e with gangN := h.gang.toNat, gangM := m, head := (g.engines.head?).getD 0 }
    b.sendWord g.ref.reach e t y a none (some m)
  | _, _ => b

/-- Send words of a gang until the pulse's clks or its members run out. -/
def Blk.sendGang (g : GangSend) : List (Nat × Nat) → Blk → Blk
  | [], b => b.modReach g.ref.reach fun rc =>
      { rc with gangs := lreplace (fun x => x.ref == g.ref) (fun x => { x with unsent := [] }) rc.gangs }
  | (m, e) :: rest, b =>
    if 64 ≤ (b.reach g.ref.reach).clkUsed then b.modReach g.ref.reach fun rc =>
      { rc with gangs := lreplace (fun x => x.ref == g.ref) (fun x => { x with unsent := (m, e) :: rest }) rc.gangs }
    else (b.sendMember g m e).sendGang g rest

/-- A gang is selected. -/
def Blk.selectGang (v : Env) (p : SelectFrom) (t : TaskRef) (x : Task) (es : List Nat) (b : Blk) : Blk :=
  let r := t.reach
  let pairs := (List.range es.length).zip es
  let b := b.forEach pairs fun q b => (b.choose r q.2).setLast (t.plus q.1) q.2
  let b := (b.charge r x.chargeClass x.selectCharge).takeTask t
  let g : GangSend := { ref := t, unsent := pairs, engines := es }
  let b := b.modReach r fun rc => { rc with gangs := rc.gangs ++ [g] }
  (b.countSelect v p t x.readyEdge ((es.head?).getD 0) 0).sendGang g pairs

/-- The gang whose words are not all sent, unless it has been aborted. -/
def Reach.sending (rc : Reach) : Option GangSend :=
  rc.gangs.find? fun g => !g.unsent.isEmpty && !rc.abortRecs.any (fun a => a.ref == g.ref)

/-! ## The walk over the candidates (R107, R108) -/

/-- The predictor's value satisfies the task's predicate (R134). -/
def Blk.predicted (b : Blk) (c : Nat) (x : Task) : Bool :=
  match tgetD .none b.history (c * 4096 + x.pred.toNat) with
  | .none => true
  | .lastTrue => x.pol
  | .lastFalse => !x.pol

/-- R132, but for the record. A task whose abort is outstanding is no candidate either (DESIGN CHOICE, log 118). -/
def Blk.shadowCandidate (v : Env) (b : Blk) (t : TaskRef) (x : Task) : Bool :=
  ((x.state == .waiting && x.depcnt == 0) || (x.state == .shadow && x.kind == .list))
    && !x.sk && (b.predTest t.ctx x).isNone && x.shadowOk
    && (x.kind == .plain || x.kind == .list || (x.kind == .expert && x.released))
    && !b.torn t.ctx && !b.armedNow v t.ctx && b.predicted t.ctx x && !(b.reach t.reach).abortRecs.any (fun a => a.ref == t)

/-- Try to select a candidate: the block after it, and whether it was selected. -/
def Blk.trySelect (v : Env) (p : SelectFrom) (t : TaskRef) (b : Blk) : Blk × Bool :=
  let r := t.reach
  match b.task? t with
  | none => (b, false)
  | some x =>
    let rc := b.reach r
    if b.torn t.ctx || b.launchAborted t.ctx || (p != .shadow && x.state != .ready)
        || (p == .shadow && !(b.shadowCandidate v t x && rc.shadowOk v r t))
        || (x.kind == .expert && !x.released) || (x.kind == .list && !rc.listOk t x p) then (b, false)
    else if !b.permits t x p then (b.bump .permitPass r, false)
    else match p, x.kind with
      | .shadow, _ => match b.chooseShadow v r t.ctx x with
        | some e => (b.selectShadow v t x e, true)
        | none => (b, false)
      | _, .gang => match b.chooseGang v t x with
        | some es => (b.selectGang v p t x es, true)
        | none => (b, false)
      | _, .marker | _, .step | _, .combineClose => (b.selectBare v p t x, true)
      | _, .plain | _, .list | _, .expert => match b.chooseEngine v r t.ctx x with
        | some (e, pre) => (b.selectOn v p t x e pre, true)
        | none => (b, false)

/-- Nothing more is selected in this pulse: the clks are used, or a gang's words are still to be sent. -/
def Blk.selectEnds (b : Blk) (r : Nat) : Bool :=
  decide (64 ≤ (b.reach r).clkUsed) || (b.reach r).gangs.any (fun g => !g.unsent.isEmpty)

/-- Examine one candidate; a list task is selected again while it can be (R117, R137). -/
def Blk.examine (v : Env) (p : SelectFrom) (t : TaskRef) : Nat → Blk → Blk
  | 0, b => b
  | n + 1, b =>
    if b.selectEnds t.reach then b
    else
      let a := b.trySelect v p t
      if a.2 && ((a.1.task? t).map Task.kind) == some .list then a.1.examine v p t n else a.1

/-- The shadow candidates of a reach: LC before BE, ascending task index. -/
def Blk.shadowCandidates (v : Env) (b : Blk) (r : Nat) : List TaskRef :=
  let all := ((b.reach r).tasks r).filter fun p => b.shadowCandidate v p.1 p.2
  let refs (l : List (TaskRef × Task)) : List TaskRef := lsort TaskRef.order (l.map (·.1))
  refs (all.filter fun p => !p.2.be) ++ refs (all.filter fun p => p.2.be)

/-- Dispatch select of a reach for the pulse that begins. While a core is halted every candidate is passed over, but the
words of a gang already selected are still sent (R120, R342). -/
def Blk.select (v : Env) (b : Blk) (r : Nat) : Blk :=
  let rc := b.reach r
  let b := b.modReach r fun rc => { rc with clkUsed := 0, chosen := (rc.sending.map GangSend.engines).getD [] }
  let b := match rc.sending with
    | some g => b.sendGang g g.unsent
    | none => b.modReach r fun rc => { rc with gangs := rc.gangs.map fun (g : GangSend) => { g with unsent := [] } }
  if b.coreHalted then b
  else
    let b := b.forEach rc.lc fun t b => b.examine v .lc t 64
    let b := b.forEach rc.fillList fun t b => b.examine v .fill t 64
    let b := b.forEach rc.plainList fun t b => b.examine v .plain t 64
    b.forEach (b.shadowCandidates v r) fun t b => b.examine v .shadow t 64

/-- Dispatch select of every reach (R107). Words that arrive at one clk are queued by reach (R31). -/
def Blk.selectAll (v : Env) (b : Blk) : Blk :=
  let b := b.forEach (List.range v.reaches) fun r b => b.select v r
  { b with agents := b.agents.map fun (p : Nat × Agent) =>
      (p.1, { p.2 with inWords := lsort (fun (d : DWord) => d.clk * 16 + d.ref.reach) p.2.inWords }) }

end Sys2Proof.Machine
end

