-- ==== Sys2Proof/Machine/Rings.lean ====
section
/-! DEFINITION. Software rings (R176-R185, R261): polls, bells, producer indices, last looks, fetches, responses to
status and result records. -/

namespace Sys2Proof.Machine

/-! ## The front end at work -/

/-- The front end polls and fetches: enabled with its firmware running (R209), and not in a block reset (R309). -/
def Blk.feRuns (v : Env) (b : Blk) : Bool := v.feEn && b.fe.fwState == .running && b.rel.phase == 0

/-- A queue that is neither closing nor closed (R180). -/
def Queue.isOpen (u : Queue) : Bool := u.qstate != .closing && u.qstate != .closed

/-- Change QSTATE, with EVENT_EDGE (R183); `cause` is the record that its status record waits for (R27). -/
def Blk.setQState (v : Env) (q : Nat) (st : QState) (b : Blk) (cause : Option Nat := none) : Blk :=
  match b.queue? q with
  | some u =>
    if u.qstate = st then b
    else (b.modQueue q fun u => { u with qstate := st, eventEdge := v.n }).writeStatus v q cause
  | none => b

/-- Members above the one served last, then the rest (R185). -/
def inTurn (last : Option Nat) (l : List Nat) : List Nat :=
  match last with
  | none => l
  | some k => l.filter (fun x => decide (k < x)) ++ l.filter (fun x => decide (x ≤ k))

/-- The queues in the order in which they are served: slots in descending priority, slots of equal priority and the
queues of one slot in turn (R185). -/
def Fe.serveOrder (f : Fe) : List Nat :=
  (List.range 8).reverse.flatMap fun prio =>
    let qs := f.queues.filter fun p => p.2.prio == prio
    let slots := (List.range 64).filter fun k => qs.any fun p => p.2.slot == k
    (inTurn (tget f.lastSlot prio) slots).flatMap fun k =>
      inTurn (tget f.lastQueue k) ((qs.filter fun p => p.2.slot == k).map (·.1))

/-- Where the summary word and the PI of queue `q` lie (R176, R178). -/
def Env.sumAddr (v : Env) (q : Nat) : BitVec 63 := (v.pair 0x100008 + BitVec.ofNat 64 (8 * (q / 64))).setWidth 63
def Env.piAddr (v : Env) (q : Nat) : BitVec 63 := (v.pair 0x100010 + BitVec.ofNat 64 (8 * q)).setWidth 63

/-- Atomic AND that clears the summary bit of `q`, and the PI read of `q`. -/
def Blk.askAnd (v : Env) (who : AskedBy) (q : Nat) (b : Blk) : Blk :=
  (b.ask (.summaryAnd q (v.sumAddr q))).modQueue q fun u => { u with ands := u.ands ++ [who] }
def Blk.askPi (v : Env) (who : AskedBy) (q : Nat) (b : Blk) : Blk :=
  (b.ask (.piRead q (v.piAddr q))).modQueue q fun u => { u with piReads := u.piReads ++ [who] }

/-- Begin a last look (R182). -/
def Blk.lastLook (v : Env) (q : Nat) (b : Blk) : Blk :=
  ((b.modQueue q fun u => { u with look := .andOut }).askAnd v .look q).bump .lastLook

/-- Fetch the next descriptor of a queue, if one is known and there is room (R177). -/
def Blk.fetchNext (v : Env) (q : Nat) (b : Blk) : Blk :=
  match b.queue? q with
  | none => b
  | some u =>
    if b.feRuns v && u.isOpen && !u.fetchOut && decide (u.ci < u.piRead) && decide (u.fetched.length < 4) then
      (b.modQueue q fun u => { u with fetchOut := true }).ask
        (.fetch q ((u.ring + BitVec.ofNat 64 (64 * (u.ci % 2 ^ u.log2n))).setWidth 63))
    else b

/-- Fetch for every queue, in the order of R185. -/
def Blk.fetchAll (v : Env) (b : Blk) : Blk := b.forEach b.fe.serveOrder fun q b => b.fetchNext v q

/-! ## Polls (R179-R181) -/

/-- A timer due point of the current edge. -/
def Env.pollTimer (v : Env) : Bool := v.n % v.dbPoll == 0

/-- Start a poll at edge n; `alone`: because of a hint only. Last looks whose AND failed are made again (R182). Hints of
pulse n make a poll due at the next edge. -/
def Blk.startPoll (v : Env) (alone : Bool) (b : Blk) : Blk :=
  let b := b.modFe fun fe => { fe with poll :=
    { busy := true, reading := true, polledAt := v.n, hints := fe.poll.hints.filter fun k => decide (v.n ≤ k) } }
  let b := b.forEach (b.fe.queues.filter fun p => p.2.look == .again && p.2.isOpen) fun p b => b.lastLook v p.1
  ((b.ask (.summaryRead ((v.pair 0x100008).setWidth 63))).bump .poll).bump .wmHint 0 (b2n alone)

/-- The poll ends when its summary read and the PI reads of its bells have returned (R179). -/
def Blk.endPoll (v : Env) (b : Blk) : Blk :=
  if b.fe.poll.busy && !b.fe.poll.reading && b.fe.poll.bells.isEmpty then
    b.modFe fun fe => { fe with poll := { fe.poll with busy := false, abandoned := false, endedAt := some v.n } }
  else b

/-- DOORBELL_POLL_DUE (R179, R181): at the edge just passed, by the timer or by a hint before it; once for each edge. At
that edge a poll that has ended since was still in progress. -/
def execDoorbellPollDue (s : State) : Host.Outcome State Fault Refusal :=
  onBlk s fun v b =>
    let p := b.fe.poll
    let timer := v.pollTimer
    let hint := p.hints.any fun k => decide (k < v.n)
    if !b.feRuns v || p.polledAt == v.n || !(timer || hint) then b
    else if p.busy || p.endedAt == some v.n then b.modFe fun fe => { fe with poll := { fe.poll with
      timerDue := p.timerDue || timer, hintDue := p.hintDue || hint, polledAt := v.n
      hints := p.hints.filter fun k => decide (v.n ≤ k) } }
    else b.startPoll v (!(timer || p.timerDue))

/-- WRITE_MONITOR_HINT (R181); the isolation of a front end that is not powered keeps the hint out (R276). -/
def execWriteMonitorHint (s : State) : Host.Outcome State Fault Refusal :=
  onBlk s fun v b =>
    if v.domainUp 16 && v.wmEn && !b.fe.poll.hints.contains v.n then
      b.modFe fun fe => { fe with poll := { fe.poll with hints := fe.poll.hints ++ [v.n] } }
    else b

/-- DEFERRED_POLL_START (R179): at the first edge after a poll ends, for the polls that fell due during it. -/
def execDeferredPollStart (s : State) : Host.Outcome State Fault Refusal :=
  onBlk s fun v b =>
    let p := b.fe.poll
    if !b.feRuns v || p.busy || p.polledAt == v.n || p.endedAt == some v.n || !(p.timerDue || p.hintDue) then b
    else b.startPoll v (!(v.pollTimer || p.timerDue))

/-- A bell of queue `q` (R179, R180): of one that is stray only the bit is cleared. -/
def Blk.bellFound (v : Env) (q : Nat) (b : Blk) : Blk :=
  if ((b.queue? q).map Queue.isOpen).getD false then
    (((b.modQueue q fun u => { u with readAgain := false }).askAnd v .bell q).modFe fun fe =>
      { fe with poll := { fe.poll with bells := fe.poll.bells ++ [q] } }).bump .bell
  else if (b.queue? q).isSome then (b.askAnd v .stray q).bump .strayBell
  else
    let r : HostReq := .summaryAnd q (v.sumAddr q)
    ((b.ask r).modFe fun fe => { fe with late := fe.late ++ [{ req := r, ctx := 0, who := some .stray }] }).bump .strayBell

/-- The PI read that an errored AND left for this poll (Table 11.3). -/
def Blk.readAgainNow (v : Env) (q : Nat) (b : Blk) : Blk :=
  ((b.modQueue q fun u => { u with readAgain := false }).askPi v .bell q).modFe fun fe =>
    { fe with poll := { fe.poll with bells := fe.poll.bells ++ [q] } }

/-- The bells that 16 summary words show, ascending. -/
def bellsOf (words : List (BitVec 64)) : List Nat :=
  (List.range 1024).filter fun q => ((words[q / 64]?).getD 0).getLsbD (q % 64)

/-- What the responses of the front end's own requests are to. -/
def HostReq.isSummary : HostReq → Bool
  | .summaryRead _ => true
  | _ => false
def HostReq.isAnd (q : Nat) : HostReq → Bool
  | .summaryAnd k _ => k == q
  | _ => false
def HostReq.isPi (q : Nat) : HostReq → Bool
  | .piRead k _ => k == q
  | _ => false
def HostReq.isFetch (q : Nat) : HostReq → Bool
  | .fetch k _ => k == q
  | _ => false
def HostReq.isStatus (q : Nat) : HostReq → Bool
  | .statusWrite k _ _ => k == q
  | _ => false
def HostReq.isImage : HostReq → Bool
  | .imageRead _ _ => true
  | _ => false
def HostReq.isValueRead (q : Nat) : HostReq → Bool
  | .valueRead k _ => k == q
  | _ => false
def HostReq.isValueWrite (q : Nat) : HostReq → Bool
  | .valueWrite k _ _ => k == q
  | _ => false
def HostReq.isResult (q : Nat) : HostReq → Bool
  | .resultWrite k _ _ => k == q
  | _ => false

/-- The poll is abandoned: an AND of it was answered with an error (Table 11.3). -/
def Blk.abandonPoll (err : Bool) (b : Blk) : Blk :=
  if err && b.fe.poll.busy then b.modFe fun fe => { fe with poll := { fe.poll with abandoned := true } } else b

/-- A bell of the poll has nothing more outstanding. -/
def Blk.bellOver (v : Env) (q : Nat) (b : Blk) : Blk :=
  (b.modFe fun fe => { fe with poll := { fe.poll with bells := fe.poll.bells.filter (· != q) } }).endPoll v

/-- A response on the host-memory port: to a request that `p` names and that has no owner any more, or else to the oldest
one, with which `k` goes on (R260; log 135). -/
def Blk.respond (v : Env) (p : HostReq → Bool) (err : Bool) (k : Blk → Blk) (b : Blk) : Blk :=
  match b.lateReq p with
  | none => k (b.hostRsp p err)
  | some x =>
    let b := b.lateRsp p err x
    match x.who, x.req with
    | some .bell, .summaryAnd q _ => ((b.abandonPoll err).modQueue q fun u => { u with readAgain := err }).bellOver v q
    | some .bell, .piRead q _ => b.bellOver v q
    | some .stray, _ => b.abandonPoll err
    | _, _ => b

/-- SUMMARY_READ_DONE (R179, R180, Table 11.3): bells, and the PI reads that an earlier poll left. -/
def execSummaryReadDone (words : List (BitVec 64)) (err : Bool) (s : State) : Host.Outcome State Fault Refusal :=
  onBlk s fun v b => b.respond v HostReq.isSummary err fun b =>
    if !b.fe.poll.reading then b
    else
      let b := b.modFe fun fe => { fe with poll := { fe.poll with reading := false } }
      if err then b.endPoll v
      else
        let left := b.fe.queues.filter fun p => p.2.readAgain
        let b := b.forEach (bellsOf words) fun q b => b.bellFound v q
        (b.forEach (left.filter fun p => ((b.queue? p.1).map Queue.readAgain).getD false) fun p b =>
          b.readAgainNow v p.1).endPoll v

/-! ## ANDs and PI reads -/

/-- The AND of a poll's bell is done. An error abandons the poll; a bell whose AND ends after that is read at the next
poll too, so that it is not lost (DEDUCED, log 25). -/
def Blk.bellAndDone (v : Env) (q : Nat) (err : Bool) (b : Blk) : Blk :=
  let b := b.abandonPoll err
  if b.fe.poll.abandoned then (b.modQueue q fun u => { u with readAgain := true }).bellOver v q
  else if ((b.queue? q).map Queue.isOpen).getD false then b.askPi v .bell q
  else b.bellOver v q

/-- The AND of a last look is done (R182). -/
def Blk.lookAndDone (v : Env) (q : Nat) (err : Bool) (b : Blk) : Blk :=
  if !((b.queue? q).map Queue.isOpen).getD false then b.modQueue q fun u => { u with look := .none }
  else if err then b.modQueue q fun u => { u with look := .again }
  else (b.modQueue q fun u => { u with look := .readOut }).askPi v .look q

/-- BELL_AND_DONE (R179, R180, R182, Table 11.3): the response to the oldest AND of queue `q`. -/
def execBellAndDone (q : Nat) (err : Bool) (s : State) : Host.Outcome State Fault Refusal :=
  atQueue s q fun v b => b.respond v (HostReq.isAnd q) err fun b =>
    match ((b.queue? q).map Queue.ands).getD [] with
    | [] => b
    | who :: rest =>
      let b := b.modQueue q fun u => { u with ands := rest }
      match who with
      | .bell => b.bellAndDone v q err
      | .look => b.lookAndDone v q err
      | .stray => b.abandonPoll err

/-- The last look has found its PI (R182). -/
def Blk.lookFound (v : Env) (q pi : Nat) (b : Blk) : Blk :=
  match b.queue? q with
  | none => b
  | some u =>
    let b := b.modQueue q fun u => { u with look := .none, piRead := pi }
    if u.ci < pi then (b.bump .lastLookHit).fetchNext v q
    else if u.qstate = .active then b.setQState v q .idle else b

/-- A PI read has returned a value that R177 accepts. -/
def Blk.piFound (v : Env) (look : Bool) (q pi : Nat) (b : Blk) : Blk :=
  if look then b.lookFound v q pi
  else match b.queue? q with
    | none => b
    | some u =>
      let b := b.modQueue q fun u => { u with piRead := max u.piRead pi }
      let b := if u.ci < pi ∧ u.qstate = .idle then b.setQState v q .active else b
      b.fetchNext v q

/-- A PI read that has no value: an error response or an overrun (R177, Table 11.3). -/
def Blk.piLost (look : Bool) (q : Nat) (u : Queue) (b : Blk) : Blk :=
  if u.ctx ≠ 0 then (b.modQueue q fun u => { u with look := if look then .none else u.look }).tearDown u.ctx stContextFault
  else if look then b.modQueue q fun u => { u with look := .again } else b

/-- PI_READ_DONE (R177, R179, R182, Table 11.3): the response to the oldest PI read of queue `q`. -/
def execPiReadDone (q : Nat) (pi : BitVec 64) (err : Bool) (s : State) : Host.Outcome State Fault Refusal :=
  atQueue s q fun v b => b.respond v (HostReq.isPi q) err fun b =>
    match b.queue? q with
    | none => b
    | some u => match u.piReads with
      | [] => b
      | who :: rest =>
        let look := who == .look
        let b := b.modQueue q fun u => { u with piReads := rest }
        let b := if look then b else b.bellOver v q
        let n := pi.toNat
        if err then b.piLost look q u
        else if !u.isOpen then b.modQueue q fun u => { u with look := .none }
        else if n < u.ci ∨ u.ci + 2 ^ u.log2n < n then
          (if u.ctx = 0 then b.bump .piOverrun else b).piLost look q u
        else b.piFound v look q n

/-! ## Fetches (R177, R182) -/

/-- Fetched descriptors from index `i` on, without leading ones that have already started: after a block reset the ring
is read again from the oldest descriptor that is not complete (R312). -/
def pruneFetched (started : List Nat) : Nat → List (Option (BitVec 512)) → List (Option (BitVec 512))
  | i, x :: r => if started.contains i then pruneFetched started (i + 1) r else x :: r
  | _, [] => []

def Queue.prune (u : Queue) : Queue :=
  { u with fetched := pruneFetched (u.started.map Started.index) (u.ci - u.fetched.length) u.fetched }

/-- DESCRIPTOR_FETCH_DONE (R177, R182, Table 11.3): CI rises, and a last look begins when CI has reached the last PI
read. A fetch error leaves a descriptor that completes with CONTEXT_FAULT. -/
def execDescriptorFetchDone (q : Nat) (d : BitVec 512) (err : Bool) (s : State) : Host.Outcome State Fault Refusal :=
  atQueue s q fun v b => b.respond v (HostReq.isFetch q) err fun b =>
    match b.queue? q with
    | none => b
    | some u =>
      if !u.fetchOut then b
      else
        let b := b.modQueue q fun u => { u with fetchOut := false }
        if !u.isOpen then (if err then b.tearDown u.ctx stContextFault else b)
        else
          let b := b.modQueue q fun u =>
            Queue.prune { u with fetched := u.fetched ++ [if err then none else some d], ci := u.ci + 1 }
          let b := b.writeStatus v q none
          let b := if err && u.ctx != 0 then b.tearDown u.ctx stContextFault else b
          if u.ci + 1 = u.piRead ∧ u.look = .none then b.lastLook v q else b.fetchNext v q

/-! ## Status and result records (R183, R189, Table 11.3) -/

/-- STATUS_RECORD_WRITE_RESPONSE: the response to the oldest result record of the queue, which raises DONE, or to a
status record. LAST_STATUS is that of the most recently completed descriptor (Table 8.3). -/
def execStatusRecordWriteResponse (q : Nat) (isResult err : Bool) (s : State) : Host.Outcome State Fault Refusal :=
  atQueue s q fun v b => b.respond v (if isResult then HostReq.isResult q else HostReq.isStatus q) err fun b =>
    match b.queue? q with
    | none => b
    | some u =>
      let fault (b : Blk) : Blk := if u.ctx ≠ 0 then b.tearDown u.ctx stContextFault else b
      if !isResult then (if err then fault b else b)
      else match u.resOut with
        | [] => b
        | (st, t) :: rest =>
          let b := if err then fault b else b
          (b.modQueue q fun u => { u with
            resOut := rest, done := u.done + 1, lastTicket := max u.lastTicket t
            lastStatus := if err then stContextFault else if u.lastTicket ≤ t then st else u.lastStatus }).writeStatus v q none

end Sys2Proof.Machine
end

