-- ==== Sys2Proof/Machine/Router.lean ====
section
/-! DEFINITION. The expert router (07_expert_routing.md): sessions, selection and weights, admission, sends, tiles,
chunks, close, announcements. -/

namespace Sys2Proof.Machine

open Sys2Proof.Config

/-! ## The route step descriptor (R151) -/

def Rsd.tileT (d : Rsd) : Nat := 2 ^ d.tlog

/-- Tile `k` of a row. -/
def RsdRow.tile (x : RsdRow) (c k : Nat) : TaskRef := ({ ctx := c, id := x.tile0 } : TaskRef).plus k

/-- The task of an image entry. -/
def Ctx.imageTask (x : Ctx) (t : TaskRef) : Option Task :=
  (x.frame t.reach t.seg t.vblock).bind fun f => tget f.launch t.entry

/-- A row meets R150 and R151. -/
def RsdRow.ok (x : Ctx) (c : Nat) (d : Rsd) (r : RsdRow) : Bool :=
  decide (r.type < 3) && decide (r.expert ≤ d.expM1)
    && (if r.type = 1 then r.tileN == 0 && r.tile0 == 0xFFFFFFFF
        else decide (1 ≤ r.tileN) && decide (bits r.tile0 0 16 + r.tileN ≤ 65536)
          && (List.range r.tileN).all (fun k => ((x.imageTask (r.tile c k)).map Task.kind) == some .expert))
    && (r.type != 0 || d.dyn || ceilDiv r.cap d.tileT == r.tileN)

/-- Two rows of one type name the same expert. -/
def Rsd.repeats (d : Rsd) (type : Nat) : Bool :=
  (List.range (d.expM1 + 1)).any fun e => decide (1 < (d.rows.filter fun r => r.type == type && r.expert == e).length)

/-- R151. -/
def Rsd.ok (x : Ctx) (c : Nat) (bs : List Byte) : Bool :=
  let d := rsdOf bs
  rsdReserved bs && decide (1 ≤ d.tokenN) && decide (1 ≤ d.rows.length) && decide (d.rows.length ≤ 1024)
    && decide (1 ≤ d.k) && decide (d.k ≤ 8) && decide (d.k ≤ d.expM1 + 1) && decide (4 ≤ d.tlog) && decide (d.tlog ≤ 12)
    && decide (1 ≤ d.srcN) && decide (d.srcN ≤ 65536) && d.tokenN % d.srcN == 0 && d.poolTokens % d.tileT == 0
    && d.rowBytes % 64 == 0 && (d.predBase == 0 || decide (d.predBase + d.expM1 ≤ 4095)) && decide (d.qlog ≤ 16)
    && decide (d.combQ0 + ceilDiv d.tokenN (2 ^ d.qlog) ≤ x.record.cqQ)
    && d.rows.all (fun r => r.ok x c d) && !d.repeats 0 && !d.repeats 1

/-! ## Sessions (R152, R175, R269) -/

def Session.is (s : Session) (c : Nat) (ix : BitVec 32) (round : BitVec 16) : Bool :=
  s.ctx == c && s.rsdIx == ix && s.round == round

/-- The slot of an open session. -/
def Rt.slotOf (t : Rt) (c : Nat) (ix : BitVec 32) (round : BitVec 16) : Option Nat :=
  (t.sessions.find? fun p => p.2.is c ix round).map (·.1)

def Blk.session? (b : Blk) (k : Nat) : Option Session := tget b.rt.sessions k
def Blk.putSession (b : Blk) (k : Nat) (s : Session) : Blk :=
  b.modRt fun t => { t with sessions := tput t.sessions k s }
def Session.row (s : Session) (r : Nat) : RowSt := tgetD {} s.rowSt r
def Session.modRow (s : Session) (r : Nat) (f : RowSt → RowSt) : Session :=
  { s with rowSt := tmod {} s.rowSt r f }

/-- Scores of a vector: EXP_M1 + 1 of them, widened to FP32. -/
def Vector.scores (x : Vector) (d : Rsd) : List (BitVec 32) :=
  (List.range (d.expM1 + 1)).map fun i =>
    if d.sfp32 then (x.words[i]?).getD 0
    else
      let w := (x.words[i / 2]?).getD 0
      BitVec.ofNat 32 (bits w (16 * (i % 2)) 16 * 65536)

/-- Data beats of a vector. -/
def Rsd.beats (d : Rsd) : Nat := ceilDiv ((d.expM1 + 1) * (if d.sfp32 then 4 else 2)) 64

def Rt.raise (t : Rt) (bit : Nat) : Rt := { t with err := t.err ||| BitVec.ofNat 3 (2 ^ bit) }

/-- Intake takes a vector into its open session; a wrong beat count tears the context down. -/
def Blk.acceptVector (v : Env) (k : Nat) (x : Vector) (b : Blk) : Blk :=
  match b.session? k with
  | none => b
  | some s =>
    if x.words.length ≠ 16 * s.rsd.beats then b.tearDown x.ctx stContextFault
    else b.modRt fun t => { t with intake := t.intake ++ [{ x with pulse := v.n }] }

/-- Bind the streams of a session's OUT rows to its context (R223; DEDUCED, log 23). -/
def Blk.bindRows (c : Nat) (d : Rsd) (b : Blk) : Blk :=
  b.forEach (d.rows.filter fun r => r.type == 1) fun r b => match b.bindStream c r.stream with
    | some x => x
    | none => b.tearDown c stContextFault

/-- Open a session in a slot. -/
def Blk.openSession (v : Env) (k : Nat) (x : Vector) (rsd : List Byte) (b : Blk) : Blk :=
  match b.ctx? x.ctx with
  | none => b
  | some c =>
    if !Rsd.ok c x.ctx rsd then (b.modRt fun t => t.raise 0).tearDown x.ctx stContextFault
    else
      let b := (b.putSession k { ctx := x.ctx, rsdIx := x.rsdIx, round := x.round, rsd := rsdOf rsd }).bump .sessionOpen
      (b.bindRows x.ctx (rsdOf rsd)).acceptVector v k x

/-- Intake holds a vector at its engine port: the 16 top-k units are full, or the port holds one already (R148;
DEDUCED, log 128). -/
def Rt.holds (t : Rt) (e : Nat) : Bool := decide (16 ≤ t.intake.length) || t.waiting.any (fun p => p.1.engine == e)

/-- A vector at intake (R148, R152): it is held at its port, or goes to its session, or opens one, or waits for a slot. -/
def Blk.intakeVector (v : Env) (x : Vector) (rsd : List Byte) (b : Blk) : Blk :=
  if b.torn x.ctx then b
  else if b.rt.holds x.engine then b.modRt fun t => { t with waiting := t.waiting ++ [(x, rsd)] }
  else match b.rt.slotOf x.ctx x.rsdIx x.round with
    | some k => b.acceptVector v k x
    | none =>
      if !v.rtEn then b.tearDown x.ctx stContextFault
      else match (List.range 4).find? fun k => (b.session? k).isNone with
        | some k => b.openSession v k x rsd
        | none => b.modRt fun t => { t with waiting := t.waiting ++ [(x, rsd)] }

/-- Offer every vector that is held at its port again. -/
def Blk.drainWaiting (v : Env) (b : Blk) : Blk :=
  let ws := b.rt.waiting
  (b.modRt fun t => { t with waiting := [] }).forEach ws fun p b => b.intakeVector v p.1 p.2

/-- The 16 words of a beat. -/
def beatWords (x : BitVec 512) : List (BitVec 32) := (List.range 16).map fun i => BitVec.ofNat 32 (bits x (32 * i) 32)

/-- SCORE_VECTOR (R3, R152, R269): `rsd` is what the router reads if the vector opens a session. -/
def execScoreVector (e : Nat) (hdr : BitVec 128) (beats : List (BitVec 512)) (rsd : List Byte) (s : State) :
    Host.Outcome State Fault Refusal :=
  atRun s e fun v _ b =>
    if !v.aon.grade.hasRouter then b.runFault e stContextFault
    else
      let x : Vector := { engine := e, ctx := bits hdr 80 6, rsdIx := BitVec.ofNat 32 (bits hdr 32 32)
                          round := BitVec.ofNat 16 (bits hdr 64 16), token := bits hdr 0 32
                          words := beats.flatMap beatWords }
      b.intakeVector v x rsd

/-! ## Selection and weights (R153, R154, R158) -/

/-- A number that orders FP32 values; NaN lowest, the zeros equal. -/
def scoreKey (x : BitVec 32) : Nat :=
  let mag := bits x 0 31
  if isNanFp x then 0 else if mag = 0 then 2 ^ 31 else if x.getLsbD 31 then 2 ^ 31 - mag else 2 ^ 31 + mag

/-- The choices of a token: expert and score, by rank. -/
def topK (k : Nat) (scores : List (BitVec 32)) : List (Nat × BitVec 32) :=
  (lsort (fun (p : Nat × BitVec 32) => 2 ^ 32 - scoreKey p.2) ((List.range scores.length).zip scores)).take k

def expOf (x : BitVec 32) : BitVec 32 := expFp expPick x

/-- A weight that is NaN in whichever bit pattern the free value gives (DESIGN CHOICE, log 153); any other as it is. -/
def freeNan (src : List (BitVec 32)) (i : Nat) (w : BitVec 32) : BitVec 32 :=
  if isNanFp w && isNanFp (nanWeight src i) then nanWeight src i else w

/-- Weights of the choices (R154); the bit pattern of one that is NaN is open (log 153). -/
def weightsOf (raw : Bool) (scores : List (BitVec 32)) : List (BitVec 32) :=
  if raw then scores
  else if scores.any isNanFp then (List.range scores.length).map fun i => freeNan scores i fpNan
  else
    let m := (scores.head?).getD 0
    let es := scores.map fun x => expOf (subFp x m)
    let sum := match es with
      | [] => 0
      | y :: r => r.foldl addFp y
    ((List.range es.length).zip es).map fun y => freeNan scores y.1 (divFp y.2 sum)

/-! ## Admission (R155-R157, R165, R167) -/

/-- The share of a total that source `q` has, and where its shares start (R157). -/
def shareOf (total n q : Nat) : Nat := total / n + (if q < total % n then 1 else 0)
def shareStart (total n q : Nat) : Nat := q * (total / n) + min q (total % n)

/-- The source of a token. -/
def Rsd.source (d : Rsd) (tok : Nat) : Nat := tok / (d.tokenN / d.srcN)

/-- The row that takes an expert's choices. R151 lets an expert have a LOCAL and an OUT row and R155 does not say which
takes a choice: the lower-numbered one does (DESIGN CHOICE, log 151). -/
def Rsd.rowOf (d : Rsd) (e : Nat) : Option (Nat × RsdRow) :=
  ((List.range d.rows.length).zip d.rows).find? fun p => p.2.type != 2 && p.2.expert == e

/-- What becomes of a choice. -/
inductive Choice where
  | placed (row : Nat) (chunk : Bool) (index : Nat) (pool : Bool)
  | dropped (row : Option Nat)
  /-- It needs a chunk that RC has not bound yet. -/
  | bind (row : Nat)
  /-- It needs a chunk and none is left. -/
  | exhausted (row : Nat)

/-- The next chunk-space slot of a row. -/
def Session.chunkSlot (s : Session) (r : Nat) (pool : Bool) : Choice :=
  let fresh : Choice := if s.nextChunk < s.rsd.chunkN then .bind r else .exhausted r
  match (s.row r).openChunk with
  | none => fresh
  | some c =>
    let k := tgetD {} s.chunks c
    if k.count < s.rsd.tileT then .placed r true (c * s.rsd.tileT + k.count) pool else fresh

/-- Decide one choice (R156, R157, R167). -/
def Session.place (s : Session) (tok e : Nat) : Choice :=
  let d := s.rsd
  match d.rowOf e with
  | none => .dropped none
  | some (r, x) =>
    let st := s.row r
    let q := d.source tok
    let used := if d.quota then tgetD 0 st.srcUsed q else st.used
    let cap := if d.quota then shareOf x.cap d.srcN q else x.cap
    let poolUsed := if d.quota then tgetD 0 s.poolSrc q else s.poolUsed
    let poolCap := if d.quota then shareOf d.poolTokens d.srcN q else d.poolTokens
    if used < cap then
      if d.dyn then s.chunkSlot r false
      else .placed r false ((if d.quota then shareStart x.cap d.srcN q else 0) + used) false
    else if x.type == 0 && decide (poolUsed < poolCap) then s.chunkSlot r true
    else .dropped (some r)

/-- Raise one of a row's counts. -/
def RowSt.count (st : RowSt) (i : Nat) : RowSt :=
  let c (x : BitVec 32) : BitVec 32 × BitVec 32 := count32 x 1 st.sat i
  match i with
  | 0 => { st with req := (c st.req).1, sat := (c st.req).2 }
  | 1 => { st with adm := (c st.adm).1, sat := (c st.adm).2 }
  | 2 => { st with pool := (c st.pool).1, sat := (c st.pool).2 }
  | _ => { st with drop := (c st.drop).1, sat := (c st.drop).2 }

/-- The session after a placed or dropped choice: uses and counts. -/
def Session.take (s : Session) (tok rank : Nat) (c : Choice) : Session :=
  let q := s.rsd.source tok
  let drop (s : Session) : Session := { s with drops := s.drops ++ [(tok, rank)] }
  match c with
  | .placed r chunk index pool =>
    let s := s.modRow r fun st =>
      let st := (st.count 0).count (if pool then 2 else 1)
      if pool then st else { st with used := st.used + 1, srcUsed := tmod 0 st.srcUsed q (· + 1) }
    let s := if pool then { s with poolUsed := s.poolUsed + 1, poolSrc := tmod 0 s.poolSrc q (· + 1) } else s
    if chunk then
      { s with chunks := tmod {} s.chunks (index / s.rsd.tileT) fun k => { k with count := k.count + 1 } }
    else s
  | .dropped (some r) | .exhausted r => drop (s.modRow r fun st => (st.count 0).count 3)
  | .dropped none => drop s
  | .bind _ => s

/-- A token's choices in rank order, with the session after each; the row that needs a chunk stops it. -/
def Session.admitAll (tok : Nat) : List (Nat × Nat) → Session → Session × List Choice × Option Nat
  | [], s => (s, [], none)
  | (rank, e) :: rest, s =>
    match s.place tok e with
    | .bind r => (s, [], some r)
    | c =>
      let t := (s.take tok rank c).admitAll tok rest
      (t.1, c :: t.2.1, t.2.2)

/-! ## Records (R158, R160) -/

def Choice.isDropped : Choice → Bool
  | .placed _ _ _ _ => false
  | _ => true

/-- Weights after RENORM, and whether they were changed; the bit pattern of one that is NaN is open (log 153). -/
def renormed (d : Rsd) (cs : List (Choice × BitVec 32)) : List (BitVec 32 × Bool) :=
  let kept := (cs.filter fun c => !c.1.isDropped).map (·.2)
  let sum := match kept with
    | [] => 0
    | y :: r => r.foldl addFp y
  if d.renorm && !kept.isEmpty && bits sum 0 31 != 0 then
    ((List.range cs.length).zip cs).map fun (i, c) =>
      if c.1.isDropped then (c.2, false) else (freeNan kept i (divFp c.2 sum), true)
  else cs.map fun c => (c.2, false)

/-- The routing record of a choice. ROW of a dropped choice whose expert has an IN row alone is 0xFFFF: only a LOCAL or
OUT row counts as the expert's row (DEDUCED, log 152). -/
def recordOf (tok rank e : Nat) (c : Choice) (w : BitVec 32 × Bool) : RouteRec :=
  let mk (row : Nat) (slot : Nat) (pool dropped : Bool) : RouteRec :=
    { token := BitVec.ofNat 32 tok, row := BitVec.ofNat 16 row, expert := BitVec.ofNat 8 e
      rfl := rflBits rank pool dropped w.2, slot := BitVec.ofNat 32 slot, weight := w.1 }
  match c with
  | .placed r chunk index pool => mk r (fieldAt 31 (b2n chunk) + index % 2 ^ 24) pool false
  | .dropped (some r) | .exhausted r | .bind r => mk r 0xFFFFFFFF false true
  | .dropped none => mk 0xFFFF 0xFFFFFFFF false true

/-- Address of a slot-major record. -/
def Rsd.slotAddr (d : Rsd) (row : Nat) (chunk : Bool) (index : Nat) : BitVec 64 :=
  if chunk then d.chunkRec + BitVec.ofNat 64 (16 * index)
  else d.slotRec + BitVec.ofNat 64 (16 * (((d.rows[row]?).map RsdRow.slot0).getD 0 + index))

/-! ## Sends (R161, R162, R270) -/

/-- The DMA engine of a slot's send: by tile number within the row's engine set. -/
def Rsd.sendEngine (v : Env) (d : Rsd) (row index : Nat) : Option Nat :=
  let set := ((d.rows[row]?).map RsdRow.dmaEset).getD 0
  let es := (List.range v.engines).filter (v.inSet set)
  es[(index / d.tileT) % es.length]?

/-- Issue the send of a placed choice, or say that its agent has no credit. A DMA_ESET without an engine gives no agent,
so its send finds no credit and stalls the stage (DEDUCED, log 154). -/
def Blk.issueSend (v : Env) (k row : Nat) (chunk : Bool) (index : Nat) (b : Blk) : Option Blk :=
  match b.session? k with
  | none => some b
  | some s =>
    let mine (p : Placed) : Bool := p.row == row && p.chunk == chunk && p.index == index
    match s.placed.find? mine, s.rsd.rows[row]? with
    | some p, some x =>
      match s.rsd.sendEngine v row index with
      | none => none
      | some e =>
        if v.sendCredit ≤ (b.agent e).sends.length then none
        else
          let fab := x.type == 1
          let w : SendWord :=
            { id := BitVec.ofNat 32 b.rt.nextSend
              src := s.rsd.actBase + BitVec.ofNat 64 (s.rsd.rowBytes * p.record.token.toNat)
              dst := (if chunk then s.rsd.chunkBuf else x.buf) + BitVec.ofNat 64 (s.rsd.rowBytes * index)
              len := BitVec.ofNat 32 s.rsd.rowBytes, stream := if fab then x.stream else 0
              epoch := if fab then (tgetD {} b.hb.streams x.stream.toNat).epoch else 0
              fab := fab, slot := k, row := row, chunk := chunk, index := index }
          let s := { s with placed := lreplace mine (fun p => { p with sent := true }) s.placed, sendsOut := s.sendsOut + 1 }
          let s := s.modRow row fun st => { st with sent := st.sent + 1 }
          let b := ((b.putSession k s).modRt fun t => { t with nextSend := t.nextSend + 1 }).bump .sendIssued
          some ((b.modAgent e fun a => { a with sends := a.sends ++ [w] }).emit (.sendWord e w.bits256))
    | _, _ => some b

/-- Issue the sends that found no credit, in order, until one still finds none. -/
def Blk.issueUnsent (v : Env) : Nat → Blk → Blk
  | 0, b => b
  | n + 1, b => match b.rt.unsent with
    | [] => b
    | (k, row, chunk, index) :: rest =>
      match b.issueSend v k row chunk index with
      | none => b
      | some c => (c.modRt fun t => { t with unsent := rest }).issueUnsent v n

def Blk.retryUnsent (v : Env) (b : Blk) : Blk := b.issueUnsent v b.rt.unsent.length

/-- Issue deferred sends in ascending row and slot order (R162); from the first that finds no credit on they stall the
capacity stage as others do (R161). -/
def Blk.issueDeferred (v : Env) (k : Nat) (b : Blk) : Blk :=
  match b.session? k with
  | none => b
  | some s =>
    let order (p : Placed) : Nat := p.row * 2 ^ 32 + b2n p.chunk * 2 ^ 31 + p.index
    let due := lsort order (s.placed.filter fun p => !p.sent && !b.rt.unsent.contains (k, p.row, p.chunk, p.index))
    (b.modRt fun t => { t with unsent := t.unsent ++ due.map fun p => (k, p.row, p.chunk, p.index) }).retryUnsent v

/-! ## The capacity stage (R155) -/

/-- Resolve expert slot `e` of a session, once (R171). -/
def Blk.resolveExpert (k e : Nat) (value : Bool) (b : Blk) : Blk :=
  match b.session? k with
  | none => b
  | some s =>
    if s.rsd.predBase = 0 ∨ s.resolved.contains e then b
    else
      let b := b.putSession k { s with resolved := s.resolved ++ [e] }
      { b with predNext := b.predNext ++
        [{ ctx := s.ctx, slot := s.rsd.predBase + e, op := if value then .resolveTrue else .resolveFalse, record := true }] }

/-- One decided choice: its records, its send or the deferral of it, its counts. -/
def Blk.settleChoice (k tok rank e : Nat) (c : Choice) (w : BitVec 32 × Bool) (b : Blk) : Blk :=
  match b.session? k with
  | none => b
  | some s =>
    let r := recordOf tok rank e c w
    let b := b.emit (.dmWrite (s.rsd.recBase + BitVec.ofNat 64 (16 * (tok * s.rsd.k + rank))) (routeBytes r))
    match c with
    | .placed row chunk index pool =>
      let b := b.emit (.dmWrite (s.rsd.slotAddr row chunk index) (routeBytes r))
      let s := { s with placed := s.placed ++
        [{ row := row, chunk := chunk, index := index, record := r, sent := false, done := false }] }
      let b := (b.putSession k s).bump (if pool then .choicesPooled else .choicesAdmitted)
      let local_ := ((s.rsd.rows[row]?).map fun x => x.type == 0).getD false
      let b := if local_ then b.resolveExpert k e true else b
      if !b.sasEn then b.bump .deferredSend
      else b.modRt fun t => { t with unsent := t.unsent ++ [(k, row, chunk, index)] }
    | .exhausted _ => ((b.modRt fun t => t.raise 2).tearDown s.ctx stContextFault).bump .choicesDropped
    | .dropped _ => b.bump .choicesDropped
    | .bind _ => b

/-- Route the token of a vector in session `k`; none while the stage stalls at a choice that needs a chunk. -/
def Blk.routeToken (v : Env) (k : Nat) (s : Session) (x : Vector) (b : Blk) : Option Blk :=
  let scores := x.scores s.rsd
  let top := topK s.rsd.k scores
  let q := s.rsd.source x.token
  if s.rsd.quota && (tget s.lastTok q).any (fun l => decide (x.token ≤ l)) then
    some ((b.modRt fun t => { t.raise 1 with intake := t.intake.drop 1 }).tearDown s.ctx stContextFault)
  else
    let ranks := List.range top.length
    let d := s.admitAll x.token (ranks.zip (top.map (·.1)))
    match d.2.2 with
    | some r => match s.wantChunk with
      | some _ => none
      | none => some (b.putSession k { s with wantChunk := some r })
    | none =>
      let ws := renormed s.rsd (d.2.1.zip (weightsOf s.rsd.wraw (top.map (·.2))))
      let nan := (scores.filter isNanFp).length
      let b := b.putSession k { d.1 with
        processed := s.processed + 1, lastTok := tput s.lastTok q x.token, wantChunk := none }
      let b := b.forEach (ranks.zip ((top.map (·.1)).zip (d.2.1.zip ws))) fun p b =>
        b.settleChoice k x.token p.1 p.2.1 p.2.2.1 p.2.2.2
      some ((((b.modRt fun t => { t with intake := t.intake.drop 1 }).bump .tokensRouted).bump .nanScore 0 nan).retryUnsent v)

/-- The capacity stage takes the next token in order; it stalls at a send without credit, and at a choice that needs a
chunk (R155, R161, R165). A token that leaves makes room for the vectors held at the ports. -/
def Blk.routeNext (v : Env) (b : Blk) : Blk :=
  let b := b.retryUnsent v
  if !b.rt.unsent.isEmpty then b
  else match b.rt.intake with
    | [] => b
    | x :: rest =>
      let gone := (b.modRt fun t => { t with intake := rest }).drainWaiting v
      match b.rt.slotOf x.ctx x.rsdIx x.round with
      | none => gone
      | some k => match b.session? k with
        | none => gone
        | some s =>
          if b.torn s.ctx || s.rsd.tokenN ≤ s.processed then gone
          else match b.routeToken v k s x with
            | none => b
            | some c => if c.rt.intake.length < b.rt.intake.length then c.drainWaiting v else c

/-- TOKEN_ROUTE (R148, R155-R161): the next token in order. -/
def execTokenRoute (s : State) : Host.Outcome State Fault Refusal :=
  onBlk s fun v b => if b.frozen then b else b.routeNext v

/-- By the end of a pulse the capacity stage has processed every token whose vector was accepted before it (R148), as
far as it does not stall. -/
def Blk.routeDue (v : Env) : Nat → Blk → Blk
  | 0, b => b
  | n + 1, b =>
    if (b.rt.intake.head?.map fun x => decide (x.pulse < v.n)).getD false then (b.routeNext v).routeDue v n else b

/-- CHUNK_BIND (R165): RC binds the lowest unbound chunk to the row that the stage waits for. -/
def execChunkBind (slot : Nat) (s : State) : Host.Outcome State Fault Refusal :=
  onBlk s fun _ b =>
    match b.session? slot with
    | none => b
    | some x => match x.wantChunk with
      | none => b
      | some r =>
        if b.frozen || b.db.rcHalted || b.torn x.ctx || x.rsd.chunkN ≤ x.nextChunk then b
        else
          let c := x.nextChunk
          let k : Chunk := { row := some r }
          let x := { x with chunks := tput x.chunks c k, nextChunk := c + 1, wantChunk := none }
          let x := x.modRow r fun st => { st with openChunk := some c, bound := st.bound + 1 }
          ((b.putSession slot x).emit (.dmWrite (x.rsd.cmdBase + BitVec.ofNat 64 (16 * c)) (chunkCommand x.rsd c k))).bump
            .chunkBind

/-! ## Sends done and tiles (R161, R163) -/

/-- Placed reserved slots of a tile. -/
def Session.inTile (s : Session) (row t : Nat) : List Placed :=
  s.placed.filter fun p => p.row == row && !p.chunk && p.index / s.rsd.tileT == t

/-- A static tile of a LOCAL row whose slots are all admitted and sent, and that is not the row's last (R163). -/
def Session.tileReady (s : Session) (row t : Nat) : Bool :=
  match s.rsd.rows[row]? with
  | none => false
  | some x =>
    let ps := s.inTile row t
    x.type == 0 && !s.rsd.dyn && decide (t + 1 < x.tileN) && ps.length == s.rsd.tileT && ps.all Placed.done
      && !(s.row row).released.contains t

def Session.fillAddr (s : Session) (row t : Nat) : BitVec 64 :=
  s.rsd.fillBase + BitVec.ofNat 64 (4 * (((s.rsd.rows[row]?).map RsdRow.fill0).getD 0 + t))

/-- The agent's send is no longer outstanding. -/
def Blk.dropSend (b : Blk) (e : Nat) (id : BitVec 32) : Blk :=
  b.modAgent e fun a => { a with sends := a.sends.filter fun w => w.id != id }

/-- Mark a session's send done; the fill word of a tile that is now complete is written. -/
def Blk.sendFinished (w : SendWord) (b : Blk) : Blk :=
  match b.session? w.slot with
  | none => b
  | some s =>
    let s := { s with
      placed := lreplace (fun (p : Placed) => p.row == w.row && p.chunk == w.chunk && p.index == w.index)
        (fun p => { p with done := true }) s.placed
      sendsOut := s.sendsOut - 1 }
    let b := b.putSession w.slot s
    let t := w.index / s.rsd.tileT
    if !w.chunk && s.tileReady w.row t then b.emit (.dmWrite (s.fillAddr w.row t) (leBytes 4 s.rsd.tileT)) else b

/-- SEND_DONE (R161, R270). -/
def execSendDone (e : Nat) (sendId : BitVec 32) (s : State) : Host.Outcome State Fault Refusal :=
  if s.aon.grade.engines ≤ e then .next s
  else match (s.blk.agent e).sends.find? fun w => w.id == sendId with
    | none => .fault .obligationBroken
    | some w => onBlk s fun v b =>
      let b := b.dropSend e sendId
      let b := b.sendFinished w
      if b.frozen then b else b.retryUnsent v

/-- DEFERRED_SEND_ISSUE (R162): in a pulse in which the enable is set, or from the close point. -/
def execDeferredSendIssue (slot : Nat) (s : State) : Host.Outcome State Fault Refusal :=
  onBlk s fun v b =>
    match b.session? slot with
    | none => b
    | some x =>
      if b.frozen || b.torn x.ctx || !(b.sasEn || x.phase == .closePoint) then b else b.issueDeferred v slot

/-- Issue a notice for tile `t` of a row. -/
def Blk.notice (t : TaskRef) (release : Bool) (b : Blk) : Blk :=
  (b.modRt fun x => { x with notices := tmod [] x.notices t.reach (· ++ [(t, release)]) }).bump
    (if release then .releaseNotice else .skipNotice)

/-- TILE_RELEASE (R163): the tile's records and fill word are acknowledged. -/
def execTileRelease (slot : Nat) (row tile : Nat) (s : State) : Host.Outcome State Fault Refusal :=
  onBlk s fun _ b =>
    match b.session? slot with
    | none => b
    | some x => match x.rsd.rows[row]? with
      | none => b
      | some y =>
        if b.frozen || b.torn x.ctx || x.phase == .closing || !x.tileReady row tile then b
        else (b.putSession slot (x.modRow row fun st => { st with released := st.released ++ [tile] })).notice
          (y.tile x.ctx tile) true

/-- ROUTER_NOTICE_LAND (R163, R164, R308). -/
def execRouterNoticeLand (r : Nat) (s : State) : Host.Outcome State Fault Refusal :=
  atReach s r fun _ b =>
    match tgetD [] b.rt.notices r with
    | [] => b
    | (t, release) :: rest =>
      if b.frozen then b
      else
        let b := b.modRt fun x => { x with notices := tput x.notices r rest }
        if b.torn t.ctx then b.discard r
        else if release then b.modReach r fun rc => { rc with relNotes := rc.relNotes ++ [t] }
        else b.modReach r fun rc => { rc with landed := rc.landed ++ [.skip t] }

/-! ## Chunk pulls (R165, R166) -/

/-- Placed slots of a chunk have all been sent. -/
def Session.chunkSent (s : Session) (c : Nat) : Bool :=
  let ps := s.placed.filter fun p => p.chunk && p.index / s.rsd.tileT == c
  ps.length == (tgetD {} s.chunks c).count && ps.all Placed.done

/-- CHUNK_CLAIMABLE (R165): a full chunk whose sends and records are acknowledged. -/
def execChunkClaimable (slot chunk : Nat) (s : State) : Host.Outcome State Fault Refusal :=
  onBlk s fun _ b =>
    match b.session? slot with
    | none => b
    | some x => match tget x.chunks chunk with
      | none => b
      | some k =>
        if b.frozen || b.db.rcHalted || k.claimable || k.count != x.rsd.tileT || !x.chunkSent chunk then b
        else (b.putSession slot { x with chunks := tput x.chunks chunk { k with claimable := true } }).emit
          (.dmWrite (x.rsd.cmdBase + BitVec.ofNat 64 (16 * chunk + 4)) (leBytes 4 k.count))

/-- The row and tile number of a task in a session. -/
def Session.tileOf (s : Session) (t : TaskRef) : Option (Nat × Nat) :=
  if s.ctx ≠ t.ctx then none
  else
    let hit (x : RsdRow) : Bool :=
      x.type != 1 && bits x.tile0 16 16 == bits t.id 16 16 && decide (bits x.tile0 0 16 ≤ t.index)
        && decide (t.index < bits x.tile0 0 16 + x.tileN)
    (((List.range s.rsd.rows.length).zip s.rsd.rows).find? fun p => hit p.2).map fun p =>
      (p.1, t.index - bits p.2.tile0 0 16)

/-- Where a pull of a tile is answered: an open session, or the latest closed one. -/
def Rt.pullSession (rt : Rt) (t : TaskRef) : Option (Option Nat × Session × Nat × Nat) :=
  match rt.sessions.find? fun p => (p.2.tileOf t).isSome with
  | some (k, s) => (s.tileOf t).map fun x => (some k, s, x.1, x.2)
  | none => (rt.closed.find? fun s => (s.tileOf t).isSome).bind fun s => (s.tileOf t).map fun x => (none, s, x.1, x.2)

/-- Put a session back where it was found. -/
def Rt.putPull (rt : Rt) (k : Option Nat) (s : Session) : Rt :=
  match k with
  | some i => { rt with sessions := tput rt.sessions i s }
  | none => { rt with closed := lreplace (fun x => x.is s.ctx s.rsdIx s.round) (fun _ => s) rt.closed }

/-- The lowest unclaimed chunk of a row: only claimable ones before close. -/
def Session.freeChunk (s : Session) (row : Nat) : Option Nat :=
  (s.chunks.find? fun p => p.2.row == some row && !p.2.claimed && (p.2.claimable || s.phase == .closed)).map (·.1)

/-- An answer ends the pull. -/
def Blk.answerTo (e : Nat) (answer : BitVec 32) (b : Blk) : Blk :=
  (b.emit (.pullAnswer e answer)).modAgent e fun a => { a with pull := .none }

/-- Answer an outstanding chunk pull if this pulse's permit and allowance admit it (R109, R166). -/
def Blk.answerChunk (e : Nat) (b : Blk) : Blk :=
  let a := b.agent e
  match a.run with
  | none => b
  | some r =>
    let t := r.ref
    if a.pull != .chunk || b.frozen || b.coreHalted then b
    else if b.torn t.ctx then b.answerTo e 0xFFFFFFFF
    else if b.isLate t.ctx r.dw.epoch then (b.answerTo e 0xFFFFFFFF).bump .lateCompletion
    else match b.task? t with
      | none => b.answerTo e 0xFFFFFFFF
      | some x =>
        if !b.dspEn || (x.be && !b.beEn) then b
        else match b.rt.pullSession t with
          | none => b.answerTo e 0xFFFFFFFF
          | some (k, s, row, tile) =>
            let last := ((s.rsd.rows[row]?).map fun y => tile + 1 == y.tileN).getD false
            if last && s.phase != .closed then b
            else match s.freeChunk row with
              | none => b.answerTo e 0xFFFFFFFF
              | some c =>
                let amount := energyPj x.energy
                if !b.chargeOk t.reach amount then b
                else
                  let s := { s with chunks := tmod {} s.chunks c fun k => { k with claimed := true } }
                  let b := (b.modRt fun rt => rt.putPull k s).bump .chunkPull
                  let b := b.modReach t.reach fun rc => { rc with
                    allowLeft := rc.allowLeft - amount, charged := rc.charged || decide (0 < amount) }
                  (b.modPg fun p => { p with chunkCharges := tmod 0 p.chunkCharges x.chargeClass (· + amount) }).answerTo e
                    (BitVec.ofNat 32 c)

/-- Answer every chunk pull that waits. -/
def Blk.answerChunks (b : Blk) : Blk :=
  b.forEach (b.agents.filter fun p => p.2.pull == .chunk) fun p b => b.answerChunk p.1

/-- CHUNK_PULL (R166): the puller of an agent that runs an expert tile. -/
def execChunkPull (e : Nat) (s : State) : Host.Outcome State Fault Refusal :=
  atRun s e fun _ r b =>
    if r.dw.kind != .expert || (b.agent e).pull != .none || (b.agent e).abort.isSome then b
    else (b.modAgent e fun a => { a with pull := .chunk }).answerChunk e

/-- TILE_PULL_RETRY (R118, R166): a pull held back is answered in the first pulse that admits it. -/
def execTilePullRetry (e : Nat) (s : State) : Host.Outcome State Fault Refusal :=
  atEngine s e fun v b => (b.answerPull v e).answerChunk e

/-! ## Close (R168) -/

/-- Every token is processed and every send issued so far is done. -/
def Session.atClosePoint (b : Blk) (k : Nat) (s : Session) : Bool :=
  s.processed == s.rsd.tokenN && s.sendsOut == 0 && !b.rt.unsent.any (fun u => u.1 == k)

/-- SESSION_CLOSE_POINT (R168): every deferred send is issued, whatever the enable. -/
def execSessionClosePoint (slot : Nat) (s : State) : Host.Outcome State Fault Refusal :=
  onBlk s fun v b =>
    match b.session? slot with
    | none => b
    | some x =>
      if b.frozen || b.torn x.ctx || x.phase != .routing || !x.atClosePoint b slot then b
      else (b.putSession slot { x with phase := .closePoint }).issueDeferred v slot

/-- Every IN row has had its announcement (R169). -/
def Session.announcedAll (s : Session) : Bool :=
  ((List.range s.rsd.rows.length).zip s.rsd.rows).all fun p => p.2.type != 2 || (s.row p.1).announced

/-- The fill of a tile as close writes it. -/
def Session.fill (s : Session) (row t : Nat) : Nat := if s.rsd.dyn then 0 else (s.inTile row t).length

/-- Fill words of a LOCAL row's tiles that are not released. -/
def Blk.writeFills (s : Session) (row : Nat) (x : RsdRow) (b : Blk) : Blk :=
  b.forEach ((List.range x.tileN).filter fun t => !(s.row row).released.contains t) fun t b =>
    b.emit (.dmWrite (s.fillAddr row t) (leBytes 4 (s.fill row t)))

/-- The empty slot-major records of a row: its slots below CAP and those of its tiles (DEDUCED, log 129). TOKEN is all
ones; the spec gives no other field (free values, log 4). -/
def Blk.writeEmpties (s : Session) (row : Nat) (x : RsdRow) (b : Blk) : Blk :=
  b.forEach ((List.range (max x.cap (x.tileN * s.rsd.tileT))).filter fun i =>
      !(s.placed.any fun p => p.row == row && !p.chunk && p.index == i))
    fun i b =>
      let lo := b.free
      let b := b.spend
      let hi := b.free
      (b.spend).emit (.dmWrite (s.rsd.slotAddr row false i)
        (leBytes 4 0xFFFFFFFF ++ leBytes 8 lo.toNat ++ leBytes 4 (bits hi 0 32)))

/-- Everything RC writes at close. -/
def Blk.closeWrites (s : Session) (b : Blk) : Blk :=
  let rows := (List.range s.rsd.rows.length).zip s.rsd.rows
  let b := b.forEach rows fun p b =>
    let b := if p.2.type = 0 then b.writeFills s p.1 p.2 else b
    if p.2.type = 2 then b else b.writeEmpties s p.1 p.2
  let b := b.forEach (List.range s.rsd.chunkN) fun c b =>
    b.emit (.dmWrite (s.rsd.cmdBase + BitVec.ofNat 64 (16 * c)) (chunkCommand s.rsd c (tgetD {} s.chunks c)))
  b.forEach rows fun p b => b.emit (.dmWrite (s.rsd.cntBase + BitVec.ofNat 64 (32 * p.1)) (rowCounter (s.row p.1)))

/-- SESSION_CLOSE (R168 steps 1 and 2). -/
def execSessionClose (slot : Nat) (s : State) : Host.Outcome State Fault Refusal :=
  onBlk s fun _ b =>
    match b.session? slot with
    | none => b
    | some x =>
      if b.frozen || b.db.rcHalted || b.torn x.ctx || x.phase != .closePoint || x.sendsOut != 0
          || x.placed.any (fun p => !p.done) || !x.announcedAll then b
      else (b.putSession slot { x with phase := .closing }).closeWrites x

/-- The notices of a LOCAL row's tiles not yet released. -/
def Blk.closeNotices (s : Session) (row : Nat) (x : RsdRow) (b : Blk) : Blk :=
  b.forEach ((List.range x.tileN).filter fun t => !(s.row row).released.contains t) fun t b =>
    b.notice (x.tile s.ctx t)
      (if s.rsd.dyn then decide (t < min (s.row row).bound x.tileN) else decide (0 < s.fill row t))

/-- The announcement of an OUT row, for the coming edge (R169, R225). Its destination node and receiving context are
in no descriptor: free values (log 4). -/
def Blk.announceRow (s : Session) (row : Nat) (x : RsdRow) (b : Blk) : Blk :=
  let f := b.free
  let blk : RsigBlk := { dstNode := BitVec.ofNat 16 (bits f 0 16), stream := x.stream, kind := 2
                         ctx := BitVec.ofNat 8 (bits f 16 6), target := s.rsdIx, value := (s.row row).adm
                         n := BitVec.ofNat 32 (s.row row).sent }
  (b.spend).modRt fun t => { t with announces := t.announces ++ [(s.ctx, blk, s.round)] }

/-- The empty contributions of dropped choices (R170, R255). -/
def Blk.emptyPuts (s : Session) (b : Blk) : Blk :=
  b.forEach s.drops fun p b =>
    let queue := s.rsd.combQ0 + p.1 / 2 ^ s.rsd.qlog
    let int_ := ((b.cq? s.ctx queue).map CombQ.intMode).getD false
    Blk.putFault s.ctx none (b.contribute s.ctx none
      { queue := queue, slot := p.1 % 2 ^ s.rsd.qlog, pos := p.2, fmt := if int_ then 5 else 0, cfl := 2
        weight := 0, addr := 0 })

/-- Steps 3 and 4 of R168, and the end of the session. -/
def Blk.closeSession (v : Env) (k : Nat) (s : Session) (b : Blk) : Blk :=
  let rows := (List.range s.rsd.rows.length).zip s.rsd.rows
  let b := b.emptyPuts s
  let b := b.forEach (rows.filter fun p => p.2.type == 0) fun p b => b.closeNotices s p.1 p.2
  let b := b.forEach (List.range (s.rsd.expM1 + 1)) fun e b => b.resolveExpert k e false
  let b := b.forEach (rows.filter fun p => p.2.type == 1) fun p b => b.announceRow s p.1 p.2
  let t : TaskRef := { ctx := s.ctx, id := s.rsd.closeTask }
  let b := if s.rsd.closeTask = 0xFFFFFFFF then b
    else b.modReach t.reach fun rc => { rc with closeDecs := rc.closeDecs ++ [t] }
  let b := b.modRt fun rt => { rt with
    sessions := tdel rt.sessions k
    closed := rt.closed.filter (fun x => !(x.ctx == s.ctx && x.rsdIx == s.rsdIx)) ++ [{ s with phase := .closed, placed := [] }] }
  (b.drainWaiting v).answerChunks

/-- CLOSE_WRITES_ACKED (R168 steps 3 and 4, R263): an error response is an uncorrectable error. -/
def execCloseWritesAcked (slot : Nat) (ok : Bool) (s : State) : Host.Outcome State Fault Refusal :=
  onBlk s fun v b =>
    match b.session? slot with
    | none => b
    | some x =>
      if b.frozen || b.db.rcHalted || b.torn x.ctx || x.phase != .closing then b
      else if !ok then (b.deviceError v (some x.ctx)).tearDown x.ctx stUncorrectable
      else b.closeSession v slot x

/-! ## Announcements received (R169) -/

/-- An announcement of L tokens at an IN row. -/
def Blk.announcedRow (k row : Nat) (s : Session) (x : RsdRow) (l : BitVec 32) (b : Blk) : Blk :=
  if x.cap < l.toNat then b.tearDown s.ctx stContextFault
  else
    let s := s.modRow row fun st => { st with announced := true, len := l }
    let b := b.putSession k s
    let fill (t : Nat) : Nat := min s.rsd.tileT (l.toNat - t * s.rsd.tileT)
    let b := b.forEach (List.range x.tileN) fun t b =>
      (b.emit (.dmWrite (s.fillAddr row t) (leBytes 4 (fill t)))).notice (x.tile s.ctx t) (decide (0 < fill t))
    if l = 0 then b else b.resolveExpert k x.expert true

/-- One announcement; none if no session of its RSD and ROUND has opened yet. A second one is discarded (R229). -/
def Blk.announcement (a : Nat × BitVec 32 × BitVec 16 × BitVec 16 × BitVec 32) (b : Blk) : Option Blk :=
  let (c, ix, round, stream, l) := a
  let rowIn (s : Session) : Option (Nat × RsdRow) :=
    ((List.range s.rsd.rows.length).zip s.rsd.rows).find? fun p => p.2.type == 2 && p.2.stream == stream
  if b.torn c then some b
  else match b.rt.sessions.find? fun p => p.2.is c ix round with
    | some (k, s) => match rowIn s with
      | none => some b
      | some (row, x) =>
        if (s.row row).announced then some (b.bump .rsDuplicate) else some (b.announcedRow k row s x l)
    | none => if b.rt.closed.any fun s => s.is c ix round then some (b.bump .rsDuplicate) else none

/-- ANNOUNCEMENT_RECEIVE (R169, R229): the first announcement whose session is open. -/
def execAnnouncementReceive (s : State) : Host.Outcome State Fault Refusal :=
  onBlk s fun _ b =>
    if b.frozen then b
    else match b.rt.deliver.find? fun a => (b.announcement a).isSome with
      | none => b
      | some a => ((b.announcement a).getD b).modRt fun t => { t with deliver := ldrop1 (· == a) t.deliver }

/-! ## Teardown (R175) -/

/-- Discard the open sessions of a context: sends not done are counted, and no notice follows. -/
def Blk.dropSessions (v : Env) (c : Nat) (b : Blk) : Blk :=
  let mine := b.rt.sessions.filter fun p => p.2.ctx == c
  let b := b.forEach mine fun p b =>
    let b := b.forEach (p.2.placed.filter fun x => x.sent && !x.done) fun x b =>
      match p.2.rsd.rows[x.row]? with
      | some y => if y.type = 0 then b.discard (bits y.tile0 16 4) else b
      | none => b
    { b with agents := b.agents.map fun (q : Nat × Agent) =>
        (q.1, { q.2 with sends := q.2.sends.map fun w => if w.slot = p.1 then { w with slot := 4 } else w }) }
  let b := b.modRt fun t => { t with
    sessions := t.sessions.filter fun p => p.2.ctx != c
    closed := t.closed.filter fun s => s.ctx != c
    intake := t.intake.filter fun x => x.ctx != c
    waiting := t.waiting.filter fun p => p.1.ctx != c
    unsent := t.unsent.filter fun u => !mine.any fun p => p.1 == u.1
    announces := t.announces.filter fun a => a.1 != c
    deliver := t.deliver.filter fun a => a.1 != c
    heard := t.heard.filter fun a => a.1 != c }
  b.drainWaiting v

end Sys2Proof.Machine
end

