-- ==== Sys2Proof/Machine/Descriptors.lean ====
section
/-! DEFINITION. Descriptors (R185-R197): which one may start, the tests of R190 and R191, and what each opcode does
when it starts. Their work at an edge is in Queues.lean. -/

namespace Sys2Proof.Machine

open Sys2Proof.Config

/-! ## Order of starting (R185, R188) -/

/-- The head fetched descriptor may start: nothing stands at the head, and a FENCE finds nothing outstanding. -/
def Queue.ready (u : Queue) : Bool :=
  u.isOpen && !u.started.any Started.head
    && (match u.fetched with
        | [] => false
        | none :: _ => true
        | some d :: _ => !dFence d || u.started.isEmpty)

/-- The queue whose descriptor starts next: the first in the order of service that has one. -/
def Blk.nextStart (v : Env) (b : Blk) : Option Nat :=
  if !b.feRuns v || b.db.stopped || b.db.cpHalted || decide (16 ≤ b.fe.startedPulse) then none
  else b.fe.serveOrder.find? fun q => ((b.queue? q).map Queue.ready).getD false

/-! ## Malformed descriptors (R186, R191, Tables 8.4-8.19) -/

/-- Fields of the body in range, reserved values absent, addresses aligned. -/
def bodyOk (v : Env) (d : BitVec 512) : Bool :=
  let f := dField d
  match dOpcode d with
  | 0x01 => decide (f 0x14 1 < 2) && decide (f 0x18 4 ≤ 65535) && f 0x20 8 % 16 == 0
  | 0x02 => f 0x10 8 % 64 == 0
  | 0x03 => decide (f 0x10 1 < 2) && decide (1 ≤ f 0x14 4) && decide (f 0x14 4 ≤ 65535) && f 0x18 8 % 16 == 0
  | 0x04 => f 0x10 8 % 8 == 0 && decide (f 0x20 1 < 3) && decide (1 ≤ f 0x24 4) && decide (f 0x24 4 ≤ 1048576)
  | 0x05 => f 0x10 8 % 8 == 0
  | 0x08 => decide (f 0x10 1 < 2) && decide (f 0x12 2 ≤ 512) && decide (f 0x14 2 ≤ 512) && f 0x18 8 % 8 == 0
  | 0x09 => decide (1 ≤ f 0x10 1) && decide (f 0x10 1 < v.contexts) && decide (f 0x11 1 < 2) && decide (f 0x12 2 ≤ 512)
      && f 0x18 8 % 64 == 0 && f 0x28 8 % 8 == 0 && (f 0x12 2 != 0 || f 0x28 8 == 0)
  | 0x0A => decide (1 ≤ f 0x10 1)
  | 0x0B => decide (1 ≤ f 0x10 2) && decide (f 0x10 2 < 1024) && decide (f 0x13 1 < 8)
      && (decide (f 0x14 1 < 64) || f 0x14 1 == 0xFF) && decide (6 ≤ f 0x15 1) && decide (f 0x15 1 ≤ 16)
      && f 0x18 8 % 64 == 0 && f 0x20 8 % 64 == 0
  | 0x0C => decide (f 0x10 2 < 1024) && decide (f 0x12 1 < 2)
  | 0x0D => f 0x20 4 % 64 == 0
  | _ => true

def wellFormedDesc (v : Env) (d : BitVec 512) : Bool :=
  dReservedZero d && (dResult d).toNat % 64 == 0 && bodyOk v d

/-- The tests that a descriptor meets before its opcode's own: the status that it completes with, and whether it is
malformed. A FAULTED queue does nothing (R206). -/
def verdict (v : Env) (u : Queue) (d : BitVec 512) : Option (BitVec 8 × Bool) :=
  let op := dOpcode d
  if u.qstate = .faulted then some (stContextFault, false)
  else if 0x0E ≤ op then some (stContextFault, true)
  else if u.ctx ≠ 0 ∧ 9 ≤ op ∧ op ≤ 0x0C then some (stDenied, false)
  else if !wellFormedDesc v d then some (stContextFault, true)
  else if u.ctx = 0 ∧ (op = 1 ∨ op = 2 ∨ op = 8) then some (stContextFault, false)
  else none

/-! ## Starting -/

/-- What an opcode makes of its descriptor: the block, the phase, and whether it stays at the head. -/
structure Begun where
  blk   : Blk
  phase : Phase
  head  : Bool := true

/-- Take the head fetched descriptor of a queue as started: counts and turns (R185). -/
def Blk.takeHead (q : Nat) (u : Queue) (b : Blk) : Blk :=
  ((b.modQueue q fun u => Queue.prune { u with fetched := u.fetched.drop 1 }).modFe fun fe => { fe with
    startedPulse := fe.startedPulse + 1, lastSlot := tput fe.lastSlot u.prio u.slot
    lastQueue := tput fe.lastQueue u.slot q }).bump .descStarted

/-- Note a started descriptor. -/
def Begun.push (v : Env) (q index : Nat) (d : BitVec 512) (x : Begun) : Blk :=
  x.blk.modQueue q fun u => { u with
    progress := u.progress || !x.head
    started := u.started ++ [{ index := index, desc := d, phase := x.phase, head := x.head, start := v.n }] }

/-- A descriptor that completes at the next edge with a status. -/
def Blk.ends (b : Blk) (st : BitVec 8) : Begun := { blk := b, phase := .finishing st }

/-- Start the head descriptor of queue `q` if its turn has come and `op` accepts its opcode; `run` is the opcode's
own work. Anything else has no effect (log 9). A descriptor whose fetch failed has no opcode: it completes with
CONTEXT_FAULT (Table 11.3). -/
def Blk.startDesc (v : Env) (q : Nat) (op : Nat → Bool) (run : Queue → Nat → BitVec 512 → Blk → Begun) (b : Blk) :
    Blk :=
  match b.queue? q with
  | none => b
  | some u => match u.fetched with
    | [] => b
    | x :: _ =>
      if b.nextStart v ≠ some q || !op ((x.map dOpcode).getD 0x0E) then b
      else
        let index := u.ci - u.fetched.length
        let d := x.getD 0
        let b := b.takeHead q u
        match x.map (verdict v u) with
        | none => (b.ends stContextFault).push v q index d
        | some (some (st, bad)) =>
          ((if bad then b.tearDown u.ctx stContextFault (some (q, index)) else b).ends st).push v q index d
        | some none => (run u index d b).push v q index d

/-- A command that starts a descriptor with one opcode. -/
def startRow (q op : Nat) (run : Env → Queue → Nat → BitVec 512 → Blk → Begun) (s : State) :
    Host.Outcome State Fault Refusal :=
  atQueue s q fun v b => b.startDesc v q (· == op) (run v)

/-- A command that starts a descriptor whose opcode reads records at an address, which `area` gives with their length: a
read of host memory needs a free tag (R260), and the descriptor waits while there is none. -/
def startRead (q op : Nat) (area : BitVec 512 → BitVec 64 × Nat)
    (run : Env → Queue → Nat → BitVec 512 → Blk → Begun) (s : State) : Host.Outcome State Fault Refusal :=
  atQueue s q fun v b =>
    let a := area (((((b.queue? q).map Queue.fetched).bind List.head?).bind id).getD 0)
    if a.1.getLsbD 63 && a.2 != 0 && b.fe.freeTag.isNone then b else b.startDesc v q (· == op) (run v)

/-- Patch records of LAUNCH_GRAPH and PATCH, and the lists of STEP: their address and length (Tables 8.6 to 8.12). -/
def launchArea (d : BitVec 512) : BitVec 64 × Nat := (BitVec.ofNat 64 (dField d 0x20 8), 16 * dField d 0x18 4)
def patchArea (d : BitVec 512) : BitVec 64 × Nat := (BitVec.ofNat 64 (dField d 0x18 8), 16 * dField d 0x14 4)
def stepArea (d : BitVec 512) : BitVec 64 × Nat :=
  (BitVec.ofNat 64 (dField d 0x18 8), 8 * ceilDiv (2 * dField d 0x12 2) 8 + 8 * dField d 0x14 2)

/-- Change the phase of a started descriptor. -/
def Blk.setPhase (q index : Nat) (p : Phase) (b : Blk) : Blk :=
  b.modQueue q fun u => { u with
    started := u.started.map fun (x : Started) => if x.index = index then { x with phase := p } else x }

/-- A read for a descriptor that failed: of host memory an error response (Table 11.3), after which the descriptor
completes with CONTEXT_FAULT; of device memory an uncorrectable error, which tears the context down (Table 13.2; log
26). -/
def Blk.readFault (v : Env) (u : Queue) (rsp : Rsp) (b : Blk) : Blk :=
  match rsp with
  | .ok => b
  | .hostError => b.hostErr
  | .uncorrectable => (b.deviceError v (some u.ctx)).tearDown u.ctx stUncorrectable

/-! ## NOP and range markers (Table 8.6, R330) -/

/-- NOP leaves the head when it starts. -/
def execNop (q : Nat) (s : State) : Host.Outcome State Fault Refusal :=
  startRow q 0x00 (fun _ _ _ _ b => { b.ends stOk with head := false }) s

/-- MARK_BEGIN acts at the edge at which it completes. -/
def execMarkBegin (q : Nat) (s : State) : Host.Outcome State Fault Refusal :=
  startRow q 0x06 (fun _ _ _ _ b => b.ends stOk) s

/-- MARK_END acts at the edge at which it completes. -/
def execMarkEnd (q : Nat) (s : State) : Host.Outcome State Fault Refusal :=
  startRow q 0x07 (fun _ _ _ _ b => b.ends stOk) s

/-- RESERVED_OPCODE (R191), and a descriptor whose fetch failed (Table 11.3). -/
def execReservedOpcode (q : Nat) (s : State) : Host.Outcome State Fault Refusal :=
  atQueue s q fun v b => b.startDesc v q (fun op => decide (0x0E ≤ op)) fun _ _ _ b => b.ends stContextFault

/-! ## Busy contexts (R81, R82) -/

/-- Entries of a context wherever they are in this launch: resident, on their way out, or in a live copy. -/
def Blk.launchEntries (v : Env) (b : Blk) (c : Nat) : List Task :=
  let stores := (List.range v.reaches).flatMap fun r => (b.reach r).occupying c
  let copies := (((b.ctx? c).map fun x => x.image.frames).getD []).filter fun f =>
    f.live.isSome && f.epoch == b.epoch c && ((b.reach f.reach).find c f.seg f.vblock).isNone
  (stores.flatMap fun p => p.2.entries.map (·.2)) ++ copies.flatMap fun f => (f.live.getD []).map (·.2)

/-- R81: a context is busy for loading. -/
def Blk.loadBusy (v : Env) (b : Blk) (c : Nat) : Bool :=
  b.anyLedger v c || (b.launchEntries v c).any fun x => x.state != .idle && x.state != .done && x.state != .skipped

/-- A launch of the context has made its checks and arms at the coming edge (R82). -/
def Blk.arming (b : Blk) (c : Nat) : Bool :=
  b.fe.queues.any fun p => p.2.ctx == c && p.2.started.any fun x => x.phase == .arming

/-- R82: the previous launch of a context still has work, or is about to arm. -/
def Blk.launchBusy (v : Env) (b : Blk) (c : Nat) : Bool :=
  b.arming c || b.anyLedger v c || (b.launchEntries v c).any fun x =>
    x.state == .waiting || x.state == .ready || x.state == .dispatched || x.state == .shadow

/-! ## Patch records (R79, R193) -/

def patchOffset (p : BitVec 128) : Nat := bits p 0 32
def patchWidth (p : BitVec 128) : Nat := bits p 32 8
def patchValue (p : BitVec 128) : Nat := bits p 64 64
def patchReserved (p : BitVec 128) : Bool := bits p 40 24 == 0

/-- A patch record names a site of the patch map. -/
def Ctx.patchOk (x : Ctx) (p : BitVec 128) : Bool :=
  patchReserved p && decide (patchWidth p < 4) && x.image.patchMap.contains (patchOffset p, patchWidth p)

/-- Apply patch records in order to the argument area. -/
def Blk.patchArgs (x : Ctx) (ps : List (BitVec 128)) (b : Blk) : Blk :=
  b.forEach ps fun p b =>
    b.emit (.dmWrite (x.record.argBase + BitVec.ofNat 64 (patchOffset p)) (leBytes (2 ^ patchWidth p) (patchValue p)))

/-! ## LAUNCH_GRAPH (R82, R192) -/

def dEndTask (d : BitVec 512) : BitVec 32 := BitVec.ofNat 32 (dField d 0x10 4)
def dRelocate (d : BitVec 512) : Bool := dField d 0x14 1 == 1

/-- The checks that a launch makes before it writes anything. -/
def Ctx.launchOk (c : Nat) (x : Ctx) (d : BitVec 512) (handles : List (BitVec 64)) (ps : List (BitVec 128)) : Bool :=
  (dEndTask d == 0xFFFFFFFF || (x.imageTask { ctx := c, id := dEndTask d }).isSome)
    && (!dRelocate d || relocsOk x x.image.relocs handles) && ps.all x.patchOk

/-- The checks and the writes of a launch that has its turn; its reaches arm at the next edge. -/
def Blk.launchGo (c : Nat) (d : BitVec 512) (handles : List (BitVec 64)) (ps : List (BitVec 128)) (b : Blk) : Begun :=
  match b.ctx? c with
  | none => b.ends stContextFault
  | some x =>
    if !x.launchOk c d handles ps then b.ends stContextFault
    else { blk := (if dRelocate d then b.relocate x x.image.relocs handles else b).patchArgs x ps, phase := .arming }

/-- The launch of queue `q` that waits for the handle table (R82). -/
def Queue.launchRead (u : Queue) : Option (Started × List (BitVec 128)) :=
  u.started.findSome? fun x => match x.phase with
    | .launchRead ps => some (x, ps)
    | _ => none

/-- A launch whose wait is over, with the handle table as it now stands: its checks, and its writes. -/
def Blk.launchAgain (v : Env) (q : Nat) (u : Queue) (x : Started) (handles : List (BitVec 64)) (ps : List (BitVec 128))
    (rsp : Rsp) (b : Blk) : Blk :=
  if rsp ≠ .ok then (b.readFault v u rsp).setPhase q x.index (.finishing stContextFault)
  else if b.launchBusy v u.ctx then b.setPhase q x.index (.launchWait [] ps)
  else
    let r := b.launchGo u.ctx x.desc handles ps
    r.blk.setPhase q x.index r.phase

/-- LAUNCH_GRAPH: `handles` are the handle-table entries of the relocation list, read if RELOCATE is set, `patches`
its patch records. A RELOCATE launch that had to wait reads the handle table when its wait is over: a second
LAUNCH_GRAPH of its queue then brings the entries (R82; log 131). -/
def execLaunchGraph (q : Nat) (handles : List (BitVec 64)) (patches : List (BitVec 128)) (rsp : Rsp) (s : State) :
    Host.Outcome State Fault Refusal :=
  match (s.blk.queue? q).bind Queue.launchRead with
  | some (x, ps) => atQueue s q fun v b => match b.queue? q with
    | some u => if b.feRuns v then b.launchAgain v q u x handles ps rsp else b
    | none => b
  | none => startRead q 0x01 launchArea (fun v u _ d b =>
    let b := b.readNow q (launchArea d).1 (launchArea d).2
    if rsp ≠ .ok then (b.readFault v u rsp).ends stContextFault
    else
      let ps := patches.take (dField d 0x18 4)
      if b.launchBusy v u.ctx then { blk := b, phase := .launchWait handles ps }
      else b.launchGo u.ctx d handles ps) s

/-! ## LOAD_IMAGE (R81, R89, Table 13.9) -/

/-- The loader reads an image of `n` bytes in host or device memory. -/
def Blk.askImage (a : BitVec 64) (n : Nat) (b : Blk) : Blk :=
  if a.getLsbD 63 then b.ask (.imageRead (a.setWidth 63) n) else b.emit (.dmRead a n)

/-- The loader asks for the image of its first descriptor. -/
def Blk.readImage (q index : Nat) (b : Blk) : Blk :=
  match ((b.queue? q).map Queue.started).bind fun l => l.find? fun x => x.index == index with
  | none => b
  | some x =>
    let a := BitVec.ofNat 64 (dField x.desc 0x10 8)
    b.askImage a (dField x.desc 0x18 8)

/-- LOAD_IMAGE. -/
def execLoadImage (q : Nat) (s : State) : Host.Outcome State Fault Refusal :=
  startRow q 0x02 (fun v u index d b =>
    if b.fe.loaderHalted || b.loadBusy v u.ctx then b.ends stBusy
    else
      let a := BitVec.ofNat 64 (dField d 0x10 8)
      let b := if b.fe.loader.isEmpty then b.askImage a (dField d 0x18 8) else b
      { blk := b.modFe fun fe => { fe with loader := fe.loader ++ [(q, index)] }, phase := .imageReading }) s

/-- The loader is done with its first descriptor, and begins with the next. -/
def Blk.nextImage (b : Blk) : Blk :=
  let b := b.modFe fun fe => { fe with loader := fe.loader.drop 1 }
  match b.fe.loader with
  | [] => b
  | (q, i) :: _ => b.readImage q i

/-- An uncorrectable error halts the loader until the next block reset, and tears the context down with the
descriptor keeping its status. -/
def Blk.loaderHalt (v : Env) (q index c : Nat) (b : Blk) : Blk :=
  ((((b.modFe fun fe => { fe with loaderHalted := true, loader := [] }).haltChannel v (some c)).setPhase q index
    (.finishing stUncorrectable)).tearDown c stUncorrectable (some (q, index)))

/-- The started descriptor that the loader works on. -/
def Blk.loading (b : Blk) : Option (Nat × Queue × Started) :=
  match b.fe.loader with
  | [] => none
  | (q, i) :: _ => (b.queue? q).bind fun u => (u.started.find? fun x => x.index == i).map fun x => (q, u, x)

/-- An image that has been read passes the checks of R81 step 1. -/
def Blk.imageOk (v : Env) (u : Queue) (x : Started) (image : List Byte) (handles : List (BitVec 64)) (b : Blk) : Bool :=
  match parseImage image (dField x.desc 0x18 8), b.ctx? u.ctx with
  | some m, some k => m.ok v k image && relocsOk k m.relocs handles
  | _, _ => false

/-- The image that has been read takes effect (R81 steps 1 to 5): `handles` are the handle-table entries of its
relocation list. -/
def Blk.imageRead (v : Env) (q : Nat) (u : Queue) (x : Started) (image : List Byte) (handles : List (BitVec 64))
    (b : Blk) : Blk :=
  let fail (st : BitVec 8) : Blk := (b.setPhase q x.index (.finishing st)).nextImage
  match parseImage image (dField x.desc 0x18 8), b.ctx? u.ctx with
  | some m, some k =>
    if !(m.ok v k image && relocsOk k m.relocs handles) then fail stContextFault
    else if b.loadBusy v u.ctx then fail stBusy
    else (b.loadImage v u.ctx m handles).setPhase q x.index .imageWriting
  | _, _ => fail stContextFault

/-- IMAGE_READ_DONE (R81, R191, Table 11.3): the image is checked and placed at the next edge (R188). -/
def execImageReadDone (image : List Byte) (handles : List (BitVec 64)) (rsp : Rsp) (s : State) :
    Host.Outcome State Fault Refusal :=
  onBlk s fun v b => b.respond v HostReq.isImage (decide (rsp = .hostError)) fun b =>
    match b.loading with
    | none => b.nextImage
    | some (q, u, x) =>
      if x.phase ≠ .imageReading then b
      else match rsp with
        | .hostError => (b.setPhase q x.index (.finishing stContextFault)).nextImage
        | .uncorrectable => b.loaderHalt v q x.index u.ctx
        | .ok => b.setPhase q x.index (.imageRead image handles)

/-- LOAD_IMAGE_WRITES_ACKED (R81 step 6, R194): the descriptor completes at the next edge. -/
def execLoadImageWritesAcked (ok : Bool) (s : State) : Host.Outcome State Fault Refusal :=
  onBlk s fun v b =>
    match b.loading with
    | none => b.nextImage
    | some (q, u, x) =>
      if x.phase ≠ .imageWriting then b
      else if ok then (b.setPhase q x.index (.finishing stOk)).nextImage
      else b.loaderHalt v q x.index u.ctx

/-! ## PATCH (R124, R194) -/

/-- An 8-byte write into a cyclic table (Tables 5.6 and 5.7); none for a record that R124 rejects. -/
def CycTable.write (n : Nat) (p : BitVec 128) (t : CycTable) : Option CycTable :=
  let off := patchOffset p
  let w := BitVec.ofNat 64 (patchValue p)
  if !patchReserved p || patchWidth p ≠ 3 || off % 8 ≠ 0 || 0x803F < off then none
  else if off = 0 then some { t with switchEdge := w.toNat }
  else if off = 8 then
    if bits w 49 14 ≠ 0 || bits w 0 20 = 0 || 4096 < bits w 36 13 then none
    else some { t with arm := w.getLsbD 63, armEdge := n, entryN := bits w 36 13, lead := bits w 20 16, cycle := bits w 0 20 }
  else if off < 0x40 then (if w = 0 then some t else none)
  else if bits w 54 9 ≠ 0 then none
  else
    let k : CycEntry :=
      { valid := w.getLsbD 63, slot := bits w 48 6, eset := bits w 40 8, len := bits w 20 20, start := bits w 0 20 }
    some { t with entries := tput t.entries ((off - 0x40) / 8) k }

/-- Apply records in order. -/
def CycTable.writeAll (n : Nat) : List (BitVec 128) → CycTable → Option CycTable
  | [], t => some t
  | p :: r, t => (t.write n p).bind fun t => t.writeAll n r

/-- PATCH: `records` are its patch records. A table is written at the next edge. -/
def execPatch (q : Nat) (records : List (BitVec 128)) (rsp : Rsp) (s : State) : Host.Outcome State Fault Refusal :=
  startRead q 0x03 patchArea (fun v u _ d b =>
    let target := dField d 0x10 1
    let read := b.readNow q (patchArea d).1 (patchArea d).2
    if target = 1 ∧ u.ctx ≠ 0 then b.ends stDenied
    else if target = 0 ∧ u.ctx = 0 then b.ends stContextFault
    else if rsp ≠ .ok then (read.readFault v u rsp).ends stContextFault
    else { blk := read, phase := .patchWait (records.take (dField d 0x14 4)) }) s

/-! ## WAIT_VALUE (R195) -/

/-- Ask for a value. -/
def Blk.askValue (q : Nat) (d : BitVec 512) (b : Blk) : Blk :=
  let a := BitVec.ofNat 64 (dField d 0x10 8)
  if a.getLsbD 63 then b.ask (.valueRead q (a.setWidth 63)) else b.emit (.dmRead a 8)

/-- WAIT_VALUE reads its address when it starts. -/
def execWaitValue (q : Nat) (s : State) : Host.Outcome State Fault Refusal :=
  startRow q 0x04 (fun v _ _ d b => { blk := b.askValue q d, phase := .valueWait none false v.n }) s

/-- The value wait at a queue's head. -/
def Queue.valueWait (u : Queue) : Option (Started × Option (BitVec 64) × Bool × Nat) :=
  u.started.findSome? fun x => match x.phase with
    | .valueWait f c n => some (x, f, c, n)
    | _ => none

/-- WAIT_VALUE_POLL: every POLL pulses. -/
def execWaitValuePoll (q : Nat) (s : State) : Host.Outcome State Fault Refusal :=
  atQueue s q fun v b =>
    match (b.queue? q).bind Queue.valueWait with
    | none => b
    | some (x, f, c, n) =>
      if b.rel.phase != 0 || decide (v.n < n + dField x.desc 0x24 4) then b
      else (b.askValue q x.desc).setPhase q x.index (.valueWait f c v.n)

/-- The compares of R195: `m` read, `value` the threshold, `changed` whether a read differed from the first. -/
def compareHolds (cmp : Nat) (m value : BitVec 64) (changed : Bool) : Bool :=
  match cmp with
  | 0 => decide (value.toNat ≤ m.toNat)
  | 1 => m == value
  | _ => changed && decide ((m - value).toNat < 2 ^ 63)

/-- WAIT_VALUE_READ_DONE (R195, Table 11.3). -/
def execWaitValueReadDone (q : Nat) (value : BitVec 64) (err : Bool) (s : State) : Host.Outcome State Fault Refusal :=
  atQueue s q fun v b => b.respond v (HostReq.isValueRead q) (err && b.fe.hostOut.any fun p => p.2.isValueRead q) fun b =>
    match b.queue? q with
    | none => b
    | some u => match u.valueWait with
      | none => b
      | some (x, f, c, n) =>
        if err then
          let host := (BitVec.ofNat 64 (dField x.desc 0x10 8)).getLsbD 63
          (if host then b else b.readFault v u .uncorrectable).setPhase q x.index (.finishing stContextFault)
        else
          let b := b.modQueue q fun u => { u with waitLast := value }
          let changed := c || decide (f.getD value ≠ value)
          if compareHolds (dField x.desc 0x20 1) value (BitVec.ofNat 64 (dField x.desc 0x18 8)) changed then
            b.setPhase q x.index (.finishing stOk)
          else b.setPhase q x.index (.valueWait (some (f.getD value)) changed n)

/-! ## WRITE_VALUE (R196) -/

/-- WRITE_VALUE enters its fence record. -/
def execWriteValue (q : Nat) (s : State) : Host.Outcome State Fault Refusal :=
  startRow q 0x05 (fun _ u index d b =>
    let b := b.stageDesc .fence u.ctx q index 0 0
      (some (BitVec.ofNat 128 (dField d 0x10 8 + fieldAt 64 (dField d 0x18 8)))) d
    { blk := b, phase := .fenceRecord b.lastTicket }) s

/-- The write of a fence has failed (Table 11.3); `host`: it was to host memory. -/
def Blk.fenceFault (v : Env) (f : FenceOut) (x : Option Started) (host : Bool) (b : Blk) : Blk :=
  let b := if host then b else b.deviceError v (some f.ctx)
  if f.ctx ≠ 0 then b.tearDown f.ctx (if host then stContextFault else stUncorrectable)
  else match x with
    | some x => b.setPhase f.queue x.index (.finishing stContextFault)
    | none => b

/-- The WRITE_VALUE whose write is out, unless it has ended since. -/
def Blk.fencing (b : Blk) (f : FenceOut) : Option Started :=
  (b.queue? f.queue).bind fun u =>
    if u.ctx ≠ f.ctx then none
    else u.started.find? fun x => x.phase == .fenceWrite && x.index % 2 ^ 22 == f.index % 2 ^ 22

/-- WRITE_VALUE_ACK (R196, R300, Table 11.3): the oldest fence write of the queue is answered. Its FENCE_DONE is entered
also where its descriptor has ended since (R313). -/
def execWriteValueAck (q : Nat) (err : Bool) (s : State) : Host.Outcome State Fault Refusal :=
  atQueue s q fun v b =>
    let host := b.fe.hostOut.any fun p => p.2.isValueWrite q
    b.respond v (HostReq.isValueWrite q) (err && host) fun b =>
      match b.fe.fences.find? fun f => f.queue == q with
      | none => b
      | some f =>
        let b := b.modFe fun fe => { fe with fences := ldrop1 (fun f => f.queue == q) fe.fences }
        let x := b.fencing f
        if err then b.fenceFault v f x host
        else
          let b := b.stageDesc .fenceDone f.ctx q f.index 0 0
          match x with
          | some x => b.setPhase q x.index (.finishing stOk)
          | none => b

/-! ## STEP (R129, R197) -/

/-- The leave list and the join list at LIST_ADDR. -/
def leavesOf (bs : List Byte) (n : Nat) : List Nat := (List.range n).map fun i => leAt bs (2 * i) 2
def joinBase (n : Nat) : Nat := 8 * ceilDiv (2 * n) 8
def joinsOf (bs : List Byte) (leaveN n : Nat) : List (Nat × BitVec 32) :=
  (List.range n).map fun i =>
    (leAt bs (joinBase leaveN + 8 * i) 2, BitVec.ofNat 32 (leAt bs (joinBase leaveN + 8 * i + 4) 4))

/-- Padding and reserved bytes of the lists are zero. -/
def listsOk (bs : List Byte) (leaveN joinN : Nat) : Bool :=
  zeroAt bs (2 * leaveN) (joinBase leaveN - 2 * leaveN)
    && (List.range joinN).all fun i => leAt bs (joinBase leaveN + 8 * i + 2) 2 == 0

/-- R129 against the slot table. -/
def Ctx.stepOk (x : Ctx) (leaves : List Nat) (joins : List (Nat × BitVec 32)) : Bool :=
  let used (i : Nat) : Bool := (tgetD none x.seqSlots i).isSome
  leaves.all (fun i => decide (i < x.seqQ) && used i) && joins.all (fun p => decide (p.1 < x.seqQ))
    && distinct leaves && joins.all (fun p => !used p.1 || leaves.contains p.1) && distinct (joins.map (·.1))

/-- Make a STEP the pending one of its context, or reject it. -/
def Blk.pendStep (q index c : Nat) (d : BitVec 512) (leaves : List Nat) (joins : List (Nat × BitVec 32)) (b : Blk) :
    Begun :=
  match b.ctx? c with
  | none => b.ends stContextFault
  | some x =>
    if !x.stepOk leaves joins then b.ends stContextFault
    else
      let r : StepReq := { queue := q, index := index, gate := dField d 0x10 1 == 1, leaves := leaves, joins := joins }
      { blk := b.modCtx c fun x => { x with pendingStep := some r }, phase := .stepPending, head := false }

/-- STEP: `lists` are the bytes at LIST_ADDR. -/
def execStep (q : Nat) (lists : List Byte) (err : Bool) (s : State) : Host.Outcome State Fault Refusal :=
  startRead q 0x08 stepArea (fun v u index d b =>
    let b := b.readNow q (stepArea d).1 (stepArea d).2
    let host := (BitVec.ofNat 64 (dField d 0x18 8)).getLsbD 63
    if err then (b.readFault v u (if host then .hostError else .uncorrectable)).ends stContextFault
    else
      let nl := dField d 0x12 2
      let nj := dField d 0x14 2
      let leaves := leavesOf lists nl
      let joins := joinsOf lists nl nj
      if !listsOk lists nl nj then b.ends stContextFault
      else if ((b.ctx? u.ctx).bind Ctx.pendingStep).isSome then { blk := b, phase := .stepWait leaves joins }
      else b.pendStep q index u.ctx d leaves joins) s

/-! ## Contexts, queues, dumps (R198-R203): applied at the next edge -/

/-- CONTEXT_CREATE: the context record and the group map that it reads. -/
def execContextCreate (q : Nat) (record groupMap : List Byte) (s : State) : Host.Outcome State Fault Refusal :=
  startRow q 0x09 (fun _ _ _ _ b => { blk := b, phase := .ctxCreate record groupMap }) s

/-- CONTEXT_DESTROY. -/
def execContextDestroy (q : Nat) (s : State) : Host.Outcome State Fault Refusal :=
  startRow q 0x0A (fun _ _ _ _ b => { blk := b, phase := .ctxDestroy }) s

/-- QUEUE_CREATE. -/
def execQueueCreate (q : Nat) (s : State) : Host.Outcome State Fault Refusal :=
  startRow q 0x0B (fun _ _ _ _ b => { blk := b, phase := .queueCreate }) s

/-- QUEUE_DESTROY. -/
def execQueueDestroy (q : Nat) (s : State) : Host.Outcome State Fault Refusal :=
  startRow q 0x0C (fun _ _ _ _ b => { blk := b, phase := .queueDestroy }) s

/-- DUMP_TENSOR. -/
def execDumpTensor (q : Nat) (s : State) : Host.Outcome State Fault Refusal :=
  startRow q 0x0D (fun _ _ _ _ b => { blk := b, phase := .dump }) s

end Sys2Proof.Machine
end

