-- ==== Sys2Proof/Machine/Queues.lean ====
section
/-! DEFINITION. Queue operations at an edge (R24, R188): completions of descriptors and their records, contexts,
queues, STEP applications, dumps (R128-R130, R189, R192-R206, R330, R343), queue timers. -/

namespace Sys2Proof.Machine

open Sys2Proof.Config

/-! ## Dumps (R203, R343) -/

/-- The copy of an accepted dump begins; what it reads or writes of host memory takes a tag until it is done (R260). -/
def Blk.takeDump (d : Dump) (b : Blk) : Blk :=
  let b := (b.modDb fun g => { g with dumps := lreplace (fun x => x == d) (fun x => { x with taken := true }) g.dumps }).emit
    (.dumpCopy d.src d.dst d.bytes)
  let b := if d.src.getLsbD 63 then b.ask (.dumpRead (d.src.setWidth 63) d.bytes) else b
  if d.dst.getLsbD 63 then b.ask (.dumpWrite (d.dst.setWidth 63) d.bytes) else b

/-- Take the dumps that wait for a launch. -/
def Blk.takeDumps (c count : Nat) (b : Blk) : Blk :=
  b.forEach (b.db.dumps.filter fun d => d.ctx == c && d.atLaunch == count && !d.taken) fun d b => b.takeDump d

/-- A launch of a context has completed: it was armed, and no descriptor of it is outstanding. -/
def Blk.launchComplete (b : Blk) (c count : Nat) : Bool :=
  decide (count ≤ ((b.ctx? c).map Ctx.launchCount).getD 0)
    && b.fe.queues.all fun p => p.2.ctx != c || p.2.started.all fun x => match x.phase with
      | .launched k _ => k != count
      | _ => true

/-- DUMP_TENSOR is judged. -/
def Blk.acceptDump (v : Env) (c : Nat) (d : BitVec 512) (b : Blk) : Blk × BitVec 8 :=
  if v.aon.grade.hasWatchpoints || decide (16 ≤ b.db.dumps.length) then (b, stBusy)
  else
    let x : Dump := { ctx := c, src := BitVec.ofNat 64 (dField d 0x10 8), dst := BitVec.ofNat 64 (dField d 0x18 8)
                      bytes := dField d 0x20 4, tensor := BitVec.ofNat 32 (dField d 0x24 4), atLaunch := dField d 0x28 8 }
    let b := b.modDb fun g => { g with dumps := g.dumps ++ [x] }
    (if b.launchComplete c x.atLaunch then b.takeDump x else b, stOk)

/-! ## Range stacks (R330) -/

/-- MARK_BEGIN: the depth saturates at 255 (Table 14.2). -/
def Ctx.pushRange (id : BitVec 32) (x : Ctx) : Ctx :=
  { x with ranges := if x.rangeDepth < 16 then id :: x.ranges else x.ranges, rangeDepth := min 255 (x.rangeDepth + 1) }

/-- MARK_END: the stack, and whether it mismatches. -/
def Ctx.popRange (id : BitVec 32) (x : Ctx) : Ctx × Bool :=
  if 16 < x.rangeDepth then ({ x with rangeDepth := x.rangeDepth - 1 }, false)
  else if x.ranges.contains id then
    let rest := (x.ranges.dropWhile (· != id)).drop 1
    ({ x with ranges := rest, rangeDepth := rest.length }, x.ranges.head? != some id)
  else (x, true)

def Blk.markRange (v : Env) (c : Nat) (d : BitVec 512) (b : Blk) : Blk :=
  let id := BitVec.ofNat 32 (dField d 0x10 4)
  match b.ctx? c with
  | none => b
  | some x =>
    let r := if dOpcode d = 6 then (x.pushRange id, false) else x.popRange id
    let b := (b.modCtx c fun _ => r.1).bump .rangeMismatch 0 (b2n r.2)
    b.trace v true { edge := v.n, type := 7, sub := b2n (dOpcode d == 7), ctx := c, id := id, range := b.range c
                     aux := BitVec.ofNat 64 r.1.rangeDepth }

/-! ## Completion of a descriptor (R189, R204) -/

/-- The bytes of a started descriptor. -/
def Blk.startedDesc (b : Blk) (q index : Nat) : BitVec 512 :=
  (((b.queue? q).bind fun u => u.started.find? fun x => x.index == index).map Started.desc).getD 0

/-- A STEP of a descriptor that completes unapplied is no longer pending. -/
def Blk.dropStep (c q index : Nat) (b : Blk) : Blk :=
  b.modCtx c fun x => { x with pendingStep := x.pendingStep.filter fun r => !(r.queue == q && r.index == index) }

/-- A descriptor completes at this edge: its DESC record, and its result for the end of the edge. -/
def Blk.endDesc (c q index : Nat) (d : BitVec 512) (latch : Option (List Nat)) (status : BitVec 8) (info : Nat)
    (b : Blk) : Blk :=
  let b := (b.stageDesc .desc c q index status (dOpcode d)).bump .descFault 0 (b2n (status == stContextFault))
  b.modFe fun fe => { fe with finished := fe.finished ++
    [{ queue := q, ctx := c, desc := d, status := status, info := info, ticket := b.lastTicket, latch := latch }] }

/-- A started descriptor completes. -/
def Blk.descDone (q index : Nat) (status : BitVec 8) (b : Blk) (info : Nat := 0) : Blk :=
  match b.queue? q with
  | none => b
  | some u => match u.started.find? fun x => x.index == index with
    | none => b
    | some x =>
      let b := b.modQueue q fun u => { u with started := u.started.filter (fun y => y.index != index), progress := true }
      let b := (b.dropStep u.ctx q index).endDesc u.ctx q index x.desc x.latch status info
      match x.phase with
      | .launched k _ => b.takeDumps u.ctx k
      | .imageRead _ _ => b.nextImage
      | _ => b

/-- The status that a started descriptor completes with when its queue ends it: its own, if it has failed and that ranks
higher (R16). -/
def Started.endStatus (status : BitVec 8) (x : Started) : BitVec 8 :=
  match x.phase with
  | .finishing st => rankMax st status
  | _ => status

/-- Every outstanding descriptor of a queue completes with a status, but for one that keeps its own. One whose fetch
failed carries CONTEXT_FAULT (Table 11.3), and the higher status is reported (R16). -/
def Blk.endAll (q : Nat) (status : BitVec 8) (keep : Option Nat) (b : Blk) : Blk :=
  match b.queue? q with
  | none => b
  | some u =>
    let b := b.forEach (u.started.filter fun x => some x.index != keep) fun x b => b.descDone q x.index (x.endStatus status)
    let base := u.ci - u.fetched.length
    let held := ((List.range u.fetched.length).zip u.fetched).filter fun p =>
      !u.started.any fun x => x.index == base + p.1
    let b := b.forEach held fun p b =>
      b.endDesc u.ctx q (base + p.1) (p.2.getD 0) none (if p.2.isSome then status else rankMax stContextFault status) 0
    b.modQueue q fun u => { u with fetched := [] }

/-- The bytes of a result record (Table 8.5, R329); a latch that was not taken equals the one taken at the end. -/
def resultBytes (v : Env) (x : Finished) (now : List Nat) : List Byte :=
  let head := resultHead x.status x.desc x.info v.n
  if dLatch x.desc then
    head ++ leBytes 48 0 ++ ((x.latch.getD now) ++ now).flatMap (fun w => leBytes 8 w)
  else head

/-- DONE rises with LAST_STATUS, that of the most recently completed descriptor (R189, Table 8.3). -/
def Blk.raiseDone (v : Env) (q : Nat) (status : BitVec 8) (ticket : Nat) (b : Blk) : Blk :=
  (b.modQueue q fun u => { u with
    done := u.done + 1, lastTicket := max u.lastTicket ticket
    lastStatus := if u.lastTicket ≤ ticket then status else u.lastStatus }).writeStatus v q (some ticket)

/-- At the end of the edge, with the end latches, and the start latches of descriptors that end at their first edge: the
result records of the descriptors that completed at it. DONE follows a result record
in device memory at once, one in host memory at its response (R189). The last status record of a queue that was freed
at this edge follows its result records (R202; log 130). -/
def Blk.writeResults (v : Env) (b : Blk) : Blk :=
  let fs := b.fe.finished
  let gone := b.fe.freed
  let b := b.modFe fun fe => { fe with finished := [], freed := [] }
  let b := b.forEach fs fun x b =>
    let a := dResult x.desc
    if a = 0 then b.raiseDone v x.queue x.status x.ticket
    else
      let gone := if (b.queue? x.queue).isSome then none else some x.ctx
      let e : Effect := .result x.queue gone a (resultBytes v x (b.latch v x.ctx))
      let b := if dLatch x.desc then b.bump .latch 0 (if x.latch.isSome then 1 else 2) else b
      let b := (b.modRel fun l => { l with waiting := l.waiting ++ [(some x.ticket, e)] }).releaseEffects v
      if a.getLsbD 63 then b else b.raiseDone v x.queue x.status x.ticket
  b.forEach gone fun p b => b.putStatus v p.1 { p.2.1 with cause := p.2.2 } (some p.2.1.ctx)

/-- The configuration mirror (R199): a context or a queue has changed, or is gone. -/
def Ctx.config (x : Ctx) : CtxCfg :=
  { backwater := x.backwater, seqQ := x.seqQ, seqPred := x.seqPred, batchAddr := x.batchAddr, record := x.record
    groupMap := x.groupMap, granBase := x.granBase, chanBase := x.chanBase }
def Queue.config (u : Queue) : QueueCfg :=
  { ctx := u.ctx, prio := u.prio, slot := u.slot, log2n := u.log2n, ring := u.ring, statAddr := u.statAddr
    timeout := u.timeout }
def Blk.mirrorContext (v : Env) (c : Nat) (b : Blk) : Blk :=
  let x := (b.ctx? c).map Ctx.config
  (b.modFe fun fe => { fe with mirrorCtxs := match x with
    | some k => tput fe.mirrorCtxs c k
    | none => tdel fe.mirrorCtxs c }).emit (.mirrorCtx (v.pair 0x100018) c x)
def Blk.mirrorQueue (v : Env) (q : Nat) (b : Blk) : Blk :=
  let x := (b.queue? q).map Queue.config
  (b.modFe fun fe => { fe with mirrorQueues := match x with
    | some k => tput fe.mirrorQueues q k
    | none => tdel fe.mirrorQueues q }).emit (.mirrorQueue (v.pair 0x100018) q x)

/-- Start latches are taken at the first edge after the start (R329). -/
def Started.latched (now : List Nat) (x : Started) : Started :=
  if dLatch x.desc && x.latch.isNone then { x with latch := some now } else x

def Blk.takeLatches (v : Env) (b : Blk) : Blk :=
  b.forEach (b.fe.queues.filter fun p => p.2.started.any fun x => dLatch x.desc && x.latch.isNone) fun p b =>
    let b := b.bump .latch 0 ((p.2.started.filter fun x => dLatch x.desc && x.latch.isNone).length)
    b.modQueue p.1 fun u => { u with started := u.started.map (Started.latched (b.latch v u.ctx)) }

/-! ## CONTEXT_CREATE (R51, R80, R128, R134, R198, R211, R212, R233, R327) -/

/-- The context record keeps Table 8.15 and the ranges of R233. -/
def ctxRecOk (v : Env) (bs : List Byte) : Bool :=
  let r := ctxRecOf bs
  ctxRecReserved bs && r.spillBase.toNat % 64 == 0 && r.btabBase.toNat % 16 == 0 && decide (r.btabN ≤ 2 ^ 24)
    && r.argBase.toNat % 64 == 0 && r.argBytes % 64 == 0 && decide (r.argBytes ≤ 2 ^ 38) && r.htabBase.toNat % 8 == 0
    && decide (1 ≤ r.htabN) && decide (r.htabN ≤ 1048576) && decide (r.chanQ ≤ 65536) && decide (r.cqQ ≤ 1024)
    && decide (r.chanKib ≤ 8192) && r.chanKib % 64 == 0
    && (List.range 16).all fun i =>
        let n := (r.blocks[i]?).getD 0
        let g := (r.granules[i]?).getD 0
        decide (n ≤ 256) && decide (g ≤ 4096) && (decide (i < v.reaches) || (n == 0 && g == 0))

/-- The sum of a quota over every context. -/
def Fe.quota (fe : Fe) (f : Ctx → Nat) : Nat := (fe.ctxs.map fun p => f p.2).foldl (· + ·) 0

/-- The granule range of a new context in reach `r`; none if the reach cannot meet its quota. -/
def Blk.reserveReach (b : Blk) (r blocks granules : Nat) : Option Nat :=
  let rc := b.reach r
  if rc.fence then (if blocks = 0 ∧ granules = 0 then some 0 else none)
  else if 256 < b.fe.quota (fun x => (x.record.blocks[r]?).getD 0) + blocks + rc.retiredBlocks.length then none
  else
    let busy := (b.fe.ctxs.map fun p => (tgetD 0 p.2.granBase r, (p.2.record.granules[r]?).getD 0))
      ++ rc.retiredGranules.map fun g => (g, 1)
    firstFit busy granules 0 4096

/-- The channel region of a new context, in units of 64 KiB. -/
def Blk.reserveChan (b : Blk) (kib : Nat) : Option Nat :=
  firstFit (b.fe.ctxs.map fun p => (p.2.chanBase / 65536, p.2.record.chanKib / 64)) (kib / 64) 0 128

/-- Reserve every quota of a context, or none. -/
def Blk.reserve (v : Env) (x : Ctx) (b : Blk) : Option Ctx :=
  let r := x.record
  let fe := b.fe
  let bases := (List.range v.reaches).map fun i =>
    b.reserveReach i ((r.blocks[i]?).getD 0) ((r.granules[i]?).getD 0)
  if bases.any Option.isNone || decide (512 < fe.quota Ctx.seqQ + x.seqQ)
      || decide (4096 < fe.quota (fun y => y.record.gsyncQ) + r.gsyncQ)
      || decide (65536 < fe.quota (fun y => y.record.chanQ) + r.chanQ)
      || decide (1024 < fe.quota (fun y => y.record.cqQ) + r.cqQ) then none
  else (b.reserveChan r.chanKib).map fun k =>
    { x with chanBase := k * 65536, granBase := (List.range v.reaches).zip (bases.map fun p => p.getD 0) }

/-- Everything that a new context finds cleared: predicate slots, histories, global sync objects, its counters. -/
def Blk.clearContext (c : Nat) (b : Blk) : Blk :=
  let out (k : Nat) : Bool := decide (k < c * 4096) || decide (c * 4096 + 4096 ≤ k)
  let b := { b with preds := b.preds.filter fun p => out p.1
                    history := b.history.filter fun p => out p.1 }
  (b.modHb fun h => { h with gsync := h.gsync.filter fun p => out p.1 }).modDb fun d => { d with
    ctxCtr := tdel d.ctxCtr c, census := tdel d.census c, periods := tdel d.periods c }

/-- CONTEXT_CREATE is applied. -/
def Blk.createContext (v : Env) (d : BitVec 512) (record groupMap : List Byte) (b : Blk) : Blk × BitVec 8 :=
  let c := dField d 0x10 1
  let x : Ctx := { backwater := dField d 0x11 1 == 1, seqQ := dField d 0x12 2, seqPred := dField d 0x14 2
                   batchAddr := BitVec.ofNat 64 (dField d 0x28 8), record := ctxRecOf record, groupMap := groupMap }
  let read := (b.emit (.dmRead (BitVec.ofNat 64 (dField d 0x18 8)) 256)).emit
    (.dmRead (BitVec.ofNat 64 (dField d 0x20 8)) 256)
  if b.ctxExists c || b.rel.mkOpen then (b, stBusy)
  else if !ctxRecOk v record || (decide (0 < x.seqQ) && (x.seqPred == 0 || decide (4095 < x.seqPred + x.seqQ - 1))) then
    (read, stContextFault)
  else match read.reserve v x with
    | none => (read, stBusy)
    | some x =>
      let b := read
      ((((b.clearContext c).modFe fun fe => { fe with ctxs := tput fe.ctxs c x }).mirrorContext v c).recopy v c, stOk)

/-! ## CONTEXT_DESTROY (R200, R223) -/

def Blk.destroyContext (v : Env) (c : Nat) (b : Blk) : Blk × BitVec 8 :=
  if !b.ctxExists c || b.fe.queues.any (fun p => p.2.ctx == c) then (b, stBusy)
  else
    let b := ((((b.unplace v c).freeContextChannels c).dropSets c).dropSessions v c).unbindStreams c
    let b := (b.dropSignals v c).forEach (List.range v.reaches) fun r b => b.modReach r fun rc => { rc with
      ledger := rc.ledger.filter (fun l => l.ref.ctx != c), rmw := rc.rmw.filter (fun u => u.target.ctx != c) }
    ((((b.modFe fun fe => { fe with ctxs := tdel fe.ctxs c }).mirrorContext v c).uncopy c).modRel fun l => { l with
      teardowns := tdel l.teardowns c }, stOk)

/-! ## QUEUE_CREATE (R184, R201) -/

def Fe.inSlot (fe : Fe) (k : Nat) : List Queue := (fe.queues.map (·.2)).filter fun u => u.slot == k

/-- A slot has room for a queue of a priority. -/
def Fe.slotTakes (fe : Fe) (k prio : Nat) : Bool :=
  decide ((fe.inSlot k).length < 16) && (fe.inSlot k).all fun u => u.prio == prio

/-- The slot that firmware chooses (R184). A slot that holds a queue of the context and priority is the first choice,
whatever else it holds. -/
def Fe.chooseSlot (fe : Fe) (c prio : Nat) : Option Nat :=
  let ks := List.range 64
  let own (k : Nat) : Bool := (fe.inSlot k).any (fun u => u.ctx == c && u.prio == prio) && fe.slotTakes k prio
  match ks.find? own with
  | some k => some k
  | none => match ks.find? fun k => (fe.inSlot k).isEmpty with
    | some k => some k
    | none => (lsort (fun k => (fe.inSlot k).length) (ks.filter fun k => fe.slotTakes k prio)).head?

/-- A queue as it is created. -/
def Blk.addQueue (v : Env) (q : Nat) (u : Queue) (b : Blk) : Blk :=
  ((b.modFe fun fe => { fe with queues := tput fe.queues q { u with eventEdge := v.n, born := b.rel.tickets } }).mirrorQueue
    v q).writeStatus v q none

/-- QUEUE_CREATE is applied: its status, and the slot. -/
def Blk.createQueue (v : Env) (d : BitVec 512) (b : Blk) : Blk × BitVec 8 × Nat :=
  let f := dField d
  let q := f 0x10 2
  let c := f 0x12 1
  let prio := f 0x13 1
  if (b.queue? q).isSome then (b, stBusy, 0)
  else if !b.ctxExists c then (b, stContextFault, 0)
  else
    let slot := if f 0x14 1 = 0xFF then b.fe.chooseSlot c prio
      else if b.fe.slotTakes (f 0x14 1) prio then some (f 0x14 1) else none
    match slot with
    | none => (b, stBusy, 0)
    | some k =>
      (b.addQueue v q
        { ctx := c, prio := prio, slot := k, log2n := f 0x15 1, ring := BitVec.ofNat 64 (f 0x18 8)
          statAddr := BitVec.ofNat 64 (f 0x20 8), timeout := f 0x28 8
          qstate := if b.torn c then .faulted else .idle }, stOk, k)

/-- Queue 0 exists from the edge at which FE_CTL.EN is 1 and STATE is RUNNING (R209). -/
def Blk.openQueue0 (v : Env) (b : Blk) : Blk :=
  if b.feRuns v && (b.queue? 0).isNone then
    let u : Queue := { ctx := 0, prio := 7, slot := 0, log2n := v.q0Log2n, ring := v.pair 0x100020
                       statAddr := v.pair 0x100028, timeout := 0, eventEdge := v.n, born := b.rel.tickets }
    (b.modFe fun fe => { fe with queues := tput fe.queues 0 u }).mirrorQueue v 0
  else b

/-- TIMEOUT of a queue: of queue 0, the register pair (Table 8.23). -/
def Queue.timeoutOf (v : Env) (q : Nat) (u : Queue) : Nat := if q = 0 then (v.pair 0x100034).toNat else u.timeout

/-! ## QUEUE_DESTROY (R202) -/

/-- Every entry of a block to idle. -/
def idleEntries (es : Tbl Task) : Tbl Task :=
  es.map fun p => (p.1, { p.2 with state := .idle, cf := false, sk := false, ra := false })

/-- Abort every task of a context's launch: those in the stores at the next edge by Table 5.4, those elsewhere at
once; the counts that wait for them are discarded. -/
def Blk.abortLaunch (v : Env) (c : Nat) (why : AbortWhy) (b : Blk) : Blk :=
  let e := b.epoch c
  let b := b.forEach (List.range v.reaches) fun r b =>
    let rc := b.reach r
    let lost := ((rc.ledger.filter fun l => l.ref.ctx == c).map LedgerEntry.count).foldl (· + ·) 0
      + (rc.rmw.filter fun u => u.target.ctx == c).length
    let b := b.modReach r fun rc => { rc with
      abortsIn := rc.abortsIn ++ (((rc.tasks r).filter fun p => p.1.ctx == c).map fun p => (p.1, why))
      ledger := rc.ledger.filter (fun l => l.ref.ctx != c), rmw := rc.rmw.filter (fun u => u.target.ctx != c)
      pageReqs := rc.pageReqs.filter (fun p => p.ctx != c)
      pagingIn := rc.pagingIn.filter fun p => p.ctx != c
      pagingOut := rc.pagingOut.map fun p =>
        if p.2.ctx = c then (p.1, { p.2 with entries := idleEntries p.2.entries }) else p }
    b.bump .discardedUnit r lost
  b.modCtx c fun x => { x with image := { x.image with frames := x.image.frames.map fun (f : Frame) =>
    if f.live.isSome && f.epoch == e then { f with live := f.live.map idleEntries } else f } }

/-- QUEUE_DESTROY is applied to queue `q` from queue `own`: BUSY, or the queue begins to close. -/
def Blk.destroyQueue (v : Env) (own : Nat) (d : BitVec 512) (b : Blk) : Blk × Option (BitVec 8) :=
  let q := dField d 0x10 2
  if q = 0 ∨ q = own then (b, some stBusy)
  else match b.queue? q with
    | none => (b, some stBusy)
    | some u =>
      if !u.isOpen then (b, some stBusy)
      else
        let b := b.setQState v q .closing
        if ((b.ctx? u.ctx).bind Ctx.launchQueue) = some q then
          (b.abortLaunch v u.ctx (.queue q (dField d 0x12 1 == 1)), none)
        else (b, none)

/-- The last run of a closing queue's launch has reported. -/
def Blk.closeReady (v : Env) (q : Nat) (u : Queue) (b : Blk) : Bool :=
  ((b.ctx? u.ctx).bind Ctx.launchQueue) != some q
    || (!(b.anyTask v u.ctx fun x =>
          x.state == .waiting || x.state == .ready || x.state == .dispatched || x.state == .shadow)
        && (List.range v.reaches).all fun r =>
            !(b.reach r).abortsIn.any (fun a => a.1.ctx == u.ctx) && !(b.reach r).abortRecs.any (fun a => a.ref.ctx == u.ctx))

/-- The outstanding requests of a queue among some, in order, with what its ANDs and PI reads are for. A fence's write
stays that of its fence. -/
def lateOf (q c : Nat) : List AskedBy → List AskedBy → List HostReq → List LateReq
  | _, _, [] => []
  | ands, pis, r :: rs =>
    let none_ : LateReq := { req := r, ctx := c }
    match r with
    | .summaryAnd k _ =>
      if k = q then { none_ with who := ands.head? } :: lateOf q c (ands.drop 1) pis rs else lateOf q c ands pis rs
    | .piRead k _ =>
      if k = q then { none_ with who := pis.head? } :: lateOf q c ands (pis.drop 1) rs else lateOf q c ands pis rs
    | .fetch k _ | .statusWrite k _ _ | .resultWrite k _ _ | .valueRead k _ =>
      if k = q then none_ :: lateOf q c ands pis rs else lateOf q c ands pis rs
    | .valueWrite _ _ _ | .summaryRead _ | .imageRead _ _ | .firmwareRead _ _ | .descRead _ _ _ | .dumpRead _ _
    | .dumpWrite _ _ => lateOf q c ands pis rs

/-- The requests and the waiting records of a queue that ends have no owner any more. -/
def Blk.orphanQueue (q : Nat) (u : Queue) (b : Blk) : Blk :=
  let old := b.fe.late
  let mine := (b.fe.hostOut.map (·.2) ++ b.fe.hostWait).filter fun r => !old.any fun x => x.req == r
  (b.modFe fun fe => { fe with late := old ++ lateOf q u.ctx u.ands u.piReads mine }).modRel fun l => { l with
    waiting := l.waiting.map fun p => (p.1, p.2.orphan q u.ctx) }

/-- The close of a queue (R202 step 3): its descriptors complete, its QUEUE_DESTROY, and its last status record, which
follows the result records and waits for the last record of its context at this edge (R27; log 130). DONE of that
record counts every descriptor fetched. The combine sets of its launch end with it (R254). -/
def Blk.closeQueue (v : Env) (q : Nat) (u : Queue) (b : Blk) : Blk :=
  let mine := ((b.ctx? u.ctx).bind Ctx.launchQueue) == some q
  let any := !u.started.isEmpty || !u.fetched.isEmpty
  let b := b.endAll q stBusy none
  let status := ((b.fe.finished.filter fun x => x.queue == q).getLast?.map Finished.status).getD stBusy
  let last (u : Queue) : Queue := { u with done := u.ci, lastStatus := if any then status else u.lastStatus
                                           qstate := .closed, eventEdge := v.n }
  let cause := (b.causeOf u.ctx).orElse fun _ => u.cause
  let b := (b.orphanQueue q u).modFe fun fe => { fe with
    queues := tdel fe.queues q, freed := fe.freed ++ ((b.queue? q).toList.map fun u => (q, last u, cause)) }
  let b := b.mirrorQueue v q
  let b := if mine then (b.dropLaunchSets u.ctx).modCtx u.ctx fun x => { x with launchQueue := none, closedLaunch := true }
    else b
  b.forEach b.fe.queues fun p b => b.forEach p.2.started fun x b =>
    if x.phase = .destroying q then b.descDone p.1 x.index stOk else b

/-- Close every queue that is ready. -/
def Blk.closeQueues (v : Env) (b : Blk) : Blk :=
  b.forEach (b.fe.queues.filter fun p => p.2.qstate == .closing) fun p b =>
    match b.queue? p.1 with
    | some u => if b.closeReady v p.1 u then b.closeQueue v p.1 u else b
    | none => b

/-! ## The queue operations of an edge -/

/-- The blocks of a context that are resident, by reach. -/
def Blk.resident (v : Env) (c : Nat) (b : Blk) : List (Nat × Block) :=
  (List.range v.reaches).flatMap fun r => ((b.reach r).occupying c).map fun p => (r, p.2)

/-- A block that was resident before it was placed again keeps LAST of its entries (R71). -/
def Blk.keepLast (old : List (Nat × Block)) (b : Blk) : Blk :=
  b.forEach old fun p b => b.modReach p.1 fun rc => { rc with blocks := rc.blocks.map fun (k : Nat × Block) =>
    if k.2.ctx = p.2.ctx ∧ k.2.seg = p.2.seg ∧ k.2.vblock = p.2.vblock then
      (k.1, { k.2 with entries := k.2.entries.map fun (e : Nat × Task) =>
        (e.1, { e.2 with last := ((tget p.2.entries e.1).map Task.last).getD e.2.last }) })
    else k }

/-- The reaches whose spill DMA has not halted (R89). -/
def Blk.spilling (v : Env) (b : Blk) : List Nat := (List.range v.reaches).filter fun r => !(b.reach r).spillHalted

/-- Arm a launch (R83, R90, R192). A reach whose spill DMA has halted reads no launch copies for it (R89; log 146). -/
def Blk.armLaunch (v : Env) (q : Nat) (u : Queue) (x : Started) (b : Blk) : Blk :=
  let c := u.ctx
  let bw := ((b.ctx? c).map Ctx.backwater).getD false
  let b := (if bw then ((b.unplace v c).placeImage c (b.spilling v)).keepLast (b.resident v c) else b).armContext v c
  let full := (((b.ctx? c).map fun k => k.image.frames).getD []).all Frame.loaded
  let n := ((b.ctx? c).map Ctx.launchCount).getD 0
  let b := (b.modCtx c fun k => { k with launchQueue := some q, launchSlot := u.slot }).stageDesc .launch c q x.index 0 n
    none x.desc
  let b := b.modQueue q fun u => { u with
    progress := true
    started := u.started.map fun (y : Started) =>
      if y.index = x.index then { y with phase := .launched n (dEndTask x.desc == 0xFFFFFFFF), head := bw && !full } else y }
  if dEndTask x.desc = 0xFFFFFFFF && (full || !bw) then b.descDone q x.index stOk else b

/-- An armed launch: in backwater mode it leaves the head when its last block is loaded; it completes when its end
task and its work are done (R90, R192). -/
def Blk.launchEdge (v : Env) (q c : Nat) (x : Started) (endDone : Bool) (b : Blk) : Blk :=
  let frames := ((b.ctx? c).map fun k => k.image.frames).getD []
  let b := if x.head && frames.all Frame.loaded then
      b.modQueue q fun u => { u with progress := true, started := u.started.map fun (y : Started) =>
        if y.index = x.index then { y with head := false } else y }
    else b
  let still := (((b.queue? q).bind fun u => u.started.find? fun y => y.index == x.index).map Started.head).getD false
  let work := b.anyLedger v c || b.anyTask v c fun k => k.state == .ready || k.state == .dispatched || k.state == .shadow
  if endDone && !still && (dEndTask x.desc == 0xFFFFFFFF || !work) then b.descDone q x.index stOk else b

/-- A PATCH that has its turn (R124, R194). -/
def Blk.patchEdge (v : Env) (q c : Nat) (x : Started) (ps : List (BitVec 128)) (b : Blk) : Blk :=
  if dField x.desc 0x10 1 = 1 then
    let t := { b.fe.cycStandby with arm := false }
    match t.writeAll v.n ps with
    | some t => (b.modFe fun fe => fe.modStandby fun _ => t).descDone q x.index stOk
    | none => (b.modFe fun fe => fe.modStandby fun t => { t with arm := false }).descDone q x.index stContextFault
  else if b.launchBusy v c then b
  else match b.ctx? c with
    | none => b
    | some k =>
      if ps.all k.patchOk then (b.patchArgs k ps).descDone q x.index stOk else b.descDone q x.index stContextFault

/-- What the close of a queue leaves of a started descriptor's work: it completes if it has come to that, a launch that is
armed goes on until it has reported, and nothing else is begun; an image that was read is given up (R202), with
CONTEXT_FAULT if it fails its checks, which ranks higher (R16). -/
def Blk.closingEdge (v : Env) (q : Nat) (u : Queue) (x : Started) (b : Blk) : Blk :=
  match x.phase with
  | .finishing st => b.descDone q x.index st
  | .launched _ endDone => b.launchEdge v q u.ctx x endDone
  | .imageRead image hs =>
    (b.setPhase q x.index (.finishing (if b.imageOk v u x image hs then stBusy else stContextFault))).nextImage
  | _ => b

/-- What a started descriptor of an open queue does at an edge. -/
def Blk.openEdge (v : Env) (q : Nat) (u : Queue) (x : Started) (b : Blk) : Blk :=
  match x.phase with
  | .finishing st =>
    let b := if st = stOk ∧ (dOpcode x.desc = 6 ∨ dOpcode x.desc = 7) then b.markRange v u.ctx x.desc else b
    b.descDone q x.index st
  | .launchWait hs ps =>
    if b.launchBusy v u.ctx then b
    else if dRelocate x.desc then b.setPhase q x.index (.launchRead ps)
    else
      let r := b.launchGo u.ctx x.desc hs ps
      match r.phase with
      | .finishing st => r.blk.descDone q x.index st
      | p => r.blk.setPhase q x.index p
  | .arming => b.armLaunch v q u x
  | .launched _ endDone => b.launchEdge v q u.ctx x endDone
  | .imageRead image hs => b.imageRead v q u x image hs
  | .patchWait ps => b.patchEdge v q u.ctx x ps
  | .ctxCreate r g =>
    let p := b.createContext v x.desc r g
    p.1.descDone q x.index p.2
  | .ctxDestroy =>
    let p := b.destroyContext v (dField x.desc 0x10 1)
    p.1.descDone q x.index p.2
  | .queueCreate =>
    let p := b.createQueue v x.desc
    p.1.descDone q x.index p.2.1 p.2.2
  | .queueDestroy =>
    let p := b.destroyQueue v q x.desc
    match p.2 with
    | some st => p.1.descDone q x.index st
    | none => p.1.setPhase q x.index (.destroying (dField x.desc 0x10 2))
  | .dump =>
    let p := b.acceptDump v u.ctx x.desc
    p.1.descDone q x.index p.2
  | .launchRead _ | .imageReading | .imageWriting | .valueWait _ _ _ | .fenceRecord _ | .fenceWrite | .stepWait _ _ | .stepPending
  | .destroying _ => b

/-- What a started descriptor does at an edge. -/
def Blk.phaseEdge (v : Env) (q : Nat) (u : Queue) (x : Started) (b : Blk) : Blk :=
  if ((b.queue? q).map Queue.isOpen).getD false then b.openEdge v q u x else b.closingEdge v q u x

/-- Every started descriptor, queues ascending, in ring order. -/
def Blk.queueOps (v : Env) (b : Blk) : Blk :=
  b.forEach b.fe.queues fun p b => b.forEach p.2.started fun x b => b.phaseEdge v p.1 p.2 x

/-! ## STEP applications (R128-R130) -/

/-- Step requests of one reach, or of all, arrive at the front end in the order of selection. -/
def Blk.takeRequests (p : TaskRef → Bool) (b : Blk) : Blk :=
  let ts := b.fe.stepsIn.filter p
  let b := b.modFe fun fe => { fe with stepsIn := fe.stepsIn.filter fun t => !p t }
  b.forEach ts fun t b => b.modCtx t.ctx fun x => { x with requests := x.requests ++ [t] }

/-- STEP_REQUEST (R130): the requests of a reach arrive; they are served at the next edge. -/
def execStepRequest (r : Nat) (s : State) : Host.Outcome State Fault Refusal :=
  atReach s r fun _ b => if b.frozen then b else b.takeRequests fun t => t.reach == r

/-- The slot table after a STEP: leaves before joins. -/
def Ctx.moveSlots (r : StepReq) (x : Ctx) : Ctx :=
  let t := r.leaves.foldl (fun t i => tdel t i) x.seqSlots
  { x with seqSlots := r.joins.foldl (fun t p => tput t p.1 (some p.2)) t, gated := r.gate }

/-- The histories of the slots that a join reuses (R134). -/
def Blk.forgetHistory (c : Nat) (x : Ctx) (joins : List Nat) (b : Blk) : Blk :=
  { b with history := b.history.filter fun p =>
      let s := p.1 - c * 4096
      !(p.1 / 4096 == c && decide (x.seqPred ≤ s) && joins.contains ((s - x.seqPred) % x.seqQ)) }

/-- One application for a step task. A context with no sequence slots has no batch record (R128; DESIGN CHOICE, log
132). -/
def Blk.applyStep (v : Env) (c : Nat) (x : Ctx) (t : TaskRef) (b : Blk) : Blk :=
  let n := x.stepCount + 1
  let y := match x.pendingStep with | some r => x.moveSlots r | none => x
  let y := { y with stepCount := n, pendingStep := none, requests := x.requests.drop 1, applied := x.applied ++ [t]
                    lastStep := x.pendingStep.map fun r => (r.queue, r.index, b.startedDesc r.queue r.index) }
  let b := b.modCtx c fun _ => y
  let b := if y.seqQ = 0 then b else b.emit (.dmWrite y.batchAddr (batchRecord y))
  let b := match x.pendingStep with
    | some r =>
      let d := b.startedDesc r.queue r.index
      let slots := r.joins.map fun (p : Nat × BitVec 32) => p.1
      ((b.forgetHistory c x slots).stageDesc .step c r.queue r.index 0 n none d).descDone r.queue r.index stOk
    | none => b.stage 19 { type := .step, ctx := c, epoch := b.epoch c, aux := BitVec.ofNat 32 n }
  let b := b.trace v true { edge := v.n, type := 8, ctx := c, range := b.range c, aux := BitVec.ofNat 64 n }
  let tide := x.record.tideN
  if tide ≠ 0 ∧ n % tide = 0 then b.tide c else b

/-- Serve a context's requests in order until one must wait for a STEP. -/
def Blk.serveSteps (v : Env) (c : Nat) : Nat → Blk → Blk
  | 0, b => b
  | n + 1, b =>
    match b.ctx? c with
    | none => b
    | some x => match x.requests with
      | [] => b
      | t :: _ =>
        if x.faulted || (x.gated && x.pendingStep.isNone) then b
        else (b.applyStep v c x t).serveSteps v c n

/-- STEP descriptors that waited behind a pending one: each is checked against the slot table when it becomes the pending
one (R129; DESIGN CHOICE, log 133). -/
def Blk.pendWaiting (b : Blk) : Blk :=
  b.forEach b.fe.queues fun p b => b.forEach p.2.started fun x b =>
    match x.phase with
    | .stepWait ls js =>
      if ((b.ctx? p.2.ctx).bind Ctx.pendingStep).isSome then b
      else
        let r := b.pendStep p.1 x.index p.2.ctx x.desc ls js
        match r.phase with
        | .finishing st => r.blk.descDone p.1 x.index st
        | ph => (r.blk.setPhase p.1 x.index ph).modQueue p.1 fun u => { u with
            progress := true
            started := u.started.map fun (y : Started) => if y.index = x.index then { y with head := false } else y }
    | _ => b

/-- STEP applications of an edge. -/
def Blk.stepEdge (v : Env) (b : Blk) : Blk :=
  (b.forEach b.fe.ctxs fun p b => b.serveSteps v p.1 (p.2.requests.length + 1)).pendWaiting

/-- What the applications of the last edge bring at this one: the step tasks complete, and every sequence slot is
cleared and resolved (R130). -/
def Blk.stepResults (b : Blk) : Blk :=
  b.forEach b.fe.ctxs fun p b =>
    let x := p.2
    if x.applied.isEmpty then b
    else
      let b := b.modCtx p.1 fun x => { x with applied := [] }
      let b := b.forEach x.applied fun t b => b.modReach t.reach fun rc => { rc with selfDone := rc.selfDone ++ [t] }
      let ops := (List.range x.seqQ).flatMap fun i =>
        let m : PredMsg := { ctx := p.1, slot := x.seqPred + i, op := .clear, record := false }
        [m, { m with op := if (tgetD none x.seqSlots i).isSome then .resolveTrue else .resolveFalse }]
      { b with predOps := b.predOps ++ ops }

/-! ## Timers (R204, R205) -/

/-- The timers of the pulse that has ended. -/
def Blk.tickTimers (v : Env) (b : Blk) : Blk :=
  if b.db.cpHalted || b.db.rcHalted then b
  else b.modFe fun fe => { fe with queues := fe.queues.map fun (p : Nat × Queue) =>
    let u := p.2
    if u.progress || (u.started.isEmpty && u.fetched.isEmpty) then (p.1, { u with timer := 0, progress := false })
    else (p.1, { u with timer := u.timer + 1, timerLeft := if u.timer = 0 then v.n else u.timerLeft }) }

/-- A hung run of the launch that queue `q` armed. -/
def Blk.hungRun (v : Env) (q : Nat) (u : Queue) (b : Blk) : Bool :=
  ((b.ctx? u.ctx).bind Ctx.launchQueue) == some q
    && b.agents.any fun p => decide (p.1 < v.engines) && (match p.2.run with
      | some r => r.active && r.dw.ref.ctx == u.ctx && r.dw.epoch == b.epoch u.ctx && decide (r.startEdge < u.timerLeft)
          && p.2.stalled.isNone
      | none => false)

/-- The head descriptor of a queue of context 0 completes with TIMEOUT, or with a status of its own that ranks higher
(R16); CONTEXT_FAULT, if its fetch failed, does. -/
def Blk.timeoutHead (v : Env) (q : Nat) (u : Queue) (b : Blk) : Blk :=
  match u.started with
  | x :: _ => b.setPhase q x.index (.finishing (match x.phase with
    | .finishing st => rankMax st stTimeout
    | _ => stTimeout))
  | [] => match u.fetched with
    | x :: _ =>
      let status := if x.isSome then stTimeout else rankMax stContextFault stTimeout
      ((b.takeHead q u).ends status).push v q (u.ci - u.fetched.length) (x.getD 0)
    | [] => b

/-- QUEUE_TIMEOUT (R204, R205). -/
def execQueueTimeout (q : Nat) (s : State) : Host.Outcome State Fault Refusal :=
  atQueue s q fun v b =>
    match b.queue? q with
    | none => b
    | some u =>
      let t := u.timeoutOf v q
      if t = 0 ∨ u.timer < t ∨ b.frozen then b
      else
        let b := b.modQueue q fun u => { u with timer := 0 }
        if u.ctx = 0 then b.timeoutHead v q u
        else if b.hungRun v q u then (b.bump .timeoutReset).askReset .hungRun
        else if b.canTearDown u.ctx then (b.bump .timeoutContext).tearDown u.ctx stTimeout
        else b

end Sys2Proof.Machine
end

