-- ==== Sys2Proof/Machine/Views.lean ====
section
/-! DEFINITION. What the debugger reads of each object (R220, R256, R332, Tables 9.4, 10.13) and the records of the
snapshot sections that have no layout of their own: their fields in the order of Table 14.9 (log 80). -/

namespace Sys2Proof.Machine

/-! ## Sync objects (Table 9.4) -/

/-- GE 0, EQ 1, TAKE 2. -/
def WaitOp.code : WaitOp → Nat
  | .ge => 0 | .eq => 1 | .take => 2

/-- Engine, operation and operand of a wait. -/
def Wait.view (w : Wait) : List Nat := [w.engine, w.op.code, w.operand.toNat]

/-- VALUE, SAT, TOUCHED, START, LAST_KIND, LAST_SRC, LAST_EDGE, and the waiters in the order in which they began. -/
def SyncObj.view (x : SyncObj) (waits : List Wait) : List Nat :=
  [x.value.toNat, b2n x.sat, b2n x.touched, x.start.toNat, x.lastKind, x.lastSrc, x.lastEdge] ++ waits.flatMap Wait.view

/-- The wait on a local object of an agent. -/
def Agent.waitersOf (a : Agent) (i : Nat) : List Wait :=
  match a.wait with
  | some (k, w) => if k = i then [w] else []
  | none => []

/-- The local objects that are non-zero, touched or waited on: engine, index, and the fields of Table 9.4. -/
def Agent.localViews (e : Nat) (a : Agent) : List (List Nat) :=
  let waited := match a.wait with
    | some (k, _) => if k < 256 ∧ (tget a.locals k).isNone then [(k, ({} : SyncObj))] else []
    | none => []
  ((a.locals ++ waited).filter fun p => p.2.value != 0 || p.2.touched || !(a.waitersOf p.1).isEmpty).map fun p =>
    [e, p.1] ++ p.2.view (a.waitersOf p.1)

/-- A global object: VALUE, SAT, LAST_KIND, LAST_SRC, LAST_EDGE, and how many wait for it. -/
def Blk.gsyncView (b : Blk) (key : Nat) : List Nat :=
  let x := tgetD {} b.hb.gsync key
  [x.value.toNat, b2n x.sat, x.lastKind, x.lastSrc, x.lastEdge, (tgetD [] b.hb.gwaits key).length]

/-! ## Channels and combining queues (Table 10.13) -/

def ChState.code : ChState → Nat
  | .idle => 0 | .pending => 1 | .opened => 2 | .reset => 3

/-- The header word at RP, zero if nothing is unread. -/
def Hb.channelHead (h : Hb) (c : Channel) : Nat := if c.unread = 0 then 0 else (h.readWord (c.addr c.rp)).toNat

/-- The fields of a channel in the order of Table 10.13, after its context and index. -/
def Hb.channelView (h : Hb) (key : Nat) (c : Channel) : List Nat :=
  let engine (x : Option ChEnd) : Nat := (x.map ChEnd.engine).getD 0xFFFF
  [c.ctx, key % 65536, c.state.code, b2n c.persist, c.rlog, c.base, engine c.sendEnd, engine c.recvEnd
    , c.wp, c.rp, c.rl, c.mkp, b2n c.marked, c.occupied, c.unread, h.channelHead c
    , c.sent.toNat, c.relsd.toNat, c.lost, c.gapCount, c.gapFirst.toNat, c.corr]

def CqState.code : CqState → Nat
  | .opening => 1 | .opened => 2 | .closing => 3

/-- QSTATE, ARGIX, LAUNCH, DONE_N and HEAD. -/
def CombQ.view (q : CombQ) : List Nat := [q.state.code, q.argix.toNat, q.launch, q.doneN, q.head]

/-! ## Records of the snapshot sections (Table 14.9) -/

/-- A section that is fixed in size: records that are not there are empty. -/
def padded (n : Nat) (l : List (List Nat)) : List (List Nat) := (l ++ List.replicate (n - l.length) []).take n

/-- KIND 0, a queue: CI, DONE, last PI read, QSTATE, HWSLOT, timer, index and opcode of the head descriptor, and the
value that WAIT_VALUE read last. -/
def Queue.record (u : Queue) : List Nat :=
  let base := u.ci - u.fetched.length
  let head : Nat × Nat := match u.started.find? Started.head, u.fetched with
    | some x, _ => (x.index, dOpcode x.desc)
    | none, some d :: _ => (base, dOpcode d)
    | none, _ => (base, 0)
  [u.ci, u.done, u.piRead, u.qstate.code, u.slot, u.timer, head.1, head.2, u.waitLast.toNat]

/-- KIND 0, a context: 0 absent, 1 present, 2 faulted; launch count and epoch, pending STEP, held step requests, step
mode, STEP_COUNT. -/
def Ctx.snapRecord (x : Ctx) : List Nat :=
  [if x.faulted then 2 else 1, x.launchCount, x.launchCount % 256, b2n x.pendingStep.isSome, x.requests.length
    , b2n x.gated, x.stepCount]

def Blk.frontEndRecords (b : Blk) : List (List Nat) :=
  ((List.range 1024).map fun q => ((b.queue? q).map Queue.record).getD [])
    ++ (List.range 64).map fun c => ((b.ctx? c).map Ctx.snapRecord).getD [0]

/-- KIND 1: permit word, B as a 64-bit number, FILL, P_avg, PG_STATUS, and the latest pg_pwr_mw sample (Table 14.11). -/
def Blk.governorRecord (v : Env) (b : Blk) : List Nat :=
  [b.pg.permit.toNat, (BitVec.ofInt 64 b.pg.bucket).toNat, b.pg.fillFp.toNat, b.pg.pAvg.toNat, (b.pgStatus v).toNat
    , b.pg.latest.toNat]

def SessPhase.code : SessPhase → Nat
  | .routing => 0 | .closePoint => 1 | .closing => 2 | .closed => 3

/-- KIND 2: the key, tokens processed, POOL_USED, open chunks, close step. -/
def Session.record (s : Session) : List Nat :=
  [s.ctx, s.rsdIx.toNat, s.round.toNat, s.processed, s.poolUsed
    , (s.rowSt.filter fun p => p.2.openChunk.isSome).length, s.phase.code]

/-- Head, tail and length of a ready list. -/
def listEnds (l : List TaskRef) : List Nat :=
  let id (t : Option TaskRef) : Nat := (t.map fun x => x.id.toNat).getD 0xFFFFFFFF
  [id l.head?, id l.getLast?, l.length]

/-- KIND 3: the ready lists, lengths, outboxes, ledger, shadow records and list records of a reach. -/
def Reach.record (r : Nat) (rc : Reach) : List Nat :=
  let zeroSet := ((rc.tasks r).filter fun p => p.2.state == .waiting && p.2.depcnt == 0).length
  listEnds rc.lc ++ listEnds rc.fillList ++ listEnds rc.plainList ++ [zeroSet, rc.backlog.length]
    ++ (List.range 16).map (fun i => (tgetD [] rc.outbox i).length) ++ [rc.ledger.length]
    ++ (padded 64 (rc.shadowRecs.map fun s => [s.ref.id.toNat])).flatMap id
    ++ (padded 256 (rc.listRecs.map fun l => [l.ref.id.toNat, l.next, l.done, l.hold])).flatMap id

/-- A combining queue by number, idle or not (Table 10.13). -/
def Blk.cqView (b : Blk) (key : Nat) : List Nat := ((tget b.hb.cqs key).map CombQ.view).getD [0, 0, 0, 0, 0]

/-- KIND 6: 4,096 global objects, then 1,024 combining queues, contexts ascending and those of each ascending, so that
what the contexts reserve tells the context and the number of a record (log 80). -/
def Blk.hubRecords (b : Blk) : List (List Nat) :=
  padded 4096 (b.fe.ctxs.flatMap fun p => (List.range p.2.record.gsyncQ).map fun i => b.gsyncView (gsyncKey p.1 i))
    ++ padded 1024 (b.fe.ctxs.flatMap fun p => (List.range p.2.record.cqQ).map fun q => b.cqView (cqKey p.1 q))

/-- KIND 7: object, and the fields of each wait. -/
def Blk.waiterRecords (b : Blk) : List (List Nat) := b.hb.gwaits.flatMap fun p => p.2.map fun w => p.1 :: w.view

/-- KIND 8. -/
def Blk.localRecords (b : Blk) : List (List Nat) := b.agents.flatMap fun p => p.2.localViews p.1

/-- KIND 9. -/
def Blk.channelRecords (b : Blk) : List (List Nat) := b.hb.channels.map fun p => b.hb.channelView p.1 p.2

/-- KIND 10: the stream, its send record and its receive record (R223, R227). -/
def Blk.streamRecords (b : Blk) : List (List Nat) :=
  let keys := b.hb.streams.map (·.1) ++ (b.hb.recvs.map (·.1)).filter fun k => (tget b.hb.streams k).isNone
  keys.map fun k =>
    let s := tgetD {} b.hb.streams k
    let r := tgetD {} b.hb.recvs k
    [k, s.owner.getD 0xFF, s.epoch.toNat, s.nextSeq.toNat, s.issued.toNat, b2n r.used, r.src.toNat, r.epoch.toNat
      , r.base.toNat, r.held.toNat, r.done.toNat, r.count.toNat, r.countN.toNat]

/-- KIND 12: the latest VALUE of each (PORT, KIND), eight bytes each (R332). -/
def Blk.telemetryBytes (b : Blk) : List Byte :=
  (List.range 1024).flatMap fun i => leBytes 8 (tgetD 0 b.db.fabTel i).toNat

end Sys2Proof.Machine
end

