-- ==== Sys2Proof/Machine/Debug.lean ====
section
/-! DEFINITION. Debug (R333-R344): census operations, watchpoints, trace, time records, the load map, the hang
snapshot, breakpoints, dumps. -/

namespace Sys2Proof.Machine

open Sys2Proof.Config

/-! ## Census operations (R333-R335) -/

/-- A run's CENSUS reports of one format, summed. -/
def addReport (fmt : Nat) (p : Nat × Nat × Nat × Nat) (l : List (Nat × (Nat × Nat × Nat × Nat))) :
    List (Nat × (Nat × Nat × Nat × Nat)) :=
  match l.find? (fun x => x.1 == fmt) with
  | some _ => lreplace (fun x => x.1 == fmt)
      (fun x => (fmt, x.2.1 + p.1, x.2.2.1 + p.2.1, x.2.2.2.1 + p.2.2.1, x.2.2.2.2 + p.2.2.2)) l
  | none => l ++ [(fmt, p)]

/-- CENSUS. -/
def execCensus (e : Nat) (fmt : BitVec 8) (values ovf van nan : BitVec 32) (s : State) :
    Host.Outcome State Fault Refusal :=
  atRun s e fun _ r b =>
    if 11 ≤ fmt.toNat then b.opFault e r.ref
    else if (b.agent e).shadowRun then (b.bump .censusShadowDiscard e).opReply e stOk
    else (b.modAgent e fun a => { a with run := a.run.map fun r =>
      { r with census := addReport fmt.toNat (values.toNat, ovf.toNat, van.toNat, nan.toNat) r.census } }).opReply e stOk

/-- CENSUS_CLOSE: a second one in the same run is a task fault. -/
def execCensusClose (e : Nat) (slot : BitVec 12) (fmask : BitVec 16) (kmask : BitVec 3) (addr : BitVec 64) (s : State) :
    Host.Outcome State Fault Refusal :=
  atRun s e fun _ r b =>
    if (b.agent e).shadowRun then (b.bump .censusShadowDiscard e).opReply e stOk
    else if r.close.isSome then b.opFault e r.ref
    else (b.modAgent e fun a => { a with run := a.run.map fun r =>
      { r with close := some (slot, fmask, kmask, addr) } }).opReply e stOk

/-! ## Watchpoints (R344) -/

/-- WATCH_FETCH: the watchpoints as they stood when the run started. -/
def execWatchFetch (e : Nat) (s : State) : Host.Outcome State Fault Refusal :=
  atRun s e fun _ r b => (b.emit (.watchpoints e r.watch)).opReply e stOk

/-- WATCH_HIT: one hit of an agent passes in a pulse. -/
def execWatchHit (e : Nat) (addr : BitVec 64) (widx : BitVec 6) (wkind : Bool) (s : State) :
    Host.Outcome State Fault Refusal :=
  atRun s e fun v r b =>
    if 1 ≤ (b.agent e).hitsPulse then (b.bump .watchHitLost e).opReply e stOk
    else
      let shadow := (b.agent e).shadowRun
      let c := r.ref.ctx
      let b := (b.modAgent e fun a => { a with hitsPulse := a.hitsPulse + 1 }).bump .watchHit
      let b := b.trace v true
        { edge := v.n, type := 11, sub := b2n wkind, shadow := shadow, ctx := c, id := widx.setWidth 32, engine := e
          range := b.range c, aux := addr }
      let b := if v.aon.grade.hasWatchpoints && v.field (wpOff c widx.toNat + 12) 2 1 == 1 then b.askStop 1 else b
      b.opReply e stOk

/-- DEBUG_RESERVED_OP. -/
def execDebugReservedOp (e : Nat) (s : State) : Host.Outcome State Fault Refusal :=
  atRun s e fun _ r b => b.opFault e r.ref

/-! ## Trace ring (R336, R337) -/

def Env.trcBase (v : Env) : BitVec 64 := v.pair 0xB00008

/-- The records that the encoder writes from PI on, each counted as it is written (Table 14.15). -/
def Blk.writeTrace (v : Env) (rs : List TraceRec) (b : Blk) : Blk :=
  b.forEach rs fun r b =>
    (((b.emit (.dmWrite (v.trcBase + BitVec.ofNat 64 (0x40 + 32 * (b.db.trcPi % 2 ^ v.trcLog))) (traceBytes r))).modDb
      fun d => { d with trcPi := d.trcPi + 1 }).bump .traceRecord).bump .traceLossRecord 0 (b2n (r.type == 0))

/-- The TIME record of an edge (R337). -/
def Blk.timeRec (v : Env) (b : Blk) : TraceRec :=
  let off := b.mc.offset
  { edge := v.n, type := 13, id := off.setWidth 32, engine := bits off 32 16
    status := BitVec.ofNat 8 (bits off 48 8), pad := bits off 56 8
    range := BitVec.ofNat 32 (b.mc.lantern.getD 0 + fieldAt 7 (b2n b.mc.offValid)), aux := BitVec.ofNat 64 v.aon.mtime }

/-- Every 1,024 edges, once for each edge. -/
def Blk.enterTime (v : Env) (b : Blk) : Blk :=
  if v.n % 1024 ≠ 0 ∨ b.db.timeAt = v.n then b
  else (b.modDb fun d => { d with timeAt := v.n }).trace v false (b.timeRec v)

/-- TIME_RECORD (R337). -/
def execTimeRecord (s : State) : Host.Outcome State Fault Refusal := onBlk s Blk.enterTime

/-! ## The load map (R326) -/

/-- The entry of an engine over the window just ended. -/
def Blk.loadEntry (v : Env) (b : Blk) (e : Nat) : BitVec 16 :=
  BitVec.ofNat 16 (min 65535 ((b.ctr .busyClk e - (b.agent e).busyAtMap) * 65535 / (64 * 2 ^ v.loadLog)))

/-- At an edge n with n mod 2^LOAD_LOG = 0, once for each edge. -/
def Blk.sampleLoad (v : Env) (b : Blk) : Blk :=
  if v.n % 2 ^ v.loadLog ≠ 0 ∨ b.db.loadAt = v.n then b
  else
    let es := List.range v.engines
    let b := b.modDb fun d => { d with
      loadAt := v.n
      loadMap := if b.sampling v then es.map (fun e => (e, b.loadEntry v e)) else d.loadMap }
    b.forEach es fun e b => b.modAgent e fun a => { a with busyAtMap := b.ctr .busyClk e }

/-- LOAD_MAP_SAMPLE. -/
def execLoadMapSample (s : State) : Host.Outcome State Fault Refusal := onBlk s Blk.sampleLoad

/-! ## The hang snapshot (R338-R340) -/

/-- A section of the image: KIND, INSTANCE, N, bytes, contents where R339 lays them out, else the fields of its
records. -/
structure SnapSection where
  kind  : Nat
  inst  : Nat
  n     : Nat
  bytes : Nat
  body  : List Byte := []
  views : List (List Nat) := []
  trunc : Bool := false

def SnapSection.header (x : SnapSection) : List Byte :=
  leBytes 1 x.kind ++ leBytes 1 (b2n x.trunc) ++ leBytes 2 x.inst ++ leBytes 4 x.n ++ leBytes 8 x.bytes

/-- LOC and the list position of a task (Table 14.9, KIND 4). -/
def Reach.loc (rc : Reach) (t : TaskRef) (x : Task) : Nat × Nat :=
  let pos (l : List TaskRef) : Nat := (l.takeWhile (· != t)).length
  if rc.lc.contains t then (2, pos rc.lc)
  else if rc.fillList.contains t then (3, pos rc.fillList)
  else if rc.plainList.contains t then (4, pos rc.plainList)
  else if x.state == .shadow then (5, 0)
  else if x.state == .waiting && x.depcnt == 0 then (1, 0)
  else (0, 0)

/-- The record of a non-idle entry. -/
def Reach.taskRecord (rc : Reach) (t : TaskRef) (x : Task) : List Byte :=
  let l := rc.loc t x
  leBytes 4 t.id.toNat ++ leBytes 1 l.1 ++ leBytes 1 (b2n x.cf + 2 * b2n x.sk + 4 * b2n x.ra + 8 * b2n x.released)
    ++ leBytes 2 0 ++ leBytes 4 l.2 ++ leBytes 4 0 ++ leBytes 32 (taskBits t.ctx x).toNat

/-- The pended remote signals of the run on the port and of the runs that have ended with their word parked (R222). -/
def Agent.pendN (a : Agent) : Nat := ((a.run.toList ++ a.ended).map fun r => r.rsig.length).foldl (· + ·) 0

/-- An engine-agent record at edge `n` (Table 14.10). ABORT_ACK shows an acknowledgement of the pulse that the edge ends
(DESIGN CHOICE, log 80). -/
def Agent.record (n e : Nat) (a : Agent) : List Byte :=
  let w (d : Option DWord) : List Byte := leBytes 32 ((d.map fun x => x.word.toNat).getD 0)
  let t := (a.running.orElse fun _ => a.present).map DWord.ref
  let since := match a.run with
    | some r => r.startEdge
    | none => if t.isSome then a.presentEdge else 0
  let sends := a.sends.length
  leBytes 2 e
    ++ leBytes 1 (b2n a.pwrGood + 2 * b2n a.free + 4 * b2n a.reportsBe + 8 * b2n a.reportsPreempt
        + 16 * b2n a.holdBusy + 32 * b2n a.wait.isSome + 64 * b2n a.fenced + 128 * b2n a.shadowRun)
    ++ leBytes 1 a.queue.length ++ leBytes 4 ((t.map fun x => x.id.toNat).getD 0xFFFFFFFF)
    ++ leBytes 1 ((t.map TaskRef.ctx).getD 0) ++ leBytes 1 a.cplHold.length
    ++ leBytes 1 (b2n a.run.isSome + 2 * b2n a.abort.isSome + 4 * b2n (a.ackAt.any fun k => k + 1 == n))
    ++ leBytes 1 (match a.wait with | some (k, _) => if k < 256 then k else 0xFF | none => 0xFF)
    ++ leBytes 4 a.held ++ leBytes 8 since ++ leBytes 1 sends
    ++ leBytes 1 a.pendN
    ++ leBytes 1 (match a.pull with | .none => 0 | .tile => 1 | .chunk => 2) ++ leBytes 5 0
    ++ (List.range 4).flatMap (fun i => w a.queue[i]?) ++ w a.pre
    ++ (List.range 4).flatMap (fun i => leBytes 16 ((a.cplHold[i]?.map fun c => c.word.toNat).getD 0))

/-- A held or outstanding signal: the packet image, byte 0x1C set to 1 for held ones. -/
def signalRecord (w : BitVec 256) (held : Bool) : List Byte :=
  leBytes 28 w.toNat ++ leBytes 1 (b2n held) ++ leBytes 3 0

/-- The fixed sections. -/
def Blk.fixedSections (v : Env) (b : Blk) : List SnapSection :=
  let one (k n size : Nat) (views : List (List Nat)) : SnapSection :=
    { kind := k, inst := 0, n := n, bytes := n * size, views := views }
  [one 0 1088 64 b.frontEndRecords, one 1 1 64 [b.governorRecord v]]
    ++ (if v.aon.grade.hasRouter then
          [one 2 4 256 ((List.range 4).map fun k => ((b.session? k).map Session.record).getD [])] else [])
    ++ ((List.range v.reaches).map fun r =>
          { kind := 3, inst := r, n := 1, bytes := 4096, views := [(b.reach r).record r] })
    ++ [{ one 5 v.engines 256 [] with body := (List.range v.engines).flatMap fun e => (b.agent e).record v.n e },
        one 6 5120 32 b.hubRecords, { one 12 1 8192 [] with body := b.telemetryBytes }]

/-- The variable sections that are not empty. -/
def Blk.variableSections (v : Env) (b : Blk) : List SnapSection :=
  let some_ (k r n size : Nat) (body : List Byte) (views : List (List Nat)) : List SnapSection :=
    if n = 0 then [] else [{ kind := k, inst := r, n := n, bytes := n * size, body := body, views := views }]
  let fields (k size : Nat) (l : List (List Nat)) : List SnapSection := some_ k 0 l.length size [] l
  let tasks (r : Nat) : List (TaskRef × Task) := ((b.reach r).tasks r).filter fun p => p.2.state != .idle
  let sigs := b.hb.held.map (fun s => signalRecord (signalBits s) true)
    ++ b.hb.outstanding.map (fun o => signalRecord o.packet false)
  ((List.range v.reaches).flatMap fun r => some_ 4 r (tasks r).length 48
      ((tasks r).flatMap fun p => (b.reach r).taskRecord p.1 p.2) [])
    ++ fields 7 8 b.waiterRecords ++ fields 8 32 b.localRecords ++ fields 9 64 b.channelRecords
    ++ fields 10 64 b.streamRecords ++ some_ 11 0 sigs.length 32 (sigs.flatMap id) []

/-- Cut the sections at what is left of DB_SNAP_BYTES: the sections written, the number cut short. -/
def cutSections : Nat → List SnapSection → List SnapSection × Nat
  | _, [] => ([], 0)
  | room, x :: r =>
    if 16 + x.bytes ≤ room then
      let t := cutSections (room - 16 - x.bytes) r
      (x :: t.1, t.2)
    else if room < 16 then ([], 1)
    else
      let n := (room - 16) / (x.bytes / x.n)
      ([{ x with bytes := room - 16, n := n, body := x.body.take (room - 16), views := x.views.take n, trunc := true }], 1)

/-- The image of a snapshot (R339): written from the edge of the stop on. -/
def Blk.snapshotImage (v : Env) (cause : Nat) (b : Blk) : Blk × Nat :=
  let all := b.fixedSections v ++ (if cause = 2 then [] else b.variableSections v)
  let region := (v.reg 0xB00028).toNat
  let c := cutSections (region - 64) all
  let length := 64 + (c.1.map fun x => 16 + x.bytes).foldl (· + ·) 0
  let head := leBytes 4 0x4E534B4F ++ leBytes 2 0x0102 ++ leBytes 1 cause
    ++ leBytes 1 (b2n (decide (0 < c.2)) + 2 * b2n (cause == 2)) ++ leBytes 8 v.n ++ leBytes 8 v.aon.mtime
    ++ leBytes 8 b.mc.offset.toNat ++ leBytes 4 c.1.length ++ leBytes 4 0 ++ leBytes 8 length ++ leBytes 16 0
  ((b.emit (.snapshot (v.pair 0xB00020) head (c.1.map fun x => (x.header, x.body, x.views)))).bump .snapshotTrunc 0 c.2, length)

/-- The snapshot of a stop at this edge: cause 0 management, 1 watchpoint, 2 block reset. -/
def Blk.takeSnapshot (v : Env) (cause : Nat) (b : Blk) : Blk :=
  let r := b.snapshotImage v cause
  (r.1.modDb fun d => { d with snap := some { cause := cause, edge := v.n, writing := true, length := r.2 }
                               snapEdge := v.n }).bump .snapshot

/-- A STOP record: 0 stop, 1 resume (Table 14.8). -/
def Blk.traceStop (v : Env) (cause sub : Nat) (b : Blk) : Blk :=
  b.trace v false { edge := v.n, type := 14, sub := sub, id := BitVec.ofNat 32 cause
                    aux := BitVec.ofNat 64 b.db.stopEdge }

/-- A requested stop takes effect at the end of an edge (R103, R338). -/
def Blk.stopNow (v : Env) (b : Blk) : Blk :=
  match b.db.stopReq with
  | none => b
  | some cause =>
    let b := b.modDb fun d => { d with stopReq := none, stopped := true, stopEdge := v.n, resumeReq := false }
    (b.takeSnapshot v cause).traceStop v cause 0

/-- A write of DB_SNAP_RESUME.GO: a held stop ends at the next edge. -/
def Blk.snapResume (b : Blk) : Blk :=
  match b.db.snap with
  | some x => if b.db.stopped && !x.writing then b.modDb fun d => { d with resumeReq := true } else b
  | none => b

/-- A resume that takes effect at this edge (R104). -/
def Blk.resumeNow (v : Env) (b : Blk) : Blk :=
  (b.traceStop v ((b.db.snap.map Snap.cause).getD 0) 1).modDb fun d => { d with
    stopped := false, resumeReq := false, snap := none }

/-- The edge at which dispatch starts after a block reset: its stop ends (R309, R336). -/
def Blk.resetOver (v : Env) (b : Blk) : Blk :=
  if !b.db.resetStop || b.rel.phase != 0 then b
  else (b.traceStop v 2 1).modDb fun d => { d with resetStop := false }

/-! ## Breakpoints (R342) -/

/-- The register of breakpoint `i` of a core. -/
def bpOff (core : Core) (i : Nat) : Nat := 0xB00060 + 16 * (coreCode core) + 4 * i

def Db.halted (d : Db) : Core → Bool | .cp => d.cpHalted | .rc => d.rcHalted
def Db.setHalt (d : Db) (core : Core) (on : Bool) : Db :=
  match core with | .cp => { d with cpHalted := on } | .rc => { d with rcHalted := on }

/-- The INSN and HALT records of a halt (sub 3, 0) or a resume (sub 4, 1). -/
def Blk.traceHalt (v : Env) (core : Core) (i pc insn sub : Nat) (b : Blk) : Blk :=
  (b.traceInsn v core insn pc).trace v false
    { edge := v.n, type := 10, sub := sub, id := BitVec.ofNat 32 i, aux := BitVec.ofNat 64 (coreCode core) }

/-- BREAKPOINT_HALT: a running core reaches an enabled address. -/
def execBreakpointHalt (core : Core) (i : Nat) (s : State) : Host.Outcome State Fault Refusal :=
  onBlk s fun v b =>
    if 4 ≤ i ∨ v.field (bpOff core i) 0 1 = 0 ∨ b.fe.fwState ≠ .running ∨ b.db.halted core ∨ b.rel.phase ≠ 0 then b
    else
      let pc := 4 * v.field (bpOff core i) 2 30
      ((b.modDb fun d => { d.setHalt core true with
        haltIx := tput d.haltIx (coreCode core) i, haltPc := tput d.haltPc (coreCode core) pc }).traceHalt v core i pc 3 0).bump
        .bpHalt

/-- A core resumes. -/
def Blk.bpResume (v : Env) (core : Core) (b : Blk) : Blk :=
  if !b.db.halted core then b
  else (b.modDb fun d => d.setHalt core false).traceHalt v core (tgetD 0 b.db.haltIx (coreCode core))
    (tgetD 0 b.db.haltPc (coreCode core)) 4 1

/-! ## Dumps (R343) -/

/-- DUMP_COPY_DONE: the copy of the oldest dump taken is acknowledged. -/
def execDumpCopyDone (s : State) : Host.Outcome State Fault Refusal :=
  onBlk s fun v b =>
    match b.db.dumps.find? Dump.taken with
    | none => b
    | some d =>
      let b := b.modDb fun g => { g with dumps := ldrop1 (fun x => x == d) g.dumps }
      let b := (b.answered fun r => r == .dumpRead (d.src.setWidth 63) d.bytes).answered fun r =>
        r == .dumpWrite (d.dst.setWidth 63) d.bytes
      (b.bump .dump).trace v true
        { edge := v.n, type := 12, ctx := d.ctx, id := d.tensor, range := b.range d.ctx, aux := BitVec.ofNat 64 d.bytes }

/-- Discard the pending requests that `p` names. -/
def Blk.dropDumps (p : Dump → Bool) (b : Blk) : Blk :=
  let n := (b.db.dumps.filter fun d => !d.taken && p d).length
  (b.modDb fun g => { g with dumps := g.dumps.filter fun d => d.taken || !p d }).bump .dumpDiscard 0 n

end Sys2Proof.Machine
end

