-- ==== Sys2Proof/Machine/Recovery.lean ====
section
/-! DEFINITION. Recovery (13_reliability_and_recovery.md): deferral windows and the journal's flush, checkpoints,
context teardown, the phases of a block reset up to replay, retirement, the scrubber, self-test. -/

namespace Sys2Proof.Machine

open Sys2Proof.Config

/-! ## Deferral windows (R302) and the flush of an edge's records (R299-R301) -/

/-- The types that never carry DEFER: RELEASE and TEARDOWN (R302), and records of no context's work. -/
def JType.defers : JType → Bool
  | .release | .teardown | .close | .ckptBegin | .ckptEnd | .reset => false
  | .complete | .pred | .launch | .step | .fence | .fenceDone | .desc | .send | .pageOut | .pageIn => true

/-- The context whose window a record counts for: the context that it names, or that sent the signal. -/
def JRec.owner (r : JRec) : Nat := r.ctx

/-- The windows after an edge, their counts of DEFER records, and the CLOSE records of those that close at it. -/
def Blk.moveWindows (v : Env) (b : Blk) : Blk :=
  let cs := (List.range v.contexts).filter fun c => b.rel.inWindow c || b.windowOpen c
  let staged := b.rel.staged.map fun (p : Nat × JRec) =>
    (p.1, { p.2 with defer := p.2.type.defers && cs.contains p.2.owner })
  let b := b.modRel fun l => { l with staged := staged }
  b.forEach cs fun c b =>
    let more := (staged.filter fun p => p.2.defer && p.2.owner == c).length
    let old := (b.rel.windows.find? fun w => w.1 == c).getD (c, v.n, 0)
    let rest := b.rel.windows.filter fun w => w.1 != c
    if b.windowOpen c then b.modRel fun l => { l with windows := rest ++ [(c, old.2.1, old.2.2 + more)] }
    else (b.modRel fun l => { l with windows := rest }).stage 37
      { type := .close, ctx := c, epoch := b.epoch c, aux := BitVec.ofNat 32 (old.2.2 + more) }

/-- A staged record with its edge, its slot, and EDGE[63:32] in ID where Table 13.4 says so. -/
def JRec.placed (n slot : Nat) (r : JRec) : JRec :=
  let hi := r.type == .ckptBegin || r.type == .reset
  { r with edge := n, slot := slot, id := if hi then BitVec.ofNat 32 (n / 2 ^ 32) else r.id }

/-- The bytes of a record: one slot, or two (R299, Table 13.3). -/
def JRec.bytes (r : JRec) : List Byte :=
  leBytes 16 (jrecBits r).toNat ++ (if r.size = 2 then leBytes 16 ((r.second.map BitVec.toNat).getD 0) else [])

/-- Where a slot of the stream lies in the ring (R299). -/
def Env.slotAddr (v : Env) (slot : Nat) : BitVec 64 := v.pair 0x100 + BitVec.ofNat 64 (16 * (slot % 2 ^ v.jlog))

/-- Write a record to the ring; the second slot of one that begins in the last slot wraps. -/
def Blk.writeRecord (v : Env) (r : JRec) (b : Blk) : Blk :=
  let b := b.emit (.dmWrite (v.slotAddr r.slot) (r.bytes.take 16))
  if r.size = 2 then b.emit (.dmWrite (v.slotAddr (r.slot + 1)) (r.bytes.drop 16)) else b

/-- Write the records of an edge at the tail of the stream, in the order of R301. -/
def Blk.flushJournal (v : Env) (b : Blk) : Blk :=
  let rs := (lsort (fun (p : Nat × JRec) => p.1) b.rel.staged).map (·.2)
  let r := rs.foldl (fun (acc : List JRec × Nat) x => (acc.1 ++ [x.placed v.n acc.2], acc.2 + x.size)) ([], b.rel.slots)
  let b := b.modRel fun l => { l with journal := l.journal ++ r.1, slots := r.2, staged := [] }
  if b.rel.jHalted then b else b.forEach r.1 fun x b => b.writeRecord v x

/-! ## Checkpoints (R306, R307) -/

/-- The copies due at an edge: of every context outside a window that has none yet. -/
def Blk.takeCopies (v : Env) (b : Blk) : Blk :=
  b.forEach b.fe.ctxs fun p b =>
    match b.rel.ckptActive with
    | none => b
    | some k =>
      if k.copies.any (fun y => y.ctx == p.1) || b.rel.inWindow p.1 then b
      else
        let y := b.copyContext v p.1 p.2
        (b.writeCopy v k y).modRel fun l => { l with ckptActive := some (k.put y) }

/-- The CKPT_BEGIN and CKPT_END records of an edge. -/
def Blk.stageCkpt (b : Blk) : Blk :=
  let b := if b.rel.ckptBegin then b.stage 38 { type := .ckptBegin, aux := BitVec.ofNat 32 b.rel.ckptNext } else b
  match b.rel.ckptEnd, b.rel.ckptActive with
  | true, some k => b.stage 38 { type := .ckptEnd, aux := BitVec.ofNat 32 k.number }
  | _, _ => b

/-- A checkpoint begins or completes at an edge, after its records have their slots. -/
def Blk.ckptEdge (v : Env) (b : Blk) : Blk :=
  let l := b.rel
  let b := match l.ckptEnd, l.ckptActive with
    | true, some k => (b.modRel fun l => { l with ckptLast := k, ckptActive := none }).bump .checkpoint
    | _, _ => b
  let b := if l.ckptBegin then
      let at_ := (((l.journal.filter fun r => r.type == .ckptBegin).getLast?).map JRec.slot).getD l.slots
      (b.modRel fun l => { l with
        ckptActive := some { number := l.ckptNext, begin_ := at_, edge := v.n, recvs := b.hb.recvs, held := b.hb.held }
        ckptNext := l.ckptNext + 1, ckptSince := at_ }).emit (.ckptHub (v.ckptSlot l.ckptNext) b.hb.recvs b.hb.held)
    else b
  (b.modRel fun l => { l with ckptBegin := false, ckptEnd := false }).takeCopies v

/-- CHECKPOINT_BEGIN (R306): for the coming edge. -/
def execCheckpointBegin (s : State) : Host.Outcome State Fault Refusal :=
  onBlk s fun v b =>
    let l := b.rel
    if b.frozen || l.ckptActive.isSome || decide (l.slots < l.ckptSince + 2 ^ v.ckptLog) then b
    else b.modRel fun l => { l with ckptBegin := true }

/-- CHECKPOINT_END (R307): every item is written and acknowledged; for the coming edge. -/
def execCheckpointEnd (s : State) : Host.Outcome State Fault Refusal :=
  onBlk s fun _ b =>
    match b.rel.ckptActive with
    | none => b
    | some k =>
      if b.frozen || !b.fe.ctxs.all (fun p => k.copies.any fun y => y.ctx == p.1) then b
      else b.modRel fun l => { l with ckptEnd := true }

/-! ## Context teardown (R308) -/

/-- The aborts of a torn-down context's runs, and its entries to idle. -/
def Blk.idleContext (v : Env) (c : Nat) (b : Blk) : Blk :=
  b.forEach (List.range v.reaches) fun r b =>
    b.forEach (((b.reach r).tasks r).filter fun p => p.1.ctx == c) fun p b =>
      let t := p.1
      if p.2.isMember then b
      else
        let running := p.2.state == .dispatched || p.2.state == .shadow
        let b := if running || !(b.holders v t).isEmpty then b.abortAgents v t .teardown else b
        if running then b else b.toIdle t

/-- The task that an arrival names. -/
def Arrival.ref : Arrival → TaskRef
  | .word c => c.ref
  | .skip t | .own t | .flagged t => t

/-- An arrival is a completion word, a router notice or a hub report, whose discard is counted (R308). The hub reports
combine-closes; markers and steps complete in their reach. -/
def Blk.countsDiscard (b : Blk) : Arrival → Bool
  | .word _ | .skip _ => true
  | .own t => ((b.task? t).map Task.kind) == some .combineClose
  | .flagged _ => false

/-- Counts and structures of a context leave its reaches; its completions that are held over are discarded (R95,
R308). -/
def Blk.clearReaches (v : Env) (c : Nat) (b : Blk) : Blk :=
  let b := b.forEach (List.range v.reaches) fun r b =>
    let all := (b.reach r).landed ++ (b.reach r).selfDone.map .own
    let lost := (all.filter fun x => x.ref.ctx == c && b.countsDiscard x).length
    (b.bump .discardedUnit r lost).modReach r fun rc => { rc with
    landed := rc.landed.filter (fun x => x.ref.ctx != c), selfDone := rc.selfDone.filter (fun t => t.ctx != c)
    cfSet := rc.cfSet.filter (fun t => t.ctx != c)
    ledger := rc.ledger.filter (fun l => l.ref.ctx != c), rmw := rc.rmw.filter (fun u => u.target.ctx != c)
    pageReqs := rc.pageReqs.filter (fun p => p.ctx != c), pagingIn := rc.pagingIn.filter fun p => p.ctx != c
    gangs := rc.gangs.filter (fun g => g.ref.ctx != c)
    pagingOut := rc.pagingOut.map fun (p : Nat × Block) =>
      if p.2.ctx = c then (p.1, { p.2 with entries := idleEntries p.2.entries }) else p }
  (b.modFe fun fe => { fe with stepsIn := fe.stepsIn.filter fun t => t.ctx != c }).modCtx c fun x => { x with
    faulted := true, pendingStep := none, requests := [], applied := []
    image := { x.image with frames := x.image.frames.map fun (f : Frame) => { f with live := f.live.map idleEntries } } }

/-- The descriptors of a context's queues complete with CONTEXT_FAULT but for the one that caused the teardown, and its
open queues become FAULTED; a closing one goes on closing (R206). Their status records wait for the record of the
teardown, whose ticket is given (R27). -/
def Blk.faultQueues (v : Env) (c ticket : Nat) (desc : Option (Nat × Nat)) (b : Blk) : Blk :=
  b.forEach (b.fe.queues.filter fun p => p.2.ctx == c) fun p b =>
    let keep := match desc with | some (q, i) => if q = p.1 then some i else none | none => none
    let b := b.endAll p.1 stContextFault keep
    if p.2.isOpen then b.setQState v p.1 .faulted (cause := some ticket) else b

/-- One teardown is applied. -/
def Blk.applyTeardown (v : Env) (c : Nat) (cause : BitVec 8) (desc : Option (Nat × Nat)) (b : Blk) : Blk :=
  if b.torn c then b
  else
    let b := (b.stage 36 { type := .teardown, ctx := c, status := cause, epoch := b.epoch c
                           aux := BitVec.ofNat 32 cause.toNat }).bump .contextTeardown
    let ticket := b.lastTicket
    let b := ((b.alarm 1).idleContext v c).clearReaches v c
    let b := (((b.dropSessions v c).dropSets c).freeContextChannels c).dropSignals v c
    ((b.dropDumps fun d => d.ctx == c).faultQueues v c ticket desc).modRel fun l => { l with teardowns := tput l.teardowns c v.n }

/-- The teardowns of an edge, in the order in which they were asked for. -/
def Blk.teardownEdge (v : Env) (b : Blk) : Blk :=
  let ts := b.fe.teardownsIn
  let b := b.modFe fun fe => { fe with teardownsIn := [] }
  b.forEach ts fun t b => b.applyTeardown v t.1 t.2.1 t.2.2

/-- TEARDOWN_DEADLINE (R308): at edge t + 594, which is the coming one, every entry not yet idle becomes idle; agents
that have not replied are waited for no longer. -/
def execTeardownDeadline (ctx : Nat) (s : State) : Host.Outcome State Fault Refusal :=
  atContext s ctx fun v b =>
    match tget b.rel.teardowns ctx with
    | none => b
    | some t =>
      if v.n + 1 < t + 594 ∨ b.frozen then b
      else
        let b := b.forEach (List.range v.reaches) fun r b =>
          let b := b.forEach (((b.reach r).tasks r).filter fun p => p.1.ctx == ctx && p.2.state != .idle) fun p b =>
            b.toIdle p.1
          b.modReach r fun rc => { rc with abortRecs := rc.abortRecs.filter fun a => a.ref.ctx != ctx }
        b.modRel fun l => { l with teardowns := tdel l.teardowns ctx }

/-! ## Block reset, phases 1 to 3 (R309) -/

/-- A block reset begins, or restarts at phase 1, at the end of the edge after its cause: its stop takes the place of one
that a hang snapshot holds (R338), and is traced with the cause of a block reset (R336; log 148). -/
def Blk.enterReset (v : Env) (b : Blk) : Blk :=
  match b.rel.pendingCause with
  | none => b
  | some cause =>
    let again := b.rel.phase != 0
    let b := b.modRel fun l => { l with
      pendingCause := none, phase := 1, cause := cause.code, resetEdge := v.n
      count := if again then l.count else min 0xFFFF (l.count + 1) }
    let b := if again then b.bump .resetRestart else (b.bump .blockReset).alarm 0
    let b := b.modDb fun d => { d with
      resumeReq := false, stopped := false, stopEdge := v.n, snap := d.snap.filter Snap.writing, resetStop := true }
    let b := if v.snapBeforeReset && !b.db.snapHalted && b.db.snap.isNone then b.takeSnapshot v 2 else b
    if again then b else b.traceStop v 2 0

/-- An agent after phase 1: its words and messages are gone, its run goes on; no session waits for its sends (R175). -/
def Agent.resetControl (a : Agent) : Agent :=
  { a with sends := a.sends.map fun w => { w with slot := 4 }
           queue := [], pre := none, present := none, inWords := [], cplHold := [], outCpl := [], outReturns := []
           inAborts := [], outReplies := [], lateReplies := [], inCommits := [], inSquashes := [] }

/-- A request whose response has no effect after a block reset but to free its tag and to be counted (log 135): every read
but that of firmware, and the write of a fence, which is made again at resume (R313). -/
def HostReq.cutOff : HostReq → Bool
  | .statusWrite _ _ _ | .resultWrite _ _ _ | .firmwareRead _ _ | .dumpRead _ _ | .dumpWrite _ _ => false
  | .summaryRead _ | .summaryAnd _ _ | .piRead _ _ | .fetch _ _ | .valueRead _ _ | .imageRead _ _ | .descRead _ _ _
  | .valueWrite _ _ _ => true

/-- Data-plane control state is reset; the contents of the stores stay (Table 13.6). Of the router only the error flags
that RT_STATUS keeps, and the counters, stay (R175). -/
def Blk.resetControl (v : Env) (b : Blk) : Blk :=
  let b := { b with rt := { err := b.rt.err }
                    agents := b.agents.map fun (p : Nat × Agent) => (p.1, p.2.resetControl)
                    predOps := [], predNext := [] }
  let b := (b.resetChannels.modHb fun h => { h with
    gsync := [], gwaits := [], cqs := [], effects := [], releasing := [], newHeld := [], ackDue := [] }).dropDumps
      fun _ => true
  let b := b.modFe fun fe => { fe with
    poll := {}, stepsIn := [], loader := [], loaderHalted := false, cycA := {}, cycB := {}, cycActiveB := false
    cycBase := 0, startedPulse := 0, finished := [], freed := []
    fences := [], hostWait := fe.hostWait.filter fun r => !r.cutOff
    late := fe.late.filter (fun x => !x.req.cutOff)
      ++ (fe.hostOut.filter fun p => p.2.cutOff).map fun p => { req := p.2, ctx := 0 } }
  let b := b.modRel fun l => { l with
    windows := [], ckptActive := none, ckptBegin := false, ckptEnd := false, jHalted := false, staged := [] }
  let b := b.modDb fun d => { d with
    trcHalted := false, snapHalted := false, cpHalted := false, rcHalted := false, haltSeen := false }
  b.forEach (List.range v.reaches) fun r b => b.modReach r fun rc => { rc with spillHalted := false }

/-- Phase 1 in the block: the journal stream is written and acknowledged up to its last record unless its channel has
halted, and control state is reset. The drain of phase 2 begins. -/
def Blk.stopAndReset (v : Env) (b : Blk) : Blk :=
  let b := if b.rel.jHalted then b else (b.modRel fun l => { l with acked := l.slots }).releaseEffects v
  (b.resetControl v).modRel fun l => { l with phase := 2, resetEdge := v.n }

/-- What MC's sweep of the CP and RC memories finds: each error is counted and logged, and corrected if it can be (R315).
A word that it does not correct is met by its next reader; in the CP instruction memory it has the FE domain powered down
and up. -/
def Blk.sweep (v : Env) (l : List Met) (b : Blk) : Blk :=
  b.forEach (l.filter fun x => x.mem == 34 || x.mem == 35 || x.mem == 36) fun x b =>
    b.storedRead v { mem := x.mem, page := x.page, word := x.word } 0 x.ecc

/-- The sweep finds an uncorrectable word in the CP instruction memory. -/
def Blk.sweepBad (b : Blk) (l : List Met) : Bool :=
  l.any fun x => x.mem == 34 && eccOutcome (b.pageValid x.mem x.page) x.ecc == .uncorrectable

/-- BLOCK_RESET (R309, R12, R315): phase 1; `sweep`: the errors that MC's sweep finds. MC isolates the front end before it
lowers pd_req (R276): the block answers for it as for a domain that is off from then on. -/
def execBlockReset (sweep : List Met) (s : State) : Host.Outcome State Fault Refusal :=
  if s.blk.rel.phase ≠ 1 then .next s
  else
    let sweepBad := s.blk.sweepBad sweep
    let b := (s.blk.sweep s.env sweep).stopAndReset s.env
    let cfg := { s.cfg with lock := false, lockSaved := s.cfg.lockSaved || s.cfg.lock }
    if sweepBad then
      .next { s with
        cfg := cfg
        aon := { s.aon with pdReq := setBit20 s.aon.pdReq 16 false }
        blk := b.fePowerUp.emit (.powerReq 16 false) }
    else .next { s with cfg := cfg, blk := b }

/-- An engine with a run, or that pulls tiles for its list word. -/
def Agent.working (a : Agent) : Bool := a.run.isSome || a.listWord.isSome

/-- RESET_DRAIN_EXPIRY (R309): after 896 pulses abort is raised on every engine with a run. -/
def execResetDrainExpiry (s : State) : Host.Outcome State Fault Refusal :=
  onBlk s fun v b =>
    if b.rel.phase ≠ 2 ∨ v.n < b.rel.resetEdge + 896 then b
    else b.forEach (b.agents.filter fun p => p.2.working) fun p b => b.assertAbort p.1 .reset

/-! ## Retirement (R319) -/

/-- What an entry retires. -/
inductive Retired where
  | ignored
  | blocks (r lo n : Nat)
  | granules (r lo n : Nat)
  | bank (r k : Nat)
  | chanPage
deriving DecidableEq, Repr

def retiredOf (v : Env) (w : BitVec 64) : Retired :=
  let mem := bits w 0 8
  let unit := bits w 8 8
  let i := bits w 32 32
  if bits w 16 16 ≠ 0 then .ignored
  else if unit = 0 ∧ mem < v.reaches ∧ i < 1024 then .blocks mem (i / 4) 1
  else if unit = 0 ∧ 16 ≤ mem ∧ mem < 16 + v.reaches ∧ i < 512 then .granules (mem - 16) (8 * i) 8
  else if unit = 1 ∧ mem % 16 < v.reaches ∧ mem < 32 ∧ i < 8 then .bank (mem % 16) i
  else if unit = 0 ∧ mem = 32 ∧ i < 4096 then .chanPage
  else .ignored

/-- Log a retirement entry that is ignored; the fields that Table 13.10 does not give it, and MEM where the entry's is
reserved, are free values within their range (log 4). -/
def Blk.logIgnored (v : Env) (w : BitVec 64) (b : Blk) : Blk :=
  let x := b.free
  let mem := bits w 0 8
  b.spend.logError v { edge := v.n, mem := if mem < 38 then mem else bits x 32 8 % 38, event := 4, source := bits x 0 8 % 3
                       ctx := 0xFF, page := bits w 32 32, word := bits x 8 8, symbols := bits x 16 8
                       outcome := logOutcome (bits x 24 8), count := 0 }

def Reach.retire (rc : Reach) (blocks granules : List Nat) : Reach :=
  { rc with retiredBlocks := rc.retiredBlocks ++ blocks.filter (fun k => !rc.retiredBlocks.contains k)
            retiredGranules := rc.retiredGranules ++ granules.filter (fun g => !rc.retiredGranules.contains g) }

/-- `n` numbers from `lo`. -/
def run (lo n : Nat) : List Nat := (List.range n).map (lo + ·)

/-- Read the retirement table. -/
def Blk.readRetirement (v : Env) (ws : List (BitVec 64)) (b : Blk) : Blk :=
  let ws := ws.take (v.reg 0x128).toNat
  let b := b.modFe fun fe => { fe with retirement := ws }
  let b := b.forEach (List.range v.reaches) fun r b =>
    b.modReach r fun rc => { rc with retiredBlocks := [], retiredGranules := [] }
  b.forEach ws fun w b =>
    match retiredOf v w with
    | .ignored => b.logIgnored v w
    | .blocks r lo n => b.modReach r fun rc => rc.retire (run lo n) []
    | .granules r lo n => b.modReach r fun rc => rc.retire [] (run lo n)
    | .bank r k => b.modReach r fun rc => rc.retire (run (32 * k) 32) (run (512 * k) 512)
    | .chanPage => b

/-- Whether the granule range of a context in a reach still stands. -/
def Blk.keepsRange (b : Blk) (r base n : Nat) : Bool :=
  !(b.reach r).retiredGranules.any (fun g => decide (base ≤ g) && decide (g < base + n))
    && b.fe.ctxs.all fun p =>
      let lo := tgetD 0 p.2.granBase r
      let k := (p.2.record.granules[r]?).getD 0
      k == 0 || n == 0 || decide (lo + k ≤ base) || decide (base + n ≤ lo)

/-- Reserve a context's stores again beside those of the contexts before it. -/
def Blk.reserveAgain (v : Env) (x : Ctx) (b : Blk) : Option Ctx :=
  let bases := (List.range v.reaches).map fun r =>
    let blocks := (x.record.blocks[r]?).getD 0
    let n := (x.record.granules[r]?).getD 0
    let base := tgetD 0 x.granBase r
    match b.reserveReach r blocks n with
    | none => none
    | some g => some (if b.keepsRange r base n then base else g)
  if bases.any Option.isNone then none
  else some { x with granBase := (List.range v.reaches).zip (bases.map fun p => p.getD 0) }

/-- A context with the configuration that its mirror holds. -/
def Ctx.configured (k : CtxCfg) (x : Ctx) : Ctx :=
  { x with backwater := k.backwater, seqQ := k.seqQ, seqPred := k.seqPred, batchAddr := k.batchAddr, record := k.record
           groupMap := k.groupMap, granBase := k.granBase, chanBase := k.chanBase }

/-- A queue with the configuration that its mirror holds. -/
def Queue.configured (k : QueueCfg) (u : Queue) : Queue :=
  { u with ctx := k.ctx, prio := k.prio, slot := k.slot, log2n := k.log2n, ring := k.ring, statAddr := k.statAddr
           timeout := k.timeout }

/-- The mirror follows a context whose configuration the reload has changed. -/
def Blk.mirrorAgain (v : Env) (c : Nat) (b : Blk) : Blk :=
  if (b.ctx? c).map Ctx.config = tget b.fe.mirrorCtxs c then b else b.mirrorContext v c

/-- A context is reloaded from the mirror; one whose stores cannot be reserved holds none and is torn down. -/
def Blk.reloadContext (v : Env) (c : Nat) (x : Ctx) (b : Blk) : Blk :=
  match b.reserveAgain v x with
  | some y => (b.modFe fun fe => { fe with ctxs := tput fe.ctxs c y }).mirrorAgain v c
  | none =>
    let r := { x.record with blocks := [], granules := [] }
    ((b.modFe fun fe => { fe with ctxs := tput fe.ctxs c { x with record := r } }).mirrorAgain v c).tearDown c
      stUncorrectable

/-- Phase 3: contexts, in ascending number, and queues are reloaded from the mirror (R199). -/
def Blk.reload (v : Env) (b : Blk) : Blk :=
  let cs := b.fe.ctxs
  let b := b.modFe fun fe => { fe with
    ctxs := cs.filter fun p => p.1 == 0
    queues := fe.queues.map fun (p : Nat × Queue) =>
      (p.1, match tget fe.mirrorQueues p.1 with | some k => p.2.configured k | none => p.2) }
  b.forEach (cs.filter fun p => p.1 != 0) fun p b =>
    b.reloadContext v p.1 (match tget b.fe.mirrorCtxs p.1 with | some k => p.2.configured k | none => p.2)

/-- Phase 2 is over: no run is left, or its 2,944 pulses have passed with abort raised on every run that is (Table
13.6). -/
def Blk.drainOver (v : Env) (b : Blk) : Bool :=
  b.agents.all (fun p => !p.2.working)
    || (decide (b.rel.resetEdge + 2944 ≤ v.n) && b.agents.all fun p => !p.2.working || p.2.abort == some .reset)

/-- The end of phase 2 at an engine: hold buffer discarded; a run that is left fences the engine. -/
def Blk.endDrain (e : Nat) (b : Blk) : Blk :=
  let a := b.agent e
  let left := a.working
  let b := b.forEach ((a.items.map (·.1)).eraseDups) fun t b => b.discardItems e t false
  let b := if left then (((b.dropRun e false).bump .engineFenced).alarm 4).modAgent e fun a => { a with
      fenced := true, listWord := none, advance := none, abort := none } else b
  b.modAgent e fun a => { a with
    stalled := none, ended := [], committed := [], ackDue := none, pull := .none, pullEmpty := false, fedFirst := false }

/-- RESET_PHASE_END_2 (R309, R319, Table 13.6): phases 2 and 3 end; `retire` is the retirement table. -/
def execResetPhaseEnd2 (retire : List (BitVec 64)) (s : State) : Host.Outcome State Fault Refusal :=
  onBlk s fun v b =>
    if b.rel.phase ≠ 2 ∨ !b.drainOver v ∨ b.fe.fwState ≠ .running then b
    else
      let b := b.forEach (b.agents.map (·.1)) fun e b => b.endDrain e
      ((b.readRetirement v retire).reload v).modRel fun l => { l with phase := 3 }

/-- Phase 3 ends within the pulse in which it begins: phase 4 shows from the next edge on (DESIGN CHOICE, log 43). -/
def Rel.nextPhase (l : Rel) : Rel := if l.phase = 3 then { l with phase := 4 } else l

/-! ## Stored data and self-test (R315-R320) -/

/-- The lap register of a memory (Table 13.12): a reach's stores share one. -/
def lapOf (mem : Nat) : Nat := if mem < 32 then mem % 16 else mem - 16

/-- A page has been visited: a lap over every valid page of its lap register ends. -/
def Blk.visitPage (v : Env) (mem page : Nat) (b : Blk) : Blk :=
  let m := lapOf mem
  let seen := if b.rel.lapSeen.contains (mem, page) then b.rel.lapSeen else b.rel.lapSeen ++ [(mem, page)]
  let mine := b.rel.validPages.filter fun p => lapOf p.1 == m
  if mine.all seen.contains then
    b.modRel fun l => { l with
      lapSeen := seen.filter fun p => lapOf p.1 != m
      laps := tput l.laps m (BitVec.ofNat 32 (min 0xFFFFFFFE (v.n - tgetD 0 l.lapStart m)))
      lapStart := tput l.lapStart m v.n }
  else b.modRel fun l => { l with lapSeen := seen }

/-- SCRUB_PAGE (R315, R317): a scrubber visits a valid page; `word` is the word of an error, `ci` CI of the error log as
the block reads it when the visit finds one (R318; log 125). -/
def execScrubPage (mem page word ci : Nat) (ecc : Ecc) (s : State) : Host.Outcome State Fault Refusal :=
  onBlk s fun v b =>
    if !v.scrubEn || !b.shEn || decide (36 < mem) || !b.rel.validPages.contains (mem, page) then b
    else
      let b := b.modRel fun l => { l with
        wordLogged := l.wordLogged.filter fun p => p != (mem, page)
        elogCi := if ecc = .clean then l.elogCi else ci }
      ((b.bump .scrubPage).storedRead v { mem := mem, page := page, word := word } 1 ecc).visitPage v mem page

/-- No context reserves blocks or granules in a reach. -/
def Fe.reachFree (fe : Fe) (r : Nat) : Bool :=
  fe.ctxs.all fun p => (p.2.record.blocks[r]?).getD 0 == 0 && (p.2.record.granules[r]?).getD 0 == 0

/-- FENCE of RCH_TEST_n as written in the pulse that ends takes effect (R320, R374). -/
def Blk.fenceEdge (b : Blk) (r : Nat) : Blk :=
  match (b.reach r).fenceIn with
  | none => b
  | some want =>
    let b := b.modReach r fun rc => { rc with fenceIn := none }
    if want && !(b.reach r).fence && !b.fe.reachFree r then b.modReach r fun rc => { rc with testResult := stBusy }
    else b.modReach r fun rc => { rc with fence := want }

/-- A write of RCH_TEST_n (R320): FENCE acts at the coming edge, START at once on the fence that holds (R374; log 53). -/
def Blk.testWrite (r : Nat) (x : BitVec 32) (b : Blk) : Blk :=
  let b := b.modReach r fun rc => { rc with fenceIn := some (x.getLsbD 0) }
  if !x.getLsbD 1 then b
  else if !(b.reach r).fence then b.modReach r fun rc => { rc with testResult := stBusy }
  else b.modReach r fun rc => { rc with testing := true, testDone := false, testFail := 0, testResult := stOk }

/-- SELF_TEST_DONE (R316, R320): `fail` shows the failing banks. The fields that Table 13.10 does not give the log
record of a bank are free values within their range (log 4). -/
def execSelfTestDone (r : Nat) (fail : BitVec 8) (s : State) : Host.Outcome State Fault Refusal :=
  atReach s r fun v b =>
    if !(b.reach r).testing then b
    else
      let b := b.modReach r fun rc => { rc with testing := false, testDone := true, testFail := fail }
      let b := (b.invalidate r).invalidate (16 + r)
      b.forEach ((List.range 8).filter fun k => fail.getLsbD k) fun k b =>
        let x := b.free
        b.spend.logError v { edge := v.n, mem := r, event := 3, source := 2, ctx := 0xFF, page := k, word := bits x 0 8
                             symbols := bits x 8 8, outcome := logOutcome (bits x 16 8), count := 0 }

end Sys2Proof.Machine
end

