-- ==== Sys2Proof/Machine/Replay.lean ====
section
/-! DEFINITION. Phases 4 and 5 of a block reset (R310-R313): the checkpoint, replay of the journal, settling of task
entries, queues after replay, resume. -/

namespace Sys2Proof.Machine

/-! ## What replay keeps (R310) -/

/-- The sums of a task: its entry at the copy edge, the net count n, v = o + a − m, whether anything was replayed for
it, the state of its last COMPLETE, ITER, SK, and RF of its last re-arm. -/
structure Acc where
  base    : Task
  n       : Int
  v       : Int
  changed : Bool := false
  last    : Option TState := none
  iter    : BitVec 16
  sk      : Bool
  rf      : Bool

/-- A started descriptor that is not started again: it continues from its record (R312). -/
structure OpenDesc where
  queue : Nat
  item  : Started

def OpenDesc.is (q index : Nat) (d : OpenDesc) : Bool := d.queue == q && d.item.index == index

/-- A context in replay. `blocks` are the resident blocks by reach, physical block, segment, virtual block; `ops` the
predicate operations by edge. -/
structure Rep where
  ctx     : Nat
  edge    : Nat
  copy    : CtxCopy
  accs    : Tbl Acc
  blocks  : List (Nat × Nat × Nat × Nat)
  dones   : List (Nat × Nat)
  descs   : List OpenDesc := []
  launches : Nat
  queue   : Option Nat
  steps   : Nat
  stepped : Bool := false
  launched : Bool := false
  torn    : Bool := false
  ops     : List (Nat × PredMsg) := []
  streams : Tbl SendRec
  /-- The outstanding-table entries of the context. -/
  outs    : List Outstanding

/-- The block and the contexts in replay. -/
structure Rp where
  blk  : Blk
  reps : Tbl Rep

def Task.active (x : Task) : Bool :=
  x.state == .waiting || x.state == .ready || x.state == .dispatched || x.state == .shadow

/-- The sums at the copy edge. -/
def Acc.start (x : Task) : Acc :=
  let rearm : Int := if x.ra then x.depinit.toNat - b2n x.rf else 0
  let n : Int := match x.state with
    | .waiting => (x.depcnt.toNat : Int) - x.kept.toNat
    | .idle | .faulted => 0
    | .ready | .dispatched | .shadow | .done | .skipped => -(x.depcnt.toNat : Int)
  { base := x, n := n + rearm, v := (b2n x.active + b2n x.ra : Nat), iter := x.iter, sk := x.sk, rf := x.rf }

/-- The entries of a frame at the copy edge, with run-relative pointers. -/
def CtxCopy.entries (y : CtxCopy) (f : Frame) : Tbl Task :=
  match y.blocks.find? fun k => k.1 == f.reach && k.2.2.seg == f.seg && k.2.2.vblock == f.vblock with
  | some k => movePtr 0 k.2.2.edgeBase k.2.2.entries
  | none => f.pageEntries (y.image.launchCount % 256)

def Frame.taskId (f : Frame) (i : Nat) : BitVec 32 := mkId f.seg f.reach f.vblock i

/-- The sums of every task of the image at the copy edge. -/
def CtxCopy.accs (y : CtxCopy) : Tbl Acc :=
  y.image.image.frames.foldl (fun t f =>
    (y.entries f).foldl (fun t p => tput t (f.taskId p.1).toNat (Acc.start p.2)) t) []

/-! ## Units (R310) -/

def Acc.minus (skip : Bool) (a : Acc) : Acc := { a with n := a.n - 1, sk := a.sk || skip, changed := true }

/-- A re-arm: none at ITER zero (R49). -/
def Acc.rearm (rf : Bool) (a : Acc) : Acc :=
  if a.iter = 0 then a
  else { a with n := a.n + a.base.depinit.toNat - b2n rf, v := a.v + 1, sk := false, rf := rf, changed := true }

def Rep.modAcc (x : Rep) (t : TaskRef) (f : Acc → Acc) : Rep :=
  match tget x.accs t.id.toNat with
  | some a => { x with accs := tput x.accs t.id.toNat (f a) }
  | none => x

def Rep.unit (u : XUnit) (x : Rep) : Rep :=
  match u.kind with
  | .plain => x.modAcc u.target (Acc.minus false)
  | .skip => x.modAcc u.target (Acc.minus true)
  | .group len => (List.range (len + 1)).foldl (fun x i => x.modAcc (u.target.plus i) (Acc.minus false)) x
  | .rearm rf => x.modAcc u.target (Acc.rearm rf)
  | .notice => x.modAcc u.target fun a => { a with sk := true, changed := true }

def Rep.units (l : List XUnit) (x : Rep) : Rep := l.foldl (fun x u => x.unit u) x

/-- The units that a backlog record still owes, from the edge run of its frame. -/
def CtxCopy.owed (y : CtxCopy) (k : Backlog) : List XUnit :=
  let t := k.ref
  match y.image.frame t.reach t.seg t.vblock with
  | none => []
  | some f =>
    let first := ((tget f.launch t.entry).map fun z => z.succPtr.toNat).getD 0
    let ws := ((f.edges.drop first).take k.succN).drop k.read
    ws.filterMap (fun w => (edgeUnit k w).map fun u => { kind := u, target := edgeRef k w })
      ++ (match k.portal with
          | some p => if k.read ≤ k.succN then [{ kind := .plain, target := { ctx := t.ctx, id := p } }] else []
          | none => [])

/-- A descriptor whose record lies at or before the copy edge, as it goes on (log 136). -/
def Started.resumed (x : Started) : Started :=
  { x with head := false, phase := match x.phase with | .fenceRecord _ => .fenceWrite | ph => ph }

/-- A context restored from its copy: its pending units count at once. A queue that has been created since has nothing
in the copy. -/
def Rep.start (b : Blk) (x : Ctx) (y : CtxCopy) : Rep :=
  let qs := y.queues.filter fun k => (b.queue? k.queue).map Queue.born == some k.born
  let r : Rep := { ctx := y.ctx, edge := y.edge, copy := y, accs := y.accs
                   blocks := y.blocks.map fun k => (k.1, k.2.1, k.2.2.seg, k.2.2.vblock)
                   dones := qs.map fun k => (k.queue, k.done)
                   descs := qs.flatMap fun k => k.started.map fun d => { queue := k.queue, item := d.resumed }
                   launches := y.image.launchCount, queue := y.image.launchQueue
                   steps := y.image.stepCount, streams := y.streams, outs := y.outstanding, torn := x.faulted }
  let ledger := y.ledgers.flatMap fun l =>
    if l.count = 0 then (if l.skip then [({ kind := .notice, target := l.ref } : XUnit)] else [])
    else (List.range l.count).map fun i => { kind := if l.skip && i == 0 then .skip else .plain, target := l.ref }
  ((r.units y.units).units ledger).units (y.backlogs.flatMap fun k => y.owed k.2)

/-! ## Records (R310) -/

/-- A completion's state, ITER and count of v. A re-arm that waited in RA has no effect when ITER reaches 0 (R48). -/
def Acc.complete (st : TState) (lower : Bool) (a : Acc) : Acc :=
  let iter := if lower && a.base.loop && a.iter != 0 then a.iter - 1 else a.iter
  let undo := lower && a.base.loop && iter == 0 && decide (2 ≤ a.v)
  { a with iter := iter, last := some st, changed := true
           v := a.v - 1 - (if undo then 1 else 0)
           n := a.n - (if undo then (a.base.depinit.toNat : Int) - b2n a.rf else 0) }

/-- Sequence slots cleared and resolved again at the completion of a step task (R130). -/
def stepOps (c n : Nat) (x : Ctx) : List (Nat × PredMsg) :=
  (List.range x.seqQ).map fun i =>
    (n, { ctx := c, slot := x.seqPred + i, record := false
          op := if (tgetD none x.seqSlots i).isSome then .resolveTrue else .resolveFalse })

def Rep.complete (x : Ctx) (r : JRec) (p : Rep) : Rep :=
  let t : TaskRef := { ctx := r.ctx, id := r.id }
  match tget p.accs t.id.toNat with
  | none => p
  | some a =>
    let ok := r.status == stOk
    let skip := r.status == stSkipped
    let st : TState := if ok then .done else if skip then .skipped else .faulted
    let p := p.modAcc t (Acc.complete st (ok || skip))
    let p := match popOf (bits r.aux 12 2) with
      | some op => if ok then { p with ops := p.ops ++
          [(r.edge, { ctx := r.ctx, slot := bits r.aux 0 12, op := op, record := false })] } else p
      | none => p
    let p := if ok && a.base.kind == .step then { p with ops := p.ops ++ stepOps r.ctx r.edge x } else p
    if !(ok || skip) then p
    else p.units (p.copy.owed
      { ref := t, skipped := skip, continuing := a.base.loop && !r.ending, succPtr := 0, succN := a.base.succN.toNat
        portal := if a.base.kind == .marker && a.base.argPtr != 0xFFFFFFFF then some a.base.argPtr else none })

/-- LAUNCH arms every task of the image (R83): DEPINIT is added to n, and 1 to v (R310). -/
def Rep.arm (r : JRec) (p : Rep) : Rep :=
  let loops (id : Nat) : Bool := p.copy.image.image.frames.any fun f =>
    f.loop && (f.taskId 0).toNat / 256 == id / 256
  let iter0 (id : Nat) : Option (BitVec 16) := (p.copy.image.image.frames.findSome? fun f =>
    if (f.taskId 0).toNat / 256 == id / 256 then (tget f.launch (id % 256)).map Task.iter else none)
  let accs := p.accs.map fun (q : Nat × Acc) =>
    let a := q.2
    (q.1, { a with n := a.n + a.base.depinit.toNat, v := a.v + 1, changed := true, sk := false, rf := false
                   iter := if loops q.1 then (iter0 q.1).getD a.iter else a.iter })
  { p with accs := accs, launches := r.aux.toNat, queue := some (bits r.id 22 10), launched := true }

/-- The full index that 22 bits name, at or near DONE of its queue. -/
def fullIndex (done m : Nat) : Nat :=
  let d := (m + 2 ^ 22 - done % 2 ^ 22) % 2 ^ 22
  if d < 2 ^ 21 then done + d else done - (2 ^ 22 - d)

def Rep.doneOf (p : Rep) (q : Nat) : Nat := ((p.dones.find? fun x => x.1 == q).map (·.2)).getD 0

/-- A record's descriptor continues in a phase. -/
def Rep.openDesc (r : JRec) (ph : Phase) (p : Rep) : Rep :=
  let q := bits r.id 22 10
  { p with descs := p.descs ++ [{ queue := q, item :=
      { index := fullIndex (p.doneOf q) (bits r.id 0 22), desc := r.desc, phase := ph, head := false, start := r.edge } }] }

/-- A DESC record: DONE, and the descriptor is over. -/
def Rep.desc (r : JRec) (p : Rep) : Rep :=
  let q := bits r.id 22 10
  let i := fullIndex (p.doneOf q) (bits r.id 0 22)
  { p with dones := p.dones.filter (fun x => x.1 != q) ++ [(q, i + 1)]
           descs := p.descs.filter fun x => !x.is q i }

def Rep.fenceDone (r : JRec) (p : Rep) : Rep :=
  let q := bits r.id 22 10
  let i := fullIndex (p.doneOf q) (bits r.id 0 22)
  { p with descs := p.descs.map fun (x : OpenDesc) =>
      if x.is q i then { x with item := { x.item with phase := .finishing stOk } } else x }

/-- A SEND record: NEXT_SEQ, ISSUED and an outstanding entry. -/
def Rep.send (r : JRec) (p : Rep) : Rep :=
  let second := r.second.getD 0
  let epoch := BitVec.ofNat 8 r.epoch
  let stream := bits r.id 0 16
  { p with
    streams := tput p.streams stream
      { owner := some r.ctx, epoch := epoch, nextSeq := r.aux + 1, issued := BitVec.ofNat 32 (bits second 0 32) }
    outs := p.outs ++ [{ ctx := r.ctx, stream := BitVec.ofNat 16 stream, dst := BitVec.ofNat 16 (bits r.id 16 16)
                         epoch := epoch, seq := r.aux, packet := r.desc.setWidth 256, ticket := r.ticket
                         sentAt := none }] }

/-- The block of a page record leaves the store, or takes its physical block in it. -/
def Rep.page (r : JRec) (p : Rep) : Rep :=
  let reach := bits r.id 16 4
  let seg := bits r.id 20 12
  let vb := bits r.id 8 8
  let phys := bits r.aux 0 8
  let rest := p.blocks.filter fun k => !(k.1 == reach && ((k.2.2.1 == seg && k.2.2.2 == vb) || k.2.1 == phys))
  { p with blocks := if r.type = .pageIn then rest ++ [(reach, phys, seg, vb)] else rest }

/-- apply of R310, for a record of the context `x`; `born`: the queue of a descriptor record was created before it. -/
def Rep.apply (x : Ctx) (born : Bool) (r : JRec) (p : Rep) : Rep :=
  match r.type with
  | .complete => p.complete x r
  | .pred =>
    match popOf (bits r.aux 0 2) with
    | some op => { p with ops := p.ops ++ [(r.edge, { ctx := r.ctx, slot := bits r.id 0 12, op := op, record := false })] }
    | none => p
  | .launch => if born then (p.arm r).openDesc r (.launched r.aux.toNat false) else p.arm r
  | .step =>
    let p := { p with steps := r.aux.toNat, stepped := true }
    if born && r.id != 0 then p.openDesc r (.finishing stOk) else p
  | .fence => if born then p.openDesc r .fenceWrite else p
  | .fenceDone => p.fenceDone r
  | .desc => if born then p.desc r else p
  | .send => p.send r
  | .pageOut | .pageIn => p.page r
  | .teardown => { p with torn := true }
  | .release | .close | .ckptBegin | .ckptEnd | .reset => p

/-- A record counts: it is no DEFER record, or a CLOSE of its context follows it (R303, R310). -/
def JRec.counts (r : JRec) (later : List JRec) : Bool :=
  !r.defer || later.any fun x => x.type == .close && x.ctx == r.ctx

/-- The packet of a RELEASE record, as far as the record holds it. -/
def JRec.signal (r : JRec) : Signal :=
  let second := r.second.getD 0
  { kind := r.status, epoch := BitVec.ofNat 8 r.epoch, ctx := BitVec.ofNat 8 r.ctx, stream := BitVec.ofNat 16 (bits r.id 0 16)
    src := BitVec.ofNat 16 (bits r.id 16 16), dst := 0, round := BitVec.ofNat 16 (bits second 96 16), seq := r.aux
    expect := BitVec.ofNat 32 (bits second 0 32), target := BitVec.ofNat 32 (bits second 32 32)
    value := BitVec.ofNat 32 (bits second 64 32) }

/-- A released signal: its stream's receive record and the hold table move past it, and its effect is made if it lies
after the copy edge of its context (R229, R310). -/
def Rp.release (v : Env) (r : JRec) (s : Rp) : Rp :=
  let g := r.signal
  let stream := g.stream
  let rec_ := s.blk.recv stream
  let rec_ := if rec_.used then rec_ else { rec_ with used := true, src := g.src }
  let rec_ := if rec_.epoch = g.epoch then rec_ else rec_.adopt g.epoch
  let k := (r.aux + 1 - rec_.base).toNat
  let rec_ := { rec_ with base := r.aux + 1, held := rec_.held >>> (min k 64), done := rec_.done >>> (min k 64) }
  let b := (s.blk.putRecv stream rec_).modHb fun h => { h with
    held := h.held.filter fun x => !(x.stream == stream && x.seq == r.aux && x.epoch.toNat == r.epoch) }
  let s := { s with blk := b }
  match tget s.reps r.ctx with
  | none => s
  | some p =>
    if r.edge ≤ p.edge then s
    else match r.status.toNat with
      | 0 => { s with reps := tput s.reps r.ctx (p.unit { kind := .plain, target := { ctx := r.ctx, id := g.target } }) }
      | 1 => { s with blk := s.blk.syncSignal v g }
      | _ => { s with blk := s.blk.announced r.ctx g }

/-- One record, with the records that follow it. -/
def Rp.step (v : Env) (r : JRec) (later : List JRec) (s : Rp) : Rp :=
  let s := { s with blk := s.blk.bump .replayRecord 0 r.size }
  if r.type = .release then s.release v r
  else match tget s.reps r.ctx, s.blk.ctx? r.ctx with
    | some p, some x =>
      if r.edge ≤ p.edge then s
      else if !r.counts later then { s with blk := s.blk.bump .replayDrop 0 r.size }
      else
        let born := match s.blk.queue? (bits r.id 22 10) with | some u => decide (u.born ≤ r.ticket) | none => false
        { s with reps := tput s.reps r.ctx (p.apply x born r) }
    | _, _ => s

/-- Every record in order. -/
def Rp.run (v : Env) : List JRec → Rp → Rp
  | [], s => s
  | r :: rest, s => Rp.run v rest (s.step v r rest)

/-! ## Settling (R311, Table 13.7) -/

/-- A task entry after replay, run-relative; CF is set where the table does not admit the result. -/
def Acc.settle (a : Acc) (idle : Bool) : Task :=
  let x := { a.base with iter := a.iter, sk := a.sk, released := false }
  if idle then { x with state := .idle, cf := false, sk := false, ra := false }
  else if !a.changed && decide (a.v ≤ 1) then
    match x.state with
    | .dispatched => { x with state := .ready }
    | .shadow => x.fromShadow
    | _ => x
  else
    let x := { x with ra := false, rf := false, kept := 0 }
    if a.v = 0 then
      let st := a.last.getD (match a.base.state with | .waiting | .ready | .dispatched | .shadow => .done | st => st)
      if a.n ≤ 0 then { x with state := st, depcnt := BitVec.ofInt 16 (-a.n) }
      else { x with state := st, cf := true }
    else if a.v = 1 then
      if 0 ≤ a.n then { x with state := .waiting, depcnt := BitVec.ofInt 16 a.n } else { x with state := .waiting, cf := true }
    else if a.v = 2 then
      if 0 ≤ a.n then { x with state := .waiting, depcnt := BitVec.ofInt 16 a.n, ra := true, rf := a.rf }
      else { x with state := .waiting, cf := true }
    else { x with state := .waiting, cf := true }

/-- The settled entries of a frame. -/
def Rep.entries (p : Rep) (idle : Bool) (f : Frame) : Tbl Task :=
  f.launch.map fun (q : Nat × Task) =>
    let head := if q.2.isMember then (f.taskId q.1).toNat - q.2.gang.toNat else (f.taskId q.1).toNat
    let own := ((tget p.accs (f.taskId q.1).toNat).map fun a => a.settle idle).getD q.2
    let st := ((tget p.accs head).map fun a => (a.settle idle).state).getD own.state
    (q.1, { own with succPtr := q.2.succPtr, state := st })

def Rep.frameChanged (p : Rep) (f : Frame) : Bool :=
  f.launch.any fun q => ((tget p.accs (f.taskId q.1).toNat).map Acc.changed).getD false

/-- The predicate slots of a context: within an edge clears precede resolutions (R93). -/
def Rep.preds (p : Rep) : Tbl (Option Bool) :=
  (lsort (fun (x : Nat × PredMsg) => 2 * x.1 + b2n (x.2.op != .clear)) p.ops).foldl (fun t x =>
    let k := p.ctx * 4096 + x.2.slot
    if x.2.slot = 0 then t
    else match x.2.op with
      | .clear => tdel t k
      | .resolveTrue => tput t k (some true)
      | .resolveFalse => tput t k (some false)) p.copy.preds

/-- A physical block for a restored block: its own unless that is retired or taken. -/
def Reach.restorePhys (rc : Reach) (phys : Nat) : Option Nat :=
  if rc.retiredBlocks.contains phys || (tget rc.blocks phys).isSome then rc.freePhys else some phys

/-- Put a restored block into its reach. -/
def Blk.restoreBlock (c : Nat) (f : Frame) (phys : Nat) (entries : Tbl Task) (b : Blk) : Blk :=
  match b.ctx? c with
  | none => b
  | some x =>
    let rc := b.reach f.reach
    let mine := rc.occupying c
    let busy := mine.map (fun k => (k.2.edgeBase / 64, granulesOf k.2.edgeN)) ++ rc.retiredGranules.map fun g => (g, 1)
    let room := decide (mine.length < (x.record.blocks[f.reach]?).getD 0)
    match rc.restorePhys phys,
          firstFit busy (granulesOf f.edges.length) (tgetD 0 x.granBase f.reach) ((x.record.granules[f.reach]?).getD 0) with
    | some k, some g => if room then b.install f.reach c f k (64 * g) entries else b.tearDown c stUncorrectable
    | _, _ => b.tearDown c stUncorrectable

/-- The block of a frame was resident at the copy edge. -/
def Rep.wasResident (p : Rep) (f : Frame) : Bool :=
  p.copy.blocks.any fun k => k.1 == f.reach && k.2.2.seg == f.seg && k.2.2.vblock == f.vblock

/-- A block that is not resident: its settled entries are its live copy, where anything was replayed for them or the block
has been paged out since the copy edge; its page-in is asked for if counts reached it, or if a replayed launch has it
among its ROOTS blocks. -/
def Blk.restoreAway (c : Nat) (bw : Bool) (p : Rep) (f : Frame) (entries : Tbl Task) (b : Blk) : Blk :=
  if !p.frameChanged f && !p.wasResident f then b
  else
    let b := b.modFrame c f.reach f.seg f.vblock fun g => { g with live := some entries, epoch := p.launches % 256 }
    let b := if entries.any (fun q => q.2.cf) then b.tearDown c stSaturated else b
    let units := f.launch.any fun q => match tget p.accs (f.taskId q.1).toNat with
      | some a => a.changed && !(p.launched && a.n == a.base.depinit.toNat && a.v == 1)
      | none => false
    if bw || !(units || (p.launched && f.roots)) then b else b.requestPage f.reach c f.seg f.vblock

/-- A context's blocks go into the reaches. -/
def Blk.restoreBlocks (p : Rep) (idle bw : Bool) (b : Blk) : Blk :=
  b.forEach p.copy.image.image.frames fun f b =>
    let es := p.entries idle f
    match p.blocks.find? fun k => k.1 == f.reach && k.2.2.1 == f.seg && k.2.2.2 == f.vblock with
    | some k => b.restoreBlock p.ctx f k.2.1 es
    | none =>
      if idle then b.modFrame p.ctx f.reach f.seg f.vblock fun g => { g with live := g.live.map idleEntries }
      else b.restoreAway p.ctx bw p f es

/-- The batch record shows an application whose STEP record was not replayed (R312). -/
def Rep.lostStep (p : Rep) (x : Ctx) : Bool := decide (x.stepCount = p.steps + 1)

/-- The descriptor of such an application completes with OK, unless its queue has gone. -/
def Rep.stepMade (b : Blk) (x : Ctx) (p : Rep) : Rep :=
  match x.lastStep with
  | some (q, i, d) =>
    if (b.queue? q).isSome && !p.descs.any (fun y => y.is q i) && decide (p.doneOf q ≤ i) then
      { p with descs := p.descs ++ [{ queue := q, item :=
          { index := i, desc := d, phase := .finishing stOk, head := false, start := p.edge } }] }
    else p
  | none => p

/-- Its STEP record joins the replayed state (R312): it enters the journal with the records of the edge of resume. -/
def Blk.stageStep (c : Nat) (x : Ctx) (b : Blk) : Blk :=
  match x.lastStep with
  | some (q, i, d) => b.stageDesc .step c q i 0 x.stepCount none d
  | none => b.stage 19 { type := .step, ctx := c, epoch := b.epoch c, aux := BitVec.ofNat 32 x.stepCount }

/-- The context after replay. -/
def Rep.context (p : Rep) (x : Ctx) : Ctx :=
  let made := p.lostStep x
  let back := !(p.stepped || made)
  { x with
    faulted := x.faulted || p.torn, image := p.copy.image.image, launchCount := p.launches
    launchQueue := if x.closedLaunch then none else p.queue, pendingStep := none, requests := [], applied := []
    stepCount := if made then x.stepCount else p.steps
    seqSlots := if back then p.copy.image.seqSlots else x.seqSlots
    gated := if back then p.copy.image.gated else x.gated }

/-- A started descriptor that continues. END_TASK of a launch is done if its task has ended (R192). -/
def Rep.started (p : Rep) (d : Started) : Started :=
  let endDone := dEndTask d.desc == 0xFFFFFFFF || match tget p.accs (dEndTask d.desc).toNat with
    | some a => decide (a.v = 0) && (!a.base.loop || a.iter == 0) && (a.last == some .done || a.last == some .skipped)
    | none => false
  { d with phase := match d.phase with | .launched k e => .launched k (e || endDone) | ph => ph }

/-- A queue after replay: it fetches again from its DONE (R312). -/
def Rep.queueAfter (v : Env) (p : Rep) (q : Nat) (u : Queue) : Queue :=
  let done := p.doneOf q
  let started := lsort Started.index ((p.descs.filter fun d => d.queue == q).map fun d => p.started d.item)
  let st : QState := if p.torn then .faulted
    else if started.isEmpty && decide (u.piRead ≤ done) then .idle else .active
  { u with done := done, ci := done, fetched := [], fetchOut := false, started := started, look := .none
           ands := [], piReads := [], readAgain := true, timer := 0, progress := true, resOut := []
           cause := none, qstate := st
           eventEdge := if u.qstate = st then u.eventEdge else v.n }

/-- The resident blocks of context `c` in every reach. -/
def Blk.heldBlocks (v : Env) (c : Nat) (b : Blk) : List (Nat × Nat × Nat × Nat) :=
  (List.range v.reaches).flatMap fun r => ((b.reach r).occupying c).map fun k => (r, k.1, k.2.seg, k.2.vblock)

/-- Put a context's replayed state into the block. -/
def Blk.settle (v : Env) (p : Rep) (b : Blk) : Blk :=
  match b.ctx? p.ctx with
  | none => b
  | some x =>
    let c := p.ctx
    let lost := p.lostStep x
    let p := if lost then p.stepMade b x else p
    let held := b.heldBlocks v c
    let p := if x.backwater then { p with blocks := held } else p
    let b := b.modCtx c fun x => p.context x
    let b := if lost then b.stageStep c x else b
    let b := { b with preds := (b.preds.filter fun q => q.1 / 4096 != c) }
    let b := p.preds.foldl (fun (b : Blk) q => { b with preds := tput b.preds q.1 q.2 }) b
    let unbound := b.hb.streams.map fun (q : Nat × SendRec) =>
      if q.2.owner = some c then (q.1, { q.2 with owner := none, epoch := q.2.epoch - 1 }) else q
    let streams := p.streams.foldl (fun (t : Tbl SendRec) q => tput t q.1 q.2) unbound
    let outs := if p.torn then [] else p.outs
    let b := b.modHb fun h => { h with streams := streams, outstanding := h.outstanding ++ outs }
    b.modFe fun fe => { fe with queues := fe.queues.map fun (q : Nat × Queue) =>
      if q.2.ctx = c then (q.1, p.queueAfter v q.1 q.2) else q }

/-- A reach before its blocks are restored: its stores empty, its fence, test and retirement as they stand. -/
def Reach.cleared (rc : Reach) : Reach :=
  { fence := rc.fence, fenceIn := rc.fenceIn, testing := rc.testing, testDone := rc.testDone, testFail := rc.testFail
    testResult := rc.testResult, retiredBlocks := rc.retiredBlocks, retiredGranules := rc.retiredGranules }

/-- The ready lists in ascending task index, and the tasks whose CF is set. -/
def Blk.relist (v : Env) (r : Nat) (b : Blk) : Blk :=
  b.modReach r fun rc =>
    let ts := (rc.tasks r).filter fun p => p.2.state == .ready && !p.2.isMember
    let pick (f : Task → Bool) : List TaskRef := lsort TaskRef.order ((ts.filter fun p => f p.2).map (·.1))
    { rc with
      lc := pick (fun x => !x.be), fillList := pick (fun x => x.be && x.fill), plainList := pick (fun x => x.be && !x.fill)
      cfSet := ((rc.tasks r).filter fun p => p.2.cf && p.2.state != .faulted).map (·.1)
      blocks := rc.blocks.map fun (k : Nat × Block) => (k.1, { k.2 with
        entries := k.2.entries.map fun (e : Nat × Task) =>
          (e.1, if e.2.state = .ready then { e.2 with readyEdge := v.n } else e.2) }) }

/-- A receive record without its fabric counts, which the reset loses (Table 9.8). -/
def RecvRec.uncounted (r : RecvRec) : RecvRec := { r with count := 0, countN := 0 }

/-- The hub asks the fabric for the current count of every restored stream (Table 9.8, R272). -/
def Blk.queryCounts (b : Blk) : Blk :=
  b.forEach (b.hb.recvs.filter fun p => p.2.used) fun p b => b.emit (.countQuery (BitVec.ofNat 16 p.1) p.2.epoch)

/-- Phases 4 and 5: the block restored from the latest completed checkpoint and the journal. -/
def Blk.replay (v : Env) (b : Blk) : Blk :=
  let k := b.rel.ckptLast
  let reps := b.fe.ctxs.foldl (fun t p =>
    let y := (k.copies.find? fun y => y.ctx == p.1).getD { ctx := p.1, edge := 0, image := p.2 }
    tput t p.1 (Rep.start b p.2 y)) []
  let b := b.modHb fun h => { h with
    recvs := k.recvs.map fun (p : Nat × RecvRec) => (p.1, p.2.uncounted), held := k.held, outstanding := [] }
  let js := b.rel.journal.filter fun r => decide (k.begin_ ≤ r.slot) && b.rel.slotDone r
  let s := Rp.run v js { blk := b, reps := reps }
  let b := s.blk.queryCounts.forEach s.reps fun p b => b.settle v p.2
  let b := b.forEach (List.range v.reaches) fun r b => b.modReach r Reach.cleared
  let b := b.forEach s.reps fun p b => match b.ctx? p.1 with
    | some x =>
      let q := if x.backwater then { p.2 with blocks := s.blk.heldBlocks v p.1 } else p.2
      b.restoreBlocks q (x.faulted || x.closedLaunch) x.backwater
    | none => b
  let b := b.forEach (List.range v.reaches) fun r b => b.relist v r
  let b := (b.releaseEffects v).modRel fun l => { l with
    waiting := [], journal := l.journal.filter fun r => l.slotDone r, slots := l.acked
    ckptSince := min l.ckptSince l.acked }
  b.forEach b.fe.queues fun p b => b.writeStatus v p.1 none

/-- JOURNAL_REPLAY (R310-R312): phases 4 and 5, whether or not an edge has shown phase 4 (log 43). -/
def execJournalReplay (s : State) : Host.Outcome State Fault Refusal :=
  onBlk s fun v b =>
    if b.rel.phase ≠ 3 ∧ b.rel.phase ≠ 4 then b else (b.replay v).modRel fun l => { l with phase := 5 }

/-! ## Resume (R309, R313) -/

/-- The FENCE records of a stream that count and have no FENCE_DONE: none of the same descriptor follows before the next
FENCE with its ID. -/
def unfenced : List JRec → List JRec
  | [] => []
  | r :: later =>
    let same (x : JRec) : Bool := x.id == r.id && x.ctx == r.ctx
    let done := (later.takeWhile fun x => !(x.type == .fence && same x)).any fun x => x.type == .fenceDone && same x
    if r.type == .fence && !done && r.counts later then r :: unfenced later else unfenced later

/-- Every FENCE without a FENCE_DONE is issued again in journal order, with its journaled value (R313). -/
def Blk.reissueFences (b : Blk) : Blk :=
  b.forEach (unfenced b.rel.journal) fun r b => b.fenceWrite (bits r.id 22 10) r.ctx (bits r.id 0 22) r.desc

/-- Every signal whose acknowledgement has not arrived is sent again with its journaled SEQ and EXPECT (Table 9.8). -/
def Blk.resendSignals (v : Env) (b : Blk) : Blk :=
  let os := b.hb.outstanding
  let b := b.modHb fun h => { h with outstanding := os.map fun o => { o with sentAt := some v.n } }
  (b.forEach os fun o b => b.emit (.fabric (fabricBeat (some o.packet.toNat) none))).bump .rsResend 0 os.length

/-- RESET_RESUME (R309, R12, R313): a RESET record is entered at the coming edge, fences are issued again, the lock is
set again if it was set, and dispatch starts at the next edge. A cause that arose during the reset restarts it at phase
1 instead. -/
def execResetResume (s : State) : Host.Outcome State Fault Refusal :=
  if s.blk.rel.phase ≠ 5 ∨ s.blk.rel.pendingCause.isSome then .next s
  else
    let b := (s.blk.modRel fun l => { l with phase := 0 }).stage 38
      { type := .reset, aux := BitVec.ofNat 32 s.blk.rel.cause }
    .next { s with
      blk := b.reissueFences.resendSignals s.env
      cfg := { s.cfg with lock := s.cfg.lock || s.cfg.lockSaved, lockSaved := false } }

end Sys2Proof.Machine
end

