-- ==== Sys2Proof/Machine/Status.lean ====
section
/-! DEFINITION. What the RO registers show (Tables 5.3, 7.10, 8.27, 9.13, 10.15-10.17, 12.6, 12.11, 12.12, 13.12, 14.14,
15.10, 16.3, 16.5). -/

namespace Sys2Proof.Machine

open Sys2Proof.Config

/-! ## Global (Tables 13.12, 16.3) -/

/-- The block clock runs: it has produced an edge in the last 256 mg_clk (Table 16.3; log 70). -/
def Env.clkRun (v : Env) : Bool := decide (0 < v.n) && decide (v.aon.since < 256)

/-- MTIME now (R337). -/
def Env.mtime (v : Env) : Nat := (v.aon.mtime + v.aon.since) % 2 ^ 64

/-- Every switched domain of the grade has pd_ack high. -/
def Env.pwrDone (v : Env) : Bool := (domainOrder v.aon.grade).all fun d => v.aon.pdAck.getLsbD d

def Env.pwrStatus (v : Env) : Word32 := BitVec.ofNat 32 (v.aon.pdAck.toNat + fieldAt 31 (b2n v.clkRun))

def Blk.resetting (b : Blk) : Bool := b.rel.phase != 0

def Blk.glbStatus (v : Env) (b : Blk) : Word32 :=
  BitVec.ofNat 32 (b2n v.cfg.accErr + fieldAt 1 (b2n v.cfg.lockedWr) + fieldAt 2 (b2n v.pwrDone)
    + fieldAt 3 (b2n v.cfg.lock) + fieldAt 4 (b2n b.resetting))

def Blk.resetStatus (b : Blk) : Word32 :=
  BitVec.ofNat 32 (b.rel.cause % 16 + fieldAt 8 (b.rel.phase % 8) + fieldAt 16 (b.rel.count % 65536))

def Blk.ckptStatus (b : Blk) : Word32 :=
  BitVec.ofNat 32 (b2n b.rel.ckptActive.isSome + fieldAt 16 (b.rel.ckptLast.number % 65536))

def Blk.mkStatus (b : Blk) : Word32 :=
  BitVec.ofNat 32 (b2n b.rel.mkOpen + fieldAt 1 (b2n b.rel.mkPending.isSome) + fieldAt 2 (b.rel.mkTries % 4))

/-! ## Front end, reaches, agents -/

/-- FE_FW_STATUS; during a reset that waits for an image it reads BOOT_WAIT as STATE does (R315). -/
def Blk.fwStatus (b : Blk) : Word32 :=
  BitVec.ofNat 32 (b.fe.fwState.code + fieldAt 8 (b.fe.fwReason % 16) + fieldAt 16 (min 0xFFFF b.fe.fwAttempts))

/-- FE_CYC_STATUS. -/
def Blk.cycStatus (b : Blk) : Word32 :=
  let t := b.fe.cycActive
  let empty := t.entryN == 0 || !t.entries.any fun p => p.2.valid
  BitVec.ofNat 32 (b2n b.fe.cycActiveB + fieldAt 1 (b2n b.fe.cycStandby.arm) + fieldAt 2 (b2n empty))

/-- RCH_TEST_n; START reads 1 while the test runs. -/
def Reach.testStatus (rc : Reach) : Word32 :=
  BitVec.ofNat 32 (b2n rc.fence + fieldAt 1 (b2n rc.testing) + fieldAt 2 (b2n rc.testDone)
    + fieldAt 4 rc.testResult.toNat + fieldAt 24 rc.testFail.toNat)

/-- EA_STATUS_e: the broadcast of the last edge (R379). -/
def Bcast.status (k : Bcast) : Word32 :=
  if !k.pwr then 0
  else BitVec.ofNat 32 (1 + fieldAt 1 (b2n k.free) + fieldAt 2 (b2n k.idle) + fieldAt 3 (b2n k.fenced)
    + fieldAt 4 (b2n k.holdBusy) + fieldAt 5 (b2n k.shadow) + fieldAt 8 (k.dqN % 8))

/-! ## Router and hub -/

def Blk.rtStatus (b : Blk) : Word32 :=
  BitVec.ofNat 32 (((List.range 4).map fun i => fieldAt i (b2n (tget b.rt.sessions i).isSome)).foldl (· + ·) 0
    + fieldAt 8 (b2n b.db.rcHalted))

def Blk.syncStatus (b : Blk) : Word32 :=
  BitVec.ofNat 32 (b.hb.outstanding.length + fieldAt 16 b.hb.held.length)

def Blk.chStatus (b : Blk) : Word32 := BitVec.ofNat 32 b.hb.channels.length

/-- The channel-memory pages that the retirement table withholds, of 2 KiB each (R314, R319). -/
def Blk.retiredChanPages (v : Env) (b : Blk) : Nat :=
  (((b.fe.retirement.filter fun w => match retiredOf v w with | .chanPage => true | _ => false).map fun w =>
    bits w 32 32).eraseDups).length

/-- HB_CH_FREE: channel memory that no context has reserved and no retirement withholds. -/
def Blk.chFree (v : Env) (b : Blk) : Word32 :=
  BitVec.ofNat 32 (8192 - (b.fe.ctxs.map fun p => p.2.record.chanKib).foldl (· + ·) 0 - 2 * b.retiredChanPages v)

/-- Slots that combining units work on: each unit takes one. -/
def CombQ.ripeN (q : CombQ) : Nat := ((List.range q.slotN).filter q.ripe).length

/-- HB_CB_STATUS. -/
def Blk.cbStatus (b : Blk) : Word32 :=
  let busy := min 8 ((b.hb.cqs.map fun p => p.2.ripeN).foldl (· + ·) 0)
  BitVec.ofNat 32 (b.hb.cqs.length + fieldAt 15 (b2n (busy == 8)) + fieldAt 16 (min 7 busy))

/-! ## Power governor, debug -/

/-- A power in mW, rounded and saturating at 0xF_FFFF. -/
def mwOf (x : BitVec 32) : Word32 := BitVec.ofNat 32 (min 0xFFFFF (max 0 (roundFp x)).toNat)

/-- DB_STATUS; the data plane is stopped in a block reset too (R103, R309). -/
def Blk.dbStatus (b : Blk) : Word32 :=
  let d := b.db
  let n := d.dumps.length
  BitVec.ofNat 32 (b2n b.frozen + fieldAt 1 (b2n d.snap.isSome) + fieldAt 2 (b2n d.cpHalted)
    + fieldAt 3 (b2n d.rcHalted) + fieldAt 4 (b2n d.trcHalted) + fieldAt 5 (b2n d.snapHalted)
    + fieldAt 6 (b2n (n == 16)) + fieldAt 16 (min 15 n))

/-! ## Management -/

def Blk.segStatus (v : Env) (b : Blk) : Word32 :=
  let m := b.mc
  BitVec.ofNat 32 (v.aon.station.toNat + fieldAt 8 (m.lantern.getD 0) + fieldAt 15 (b2n m.lantern.isSome)
    + fieldAt 16 (min 511 m.echo) + fieldAt 25 m.attach.code + fieldAt 28 (b2n m.echoFault))

/-- An operation from the register port has not completed (R350). -/
def Mc.portBusy (m : Mc) : Bool := (m.running.toList ++ m.waiting).any fun x => x.asker == .port

def Mc.rspStatusWord (m : Mc) : Word32 :=
  BitVec.ofNat 32 (m.rspStatus.toNat + fieldAt 8 (b2n m.rspDone) + fieldAt 9 (b2n m.portBusy) + fieldAt 16 m.rspOp)

def Mc.rxStatus (m : Mc) : Word32 :=
  BitVec.ofNat 32 (m.rxQueue.length + fieldAt 16 ((m.rxQueue.head?.map List.length).getD 0))

/-! ## Reads -/

/-- The 64-bit value of an RO _LO and _HI pair, by the offset of its _LO. -/
def Blk.roPair (v : Env) (off : Nat) (b : Blk) : Option (BitVec 64) :=
  match off with
  | 0x10 => some (BitVec.ofNat 64 v.n)
  | 0x208 => some v.aon.dieId
  | 0x100404 => some (BitVec.ofNat 64 b.fe.cycBase)
  | 0xB00034 => some (BitVec.ofNat 64 b.db.snapEdge)
  | 0xB00048 => some b.mc.offset
  | _ => none

/-- What a read of an RO register, or of one with RO fields, shows. -/
def Blk.roValue (v : Env) (off : Nat) (b : Blk) : Option Word32 :=
  match off with
  | 0x0 => some (b.glbStatus v)
  | 0x4 => some (BitVec.ofNat 32 (b2n v.cfg.lock))
  | 0x8 => some v.pwrStatus
  | 0xC => some v.cfg.errAddr
  | 0x130 => some b.resetStatus
  | 0x134 => some b.ckptStatus
  | 0x100110 => some b.fwStatus
  | 0x100400 => some b.cycStatus
  | 0x800004 => some b.rtStatus
  | 0x800008 => some (b.rt.err.setWidth 32)
  | 0x901008 => some b.syncStatus
  | 0x902000 => some b.chStatus
  | 0x902004 => some (b.chFree v)
  | 0x902008 => some b.cbStatus
  | 0xA00024 => some (b.pgStatus v)
  | 0xA00028 => some (mwOf b.pg.pAvg)
  | 0xA0002C => some (mwOf b.pg.pBase)
  | 0xB00004 => some b.dbStatus
  | 0xC00008 => some (b.segStatus v)
  | 0xC00028 => some b.mc.rspStatusWord
  | 0xC00054 => some b.mc.rxStatus
  | 0xF00000 => some b.mkStatus
  | _ =>
    if 0x140 ≤ off ∧ off ≤ 0x190 then some (tgetD 0xFFFFFFFF b.rel.laps ((off - 0x140) / 4))
    else if 0x200000 ≤ off ∧ off < 0x400000 ∧ off % 0x1000 = 0x44 then some (b.reach ((off - 0x200000) / 0x1000)).testStatus
    else if 0x400000 ≤ off ∧ off < 0x800000 then some (b.agent ((off - 0x400000) / 4)).bcast.status
    else if 0xA00040 ≤ off ∧ off < 0xA00080 then
      some (BitVec.ofNat 32 (bits (v.stored off) 0 16 + fieldAt 16 (b.pg.factor ((off - 0xA00040) / 4))))
    else if 0xC00030 ≤ off ∧ off < 0xC00050 then some ((b.mc.rspData[(off - 0xC00030) / 4]?).getD 0)
    else if 0xC01000 ≤ off ∧ off < 0xC01800 then
      some (BitVec.ofNat 32 (leAt ((b.mc.rxQueue.head?).getD []) (off - 0xC01000) 4))
    else none

/-- The domain of an offset is powered and not isolated (R276, R371). -/
def Env.powered (v : Env) (off : Nat) : Bool :=
  match windowDomain off with
  | some d => v.domainUp d
  | none => true

/-- The value of a register as a read finds it, without a capture (R14, R372). WO registers read 0, and so does an
offset with no register (R13) and a register of a domain that is powered off (R274). -/
def Blk.regNow (v : Env) (off : Nat) (b : Blk) : Word32 :=
  if !v.powered off then 0
  else match regAt v.aon.grade off with
    | none => 0
    | some r =>
      if r.access = .wo then 0
      else match b.roPair v off, b.roPair v (off - 4) with
        | some x, _ => x.setWidth 32
        | none, some x => BitVec.ofNat 32 (bits x 32 32)
        | none, none => (b.roValue v off).getD (v.stored off)

end Sys2Proof.Machine
end

