-- ==== Sys2Proof/Machine/Frames.lean ====
section
/-! DEFINITION. Frames of the management segment (R353, Tables 15.2, 15.3): their bytes, and the station's own queue
of them. -/

namespace Sys2Proof.Machine

/-- The beacon cycle, 0 before one is known. -/
def Mc.cycleNo (m : Mc) : Nat := (m.cycle.map BitVec.toNat).getD 0

/-- A new frame of a type takes its SEQ. -/
def Mc.newFrame (type dst prio : Nat) (body : List Byte) (slotted : Bool) (m : Mc) : Mc × TxFrame :=
  let seq := tgetD 0 m.seqs type
  ({ m with seqs := tput m.seqs type (seq + 1) },
   { type := type, dst := dst, seq := seq.toNat, prio := prio, body := body, slotted := slotted })

/-- LEN of a frame: header, body and CRC. -/
def TxFrame.len (f : TxFrame) : Nat := 20 + f.body.length

/-- The bytes of a frame as it is sent in the current cycle. -/
def Blk.frameBytes (v : Env) (f : TxFrame) (b : Blk) : List Byte :=
  let head := leBytes 4 v.segKey ++ leBytes 1 v.aon.station.toNat ++ leBytes 1 f.dst ++ leBytes 1 f.type
    ++ leBytes 1 (b2n (b.mc.attach == .lantern)) ++ leBytes 2 f.len ++ leBytes 2 f.seq ++ leBytes 4 b.mc.cycleNo
  let bs := head ++ f.body
  bs ++ leBytes 4 (crc32 bs).toNat

/-- The word that precedes each frame (R352). -/
def startWord : BitVec 64 := 0xD5D5D5D5D5D5D5D5

/-- The words of a frame as they are sent, the start word first (R352). -/
def frameWords (bs : List Byte) : List (BitVec 64) :=
  startWord :: (List.range (bs.length / 8)).map fun i => BitVec.ofNat 64 (leAt bs (8 * i) 8)

/-- Put a frame on the segment; its echo is then checked (R357). -/
def Blk.startFrame (v : Env) (f : TxFrame) (b : Blk) : Blk :=
  let ws := frameWords (b.frameBytes v f)
  (b.emit (.frame ws)).modMc fun m => { m with onAir := m.onAir ++ [{ f with sent := ws }] }

/-- A new frame that does not contend, on the segment at once; it is not sent while the reflection check of another has
not ended (R356). -/
def Blk.sendNow (v : Env) (type dst : Nat) (body : List Byte) (b : Blk) : Blk :=
  if !b.mc.onAir.isEmpty then b
  else
    let r := b.mc.newFrame type dst 0 body true
    (b.modMc fun _ => r.1).startFrame v r.2

/-- A new frame that waits for the contention window (R356). -/
def Blk.queueFrame (type dst prio : Nat) (body : List Byte) (b : Blk) : Blk :=
  b.modMc fun m =>
    let r := m.newFrame type dst prio body false
    { r.1 with txQueue := r.1.txQueue ++ [r.2] }

/-- The body of a RESPONSE. -/
def responseBody (op : Nat) (tag : BitVec 8) (status : BitVec 8) (data : List Word32) : List Byte :=
  leBytes 1 op ++ leBytes 1 tag.toNat ++ leBytes 1 status.toNat ++ leBytes 5 0
    ++ (List.range 8).flatMap (fun i => leBytes 4 ((data[i]?).getD 0).toNat) ++ leBytes 4 0

/-- The body of a BEACON. -/
def beaconBody (cycle : BitVec 64) (mtime alarmN : Nat) : List Byte :=
  leBytes 8 cycle.toNat ++ leBytes 8 mtime ++ leBytes 1 alarmN ++ leBytes 27 0

/-- Alarm kinds with their bit set, ascending: the bits of a summary are its non-zero counts. -/
def alarmKinds (t : Tbl Nat) : List (Nat × Nat) := t.filter fun p => decide (0 < p.2)

/-- The body of an ALARM (Table 15.6). -/
def alarmBody (t : Tbl Nat) : List Byte :=
  let ks := alarmKinds t
  let bitmap := (ks.map fun p => 2 ^ p.1).foldl (· + ·) 0
  leBytes 32 bitmap ++ (List.range 32).flatMap (fun i => leBytes 2 ((ks[i]?.map Prod.snd).getD 0))
    ++ leBytes 2 (ks.length - 32) ++ leBytes 10 0

/-- Merge an unsent summary into the pending one: bits ORed, counts added with saturation (R362). -/
def mergeAlarms (old now : Tbl Nat) : Tbl Nat :=
  old.foldl (fun t p => tmod 0 t p.1 fun c => min 0xFFFF (c + p.2)) now

/-- The body of a LOG frame: N records and the reserved bytes. -/
def logBody (rs : List ELogRec) : List Byte := rs.flatMap elogBytes ++ leBytes 12 0

/-- The body of a TELEMETRY frame (Table 15.8); a register of a domain that is powered off reads 0 (R274). -/
def Blk.telemetryBody (v : Env) (b : Blk) : List Byte :=
  leBytes 8 v.n ++ leBytes 8 v.mtime ++ leBytes 8 b.pg.permit.toNat ++ leBytes 4 (b.regNow v 0xA00024).toNat
    ++ leBytes 4 (b.regNow v 0xA00028).toNat ++ leBytes 4 b.resetStatus.toNat ++ leBytes 1 b.mc.telD
    ++ leBytes 1 (v.segCtl 8 4) ++ leBytes 2 0 ++ leBytes 8 (b.ctr .blockReset) ++ leBytes 8 (b.ctr .contextTeardown)
    ++ leBytes 8 (b.ctr .uncorrectable) ++ leBytes 8 (b.ctr .throttlePulse) ++ leBytes 8 (b.ctr .traceLost)
    ++ leBytes 8 (b.ctr .segCollision) ++ leBytes 8 (b.ctr .segStranger) ++ leBytes 12 0

end Sys2Proof.Machine
end

