-- ==== Sys2Proof/Machine/MgmtOps.lean ====
section
/-! DEFINITION. The always-complete operations (R349-R351, Table 15.1), with the snapshots and the flush that they wait
for (R322, R331, R336, R338). -/

namespace Sys2Proof.Machine

open Sys2Proof.Config

/-! ## One at a time -/

/-- An operation is asked for: it is served when those before it have completed. -/
def Blk.mcAsk (x : McOp) (b : Blk) : Blk :=
  (b.modMc fun m => match m.running with
    | none => { m with running := some x }
    | some _ => { m with waiting := m.waiting ++ [x] }).bump .mcReq

/-- The running operation completes with a response (R350, R351), and the next one begins. -/
def Blk.mcAnswer (status : BitVec 8) (data : List Word32) (b : Blk) : Blk :=
  match b.mc.running with
  | none => b
  | some x =>
    let b := match x.asker with
      | .port => b.modMc fun m => { m with rspStatus := status, rspOp := x.op, rspDone := true, rspData := data }
      | .station k tag => b.queueFrame 5 k 1 (responseBody x.op tag status data)
    b.modMc fun m => { m with running := m.waiting.head?, waiting := m.waiting.drop 1 }

/-- The running operation is OP `op` and has not begun. -/
def Mc.due (m : Mc) (op : Nat) : Option McOp := m.running.filter fun x => x.op == op && !x.started

/-- The running operation has begun its effect and waits. -/
def Mc.waits (m : Mc) (op : Nat) : Bool := (m.running.map fun x => x.op == op && x.started).getD false
def Blk.mcStarted (b : Blk) : Blk := b.modMc fun m => { m with running := m.running.map fun x => { x with started := true } }

/-- A command that serves the running operation if it is `op`. -/
def mcRow (op : Nat) (f : Env → McOp → Blk → Blk) (s : State) : Host.Outcome State Fault Refusal :=
  onBlk s fun v b => match b.mc.due op with
    | some x => f v x b
    | none => b

/-- The words of a 64-bit response field, low first. -/
def two (x : Nat) : List Word32 := [BitVec.ofNat 32 x, BitVec.ofNat 32 (x / 2 ^ 32)]

/-- DB is powered off (domain 19). -/
def Env.dbOff (v : Env) : Bool := !v.domainUp 19

/-! ## Reads -/

/-- IDENTITY_READ (OP 0). -/
def execIdentityRead (s : State) : Host.Outcome State Fault Refusal :=
  mcRow 0 (fun v _ b => b.mcAnswer stOk
    ([0x200, 0x204, 0x208, 0x20C, 0xC00008].map fun o => b.regNow v o)) s

/-- STATUS_READ (OP 1); registers of domains that are powered off read 0. -/
def execStatusRead (s : State) : Host.Outcome State Fault Refusal :=
  mcRow 1 (fun v _ b => b.mcAnswer stOk
    (([0x130, 0xA00024, 0x100110, 0xB00004, 0x8].map fun o => b.regNow v o) ++ two v.n ++ [b.regNow v 0xC00008])) s

/-! ## The counter snapshot (R331, Table 14.3) -/

/-- The counters of a section, in the order of the tables. -/
def reachCounters : List Ctr :=
  [.unitsSent, .unitsApplied, .groupEntry, .lateDecrement, .lateUnitPulse, .readStall, .holdOver, .excessDecrement,
   .discardedUnit, .selection, .dispatchRefusal, .pageIn, .pageOut, .ledgerRmw, .pageInWait, .lcSelection,
   .fillSelection, .beSelection, .permitPass, .preemption, .gangWithdraw, .tilePull, .abortAlreadyDone, .shadowLaunch,
   .shadowCommit, .shadowSquash, .shadowPreempt, .shadowFaultDiscard, .lcDepthSum, .fillDepthSum, .beDepthSum]

def routerCounters : List Ctr :=
  [.tokensRouted, .choicesAdmitted, .choicesPooled, .choicesDropped, .sendIssued, .deferredSend, .sendStallClk,
   .releaseNotice, .skipNotice, .chunkBind, .chunkPull, .nanScore, .sessionOpen]

def hubCounters : List Ctr :=
  [.hubSyncSat, .globalOp, .rsSent, .rsResend, .rsAcked, .rsAckRefused, .rsTableFull, .rsAccepted, .rsHeld,
   .rsReleased, .rsAckSent, .rsDiscard, .rsStale, .rsEpochWait, .rsWindow, .rsDuplicate, .rsHoldFull,
   .fabricThrottleClk, .chOpen, .chMsg, .chLost, .chPad, .chUnderrun, .chPeerDrop, .chCorrected, .tide, .tideDrift,
   .cbOpen, .cbPut, .cbSlot, .cbMissing, .cbIntSat]

def feCounters : List Ctr :=
  [.poll, .bell, .strayBell, .wmHint, .piOverrun, .lastLook, .lastLookHit, .descStarted, .descFault, .lateCompletion,
   .timeoutContext, .timeoutReset, .fwReject, .hostError]

def relCounters : List Ctr :=
  [.blockReset, .resetRestart, .contextTeardown, .replayRecord, .replayDrop, .checkpoint, .jnlFullStall,
   .wordCorrected, .pageCorrected, .uncorrectable, .scrubPage, .elogLost, .channelHalt, .engineFenced, .segTx, .segRx,
   .segCollision, .segExcess, .segCrcError, .segStranger, .segDiscard, .segBeaconSent, .segBeaconMissed,
   .segLanternChange, .segAlarmSummary, .segTelDrop, .segLogLost, .segRxLost, .mcReq, .mcReqOverlap]

/-- Section 5: droop-input_i and shed-pulse_k are indexed (Table 12.13). -/
def Blk.pgValues (b : Blk) : List Nat :=
  ([.throttlePulse, .chargedNj, .controlEdge, .sampleMissing, .calUpdate, .boostReqPulse, .boostGrantPulse,
    .droopEvent, .stretchClk].map fun c => b.ctr c)
    ++ (List.range 8).map (fun i => b.ctr .droopInput i) ++ (List.range 5).map (fun i => b.ctr .shedPulse (i + 1))

/-- Section 7: bytes-fab is indexed by link (Table 14.15). -/
def Blk.dbValues (b : Blk) : List Nat :=
  [b.ctr .bytesSram, b.ctr .bytesDev, b.ctr .bytesHost] ++ (List.range 16).map (fun l => b.ctr .bytesFab l)
    ++ ([.traceRecord, .traceLost, .traceLossRecord, .snapshot, .snapshotTrunc, .counterSnapshot, .latch, .censusClose,
         .watchHit, .bpHalt, .dump, .dumpDiscard, .rangeMismatch, .telemetryDiscard].map fun c => b.ctr c)

/-- Four 16-bit entries in a word. -/
def packFour (f : Nat → Nat) (i : Nat) : Nat :=
  f (4 * i) + 2 ^ 16 * f (4 * i + 1) + 2 ^ 32 * f (4 * i + 2) + 2 ^ 48 * f (4 * i + 3)

/-- The sections of the image: KIND, INSTANCE, BASE_EDGE and values. -/
def Blk.csnapSections (v : Env) (b : Blk) : List (Nat × Nat × Nat × List Nat) :=
  let at_ (cs : List Ctr) (i : Nat) : List Nat := cs.map fun c => b.ctr c i
  let load (e : Nat) : Nat := (tgetD 0 b.db.loadMap e).toNat
  let tel (i : Nat) : Nat := (tgetD 0 b.db.fabTel i).toNat
  ((List.range v.reaches).map fun r => (0, r, 0, at_ reachCounters r))
    ++ ((List.range v.engines).map fun e => (1, e, (b.agent e).upEdge, at_ agentCounters e))
    ++ (if v.aon.grade.hasRouter then [(2, 0, 0, at_ routerCounters 0)] else [])
    ++ [(3, 0, 0, at_ hubCounters 0), (4, 0, 0, at_ feCounters 0), (5, 0, 0, b.pgValues), (6, 0, 0, at_ relCounters 0),
        (7, 0, 0, b.dbValues)]
    ++ (b.fe.ctxs.map fun p => (8, p.1, 0, b.latch v p.1))
    ++ [(9, 0, 0, (List.range 512).map (packFour load)), (10, 0, 0, (List.range 1024).map tel)]

/-- LENGTH of an image: its header, and 16 bytes and the values of each section. -/
def csnapLength (l : List (Nat × Nat × Nat × List Nat)) : Nat :=
  64 + (l.map fun x => 16 + 8 * x.2.2.2.length).foldl (· + ·) 0

/-- The block after every event of an edge: those whose commands follow PULSE_EDGE, a control edge, a load-map sample and
a TIME record, are among them (R283, R326, R331, R337). -/
def Blk.wholeEdge (v : Env) (b : Blk) : Blk :=
  ((if b.controlDue v then b.controlEdge v else b).sampleLoad v).enterTime v

/-- The counters are taken at this edge, and their image goes to the snapshot channel. -/
def Blk.csnapEdge (v : Env) (b : Blk) : Blk :=
  if !b.db.csnapReq then b
  else
    let b := b.bump .counterSnapshot
    let l := (b.wholeEdge v).csnapSections v
    let n := csnapLength l
    let head := leBytes 8 v.n ++ leBytes 8 v.aon.mtime ++ leBytes 8 b.mc.offset.toNat ++ leBytes 4 l.length
      ++ leBytes 4 0 ++ leBytes 8 n ++ leBytes 24 0
    (b.emit (.counters (v.pair 0xB00040) head l)).modDb fun d => { d with csnapReq := false, csnap := some (v.n, n) }

/-- COUNTER_SNAPSHOT (OP 2). -/
def execCounterSnapshot (s : State) : Host.Outcome State Fault Refusal :=
  mcRow 2 (fun v _ b =>
    if v.dbOff || b.db.snapHalted then b.mcAnswer stBusy []
    else (b.modDb fun d => { d with csnapReq := true }).mcStarted) s

/-- The snapshot channel halts until the next block reset (Table 13.9). -/
def Blk.haltSnap (b : Blk) : Blk := b.modDb fun d => { d with snapHalted := true }

/-- COUNTER_SNAPSHOT_WRITES_ACKED (R331): every write is acknowledged; after an error response the channel is halted and
the operation can only time out (Table 13.9). -/
def execCounterSnapshotWritesAcked (ok : Bool) (s : State) : Host.Outcome State Fault Refusal :=
  onBlk s fun v b =>
    match b.db.csnap with
    | none => b
    | some k =>
      if b.db.snapHalted then b
      else if !ok then b.haltSnap.haltChannel v none
      else
        let b := b.modDb fun d => { d with csnap := none }
        if b.mc.waits 2 then b.mcAnswer stOk (two k.1 ++ two k.2) else b

/-! ## The hang snapshot (R338) -/

/-- A snapshot is in progress, or asked for. -/
def Db.snapBusy (d : Db) : Bool := d.snap.isSome || d.stopReq.isSome

/-- HANG_SNAPSHOT (OP 3). -/
def execHangSnapshot (s : State) : Host.Outcome State Fault Refusal :=
  mcRow 3 (fun v _ b =>
    if v.dbOff || b.db.snapHalted || b.db.snapBusy then b.mcAnswer stBusy []
    else (b.askStop 0).mcStarted) s

/-- The stop of a snapshot whose image is no longer being written: the data plane resumes at the next edge unless HOLD
is set. -/
def Blk.snapOver (v : Env) (x : Snap) (b : Blk) : Blk :=
  if x.cause = 2 ∨ !b.db.stopped then b.modDb fun d => { d with snap := none }
  else b.modDb fun d => { d with snap := some { x with writing := false }, resumeReq := d.resumeReq || !v.snapHold }

/-- SNAPSHOT_WRITES_ACKED (R338): the image is written. An error response halts the channel, and the stop ends as it
would have (Table 13.9; log 28). -/
def execSnapshotWritesAcked (ok : Bool) (s : State) : Host.Outcome State Fault Refusal :=
  onBlk s fun v b =>
    match b.db.snap with
    | none => b
    | some x =>
      if !x.writing then b
      else
        let b := (if ok then b else b.haltSnap.haltChannel v none).snapOver v x
        if ok && x.cause == 0 && b.mc.waits 3 then b.mcAnswer stOk (two x.edge ++ two x.length) else b

/-! ## Power shed and clock-stretch control (R292) -/

/-- POWER_SHED_CONTROL (OP 4): with the block clock stopped the response does not wait for the edge. -/
def execPowerShedControl (s : State) : Host.Outcome State Fault Refusal :=
  mcRow 4 (fun v x b =>
    let a := (x.args[0]?).getD 0
    let b := b.modPg fun p => { p with forcedIn := some (min 5 (bits a 0 3), a.getLsbD 8) }
    if v.clkRun then b.mcStarted else b.mcAnswer stOk [0xFFFFFFFF, 0xFFFFFFFF]) s

/-! ## Trace flush (R336) -/

/-- TRACE_FLUSH (OP 5). -/
def execTraceFlush (s : State) : Host.Outcome State Fault Refusal :=
  mcRow 5 (fun v _ b =>
    if v.dbOff || b.db.trcHalted then b.mcAnswer stBusy []
    else (b.modDb fun d => { d with flushUpto := some (d.trcPi + d.trcBuf.length) }).mcStarted) s

/-- A flush is over when the PI written has passed the records that were buffered at its start. -/
def Blk.flushOver (b : Blk) : Blk :=
  match b.db.flushUpto with
  | none => b
  | some k =>
    if b.db.trcPiOut < k then b
    else
      let b := b.modDb fun d => { d with flushUpto := none }
      if b.mc.waits 5 then b.mcAnswer stOk (two b.db.trcPiOut) else b

/-- PI of the trace ring is written if records have been acknowledged since, at most once per pulse (R336). -/
def Blk.writePi (v : Env) (b : Blk) : Blk :=
  if b.db.trcHalted || b.db.trcPiAt == some v.n then b
  else
    let b := if b.db.trcPiOut = b.db.trcPi then b
      else (b.emit (.dmWrite v.trcBase (leBytes 8 b.db.trcPi))).modDb fun d => { d with
        trcPiOut := d.trcPi, trcPiAt := some v.n }
    b.flushOver

/-- How many buffered records the ring has room for. -/
def Blk.trcRoom (v : Env) (b : Blk) : Nat := 2 ^ v.trcLog - (b.db.trcPi - b.db.trcCi)

/-- TRACE_WRITE_ACK (R336): the oldest `records` records, as many as the ring has room for, are acknowledged, and PI is
written; `ci` is CI of the ring header. An error response halts the channel (Table 13.9). -/
def execTraceWriteAck (records ci : Nat) (ok : Bool) (s : State) : Host.Outcome State Fault Refusal :=
  onBlk s fun v b =>
    if b.db.trcHalted then b
    else if !ok then (b.modDb fun d => { d with trcHalted := true }).haltChannel v none
    else
      let b := b.modDb fun d => { d with trcCi := max d.trcCi (min ci d.trcPi) }
      let k := min records (b.trcRoom v)
      ((b.writeTrace v (b.db.trcBuf.take k)).modDb fun d => { d with trcBuf := d.trcBuf.drop k }).writePi v

/-! ## Block reset, maker port, reserved operations -/

/-- MGMT_BLOCK_RESET (OP 6): CAUSE 8; during a reset it restarts it. -/
def execMgmtBlockReset (s : State) : Host.Outcome State Fault Refusal :=
  mcRow 6 (fun _ _ b => (b.askReset .management).mcStarted) s

/-- A maker-port challenge. -/
def Blk.issueChallenge (b : Blk) : Blk :=
  let x := Config.makerChallenge b.rel.mkAsked
  (b.modRel fun l => { l with mkPending := some x, mkAsked := l.mkAsked + 1 }).mcAnswer stOk [x]

/-- A maker-port response, checked against the challenge that is pending; without one there is nothing to match
(DEDUCED, log 71). -/
def Blk.makerResponse (r : Word32) (b : Blk) : Blk :=
  match b.rel.mkPending with
  | none => b.mcAnswer stDenied []
  | some c =>
    if makerResponseOk c r then (b.modRel fun l => { l with mkOpen := true, mkPending := none }).mcAnswer stOk []
    else (b.modRel fun l => { l with mkTries := l.mkTries + 1 }).mcAnswer stDenied []

/-- MAKER_PORT_REQUEST (OP 7, R322). -/
def execMakerPortRequest (s : State) : Host.Outcome State Fault Refusal :=
  mcRow 7 (fun v x b =>
    let b := b.alarm 9
    let a (i : Nat) : Word32 := (x.args[i]?).getD 0
    if !v.aon.makerEn || decide (3 ≤ b.rel.mkTries) then b.mcAnswer stDenied []
    else if b.fe.ctxs.any (fun p => p.1 != 0) then b.mcAnswer stBusy []
    else if a 0 = 0 then b.issueChallenge
    else if a 0 = 1 then b.makerResponse (a 1)
    else b.mcAnswer stContextFault []) s

/-- MC_RESERVED_OP: OPs 8 and above. -/
def execMcReservedOp (s : State) : Host.Outcome State Fault Refusal :=
  onBlk s fun _ b => match b.mc.running with
    | some x => if 8 ≤ x.op then b.mcAnswer stContextFault [] else b
    | none => b

/-! ## Edges and time-outs -/

/-- The operations whose effect is at this edge: OP 4 and OP 6 respond with its number. -/
def Blk.mcEdge (v : Env) (b : Blk) : Blk :=
  if b.mc.waits 4 || b.mc.waits 6 then b.mcAnswer stOk (two v.n) else b

/-- What a time-out takes back: an effect that still waits for an edge, or a channel that has not acknowledged. -/
def Blk.mcGiveUp (v : Env) (op : Nat) (b : Blk) : Blk :=
  match op with
  | 2 =>
    if b.db.csnapReq then b.modDb fun d => { d with csnapReq := false }
    else
      let b := b.modDb fun d => { d with csnap := none }
      if b.db.snapHalted then b else b.haltSnap.countHalt
  | 3 =>
    match b.db.snap with
    | some x =>
      if x.cause ≠ 0 ∨ !x.writing then b
      else ((if b.db.snapHalted then b else b.haltSnap.countHalt)).snapOver v x
    | none => b.modDb fun d => { d with stopReq := d.stopReq.filter (· != 0) }
  | 5 =>
    let b := b.modDb fun d => { d with flushUpto := none }
    if b.db.trcHalted then b else (b.modDb fun d => { d with trcHalted := true }).countHalt
  | 6 => b.modRel fun l => { l with pendingCause := l.pendingCause.filter (· != .management) }
  | _ => b

/-- The operation that has begun waits for an edge. -/
def Blk.awaitsEdge (b : Blk) (op : Nat) : Bool :=
  op == 4 || op == 6 || (op == 2 && b.db.csnapReq) || (op == 3 && b.db.stopReq == some 0)

/-- The operation ends without what it waits for. OP 4 then finds the block clock stopped: its values stay, for the first
edge after it restarts (Table 15.1). -/
def Blk.mcExpire (v : Env) (op : Nat) (b : Blk) : Blk :=
  if op = 4 then b.mcAnswer stOk [0xFFFFFFFF, 0xFFFFFFFF] else (b.mcGiveUp v op).mcAnswer stTimeout []

/-- MC_OPERATION_TIMEOUT (R349): 2^20 mg_clk after the start of the running operation; if it waits for an edge, none has
come in them. -/
def execMcOperationTimeout (s : State) : Host.Outcome State Fault Refusal :=
  match s.blk.mc.running.filter McOp.started with
  | none => .next s
  | some x =>
    let aon := if s.blk.awaitsEdge x.op then { s.aon with since := max s.aon.since (2 ^ 20) } else s.aon
    onBlk { s with aon := aon } fun v b => b.mcExpire v x.op

/-- One mg_clk period passes without a command: MTIME counts it, and with the 256th since the last edge the block clock is
found stopped, for which OP 4 waits no longer (R337, R349; DESIGN CHOICE, log 10). -/
def State.tick (s : State) : State :=
  let t := { s with aon := { s.aon with since := s.aon.since + 1 } }
  if t.aon.since = 256 ∧ s.blk.mc.waits 4 then { t with blk := s.blk.mcExpire t.env 4 } else t

/-- A write of GO with RUNNING clear starts the operation that MC_REQ_OP names (R350). -/
def Blk.reqGo (v : Env) (value : Word32) (b : Blk) : Blk :=
  if !value.getLsbD 0 then b
  else if b.mc.portBusy then b.bump .mcReqOverlap
  else
    (b.modMc fun m => { m with rspDone := false }).mcAsk
      { op := bits (v.stored 0xC00010) 0 4
        args := (List.range 4).map fun i => v.stored (0xC00014 + 4 * i), asker := .port }

end Sys2Proof.Machine
end

