-- ==== Sys2Proof/Machine/Segment.lean ====
section
/-! DEFINITION. The management segment: reception, access, the lantern, alarms, telemetry and time alignment
(R352-R368). -/

namespace Sys2Proof.Machine

/-! ## Reception (Table 15.4) -/

/-- The outcome of the tests of Table 15.4, up to the station's own SRC. -/
inductive Heard where
  | damaged | stranger | reserved | conflict | valid
deriving DecidableEq, Repr

/-- Fields of a received frame (Table 15.2). -/
def fSrc (bs : List Byte) : Nat := leAt bs 4 1
def fDst (bs : List Byte) : Nat := leAt bs 5 1
def fType (bs : List Byte) : Nat := leAt bs 6 1
def fLen (bs : List Byte) : Nat := leAt bs 8 2

/-- LEN, the word count and the CRC are right (R353). -/
def frameWhole (bs : List Byte) (words : Nat) : Bool :=
  let n := fLen bs
  decide (64 ≤ n) && decide (n ≤ 2048) && n % 8 == 0 && words * 8 == n && bs.length == n
    && leAt bs (n - 4) 4 == (crc32 (bs.take (n - 4))).toNat

/-- The type has its LEN, and its reserved bytes are zero (Tables 15.3, 15.6, 15.8). A LEN that is not the type's is
taken as a reserved field that is not zero (DEDUCED, log 72). -/
def frameReservedOk (bs : List Byte) : Bool :=
  let n := fLen bs
  decide (fSrc bs < 64) && decide (leAt bs 7 1 < 2) && (match fType bs with
    | 0 => n == 64 && zeroAt bs 0x21 27
    | 1 => n == 128 && zeroAt bs 0x72 10
    | 2 => n == 128 && zeroAt bs 0x36 2 && zeroAt bs 0x70 12
    | 3 => n % 32 == 0 && zeroAt bs (n - 16) 12
        && (List.range ((n - 32) / 32)).all (fun i => zeroAt bs (0x10 + 32 * i + 0x15) 3)
    | 4 => n == 64 && zeroAt bs 0x12 6 && zeroAt bs 0x28 20
    | 5 => n == 64 && zeroAt bs 0x13 5 && zeroAt bs 0x38 4
    | 6 => n == 64 && zeroAt bs 0x10 44
    | _ => false)

/-- The tests in the order of Table 15.4; the echo of an own frame is REFLECTION_CHECK's. -/
def hearFrame (v : Env) (bs : List Byte) (words : Nat) : Heard :=
  if !frameWhole bs words then .damaged
  else if leAt bs 0 4 ≠ v.segKey then .stranger
  else if !frameReservedOk bs then .reserved
  else if fSrc bs = v.aon.station.toNat then .conflict
  else .valid

/-- A stranger; the 65th of a cycle raises alarm kind 10 (R354). -/
def Blk.noteStranger (b : Blk) : Blk :=
  let b := (b.bump .segStranger).modMc fun m => { m with strangers := m.strangers + 1 }
  if b.mc.strangers = 65 then b.alarm 10 else b

/-- A discard of Table 15.4. -/
def Blk.discardFrame (h : Heard) (b : Blk) : Blk :=
  match h with
  | .damaged => b.bump .segCrcError
  | .stranger => b.noteStranger
  | .reserved => b.bump .segDiscard
  | .conflict => (b.bump .segDiscard).alarm 12
  | .valid => b

/-- DISCARDED_FRAME (R354). -/
def execDiscardedFrame (frame : List Byte) (words : Nat) (s : State) : Host.Outcome State Fault Refusal :=
  onBlk s fun v b => if b.mc.attach == .off then b else b.discardFrame (hearFrame v frame words)

/-- A valid frame of a station has come in this cycle. Every station keeps note, so that one that becomes lantern has
its last 16 cycles (R361). -/
def Blk.noteStation (src : Nat) (b : Blk) : Blk := b.modMc fun m => { m with heardFrom := tput m.heardFrom src 0 }

/-- A frame of a type, tested; `f` acts on a valid one for this station or for all. -/
def frameRow (type : Nat) (frame : List Byte) (f : Env → Blk → Blk) (s : State) : Host.Outcome State Fault Refusal :=
  onBlk s fun v b =>
    if b.mc.attach == .off || fType frame != type || hearFrame v frame (frame.length / 8) != .valid then b
    else
      let b := b.noteStation (fSrc frame)
      if fDst frame = v.aon.station.toNat ∨ fDst frame = 0xFF then f v b else b

/-- Bytes in the receive queue. -/
def Mc.rxBytes (m : Mc) : Nat := (m.rxQueue.map List.length).foldl (· + ·) 0

/-- Append a frame to the receive queue (R367). -/
def Blk.receiveFrame (frame : List Byte) (b : Blk) : Blk :=
  if 32768 < b.mc.rxBytes + frame.length then b.bump .segRxLost
  else (b.modMc fun m => { m with rxQueue := m.rxQueue ++ [frame] }).bump .segRx

/-- ALARM, TELEMETRY, LOG and RESPONSE (R354). -/
def execAlarm (frame : List Byte) (s : State) : Host.Outcome State Fault Refusal :=
  frameRow 1 frame (fun _ b => b.receiveFrame frame) s

def execTelemetry (frame : List Byte) (s : State) : Host.Outcome State Fault Refusal :=
  frameRow 2 frame (fun _ b => b.receiveFrame frame) s

def execLog (frame : List Byte) (s : State) : Host.Outcome State Fault Refusal :=
  frameRow 3 frame (fun _ b => b.receiveFrame frame) s

def execResponse (frame : List Byte) (s : State) : Host.Outcome State Fault Refusal :=
  frameRow 5 frame (fun _ b => b.receiveFrame frame) s

/-- PROBE: discarded. -/
def execProbe (frame : List Byte) (s : State) : Host.Outcome State Fault Refusal :=
  frameRow 6 frame (fun _ b => b) s

/-- Remote requests that wait. -/
def Mc.remoteWaiting (m : Mc) : Nat := (m.waiting.filter fun x => x.asker != .port).length

/-- REQUEST (R351). -/
def execRequest (frame : List Byte) (s : State) : Host.Outcome State Fault Refusal :=
  frameRow 4 frame (fun v b =>
    let op := leAt frame 0x10 1
    let tag : BitVec 8 := BitVec.ofNat 8 (leAt frame 0x11 1)
    let src := fSrc frame
    if v.segCtl 3 1 = 0 ∨ op = 4 ∨ op = 7 ∨ (op = 6 ∧ v.segCtl 4 1 = 0) then
      b.queueFrame 5 src 1 (responseBody op tag stDenied [])
    else if 4 ≤ b.mc.remoteWaiting then b.bump .mcReqOverlap
    else b.mcAsk { op := op, args := (List.range 4).map fun i => BitVec.ofNat 32 (leAt frame (0x18 + 4 * i) 4)
                   asker := .station src tag }) s

/-! ## The lantern (R360, R361) and time alignment (R368) -/

/-- The station is eligible to be lantern. -/
def eligible (v : Env) : Bool := v.aon.lanternOk && v.segCtl 1 1 == 1

/-- Begin sampling anew. -/
def Mc.resample (m : Mc) : Mc := { m with samples := [], sampleWait := 0 }

/-- The lantern becomes `k`: a change from another one raises alarm kind 11, is counted and clears VALID, with OFFSET 0
(R337, R360, R368). -/
def Blk.setLantern (k : Nat) (b : Blk) : Blk :=
  let old := b.mc.lantern
  let b := b.modMc fun m => { m with lantern := some k }
  match old with
  | none => b
  | some j =>
    if j = k then b
    else ((b.modMc fun m => { m.resample with offset := 0, offValid := false }).bump .segLanternChange).alarm 11

/-- A cycle has begun: strangers are counted afresh, stations not heard in the last 16 cycles forgotten (R361), and D
falls after 64 cycles without a discard (R364). -/
def Mc.newCycle (m : Mc) (c : BitVec 64) : Mc :=
  let m := { m with
    cycle := some c, strangers := 0, telClean := m.telClean + 1, sampleWait := m.sampleWait - 1
    heardFrom := (m.heardFrom.map fun p => (p.1, p.2 + 1)).filter fun p => decide (p.2 ≤ 16) }
  if 64 ≤ m.telClean then { m with telD := m.telD - 1, telClean := 0 } else m

/-- The rounded mean of 16 samples; which way a tie goes is not said, so the free value `up` decides (log 4). -/
def meanOf (l : List Int) (up : Bool) : Int :=
  let t := l.foldl (· + ·) 0
  if t % 16 = 8 then t / 16 + (if up then 1 else 0) else (t + 8) / 16

/-- Half the echo, in mg_clk periods (R368). -/
def Mc.halfEcho (m : Mc) : Nat := m.echo * 19 / 32

/-- Take a sample of a beacon's MTIME, its start word having just arrived (log 62); OFFSET is set from 16 consecutive
ones when it is due. -/
def Blk.takeSample (v : Env) (mtime : Nat) (b : Blk) : Blk :=
  let x : Int := (mtime : Int) - ((v.mtime : Int) - (b.mc.halfEcho : Int))
  let l := b.mc.samples ++ [x]
  let l := l.drop (l.length - 16)
  let b := b.modMc fun m => { m with samples := l }
  if l.length < 16 ∨ b.mc.sampleWait ≠ 0 then b
  else
    let y := meanOf l (b.free.getLsbD 0)
    b.spend.modMc fun m => { m with offset := BitVec.ofInt 64 y, offValid := true, sampleWait := 1024 }

/-- The beacon of station `src` leads this station. -/
def Blk.followBeacon (v : Env) (src : Nat) (frame : List Byte) (b : Blk) : Blk :=
  let joining := b.mc.attach != .joined
  let c : BitVec 64 := BitVec.ofNat 64 (leAt frame 0x10 8)
  let b := b.modMc fun m =>
    { m.newCycle c with attach := .joined, missed := 0, alarmN := leAt frame 0x20 1, heardCycle := some c }
  let b := if joining then b.modMc Mc.resample else b
  (b.setLantern src).takeSample v (leAt frame 0x18 8)

/-- BEACON (R359, R360): a listening or electing station joins, a lantern yields to a lower station. -/
def execBeacon (frame : List Byte) (s : State) : Host.Outcome State Fault Refusal :=
  frameRow 0 frame (fun v b =>
    match b.mc.attach with
    | .off | .probing => b
    | .listening | .electing | .joined => b.followBeacon v (fSrc frame) frame
    | .lantern => if fSrc frame < v.aon.station.toNat then b.followBeacon v (fSrc frame) frame else b) s

/-- BEACON_MISSED (R361): the cycle is projected; three in a row start an election (R360). -/
def execBeaconMissed (s : State) : Host.Outcome State Fault Refusal :=
  onBlk s fun _ b =>
    if b.mc.attach != .joined then b
    else
      let b := b.bump .segBeaconMissed
      b.modMc fun m =>
        let m := m.newCycle (BitVec.ofNat 64 (m.cycleNo + 1))
        { m with missed := m.missed + 1, samples := [], attach := if 3 ≤ m.missed + 1 then .electing else .joined }

/-- LISTEN_TIMEOUT (R359). -/
def execListenTimeout (s : State) : Host.Outcome State Fault Refusal :=
  onBlk s fun _ b => if b.mc.attach == .listening then b.modMc fun m => { m with attach := .electing } else b

/-- Carrier low for 32 ser clocks and P slots of 1,024/5 ser clocks (R355, R356). -/
def carrierNeed (p : Nat) : Nat := 32 + ceilDiv (1024 * p) 5

/-- mg_seg_cs has been low for so many ser clocks. MC counts on from the last edge, 19 mg_clk to 16 ser clocks
as in R368 (log 149). -/
def Blk.carrierLow (v : Env) (need : Nat) (b : Blk) : Bool :=
  match b.mc.quiet with
  | none => true
  | some q => decide ((need : Int) ≤ q + (v.aon.since * 16 / 19 : Nat))

/-- The echo of an own frame has just ended: the carrier is low from now on. -/
def Blk.carrierFalls (v : Env) (b : Blk) : Blk :=
  b.modMc fun m => { m with quiet := some (-(v.aon.since * 16 / 19 : Nat)) }

/-- MTIME when a start word sent now passes the star, half the echo later (R361; log 67). -/
def Mc.starTime (v : Env) (m : Mc) : Nat := (v.mtime + m.halfEcho) % 2 ^ 64

/-- ELECTION_BEACON (R360): an eligible station whose carrier has been low for 32 ser clocks and 4·s slots. -/
def execElectionBeacon (s : State) : Host.Outcome State Fault Refusal :=
  onBlk s fun v b =>
    if b.mc.attach != .electing || !eligible v || !b.mc.onAir.isEmpty
      || !b.carrierLow v (carrierNeed (4 * v.aon.station.toNat)) then b
    else
      let c : BitVec 64 := match b.mc.heardCycle with | some c => c + 1 | none => 0
      let b := b.modMc fun m => { m with cycle := some c }
      b.sendNow v 0 0xFF (beaconBody c (b.mc.starTime v) 64)

/-- ALARM_N: 1 plus the highest station heard in the last 16 cycles, at least 1. -/
def Mc.nextAlarmN (m : Mc) : Nat := (m.heardFrom.map fun p => 1 + p.1).foldl max 1

/-- BEACON_SEND (R361): the cycle begins, without a beacon if a frame of the station is still on the segment (log 150). -/
def execBeaconSend (s : State) : Host.Outcome State Fault Refusal :=
  onBlk s fun v b =>
    if b.mc.attach != .lantern then b
    else
      let c : BitVec 64 := BitVec.ofNat 64 (b.mc.cycleNo + 1)
      let b := b.modMc fun m =>
        let m := m.newCycle c
        { m with missed := 0, alarmN := m.nextAlarmN, heardCycle := some c }
      b.sendNow v 0 0xFF (beaconBody c (b.mc.starTime v) b.mc.alarmN)

/-! ## Access (R355-R359) -/

/-- EN becomes 1: probing, with D zero (R359, R364). EN becomes 0: the attachment is off. -/
def Blk.setSegEn (on : Bool) (b : Blk) : Blk :=
  let was := b.mc.attach != .off
  if on && !was then
    b.modMc fun m => { m with attach := .probing, telD := 0, telClean := 0, missed := 0 }
  else if !on && was then
    b.modMc fun m =>
      { m.resample with
        attach := .off, lantern := none, onAir := [], backoff := none, heardFrom := [], offset := 0, offValid := false }
  else b

/-- PROBE_SEND (R359), with carrier low for 32 ser clocks (R356): a PROBE to the own station, or the one that collided,
again. -/
def execProbeSend (s : State) : Host.Outcome State Fault Refusal :=
  onBlk s fun v b =>
    if b.mc.attach != .probing || !b.mc.onAir.isEmpty || b.mc.backoff.isSome || !b.carrierLow v (carrierNeed 0) then b
    else match b.mc.txQueue.find? (fun f => f.type == 6) with
      | some f => (b.modMc fun m => { m with txQueue := ldrop1 (fun f => f.type == 6) m.txQueue }).startFrame v f
      | none =>
        let r := b.mc.newFrame 6 v.aon.station.toNat 0 (leBytes 44 0) false
        (b.modMc fun _ => r.1).startFrame v r.2

/-- The frame may contend in this cycle: an ALARM only after this cycle's freeze, and not after a missed beacon; its
summary waits to be merged otherwise (R361, R362). -/
def Mc.contends (m : Mc) (f : TxFrame) : Bool := f.type != 1 || (m.missed == 0 && m.frozeAt == m.cycle)

/-- The frame that contends next: the oldest of the lowest priority number, or else a LOG frame of the oldest 1 to 63
queued records. -/
def Mc.candidate (m : Mc) : Option (Mc × TxFrame) :=
  match (lsort TxFrame.prio (m.txQueue.filter m.contends)).head? with
  | some f => some ({ m with txQueue := ldrop1 (· == f) m.txQueue }, f)
  | none =>
    if m.logQueue.isEmpty then none
    else some ({ m with logQueue := m.logQueue.drop 63 }.newFrame 3 0xFF 2 (logBody (m.logQueue.take 63)) false)

/-- FRAME_TRANSMIT (R356): at a star time, with carrier low for a number of ser clocks. -/
def execFrameTransmit (starTime carrierLow : Nat) (s : State) : Host.Outcome State Fault Refusal :=
  onBlk s fun v b =>
    if (b.mc.attach != .joined && b.mc.attach != .lantern) || !b.mc.onAir.isEmpty || b.mc.backoff.isSome
      || decide (starTime < 64 * (1 + b.mc.alarmN)) then b
    else match b.mc.candidate with
      | none => b
      | some (m, f) =>
        if carrierLow < carrierNeed f.prio ∨ 24576 < starTime + b.mc.echo + f.len / 8 then b
        else (b.modMc fun _ => m).startFrame v f

/-- The whole echo of a frame has matched: it is sent. -/
def Blk.frameSent (v : Env) (f : TxFrame) (echo : Nat) (b : Blk) : Blk :=
  let b := b.bump .segTx
  match f.type with
  | 0 =>
    let b := b.bump .segBeaconSent
    if b.mc.attach != .electing then b
    else
      let b := b.setLantern v.aon.station.toNat
      b.modMc fun m => { m with
        attach := .lantern, missed := 0, alarmN := 64, heardCycle := m.cycle, offset := 0, offValid := true }
  | 1 => (b.bump .segAlarmSummary).modMc fun m => { m with frozen := [] }
  | 6 =>
    if b.mc.attach != .probing then b
    else if 400 < echo then b.modMc fun m => { m with echo := echo, echoFault := true }
    else b.modMc fun m => { m with echo := echo, echoFault := false, attach := .listening }
  | _ => b

/-- A collision (R357, R358): the random r is a free value. An ALARM frame that is given up is merged into the next
summary when that is frozen; an election beacon is treated as not sent. -/
def Blk.frameCollided (f : TxFrame) (b : Blk) : Blk :=
  let b := b.bump .segCollision
  if f.slotted then b
  else if 16 ≤ f.tries + 1 then b.bump .segExcess
  else
    let r := b.free.toNat % 2 ^ (min (f.tries + 1) 10)
    b.spend.modMc fun m =>
      { m with txQueue := { f with tries := f.tries + 1, sent := [] } :: m.txQueue, backoff := some r }

/-- The words received `echo` clocks after those of a frame, up to its last, are those sent: none differs, none is
missing (R357). -/
def TxFrame.echoed (f : TxFrame) (received : List (BitVec 64)) : Bool := received.take f.sent.length == f.sent

/-- REFLECTION_CHECK (R357) of the oldest frame on the segment, from its start word's echo on; `echo` is E. -/
def execReflectionCheck (received : List (BitVec 64)) (echo : Nat) (s : State) : Host.Outcome State Fault Refusal :=
  onBlk s fun v b =>
    match b.mc.onAir with
    | [] => b
    | f :: r =>
      let b := (b.modMc fun m => { m with onAir := r }).carrierFalls v
      if f.echoed received then b.frameSent v f echo else b.frameCollided f

/-- BACKOFF_EXPIRY (R358). -/
def execBackoffExpiry (s : State) : Host.Outcome State Fault Refusal :=
  onBlk s fun _ b => b.modMc fun m => { m with backoff := none }

/-! ## Alarms and telemetry (R362-R364) -/

/-- ALARM_FREEZE (R362), once in a cycle: an unsent summary is merged first. A station with a slot sends at once, another
contends. While an ALARM frame is on the segment its summary may yet be sent, so no other is frozen, and none is sent in
that cycle (log 150). -/
def execAlarmFreeze (s : State) : Host.Outcome State Fault Refusal :=
  onBlk s fun v b =>
    if (b.mc.attach != .joined && b.mc.attach != .lantern) || decide (0 < b.mc.missed)
      || b.mc.frozeAt == b.mc.cycle then b
    else if b.mc.onAir.any (fun f => f.type == 1) then b.modMc fun m => { m with frozeAt := m.cycle }
    else
      let t := mergeAlarms b.mc.frozen b.mc.alarms
      let b := b.modMc fun m => { m with
        frozen := t, alarms := [], frozeAt := m.cycle, txQueue := m.txQueue.filter fun f => f.type != 1 }
      if (alarmKinds t).isEmpty then b
      else if v.aon.station.toNat < b.mc.alarmN then b.sendNow v 1 0xFF (alarmBody t)
      else b.queueFrame 1 0xFF 0 (alarmBody t)

/-- TELEMETRY_BUILD (R364): once in a cycle whose number is a multiple of 2^(TEL_PERIOD + D). -/
def execTelemetryBuild (s : State) : Host.Outcome State Fault Refusal :=
  onBlk s fun v b =>
    if (b.mc.attach != .joined && b.mc.attach != .lantern) || b.mc.telAt == b.mc.cycle
      || b.mc.cycleNo % 2 ^ (v.segCtl 8 4 + b.mc.telD) != 0 then b
    else
      let b := b.modMc fun m => { m with telAt := m.cycle }
      if 4 ≤ ((b.mc.txQueue ++ b.mc.onAir).filter fun f => f.type == 2).length then
        ((b.modMc fun m => { m with telD := min 7 (m.telD + 1), telClean := 0 }).bump .segTelDrop).alarm 14
      else b.queueFrame 2 0xFF 1 (b.telemetryBody v)

/-- A write of MC_ALARM_RAISE (R363); kinds below 128 are the register port's to refuse. -/
def Blk.raiseAlarm (value : Word32) (b : Blk) : Blk :=
  if bits value 0 8 < 128 then b else b.alarm (bits value 0 8)

/-- A write of MC_RX_POP (R367). -/
def Blk.popRx (value : Word32) (b : Blk) : Blk :=
  if value.getLsbD 0 then b.modMc fun m => { m with rxQueue := m.rxQueue.drop 1 } else b

end Sys2Proof.Machine
end

