-- ==== Sys2Proof/Machine/Pulse.lean ====
section
/-! DEFINITION. The pulse edge (R21-R30, R92-R104): what ends with a pulse, and what every part does at the edge. -/

namespace Sys2Proof.Machine

open Sys2Proof.Config

/-! ## The end of the pulse (R22, R102) -/

/-- What reaches an agent before the edge: dispatch words, commit and squash notices; and what it releases. -/
def Blk.drainAgent (v : Env) (e : Nat) (b : Blk) : Blk :=
  let a := b.agent e
  let b := b.modAgent e fun a => { a with inWords := [], inCommits := [], inSquashes := [] }
  let b := b.forEach a.inWords fun d b => b.wordArrive v e d
  let b := b.forEach a.inCommits fun t b => b.commitAt v e t
  let b := b.forEach a.inSquashes fun t b => b.squashAt e t
  (b.release v e).flushLate e

/-- The clks of the pulse that an agent counts (Tables 5.9, 6.9, 9.14); a run that is active at its end counts whole
pulses (log 73). -/
def Blk.countClks (e : Nat) (a : Agent) (b : Blk) : Blk :=
  let active := (a.run.map Run.active).getD false
  let b := if active then b.bump (if a.shadowRun then .shadowBusyClk else .busyClk) e 64 else b
  let b := if a.stalled.isSome then b.bump .holdStallClk e 64 else b
  if a.wait.isSome then b.bump .gateClk e 64 else b

/-- The pulse that an edge ends: everything that lands before the edge has landed. The vectors that intake accepted a
pulse before are routed (R148), and a pulse that ends with a send waiting for its credit counts its clks (R161, log
73). -/
def Blk.endPulse (v : Env) (b : Blk) : Blk :=
  let b := b.forEach b.agents fun p b => b.countClks p.1 p.2
  if b.frozen then b
  else
    let b := b.takeRequests fun _ => true
    let b := b.forEach b.agents fun p b => (b.landHeld p.1).drainAgent v p.1
    let b := (b.releaseHeld.signalEffects v).finishTransport v
    let b := if b.rt.unsent.isEmpty then b else b.bump .sendStallClk 0 64
    b.routeDue v b.rt.intake.length

/-! ## Completions of router and fabric that act at the edge -/

/-- Announcements in order, until the outstanding table or the journal ring has no room for the next: each that remains
waits for the next edge and is counted, as a completion that is held over is (R224, R225, R299). -/
def Blk.sendFitting (v : Env) : List (Nat × RsigBlk × BitVec 16) → Blk → Blk
  | [], b => b
  | a :: rest, b =>
    let room := decide (b.hb.outstanding.length < 4096)
    if room && b.journalFits v 2 then (b.sendSignal v 16 a.1 a.2.1 a.2.2).sendFitting v rest
    else (b.bump (if room then .jnlFullStall else .rsTableFull) 0 (rest.length + 1)).modRt fun t =>
      { t with announces := a :: rest ++ t.announces }

/-- The SEND records of router announcements enter at the edge (R225, R301). -/
def Blk.sendAnnounces (v : Env) (b : Blk) : Blk :=
  let l := b.rt.announces
  (b.modRt fun t => { t with announces := [] }).sendFitting v l

/-- Decrements of closed sessions' CLOSE_TASK, and release bits (R163, R168). -/
def Blk.routerEdge (v : Env) (b : Blk) (r : Nat) : Blk :=
  let rc := b.reach r
  let b := b.modReach r fun rc => { rc with closeDecs := [], relNotes := [] }
  let b := b.forEach rc.closeDecs fun t b => b.edgeDecrement v t
  b.forEach rc.relNotes fun t b => b.modTask t fun x => { x with released := true }

/-! ## Gangs (R121) -/

/-- Every agent drops its held word, and the head returns to its list. -/
def Blk.withdrawGang (v : Env) (r : Nat) (g : GangSend) (b : Blk) : Blk :=
  let b := b.forEach g.engines fun e b => b.modAgent e fun a => { a with
    queue := a.queue.filter fun d => !(d.held && d.gangMember.isSome && b.headOf d.ref == g.ref) }
  (b.bump .gangWithdraw r).returnHead v g.ref

/-- Every member is presented. -/
def Blk.releaseGang (v : Env) (r : Nat) (g : GangSend) (b : Blk) : Blk :=
  let b := b.modReach r fun rc => { rc with members := rc.members ++ [(g.ref, g.engines)] }
  let b := b.forEach g.engines fun e b => b.modAgent e fun a => { a with
    queue := a.queue.map fun (d : DWord) =>
      if d.gangMember.isSome && b.headOf d.ref == g.ref then { d with held := false } else d }
  b.forEach g.engines fun e b => b.presentAt v e

/-- Release or withdraw every gang of a reach whose last word is sent; one whose head is no longer dispatched, or is
being aborted, is forgotten. -/
def Blk.gangEdge (v : Env) (b : Blk) (r : Nat) : Blk :=
  let rc := b.reach r
  let live (g : GangSend) : Bool := ((b.task? g.ref).map Task.state) == some .dispatched
    && !rc.abortRecs.any (fun a => a.ref == g.ref)
  let mine := rc.gangs.filter live
  let b := b.modReach r fun rc => { rc with gangs := mine.filter fun g => !g.unsent.isEmpty }
  b.forEach (mine.filter fun g => g.unsent.isEmpty) fun g b =>
    if g.refused then b.withdrawGang v r g else b.releaseGang v r g

/-! ## Readiness (R54, R55, R92, R95, R143) -/

/-- A task of the zero set (R100). -/
def Task.inZeroSet (x : Task) : Bool := x.state == .waiting && x.depcnt == 0 && !x.isMember

/-- The test of R54: true skips, false makes ready, none leaves the task waiting. -/
def Blk.readyTest (b : Blk) (t : TaskRef) (x : Task) : Option Bool :=
  if x.sk then some true
  else match b.predTest t.ctx x with
    | some ok => some (!ok)
    | none => none

/-- A task becomes ready. -/
def Blk.makeReady (v : Env) (t : TaskRef) (b : Blk) : Blk :=
  ((b.setState t .ready).modTask t fun x => { x.takeBank with readyEdge := v.n }).modReach t.reach fun rc =>
    { rc with becoming := rc.becoming ++ [t] }

/-- Tasks of a list that are in the zero set and get an answer from the readiness test. -/
def Blk.tested (v : Env) (b : Blk) (l : List (TaskRef × Task)) (answer : Bool) : List TaskRef :=
  (l.filter fun p => p.2.inZeroSet && !b.torn p.1.ctx && !b.armedNow v p.1.ctx && b.readyTest p.1 p.2 == some answer).map
    (·.1)

/-- A task as the test of this edge finds it now. -/
def Blk.testedNow (v : Env) (b : Blk) (t : TaskRef) (answer : Bool) : Bool :=
  match b.task? t with
  | some x => !(b.tested v [(t, x)] answer).isEmpty
  | none => false

/-- The skips of an edge in ascending order until one does not fit; those that remain, each counted by what it did not
fit (R95, R299; log 77). A skip that re-arms its task through RA with a count of zero has it tested at the same edge
(R49, R100), and a second skip of it follows the first (R92). -/
def Blk.applySkips (v : Env) (r : Nat) : List TaskRef → Blk → Blk × List TaskRef
  | [], b => (b, [])
  | t :: ts, b =>
    let stop (why : List Ctr) (b : Blk) : Blk := b.forEach (t :: ts) fun _ b => b.countHeld r why
    let fits := b.wordFits v r 0 true
    if !fits.1 then (stop fits.2 b, t :: ts)
    else
      let b := b.finishTask v t true 0
      if !b.testedNow v t true then b.applySkips v r ts
      else
        let fits := b.wordFits v r 0 true
        if fits.1 then (b.finishTask v t true 0).applySkips v r ts else (stop fits.2 b, ts)

/-- The readiness stage of a reach; `held`: a completion was held over at this edge, and no skip is decided. A task that
its skip at this edge re-arms with a count of zero is tested after it (R49, R100). -/
def Blk.readyStage (v : Env) (b : Blk) (r : Nat) (held : Bool) : Blk :=
  let zero := (b.reach r).tasks r
  let ready := b.tested v zero false
  let squashed := (b.reach r).squashed.filter fun t => ((b.task? t).map Task.state) == some .skipped
  let b := if held then b.modReach r fun rc => { rc with squashed := squashed }
    else
      let skips := lsort TaskRef.order (squashed ++ b.tested v zero true)
      let s := (b.modReach r fun rc => { rc with squashed := [] }).applySkips v r skips
      let b := s.1.modReach r fun rc => { rc with squashed := s.2.filter squashed.contains }
      b.forEach (skips.filter fun t => b.testedNow v t false) fun t b => b.makeReady v t
  b.forEach (lsort TaskRef.order ready) fun t b => b.makeReady v t

/-- List tasks committed at this edge enter the tail of their ready list if they have unclaimed tiles (R117, R142). -/
def Blk.commitLists (v : Env) (b : Blk) (r : Nat) : Blk :=
  let rc := b.reach r
  let goes (t : TaskRef) : Bool := match b.task? t with
    | some x => x.state == .dispatched && decide (0 < rc.unclaimed t x.tiles.toNat)
        && !rc.abortRecs.any (fun a => a.ref == t)
    | none => false
  (b.modReach r fun rc => { rc with committing := [] }).forEach (rc.committing.filter goes) fun t b => b.makeReady v t

/-- The list task of a record moves between ready and dispatched (R117). -/
def Blk.listUpdate (v : Env) (b : Blk) (l : ListRec) : Blk :=
  let t := l.ref
  let rc := b.reach t.reach
  let mark (dry back : Bool) (b : Blk) : Blk :=
    b.modReach t.reach fun rc => rc.modRec t fun l => { l with dry := dry, back := back }
  match b.task? t with
  | none => b
  | some x =>
    if rc.abortRecs.any (fun a => a.ref == t) then b
    else match x.state with
    | .ready =>
      if 0 < rc.unclaimed t x.tiles.toNat then mark false false b
      else if l.dry then
        ((mark false false b).setState t .dispatched).modReach t.reach fun rc => rc.unlist t
      else mark true false b
    | .dispatched =>
      if l.back then (mark false false b).returnHead v t
      else mark false (rc.pool.any fun p => p.1 == t) b
    | .idle | .waiting | .shadow | .done | .skipped | .faulted => mark false false b

/-- FILL counts on tasks that use an engine; on markers, steps and combine-closes it is ignored (R40). -/
def Task.fills (x : Task) : Bool := x.fill && !x.bare

/-- Ready-list inserts (R106): returns ahead of every task in the list, then those that become ready at its tail. -/
def Blk.insertReady (b : Blk) (r : Nat) : Blk :=
  let rc := b.reach r
  let kind (t : TaskRef) : Option Nat := (b.task? t).bind fun x =>
    if x.state ≠ .ready then none else if !x.be then some 0 else if x.fills then some 1 else some 2
  let new := lsort TaskRef.order rc.becoming
  let into (k : Nat) (l : List TaskRef) : List TaskRef :=
    rc.returning.filter (fun t => kind t == some k) ++ l ++ new.filter (fun t => kind t == some k)
  b.modReach r fun rc => { rc with
    lc := into 0 rc.lc, fillList := into 1 rc.fillList, plainList := into 2 rc.plainList, becoming := [], returning := [] }

/-! ## Statistics of the edge (Table 14.1) -/

/-- The ready-list depths of a reach, for it and for the contexts of its tasks. -/
def Blk.sampleDepths (b : Blk) (r : Nat) : Blk :=
  let rc := b.reach r
  let b := ((b.bump .lcDepthSum r rc.lc.length).bump .fillDepthSum r rc.fillList.length).bump .beDepthSum r
    rc.plainList.length
  let b := b.forEach rc.lc fun t b => b.ctxBump t.ctx 0x0F0
  b.forEach (rc.fillList ++ rc.plainList) fun t b => b.ctxBump t.ctx 0x0F8

/-! ## The data plane at an edge (R24, R92-R101) -/

/-- Completions of every reach, in order of reach; the reaches in which one was held over. -/
def Blk.completionEdge (v : Env) (b : Blk) : Blk × List Nat :=
  (List.range v.reaches).foldl (fun acc r =>
    let a := acc.1.applyCompletions v r
    (a.1, if a.2 then acc.2 ++ [r] else acc.2)) (b, [])

/-- The operations of R24, the page-ins, and the decrements that the router delivers at an edge. -/
def Blk.operations (v : Env) (b : Blk) : Blk × List Nat :=
  let rs := List.range v.reaches
  let b := b.openQueue0 v
  let b : Blk := { b with predOps := b.predOps ++ b.predNext, predNext := [] }
  let c := b.stepResults.completionEdge v
  let b := (c.1.sendAnnounces v).predStage v
  let b := b.forEach rs fun r b => (b.abortStage v r).gangEdge v r
  let b := (b.queueOps v).stepEdge v
  (b.forEach rs fun r b => (b.pageInStage v r).routerEdge v r, c.2)

/-- Readiness, list states and ready-list inserts of every reach. -/
def Blk.readiness (v : Env) (held : List Nat) (b : Blk) : Blk :=
  b.forEach (List.range v.reaches) fun r b =>
    let b := (b.readyStage v r (held.contains r)).commitLists v r
    let b := b.forEach (b.reach r).listRecs fun l b => b.listUpdate v l
    b.insertReady r

/-- The rest of the edge: paging, teardowns, queues that close, the journal, checkpoints. -/
def Blk.edgeRecords (v : Env) (b : Blk) : Blk :=
  let b := b.forEach (List.range v.reaches) fun r b => b.pageServe r
  let b := (((b.teardownEdge v).closeQueues v).stageReleases v).stageCkpt
  ((b.moveWindows v).flushJournal v).ckptEdge v

/-- The samples of an edge, and the queue timers. -/
def Blk.edgeSamples (v : Env) (b : Blk) : Blk :=
  let b := if b.sampling v then b.forEach (List.range v.reaches) fun r b => b.sampleDepths r else b
  b.tickTimers v

/-- Everything the data plane does at an edge; `ran`: the pulse just ended carried work. Latches hold every event of the
edge, its samples among them (R329). -/
def Blk.workEdge (v : Env) (ran : Bool) (b : Blk) : Blk :=
  let c := b.operations v
  let b := (c.1.readiness v c.2).edgeRecords v
  let b := if ran then b.edgeSamples v else b
  (b.takeLatches v).writeResults v

/-! ## Resume and broadcast -/

/-- A stop ends at this edge (R104): held completion words are on their way to their reaches, and the pulses of the stop
are not waiting time; what the journal's acknowledgements let go in the stop leaves now (R103). -/
def Blk.resumeEdge (v : Env) (b : Blk) : Blk :=
  if !b.db.stopped || !b.db.resumeReq then b
  else
    let gone := v.n - b.db.stopEdge
    let b := (b.resumeNow v).afterAck v
    let b := { b with agents := b.agents.map fun (p : Nat × Agent) =>
      (p.1, { p.2 with outCpl := p.2.outCpl ++ p.2.cplHold, cplHold := []
                       landDue := if p.2.cplHold.isEmpty then p.2.landDue else (p.2.outCpl ++ p.2.cplHold).length }) }
    b.forEach (List.range v.reaches) fun r b =>
      b.forEach ((b.reach r).lc ++ (b.reach r).fillList ++ (b.reach r).plainList) fun t b =>
        b.modTask t fun x => { x with readyEdge := x.readyEdge + gone }

/-- An agent at an edge: one whose engine domain is powered takes part from its first edge on (R21, R20). -/
def Agent.atEdge (n : Nat) (a : Agent) : Agent :=
  { a with joined := a.pwrGood, upEdge := if a.pwrGood && !a.joined then n else a.upEdge, hitsPulse := 0 }

/-- What an agent broadcasts (R30, R115, R121, R136, R138). -/
def Agent.broadcast (a : Agent) : Bcast :=
  if !a.joined then {}
  else { free := a.free, running := a.running.isSome, be := a.reportsBe, preempt := a.reportsPreempt
         holdBusy := a.holdBusy
         shadow := a.shadowRun, dqN := a.queue.length, idle := a.idle
         fenced := a.fenced, pwr := true }

def Blk.broadcast (b : Blk) : Blk :=
  { b with agents := b.agents.map fun (p : Nat × Agent) => (p.1, { p.2 with bcast := p.2.broadcast }) }

/-! ## The edge -/

/-- What begins with the pulse: allowances, then selection, pulls that wait, and fetches. Pulls that were held back are
answered after the selections of the pulse, agents ascending; R118 does not order them (DESIGN CHOICE, log 119). -/
def Blk.beginPulse (v : Env) (b : Blk) : Blk :=
  let allow := b.allow.getD 0
  let b := b.forEach (List.range v.reaches) fun r b => b.modReach r fun rc => { rc with
    allowLeft := allow, charged := false, hubSent := 0 }
  let b := b.modFe fun fe => { fe with startedPulse := 0 }
  let b := if b.rel.phase = 0 then b.releaseEffects v else b
  let b := b.writePi v
  if b.frozen then b
  else
    let b := b.selectAll v
    let b := b.forEach (b.agents.filter fun p => p.2.pull == .tile) fun p b => b.answerPull v p.1
    b.answerChunks.fetchAll v

/-- Edge n (R21): power first, so that its permit is that of the pulse; then the data plane, unless it is stopped; then
the management requests that take effect at the edge (R26), a stop or a block reset; then the pulse begins. -/
def Blk.edge (v : Env) (mg : Nat) (b : Blk) : Blk :=
  let ran := !b.frozen
  let b := b.modRel Rel.nextPhase
  let b := b.pgEdge v mg
  let b := b.forEach (List.range v.reaches) fun r b => b.modReach r fun rc => { rc with charges := [] }
  let b := b.modDb fun d => { d with haltSeen := d.cpHalted || d.rcHalted }
  let b : Blk := { b with agents := b.agents.map fun (p : Nat × Agent) => (p.1, p.2.atEdge v.n) }
  let b := (b.resumeEdge v).resetOver v
  let b := if b.frozen then b else b.workEdge v ran
  let b := b.mcEdge v
  let b := if b.rel.pendingCause.isSome then b.enterReset v else if b.frozen then b else b.stopNow v
  (b.csnapEdge v).broadcast.beginPulse v

/-- What the pulse brought that has no row of its own: reads of stored data that found an error and writes that failed
(R263, R315), frames that an arming could not read (R89; log 146), clks in which the fabric held back a packet (R271),
CI of the error log (R318; log 125). -/
def Blk.pulseNews (v : Env) (p : PulseIn) (b : Blk) : Blk :=
  let b := b.forEach p.frames fun x b => if x.1 < v.reaches then (b.spillHalt v x.1).tearDown x.2 stUncorrectable else b
  let b := b.modMc fun m => { m with quiet := p.segQuiet.map Int.ofNat }
  ((b.forEach p.reads fun x b => b.meet v x).bump .fabricThrottleClk 0 p.throttle).elogSeen v p.elogCi

/-- Register writes that act on other state than their register take effect (R374): the fences of RCH_TEST_n (R320), and,
`first`: EN of FE_CTL is 1 for the first time since por_n, the retirement table (R319). -/
def Blk.writesAct (v : Env) (first : Bool) (b : Blk) : Blk :=
  let b := b.forEach (List.range v.reaches) fun r b => b.fenceEdge r
  if first then b.readRetirement v b.fe.retireIn else b

/-- PULSE_EDGE (R21-R24, R374), `p.mgClks` mg_clk periods after the last edge: the pulse ends, the count and MTIME
advance, register writes take effect, and edge n follows. -/
def execPulseEdge (p : PulseIn) (s : State) : Host.Outcome State Fault Refusal :=
  let b := (s.blk.pulseNews s.env p).endPulse s.env
  let mg := max p.mgClks s.aon.since
  let aon := { s.aon with pulse := s.aon.pulse + 1, mtime := (s.aon.mtime + mg) % 2 ^ 64, since := 0 }
  let cfg := { s.cfg with active := s.cfg.stored }
  let en : Bool := ({ aon := aon, cfg := cfg } : Env).feEn
  let v : Env := { aon := aon, cfg := { cfg with frozen := cfg.frozen || en } }
  .next { s with aon := aon, cfg := v.cfg, blk := (b.writesAct v (en && !s.cfg.frozen)).edge v mg }

end Sys2Proof.Machine
end

