-- ==== Sys2Proof/Machine/Registers.lean ====
section
/-! DEFINITION. The configuration register port (R11-R14, R371-R379): every write and read, and the registers that start
something. -/

namespace Sys2Proof.Machine

open Sys2Proof.Config

/-! ## Errors -/

/-- The access error flag, with GLB_ERR_ADDR (R14). -/
def RegFile.accessError (write : Bool) (addr : Nat) (f : RegFile) : RegFile :=
  { f with accErr := true, errAddr := BitVec.ofNat 32 (addr % 2 ^ 24 + fieldAt 31 (b2n write)) }

/-- The locked-write error flag (R12, R377). -/
def RegFile.lockedWrite (addr : Nat) (f : RegFile) : RegFile :=
  { f with lockedWr := true, errAddr := BitVec.ofNat 32 (addr % 2 ^ 24 + fieldAt 30 1 + fieldAt 31 1) }

/-- A write that is discarded with ACC_ERR. -/
def State.badWrite (addr : Nat) (s : State) : State := { s with cfg := s.cfg.accessError true addr }

/-! ## Writes -/

/-- Writes that the port takes while a block reset is in phases 1 to 5 (R378). -/
def Blk.writableInReset (b : Blk) (addr : Nat) : Bool :=
  addr / 0x100000 == 0xC || addr == 0
    || (b.fe.fwState == .bootWait && (addr == 0x100100 || addr == 0x100104 || addr == 0x100108 || addr == 0x10010C))

/-- Store the writable bits of an RW or RWL register. -/
def RegFile.store (g : Grade) (addr : Nat) (mask data : Word32) (f : RegFile) : RegFile :=
  { f with stored := tput f.stored addr ((f.storedAt g addr &&& ~~~mask) ||| (data &&& mask)) }

/-- What a stored write starts at once; everything else acts at the coming edge (R374). With a write of FE_CTL comes the
retirement table, for the edge at which EN first becomes 1 (R319). -/
def Blk.wrote (addr : Nat) (data : Word32) (retire : List (BitVec 64)) (b : Blk) : Blk :=
  if addr = 0x100000 then b.modFe fun fe => { fe with retireIn := retire }
  else if addr = 0xC00000 then b.setSegEn (data.getLsbD 0)
  else b

/-- The action of a WO register (R208, R338, R342, R350, R363, R367). -/
def Blk.act (v : Env) (addr : Nat) (data : Word32) (b : Blk) : Blk :=
  match addr with
  | 0x10010C => if data.getLsbD 0 then b.fwGo v else b
  | 0xB00030 => if data.getLsbD 0 then b.snapResume else b
  | 0xB00054 =>
    let b := if data.getLsbD 0 then b.bpResume v .cp else b
    if data.getLsbD 1 then b.bpResume v .rc else b
  | 0xC00024 => b.reqGo v data
  | 0xC00050 => b.raiseAlarm data
  | 0xC00058 => b.popRx data
  | _ => b

/-- The reach whose RCH_TEST_n an offset is. -/
def testReach (addr : Nat) : Option Nat :=
  if 0x200000 ≤ addr ∧ addr < 0x400000 ∧ addr % 0x1000 = 0x44 then some ((addr - 0x200000) / 0x1000) else none

/-- A write of GLB_LOCK (R376). -/
def State.setLock (data : Word32) (s : State) : State :=
  if !data.getLsbD 0 then s
  else if s.env.feEn && s.blk.fe.fwState == .running then { s with cfg := { s.cfg with lock := true } }
  else s.badWrite 4

/-- A write to an existing register that the port serves, by its access type (R11, R12, R377). -/
def State.writeReg (addr : Nat) (r : Reg) (data : Word32) (retire : List (BitVec 64)) (s : State) : State :=
  let put : State :=
    { s with cfg := s.cfg.store s.aon.grade addr r.mask data, blk := s.blk.wrote addr data retire }
  match r.access with
  | .ro => s
  | .status =>
    { s with cfg := { s.cfg with accErr := s.cfg.accErr && !data.getLsbD 0, lockedWr := s.cfg.lockedWr && !data.getLsbD 1 } }
  | .w1s => s.setLock data
  | .w1c => { s with blk := s.blk.modRt fun t => { t with err := t.err &&& ~~~(data.setWidth 3) } }
  | .wo =>
    if addr = 0xC00050 ∧ bits data 0 8 < 128 then s.badWrite addr else { s with blk := s.blk.act s.env addr data }
  | .rw =>
    match testReach addr with
    | some k => { s with blk := s.blk.testWrite k data }
    | none => put
  | .rwl =>
    if s.cfg.lock || (s.cfg.frozen && frozenByEn addr) then { s with cfg := s.cfg.lockedWrite addr } else put

/-- What a write does: `be` are its byte enables (R13, R14, R274, R378). A write to an offset with no register is
discarded without error (R13), but during a block reset, when every write that the port discards sets ACC_ERR (R378;
DESIGN CHOICE, log 147). -/
def State.takeWrite (addr : Nat) (data : Word32) (be : BitVec 4) (retire : List (BitVec 64)) (s : State) : State :=
  if be ≠ 0xF ∨ addr % 4 ≠ 0 then s.badWrite addr
  else match regAt s.aon.grade addr with
    | none => if s.blk.resetting then s.badWrite addr else s
    | some r =>
      if !s.env.powered addr || (s.blk.resetting && !s.blk.writableInReset addr) then s.badWrite addr
      else s.writeReg addr r data retire

/-- Every write that the port receives, answered by its response (R274, R374). -/
def State.portWrite (addr : Nat) (data : Word32) (be : BitVec 4) (retire : List (BitVec 64)) (s : State) : State :=
  let t := s.takeWrite addr data be retire
  { t with blk := t.blk.emit (.regWritten (BitVec.ofNat 24 addr)) }

/-- REGISTER_WRITE (R374): a write to a register without a row of its own; one to another register acts as its row's
does (log 74). -/
def execRegisterWrite (addr : BitVec 24) (data : BitVec 32) (be : BitVec 4) (s : State) : Host.Outcome State Fault Refusal :=
  .next (s.portWrite addr.toNat data be [])

/-- FE_CTL_EN (R209, R319, R377): a write of FE_CTL; `retire` is the retirement table. -/
def execFeCtlEn (value : BitVec 32) (retire : List (BitVec 64)) (s : State) : Host.Outcome State Fault Refusal :=
  .next (s.portWrite 0x100000 value 0xF retire)

/-- GLB_LOCK (R376). -/
def execGlbLock (value : BitVec 32) (s : State) : Host.Outcome State Fault Refusal :=
  .next (s.portWrite 0x4 value 0xF [])

/-- PG_CTL_EN (R284, R289): a write of PG_CTL; metering starts at the following edge. -/
def execPgCtlEn (value : BitVec 32) (s : State) : Host.Outcome State Fault Refusal :=
  .next (s.portWrite 0xA00000 value 0xF [])

/-- MC_SEG_CTL_EN (R359). -/
def execMcSegCtlEn (value : BitVec 32) (s : State) : Host.Outcome State Fault Refusal :=
  .next (s.portWrite 0xC00000 value 0xF [])

/-- FE_FW_CTL_GO (R208). -/
def execFeFwCtlGo (value : BitVec 32) (s : State) : Host.Outcome State Fault Refusal :=
  .next (s.portWrite 0x10010C value 0xF [])

/-- DB_SNAP_RESUME_GO (R338). -/
def execDbSnapResumeGo (value : BitVec 32) (s : State) : Host.Outcome State Fault Refusal :=
  .next (s.portWrite 0xB00030 value 0xF [])

/-- DB_BP_RESUME (R342). -/
def execDbBpResume (value : BitVec 32) (s : State) : Host.Outcome State Fault Refusal :=
  .next (s.portWrite 0xB00054 value 0xF [])

/-- MC_REQ_GO (R350). -/
def execMcReqGo (value : BitVec 32) (s : State) : Host.Outcome State Fault Refusal :=
  .next (s.portWrite 0xC00024 value 0xF [])

/-- MC_ALARM_RAISE (R363). -/
def execMcAlarmRaise (value : BitVec 32) (s : State) : Host.Outcome State Fault Refusal :=
  .next (s.portWrite 0xC00050 value 0xF [])

/-- MC_RX_POP (R367). -/
def execMcRxPop (value : BitVec 32) (s : State) : Host.Outcome State Fault Refusal :=
  .next (s.portWrite 0xC00058 value 0xF [])

/-- A write of RCH_TEST_n, n up to 15 (R320); at a reach that the grade lacks there is no such register (R13). -/
def testRow (r : Nat) (value : Word32) (s : State) : Host.Outcome State Fault Refusal :=
  if r < 16 then .next (s.portWrite (0x200044 + 0x1000 * r) value 0xF []) else .next s

/-- RCH_TEST_FENCE: FENCE is written 1. -/
def execRchTestFence (r : Nat) (s : State) : Host.Outcome State Fault Refusal := testRow r 1 s

/-- RCH_TEST_START: START is written 1, with FENCE as it was written last. -/
def execRchTestStart (r : Nat) (s : State) : Host.Outcome State Fault Refusal :=
  testRow r (BitVec.ofNat 32 (2 + b2n ((s.blk.reach r).fenceIn.getD (s.blk.reach r).fence))) s

/-! ## Reads -/

/-- A read of an aligned word of a powered domain: the value, and the captures after it (R373). -/
def State.readReg (addr : Nat) (s : State) : Word32 × Tbl Word32 :=
  let now := s.blk.regNow s.env addr
  match s.blk.roPair s.env addr with
  | some x => (now, tput s.cfg.capture addr (BitVec.ofNat 32 (bits x 32 32)))
  | none => match tget s.cfg.capture (addr - 4) with
    | some x => if 4 ≤ addr then (x, tdel s.cfg.capture (addr - 4)) else (now, s.cfg.capture)
    | none => (now, s.cfg.capture)

/-- Every read that the port receives: `be` are its byte enables (R14, R274). -/
def State.portRead (addr : Nat) (be : BitVec 4) (s : State) : State :=
  if be ≠ 0xF ∨ addr % 4 ≠ 0 ∨ ((regAt s.aon.grade addr).isSome ∧ !s.env.powered addr) then
    { s with cfg := s.cfg.accessError false addr, blk := s.blk.emit (.regRead (BitVec.ofNat 24 addr) 0) }
  else
    let r := s.readReg addr
    { s with cfg := { s.cfg with capture := r.2 }, blk := s.blk.emit (.regRead (BitVec.ofNat 24 addr) r.1) }

/-- REGISTER_READ_CAPTURE (R373): a read of a whole word. -/
def execRegisterReadCapture (addr : BitVec 24) (s : State) : Host.Outcome State Fault Refusal :=
  .next (s.portRead addr.toNat 0xF)

/-- REGISTER_ACCESS_ERROR (R14, R274): a read of any width, alignment and domain. -/
def execRegisterAccessError (addr : BitVec 24) (be : BitVec 4) (s : State) : Host.Outcome State Fault Refusal :=
  .next (s.portRead addr.toNat be)

end Sys2Proof.Machine
end

