-- ==== Sys2Proof/Machine/Dispatch.lean ====
section
/-! DEFINITION. exec: one arm for each command. -/

namespace Sys2Proof.Machine

/-- The effect of a command on everything but the queue of waiting commands. -/
def exec (i : Instr) (s : State) : Host.Outcome State Fault Refusal :=
  match i with
  | .powerOnReset dieId station lanternOk makerEn => Sys2Proof.Machine.execPowerOnReset dieId station lanternOk makerEn s
  | .domainPowerAck d level => Sys2Proof.Machine.execDomainPowerAck d level s
  | .pulseEdge p => Sys2Proof.Machine.execPulseEdge p s
  | .stepRequest r => Sys2Proof.Machine.execStepRequest r s
  | .edgeRead r => Sys2Proof.Machine.execEdgeRead r s
  | .outboxSend dst => Sys2Proof.Machine.execOutboxSend dst s
  | .unitApply dst => Sys2Proof.Machine.execUnitApply dst s
  | .ledgerRmw r ok => Sys2Proof.Machine.execLedgerRmw r ok s
  | .pageInComplete r ok => Sys2Proof.Machine.execPageInComplete r ok s
  | .pageOutComplete r ok => Sys2Proof.Machine.execPageOutComplete r ok s
  | .backwaterBlockLoad r ctx => Sys2Proof.Machine.execBackwaterBlockLoad r ctx s
  | .dispatchWordArrive e => Sys2Proof.Machine.execDispatchWordArrive e s
  | .dispatchPresent e => Sys2Proof.Machine.execDispatchPresent e s
  | .engineTakeDispatch e => Sys2Proof.Machine.execEngineTakeDispatch e s
  | .engineCompletion e word => Sys2Proof.Machine.execEngineCompletion e word s
  | .completionLand e => Sys2Proof.Machine.execCompletionLand e s
  | .engineAbortAck e => Sys2Proof.Machine.execEngineAbortAck e s
  | .preemptionNoticeLand e => Sys2Proof.Machine.execPreemptionNoticeLand e s
  | .abortRequest e => Sys2Proof.Machine.execAbortRequest e s
  | .abortReplyLand e => Sys2Proof.Machine.execAbortReplyLand e s
  | .tilePull e => Sys2Proof.Machine.execTilePull e s
  | .tilePullRetry e => Sys2Proof.Machine.execTilePullRetry e s
  | .cyclicTableSwitch => Sys2Proof.Machine.execCyclicTableSwitch s
  | .holdItem e item => Sys2Proof.Machine.execHoldItem e item s
  | .commitNotice e => Sys2Proof.Machine.execCommitNotice e s
  | .releaseItemAck e => Sys2Proof.Machine.execReleaseItemAck e s
  | .squashNotice e => Sys2Proof.Machine.execSquashNotice e s
  | .scoreVector e hdr beats rsd => Sys2Proof.Machine.execScoreVector e hdr beats rsd s
  | .tokenRoute => Sys2Proof.Machine.execTokenRoute s
  | .chunkBind slot => Sys2Proof.Machine.execChunkBind slot s
  | .sendDone e sendId => Sys2Proof.Machine.execSendDone e sendId s
  | .deferredSendIssue slot => Sys2Proof.Machine.execDeferredSendIssue slot s
  | .tileRelease slot row tile => Sys2Proof.Machine.execTileRelease slot row tile s
  | .routerNoticeLand r => Sys2Proof.Machine.execRouterNoticeLand r s
  | .chunkPull e => Sys2Proof.Machine.execChunkPull e s
  | .sessionClosePoint slot => Sys2Proof.Machine.execSessionClosePoint slot s
  | .sessionClose slot => Sys2Proof.Machine.execSessionClose slot s
  | .closeWritesAcked slot ok => Sys2Proof.Machine.execCloseWritesAcked slot ok s
  | .announcementReceive => Sys2Proof.Machine.execAnnouncementReceive s
  | .doorbellPollDue => Sys2Proof.Machine.execDoorbellPollDue s
  | .writeMonitorHint => Sys2Proof.Machine.execWriteMonitorHint s
  | .deferredPollStart => Sys2Proof.Machine.execDeferredPollStart s
  | .summaryReadDone words err => Sys2Proof.Machine.execSummaryReadDone words err s
  | .bellAndDone q err => Sys2Proof.Machine.execBellAndDone q err s
  | .piReadDone q pi err => Sys2Proof.Machine.execPiReadDone q pi err s
  | .descriptorFetchDone q d err => Sys2Proof.Machine.execDescriptorFetchDone q d err s
  | .nop q => Sys2Proof.Machine.execNop q s
  | .launchGraph q handles patches rsp => Sys2Proof.Machine.execLaunchGraph q handles patches rsp s
  | .loadImage q => Sys2Proof.Machine.execLoadImage q s
  | .imageReadDone image handles rsp => Sys2Proof.Machine.execImageReadDone image handles rsp s
  | .loadImageWritesAcked ok => Sys2Proof.Machine.execLoadImageWritesAcked ok s
  | .patch q records rsp => Sys2Proof.Machine.execPatch q records rsp s
  | .waitValue q => Sys2Proof.Machine.execWaitValue q s
  | .waitValuePoll q => Sys2Proof.Machine.execWaitValuePoll q s
  | .waitValueReadDone q value err => Sys2Proof.Machine.execWaitValueReadDone q value err s
  | .writeValue q => Sys2Proof.Machine.execWriteValue q s
  | .writeValueAck q err => Sys2Proof.Machine.execWriteValueAck q err s
  | .markBegin q => Sys2Proof.Machine.execMarkBegin q s
  | .markEnd q => Sys2Proof.Machine.execMarkEnd q s
  | .step q lists err => Sys2Proof.Machine.execStep q lists err s
  | .contextCreate q record groupMap => Sys2Proof.Machine.execContextCreate q record groupMap s
  | .contextDestroy q => Sys2Proof.Machine.execContextDestroy q s
  | .queueCreate q => Sys2Proof.Machine.execQueueCreate q s
  | .queueDestroy q => Sys2Proof.Machine.execQueueDestroy q s
  | .dumpTensor q => Sys2Proof.Machine.execDumpTensor q s
  | .reservedOpcode q => Sys2Proof.Machine.execReservedOpcode q s
  | .queueTimeout q => Sys2Proof.Machine.execQueueTimeout q s
  | .feFwCtlGo value => Sys2Proof.Machine.execFeFwCtlGo value s
  | .firmwareLoadDone image err => Sys2Proof.Machine.execFirmwareLoadDone image err s
  | .cpTrap core => Sys2Proof.Machine.execCpTrap core s
  | .cpHeartbeatSilent => Sys2Proof.Machine.execCpHeartbeatSilent s
  | .syncRead e id => Sys2Proof.Machine.execSyncRead e id s
  | .syncAdd e id delta => Sys2Proof.Machine.execSyncAdd e id delta s
  | .syncWaitGe e id threshold => Sys2Proof.Machine.execSyncWaitGe e id threshold s
  | .syncWaitEq e id value => Sys2Proof.Machine.execSyncWaitEq e id value s
  | .syncTake e id amount => Sys2Proof.Machine.execSyncTake e id amount s
  | .syncRsig e blk => Sys2Proof.Machine.execSyncRsig e blk s
  | .syncReservedOp e => Sys2Proof.Machine.execSyncReservedOp e s
  | .operationClassReserved e => Sys2Proof.Machine.execOperationClassReserved e s
  | .dmaCompletionSignal e id delta => Sys2Proof.Machine.execDmaCompletionSignal e id delta s
  | .journalAck slots err => Sys2Proof.Machine.execJournalAck slots err s
  | .signalResend stream seq => Sys2Proof.Machine.execSignalResend stream seq s
  | .signalAckReceive pkt => Sys2Proof.Machine.execSignalAckReceive pkt s
  | .signalReceive pkt => Sys2Proof.Machine.execSignalReceive pkt s
  | .fabricCountPush push => Sys2Proof.Machine.execFabricCountPush push s
  | .releaseEffect => Sys2Proof.Machine.execReleaseEffect s
  | .epochQuery e stream => Sys2Proof.Machine.execEpochQuery e stream s
  | .fabricTelemetry report => Sys2Proof.Machine.execFabricTelemetry report s
  | .connect e index statAddr => Sys2Proof.Machine.execConnect e index statAddr s
  | .accept e index rlog persist autorel statAddr => Sys2Proof.Machine.execAccept e index rlog persist autorel statAddr s
  | .send e chId payload => Sys2Proof.Machine.execSend e chId payload s
  | .read e chId ecc => Sys2Proof.Machine.execRead e chId ecc s
  | .mark e chId => Sys2Proof.Machine.execMark e chId s
  | .rewind e chId => Sys2Proof.Machine.execRewind e chId s
  | .release e chId => Sys2Proof.Machine.execRelease e chId s
  | .close e chId => Sys2Proof.Machine.execClose e chId s
  | .fanout e index ids => Sys2Proof.Machine.execFanout e index ids s
  | .cbOpen e argix block => Sys2Proof.Machine.execCbOpen e argix block s
  | .cbQueueOpen ctx queue => Sys2Proof.Machine.execCbQueueOpen ctx queue s
  | .cbPut e p => Sys2Proof.Machine.execCbPut e p s
  | .channelReservedOp e => Sys2Proof.Machine.execChannelReservedOp e s
  | .slotCombine ctx queue slot rows => Sys2Proof.Machine.execSlotCombine ctx queue slot rows s
  | .combineCloseDone ctx queue => Sys2Proof.Machine.execCombineCloseDone ctx queue s
  | .enginePowerGood e level => Sys2Proof.Machine.execEnginePowerGood e level s
  | .controlEdge => Sys2Proof.Machine.execControlEdge s
  | .droopCalibrationPeriod => Sys2Proof.Machine.execDroopCalibrationPeriod s
  | .pgPowerSample mw => Sys2Proof.Machine.execPgPowerSample mw s
  | .droopEvent pins => Sys2Proof.Machine.execDroopEvent pins s
  | .supplyLevelChange v => Sys2Proof.Machine.execSupplyLevelChange v s
  | .sagHoldExpiry => Sys2Proof.Machine.execSagHoldExpiry s
  | .boostGrant level => Sys2Proof.Machine.execBoostGrant level s
  | .pgCtlEn value => Sys2Proof.Machine.execPgCtlEn value s
  | .checkpointBegin => Sys2Proof.Machine.execCheckpointBegin s
  | .checkpointEnd => Sys2Proof.Machine.execCheckpointEnd s
  | .teardownDeadline ctx => Sys2Proof.Machine.execTeardownDeadline ctx s
  | .blkResetReq => Sys2Proof.Machine.execBlkResetReq s
  | .blockReset sweepBad => Sys2Proof.Machine.execBlockReset sweepBad s
  | .resetDrainExpiry => Sys2Proof.Machine.execResetDrainExpiry s
  | .resetPhaseEnd2 retire => Sys2Proof.Machine.execResetPhaseEnd2 retire s
  | .journalReplay => Sys2Proof.Machine.execJournalReplay s
  | .resetResume => Sys2Proof.Machine.execResetResume s
  | .scrubPage mem page word ci ecc => Sys2Proof.Machine.execScrubPage mem page word ci ecc s
  | .rchTestFence r => Sys2Proof.Machine.execRchTestFence r s
  | .rchTestStart r => Sys2Proof.Machine.execRchTestStart r s
  | .selfTestDone r fail => Sys2Proof.Machine.execSelfTestDone r fail s
  | .census e fmt values ovf van nan => Sys2Proof.Machine.execCensus e fmt values ovf van nan s
  | .censusClose e slot fmask kmask addr => Sys2Proof.Machine.execCensusClose e slot fmask kmask addr s
  | .watchFetch e => Sys2Proof.Machine.execWatchFetch e s
  | .watchHit e addr widx wkind => Sys2Proof.Machine.execWatchHit e addr widx wkind s
  | .debugReservedOp e => Sys2Proof.Machine.execDebugReservedOp e s
  | .timeRecord => Sys2Proof.Machine.execTimeRecord s
  | .loadMapSample => Sys2Proof.Machine.execLoadMapSample s
  | .snapshotWritesAcked ok => Sys2Proof.Machine.execSnapshotWritesAcked ok s
  | .dbSnapResumeGo value => Sys2Proof.Machine.execDbSnapResumeGo value s
  | .breakpointHalt core ix => Sys2Proof.Machine.execBreakpointHalt core ix s
  | .dbBpResume value => Sys2Proof.Machine.execDbBpResume value s
  | .dumpCopyDone => Sys2Proof.Machine.execDumpCopyDone s
  | .traceWriteAck records ci ok => Sys2Proof.Machine.execTraceWriteAck records ci ok s
  | .identityRead => Sys2Proof.Machine.execIdentityRead s
  | .statusRead => Sys2Proof.Machine.execStatusRead s
  | .counterSnapshot => Sys2Proof.Machine.execCounterSnapshot s
  | .hangSnapshot => Sys2Proof.Machine.execHangSnapshot s
  | .powerShedControl => Sys2Proof.Machine.execPowerShedControl s
  | .traceFlush => Sys2Proof.Machine.execTraceFlush s
  | .mgmtBlockReset => Sys2Proof.Machine.execMgmtBlockReset s
  | .makerPortRequest => Sys2Proof.Machine.execMakerPortRequest s
  | .mcReservedOp => Sys2Proof.Machine.execMcReservedOp s
  | .mcOperationTimeout => Sys2Proof.Machine.execMcOperationTimeout s
  | .mcReqGo value => Sys2Proof.Machine.execMcReqGo value s
  | .mcSegCtlEn value => Sys2Proof.Machine.execMcSegCtlEn value s
  | .probeSend => Sys2Proof.Machine.execProbeSend s
  | .listenTimeout => Sys2Proof.Machine.execListenTimeout s
  | .electionBeacon => Sys2Proof.Machine.execElectionBeacon s
  | .beaconSend => Sys2Proof.Machine.execBeaconSend s
  | .beaconMissed => Sys2Proof.Machine.execBeaconMissed s
  | .beacon frame => Sys2Proof.Machine.execBeacon frame s
  | .request frame => Sys2Proof.Machine.execRequest frame s
  | .alarm frame => Sys2Proof.Machine.execAlarm frame s
  | .telemetry frame => Sys2Proof.Machine.execTelemetry frame s
  | .log frame => Sys2Proof.Machine.execLog frame s
  | .response frame => Sys2Proof.Machine.execResponse frame s
  | .probe frame => Sys2Proof.Machine.execProbe frame s
  | .frameTransmit starTime carrierLow => Sys2Proof.Machine.execFrameTransmit starTime carrierLow s
  | .reflectionCheck received echo => Sys2Proof.Machine.execReflectionCheck received echo s
  | .backoffExpiry => Sys2Proof.Machine.execBackoffExpiry s
  | .alarmFreeze => Sys2Proof.Machine.execAlarmFreeze s
  | .telemetryBuild => Sys2Proof.Machine.execTelemetryBuild s
  | .mcAlarmRaise value => Sys2Proof.Machine.execMcAlarmRaise value s
  | .mcRxPop value => Sys2Proof.Machine.execMcRxPop value s
  | .feCtlEn value retire => Sys2Proof.Machine.execFeCtlEn value retire s
  | .glbLock value => Sys2Proof.Machine.execGlbLock value s
  | .registerWrite addr data be => Sys2Proof.Machine.execRegisterWrite addr data be s
  | .registerReadCapture addr => Sys2Proof.Machine.execRegisterReadCapture addr s
  | .statusRecordWriteResponse q isResult err => Sys2Proof.Machine.execStatusRecordWriteResponse q isResult err s
  | .counterSnapshotWritesAcked ok => Sys2Proof.Machine.execCounterSnapshotWritesAcked ok s
  | .chunkClaimable slot chunk => Sys2Proof.Machine.execChunkClaimable slot chunk s
  | .stretchRequestEnd pins => Sys2Proof.Machine.execStretchRequestEnd pins s
  | .discardedFrame frame words => Sys2Proof.Machine.execDiscardedFrame frame words s
  | .registerAccessError addr be => Sys2Proof.Machine.execRegisterAccessError addr be s

end Sys2Proof.Machine
end

