-- ==== Sys2Proof/WellFormed.lean ====
section
/-! DEFINITION. Which commands name a unit that some grade has, and carry operands of the widths the spec gives (R2,
R73, R139, R179, R198, R342, R353). A command about a number that the grade lacks has no effect (log 9). -/

namespace Sys2Proof

/-- Operands of a held item (Table 6.3): a memory write carries 1 to 256 bytes. -/
def HoldItem.wf : HoldItem → Bool
  | .memWrite _ d => decide (1 ≤ d.length) && decide (d.length ≤ 256)
  | .syncSignal _ _ | .chanSend _ _ | .chanMove _ _ | .contribution _ | .combineOpen _ _ | .remoteSignal _
  | .dmaSignal _ _ | .completion _ => true

def engineOk (e : Nat) : Bool := decide (e < 2048)
def reachOk (r : Nat) : Bool := decide (r < 16)
def queueOk (q : Nat) : Bool := decide (q < 1024)
def contextOk (c : Nat) : Bool := decide (c < 64)
def slotOk (k : Nat) : Bool := decide (k < 4)

/-- A command is well formed. -/
def Instr.wf : Instr → Bool
  | .powerOnReset _ _ _ _ => true
  | .domainPowerAck d _ => decide (d < 20)
  | .pulseEdge p => p.reads.all fun x => decide (x.mem < 38)
  | .stepRequest r | .edgeRead r => reachOk r
  | .outboxSend d | .unitApply d => reachOk d
  | .ledgerRmw r _ | .pageInComplete r _ | .pageOutComplete r _ => reachOk r
  | .backwaterBlockLoad r c => reachOk r && contextOk c
  | .dispatchWordArrive e | .dispatchPresent e | .engineTakeDispatch e => engineOk e
  | .engineCompletion e _ => engineOk e
  | .completionLand e | .engineAbortAck e | .preemptionNoticeLand e | .abortRequest e | .abortReplyLand e => engineOk e
  | .tilePull e | .tilePullRetry e => engineOk e
  | .cyclicTableSwitch => true
  | .holdItem e i => engineOk e && i.wf
  | .commitNotice e | .releaseItemAck e | .squashNotice e => engineOk e
  | .scoreVector e _ beats _ => engineOk e && decide (beats.length ≤ 16)
  | .tokenRoute => true
  | .chunkBind k => slotOk k
  | .sendDone e _ => engineOk e
  | .deferredSendIssue k => slotOk k
  | .tileRelease k row tile => slotOk k && decide (row < 256) && decide (tile < 65536)
  | .routerNoticeLand r => reachOk r
  | .chunkPull e => engineOk e
  | .sessionClosePoint k | .sessionClose k => slotOk k
  | .closeWritesAcked k _ => slotOk k
  | .announcementReceive => true
  | .doorbellPollDue | .writeMonitorHint | .deferredPollStart => true
  | .summaryReadDone ws _ => ws.length == 16
  | .bellAndDone q _ => queueOk q
  | .piReadDone q _ _ => queueOk q
  | .descriptorFetchDone q _ _ => queueOk q
  | .nop q => queueOk q
  | .launchGraph q _ _ _ => queueOk q
  | .loadImage q => queueOk q
  | .imageReadDone _ _ _ | .loadImageWritesAcked _ => true
  | .patch q _ _ => queueOk q
  | .waitValue q | .waitValuePoll q => queueOk q
  | .waitValueReadDone q _ _ => queueOk q
  | .writeValue q => queueOk q
  | .writeValueAck q _ => queueOk q
  | .markBegin q | .markEnd q => queueOk q
  | .step q _ _ => queueOk q
  | .contextCreate q r g => queueOk q && r.length == 256 && g.length == 256
  | .contextDestroy q | .queueCreate q | .queueDestroy q | .dumpTensor q | .reservedOpcode q | .queueTimeout q => queueOk q
  | .feFwCtlGo _ | .firmwareLoadDone _ _ | .cpTrap _ | .cpHeartbeatSilent => true
  | .syncRead e _ => engineOk e
  | .syncAdd e _ _ | .syncWaitGe e _ _ | .syncWaitEq e _ _ | .syncTake e _ _ => engineOk e
  | .syncRsig e _ => engineOk e
  | .syncReservedOp e | .operationClassReserved e => engineOk e
  | .dmaCompletionSignal e _ _ => engineOk e
  | .journalAck _ _ | .signalResend _ _ | .signalAckReceive _ | .signalReceive _ | .fabricCountPush _ | .releaseEffect => true
  | .epochQuery e _ => engineOk e
  | .fabricTelemetry _ => true
  | .connect e i _ => engineOk e && decide (i < 65536)
  | .accept e i _ _ _ _ => engineOk e && decide (i < 65536)
  | .send e _ _ => engineOk e
  | .read e _ _ => engineOk e
  | .mark e _ | .rewind e _ | .release e _ | .close e _ => engineOk e
  | .fanout e i _ => engineOk e && decide (i < 65536)
  | .cbOpen e _ _ => engineOk e
  | .cbQueueOpen c _ => contextOk c
  | .cbPut e _ => engineOk e
  | .channelReservedOp e => engineOk e
  | .slotCombine c _ _ _ => contextOk c
  | .combineCloseDone c _ => contextOk c
  | .enginePowerGood e _ => engineOk e
  | .controlEdge | .droopCalibrationPeriod | .pgPowerSample _ | .droopEvent _ | .supplyLevelChange _ => true
  | .sagHoldExpiry | .boostGrant _ | .pgCtlEn _ => true
  | .checkpointBegin | .checkpointEnd => true
  | .teardownDeadline c => contextOk c
  | .blkResetReq | .blockReset _ | .resetDrainExpiry | .resetPhaseEnd2 _ | .journalReplay | .resetResume => true
  | .scrubPage m _ _ _ _ => decide (m < 256)
  | .rchTestFence r | .rchTestStart r => reachOk r
  | .selfTestDone r _ => reachOk r
  | .census e _ _ _ _ _ => engineOk e
  | .censusClose e _ _ _ _ => engineOk e
  | .watchFetch e => engineOk e
  | .watchHit e _ _ _ => engineOk e
  | .debugReservedOp e => engineOk e
  | .timeRecord | .loadMapSample | .snapshotWritesAcked _ | .dbSnapResumeGo _ => true
  | .breakpointHalt _ i => decide (i < 4)
  | .dbBpResume _ | .dumpCopyDone | .traceWriteAck _ _ _ => true
  | .identityRead | .statusRead | .counterSnapshot | .hangSnapshot | .powerShedControl | .traceFlush => true
  | .mgmtBlockReset | .makerPortRequest | .mcReservedOp | .mcOperationTimeout | .mcReqGo _ => true
  | .mcSegCtlEn _ | .probeSend | .listenTimeout | .electionBeacon | .beaconSend | .beaconMissed => true
  | .beacon f | .request f | .alarm f | .telemetry f | .log f | .response f | .probe f => decide (f.length ≤ 2048)
  | .frameTransmit _ _ | .reflectionCheck _ _ | .backoffExpiry | .alarmFreeze | .telemetryBuild => true
  | .mcAlarmRaise _ | .mcRxPop _ | .feCtlEn _ _ | .glbLock _ | .registerWrite _ _ _ | .registerReadCapture _ => true
  | .statusRecordWriteResponse q _ _ => queueOk q
  | .counterSnapshotWritesAcked _ => true
  | .chunkClaimable k _ => slotOk k
  | .stretchRequestEnd _ => true
  | .discardedFrame _ _ => true
  | .registerAccessError _ _ => true

end Sys2Proof
end

