-- ==== Sys2Proof/Safety.lean ====
section
/-! DEFINITION. The terms that the statements use: invariants of the state, the conditions under which a command has its
own effect, and what may be said of the state after it. -/

namespace Sys2Proof.Machine

open Sys2Proof.Config

/-- The command completes: exec answers a next state, of which `P` holds. -/
def Does (c : Instr) (s : State) (P : State → Prop) : Prop := ∃ t, exec c s = .next t ∧ P t

/-- Time, identity, registers and the queue are as they were: only the block changed. -/
def OnlyBlk (s t : State) : Prop := t.aon = s.aon ∧ t.cfg = s.cfg ∧ t.pending = s.pending

/-- Channel memory is in its canonical form: addresses strictly rising, no byte equal to what an unlisted address reads
as. -/
def Memory.wf (m : List Host.Cell) : Bool := twf 0 m

/-- Every byte of channel memory reads as before. -/
def SameMemory (b b' : Blk) : Prop := ∀ a, b'.hb.readByte a = b.hb.readByte a

/-- A table of register values is sound for a grade: a value stands at an RW or RWL register of the grade alone, and its
reserved bits are those of the Reset column (R13, R372). -/
def soundRegs (g : Grade) (t : Tbl Word32) : Prop :=
  ∀ off w, tget t off = some w →
    ∃ r, regAt g off = some r ∧ (r.access = .rw ∨ r.access = .rwl) ∧ w &&& ~~~r.mask = r.reset &&& ~~~r.mask

/-- The invariant of the register file: what the port holds and what the block acts on are sound. -/
def RegInv (s : State) : Prop := soundRegs s.aon.grade s.cfg.stored ∧ soundRegs s.aon.grade s.cfg.active

/-- The register port serves a write of an offset: its domain is powered, and no block reset is under way (R371, R378). -/
def PortOpen (s : State) (addr : Nat) : Prop := s.env.powered addr = true ∧ s.blk.resetting = false

/-- Engine `e` has the active run `r` and neither waits nor stalls, in a data plane that works: an operation of its port
acts (R215, R219, R266). -/
structure RunsAt (s : State) (e : Nat) (r : Run) : Prop where
  engine  : e < s.aon.grade.engines
  moving  : s.blk.frozen = false
  run     : (s.blk.agent e).run = some r
  active  : r.active = true
  nowait  : (s.blk.agent e).wait = none
  nostall : (s.blk.agent e).stalled = none

/-- Unit `u` is the only one on its way in the block, and has arrived at reach `dst`; the data plane works. -/
structure OnlyUnit (s : State) (dst : Nat) (u : XUnit) : Prop where
  moving  : s.blk.frozen = false
  arrived : (s.blk.reach dst).arrivals = [u]
  backlog : ∀ r, (s.blk.reach r).backlog = []
  outbox  : ∀ r d, tgetD [] (s.blk.reach r).outbox d = []

/-- A run whose completion word carries a status, unless its own ranks higher (R16). -/
def Run.faulted (r : Run) (status : BitVec 8) : Run :=
  { r with status := if statusRank status < statusRank r.status then status else r.status }

/-- Task `k` is resident once: the tables of its reach are in order, and no other entry of the reach has its name. -/
structure Once (b : Blk) (k : TaskRef) : Prop where
  blocks  : tsorted none (b.reach k.reach).blocks = true
  entries : ∀ p ∈ (b.reach k.reach).blocks, tsorted none p.2.entries = true
  one     : ∀ x, b.task? k = some x → ((b.reach k.reach).tasks k.reach).filter (fun p => p.1 == k) = [(k, x)]

/-- The gang head `z`, an entry of task `h`, has `k` among its members (R42). -/
def Covers (h : TaskRef) (z : Task) (k : TaskRef) : Prop :=
  z.kind = .gang ∧ z.gangHead = true ∧ ∃ m, 0 < m ∧ m < z.gang.toNat ∧ h.plus m = k

/-- Task `k` can be followed through an edge: it is resident once, the block that is being paged in to its reach is
another one of its context, whose entries have numbers below 256, and no gang head has it among its members. -/
structure Followed (b : Blk) (k : TaskRef) : Prop extends Once b k where
  alone  : ∀ h z, b.task? h = some z → ¬ Covers h z k
  paging : ∀ p x f es, (b.reach k.reach).pagingIn = some p → p.ctx = k.ctx → b.ctx? p.ctx = some x →
    x.frame k.reach p.seg p.vblock = some f → (es = f.launch ∨ f.live = some es) →
    p.seg < 4096 ∧ p.vblock < 256 ∧ ¬ (p.seg = k.seg ∧ p.vblock = k.vblock) ∧
      ∀ e ∈ es, e.1 < 256 ∧ ¬ Covers { ctx := k.ctx, id := mkId p.seg k.reach p.vblock e.1 } e.2 k

/-- What waits at the coming edge for task `k` to end: an abort, one whose replies are outstanding, or an image that takes
the place of its context's. -/
def Blk.endsSoon (b : Blk) (k : TaskRef) : Bool :=
  (b.reach k.reach).abortsIn.any (fun a => a.1 == k) || (b.reach k.reach).abortRecs.any (fun a => a.ref == k)
    || b.fe.queues.any fun p => p.2.ctx == k.ctx && p.2.started.any fun x => match x.phase with
      | .imageRead _ _ => true
      | _ => false

/-- The transitions of Table 2.4: `arms` where a launch arms the task, `ends` where an abort, a teardown or a new image
ends it. -/
inductive Moves (arms ends : Bool) : TState → TState → Prop where
  | arm (a : TState) : arms = true → Moves arms ends a .waiting
  | ready : Moves arms ends .waiting .ready
  | skip : Moves arms ends .waiting .skipped
  | launch : Moves arms ends .waiting .shadow
  | dispatch : Moves arms ends .ready .dispatched
  | notice : Moves arms ends .ready .skipped
  | complete : Moves arms ends .dispatched .done
  | back : Moves arms ends .dispatched .ready
  | commit : Moves arms ends .shadow .dispatched
  | squash : Moves arms ends .shadow .skipped
  | taken : Moves arms ends .shadow .waiting
  | again : Moves arms ends .done .waiting
  | redo : Moves arms ends .skipped .waiting
  | fault (a : TState) : a ≠ .faulted → Moves arms ends a .faulted
  | idle (a : TState) : ends = true → Moves arms ends a .idle

/-- Any number of transitions of Table 2.4, one after another. -/
inductive Path (arms ends : Bool) : TState → TState → Prop where
  | stay (a : TState) : Path arms ends a a
  | more (a b c : TState) : Path arms ends a b → Moves arms ends b c → Path arms ends a c

/-- Completions of an edge that are applied one after another (R92). -/
inductive Applied (v : Env) : List Arrival → Blk → Blk → Prop where
  | nil (b : Blk) : Applied v [] b b
  | cons (x : Arrival) (xs : List Arrival) (b c d : Blk) (one : (b.applyArrival v x).1 = some c) (rest : Applied v xs c d) :
      Applied v (x :: xs) b d

/-- SENDs of one payload on several send ends in turn, none of them a task fault, and their results. -/
inductive SendsEach (e : Nat) (payload : List (BitVec 64)) : List (BitVec 32) → State → State → List (BitVec 8) → Prop where
  | nil (s : State) : SendsEach e payload [] s s []
  | cons (id : BitVec 32) (ids : List (BitVec 32)) (s u t : State) (st : BitVec 8) (sts : List (BitVec 8))
      (sent : exec (.send e id payload) s = .next u) (answered : u.blk.out.getLast? = some (.opResult e st 0 []))
      (served : st ≠ stContextFault) (rest : SendsEach e payload ids u t sts) :
      SendsEach e payload (id :: ids) s t (st :: sts)

/-- The head fetched descriptor `d` of queue `q` has its turn to start (R185, R188). -/
structure Starts (s : State) (q : Nat) (u : Queue) (d : BitVec 512) : Prop where
  number : q < 1024
  queue  : s.blk.queue? q = some u
  head   : u.fetched.head? = some (some d)
  turn   : s.blk.nextStart s.env = some q

/-- Queue `q` was `u`: its head fetched descriptor has started, in a phase, and stands at the head or not; no other
queue and no count of this queue changed (R185). -/
def StartedAs (s t : State) (q : Nat) (u : Queue) (d : BitVec 512) (p : Phase) (head : Bool) : Prop :=
  OnlyBlk s t ∧
  (∃ u', t.blk.queue? q = some u' ∧
    u'.started = u.started ++
      [{ index := u.ci - u.fetched.length, desc := d, phase := p, head := head, start := s.aon.pulse }] ∧
    u'.fetched.length < u.fetched.length ∧
    u' = { u with started := u'.started, fetched := u'.fetched, progress := u'.progress }) ∧
  (∀ k, k ≠ q → t.blk.queue? k = s.blk.queue? k) ∧
  t.blk.fe.startedPulse = s.blk.fe.startedPulse + 1 ∧
  t.blk.ctr .descStarted = s.blk.ctr .descStarted + 1

/-- A queue in which the started descriptor of an index is in another phase. -/
def Queue.atPhase (u : Queue) (index : Nat) (p : Phase) : Queue :=
  { u with started := u.started.map fun x => if x.index = index then { x with phase := p } else x }

/-- The running operation of the request port is answered, and the next one that waits begins (R350). -/
def PortAnswered (s t : State) (op : Nat) (status : BitVec 8) (data : List Word32) : Prop :=
  t.blk.mc = { s.blk.mc with
    rspStatus := status, rspOp := op, rspDone := true, rspData := data
    running := s.blk.mc.waiting.head?, waiting := s.blk.mc.waiting.drop 1 }

/-- The running operation has begun its effect and waits for it; MC is otherwise as it was (R349). -/
def OpBegan (s t : State) (x : McOp) : Prop :=
  t.blk.mc = { s.blk.mc with running := some { x with started := true } }

/-- A request on the host-memory port: it goes out under a tag below 64 that no outstanding request has, and waits while
there is none (R260). -/
def Asked (b b' : Blk) (r : HostReq) : Prop :=
  (∃ tag, tag < 64 ∧ (∀ p ∈ b.fe.hostOut, p.1 ≠ tag) ∧ b'.fe.hostOut = b.fe.hostOut ++ [(tag, r)] ∧
    b'.fe.hostWait = b.fe.hostWait ∧ b'.out = b.out ++ [.host tag r]) ∨
  ((∀ tag, tag < 64 → ∃ p ∈ b.fe.hostOut, p.1 = tag) ∧ b'.fe.hostOut = b.fe.hostOut ∧
    b'.fe.hostWait = b.fe.hostWait ++ [r] ∧ b'.out = b.out)

/-- No outstanding request that `p` names has lost its owner. -/
def NoneLate (b : Blk) (p : HostReq → Bool) : Prop := ∀ x ∈ b.fe.late, p x.req = false

/-- The host-memory requests, the queues and the ports alone may differ. -/
def OnlyRings (b b' : Blk) : Prop :=
  b' = { b with fe := { b.fe with queues := b'.fe.queues, hostOut := b'.fe.hostOut, hostWait := b'.fe.hostWait }
                out := b'.out }

/-- Agents of other engines are as they were. -/
def OtherAgents (e : Nat) (b b' : Blk) : Prop := ∀ k, k ≠ e → b'.agent k = b.agent k

/-- Sync objects, the counters and the ports alone may differ. -/
def OnlySync (b b' : Blk) : Prop :=
  (∀ k, b'.agent k = { b.agent k with locals := (b'.agent k).locals }) ∧
  b' = { b with agents := b'.agents, hb := { b.hb with gsync := b'.hb.gsync }
                counters := b'.counters, out := b'.out }

/-- Counters other than those listed are as they were. -/
def OtherCounters (l : List (Ctr × Nat)) (b b' : Blk) : Prop := ∀ c i, (c, i) ∉ l → b'.ctr c i = b.ctr c i

end Sys2Proof.Machine
end

