-- ==== Sys2Proof/Certificates/Slice0/Obligations.lean ====
section
/-! DEFINITION. The statements for the provers. -/

section

open Sys2Proof Sys2Proof.Machine Sys2Proof.Config

/-! ## The machine as a whole -/

/-- A step takes the command that waits first and is exec of it on the state with the rest waiting. On an empty queue one
mg_clk period passes, which is counted; nothing else changes, but with the 256th since the last edge an OP 4 that waits
for an edge is answered. What a step without a command does is the model's choice (log 10). -/
def Obligations.StepRunsTheFrontCommand : Prop :=
  (∀ (s : State) (c : Instr) (rest : List Instr), s.pending = c :: rest → step s = exec c { s with pending := rest }) ∧
  (∀ s : State, s.pending = [] → ∃ t, step s = .next t ∧ t.pending = [] ∧ t.cfg = s.cfg ∧
    t.aon = { s.aon with since := s.aon.since + 1 } ∧
    (¬ (s.aon.since + 1 = 256 ∧ s.blk.mc.waits 4 = true) → t.blk = s.blk) ∧
    (s.aon.since + 1 = 256 → s.blk.mc.waits 4 = true → ∀ x, s.blk.mc.running = some x → x.asker = .port →
      PortAnswered s t 4 stOk [0xFFFFFFFF, 0xFFFFFFFF]))

/-- No command touches the queue of commands that wait, and the grade never changes (R2). The pulse count advances by
exactly one at a pulse edge and is set to zero by a cold reset alone, so that a block reset keeps it (R7). MTIME, die_id
and the straps change with these two alone, and the power requests with the commands that concern power and the sweep of
a block reset (R273, R276, R315). The mg_clk periods since the last edge, by which the block clock is found stopped, are
the model's count (log 10); an edge clears it, and a time-out of an operation that waits for an edge shows that many
have passed. -/
def Obligations.TimeMovesOnlyAtEdges : Prop :=
  ∀ (c : Instr) (s t : State), exec c s = .next t →
    t.pending = s.pending ∧ t.aon.grade = s.aon.grade ∧
    match c with
    | .pulseEdge p => t.aon = { s.aon with
        pulse := s.aon.pulse + 1, mtime := (s.aon.mtime + max p.mgClks s.aon.since) % 2 ^ 64, since := 0 }
    | .mcOperationTimeout => t.aon = { s.aon with since := t.aon.since } ∧ s.aon.since ≤ t.aon.since
    | .powerOnReset die st lantern maker =>
      t.aon.pulse = 0 ∧ t.aon.dieId = die ∧ t.aon.station = st ∧ t.aon.lanternOk = lantern ∧ t.aon.makerEn = maker
    | .domainPowerAck _ _ | .blockReset _ => t.aon = { s.aon with pdReq := t.aon.pdReq, pdAck := t.aon.pdAck }
    | _ => t.aon = s.aon

/-- The register file stays sound: after every step, a value that the port holds or the block acts on stands at an RW or
RWL register of the grade, with its reserved bits as the Reset column has them (R13, R372, R374). -/
def Obligations.RegisterFileStaysSound : Prop :=
  ∀ s t : State, RegInv s → step s = .next t → RegInv t

/-- At reset both invariants of the model hold: the register file is sound, and channel memory is in its canonical form.
-/
def Obligations.InvariantsHoldAtReset : Prop := RegInv State.reset ∧ Memory.wf State.reset.blk.hb.chanMem

/-- R377: from the first edge at which FE_CTL.EN is 1 the RWL fields of Table 16.4 are frozen, whether or not the lock is
set. They stay frozen, also when EN is cleared, and no command changes them but a cold reset; a write to one leaves it and
sets LOCKED_WR. -/
def Obligations.EnableFreezesTable16_4 : Prop :=
  (∀ (p : PulseIn) (s t : State), exec (.pulseEdge p) s = .next t →
    (s.cfg.storedAt s.aon.grade 0x100000).getLsbD 0 = true → t.cfg.frozen = true) ∧
  (∀ (c : Instr) (s t : State), exec c s = .next t → s.cfg.frozen = true →
    (∀ die st lantern maker, c ≠ .powerOnReset die st lantern maker) →
    t.cfg.frozen = true ∧
      ∀ off r, frozenByEn off = true → regAt s.aon.grade off = some r → r.access = .rwl →
        t.cfg.storedAt t.aon.grade off = s.cfg.storedAt s.aon.grade off) ∧
  (∀ (s : State) (addr : BitVec 24) (data : BitVec 32) (r : Reg), s.cfg.frozen = true →
    frozenByEn addr.toNat = true → regAt s.aon.grade addr.toNat = some r → r.access = .rwl →
    PortOpen s addr.toNat →
    Does (.registerWrite addr data 0xF) s fun t =>
      t.cfg.stored = s.cfg.stored ∧ t.cfg.active = s.cfg.active ∧ t.cfg.lockedWr = true ∧ t.aon = s.aon ∧
      t.blk = s.blk.emit (.regWritten addr))

/-- While the set-up lock is set a write to an RWL register leaves it unchanged and sets LOCKED_WR (R12); the lock is
cleared by a cold reset, and by a block reset only, which notes it and sets it again at resume (R12, R376). GLB_LOCK sets
it while FE_CTL.EN is 1 and the firmware runs; in any other state the write is discarded with ACC_ERR (R376). -/
def Obligations.LockHoldsRegisters : Prop :=
  (∀ (s : State) (addr : BitVec 24) (data : BitVec 32) (r : Reg), s.cfg.lock = true →
    regAt s.aon.grade addr.toNat = some r → r.access = .rwl → PortOpen s addr.toNat →
    Does (.registerWrite addr data 0xF) s fun t =>
      t.cfg.stored = s.cfg.stored ∧ t.cfg.lockedWr = true ∧ t.aon = s.aon ∧ t.blk = s.blk.emit (.regWritten addr)) ∧
  (∀ (c : Instr) (s t : State), exec c s = .next t → (s.cfg.lock || s.cfg.lockSaved) = true →
    (∀ die st lantern maker, c ≠ .powerOnReset die st lantern maker) → (t.cfg.lock || t.cfg.lockSaved) = true) ∧
  (∀ (c : Instr) (s t : State), exec c s = .next t → s.cfg.lock = true →
    (∀ die st lantern maker, c ≠ .powerOnReset die st lantern maker) → (∀ b, c ≠ .blockReset b) → t.cfg.lock = true) ∧
  (∀ (s : State), s.blk.rel.phase = 5 → s.blk.rel.pendingCause = none → s.cfg.lockSaved = true →
    Does .resetResume s fun t => t.cfg.lock = true ∧ t.cfg.lockSaved = false) ∧
  (∀ (s : State) (value : BitVec 32), value.getLsbD 0 = true → s.blk.resetting = false →
     Does (.glbLock value) s fun t =>
       t.cfg.lock = (s.cfg.lock || (s.env.feEn && s.blk.fe.fwState == .running)) ∧
       t.cfg.accErr = (s.cfg.accErr || !(s.env.feEn && s.blk.fe.fwState == .running)) ∧
       t.cfg.stored = s.cfg.stored ∧ t.cfg.active = s.cfg.active ∧ t.cfg.frozen = s.cfg.frozen ∧
       t.aon = s.aon ∧ t.blk = s.blk.emit (.regWritten 4))

/-! ## The register port -/

/-- A write to an RW or RWL register that no rule holds back stores its writable bits and leaves its other bits, every
other register, the values that the block acts on until the coming edge, and the block but for the port's response (R11,
R13, R274, R374). An RW register is written whether or not the lock is set, and an RWL register while the lock is clear
and no freeze of Table 16.4 is upon it (R12, R377). FE_CTL, MC_SEG_CTL and RCH_TEST_n start something besides and have
statements of their own. -/
def Obligations.RegisterWriteStores : Prop :=
  ∀ (s : State) (addr : BitVec 24) (data : BitVec 32) (r : Reg),
    regAt s.aon.grade addr.toNat = some r →
    (r.access = .rw ∨ r.access = .rwl ∧ s.cfg.lock = false ∧ (s.cfg.frozen = false ∨ frozenByEn addr.toNat = false)) →
    PortOpen s addr.toNat →
    addr ≠ 0x100000 → addr ≠ 0xC00000 → testReach addr.toNat = none →
    Does (.registerWrite addr data 0xF) s fun t =>
      t.cfg.storedAt s.aon.grade addr.toNat
        = (s.cfg.storedAt s.aon.grade addr.toNat &&& ~~~r.mask) ||| (data &&& r.mask) ∧
      (∀ off, off ≠ addr.toNat → t.cfg.storedAt s.aon.grade off = s.cfg.storedAt s.aon.grade off) ∧
      t.cfg.active = s.cfg.active ∧ t.cfg.lockedWr = s.cfg.lockedWr ∧ t.cfg.accErr = s.cfg.accErr ∧
      t.aon = s.aon ∧ t.blk = s.blk.emit (.regWritten addr)

/-- An access of another width than 32 bits, or one that is not aligned, is discarded: a write changes no register, no
capture and no other flag, a read returns zero, and either sets ACC_ERR (R14); so does a read of a register whose domain
has no power (R371). A read of a whole aligned word by the port is the same whichever row asks it. Outside a block
reset, at an aligned offset with no register a read returns zero, a write is discarded, and neither sets an error flag
(R13); in a block reset, where every write that the port discards sets ACC_ERR (R378), such a write sets it, which is
the model's choice (log 147). The port answers every access (R274). A read of the low half of a read-only pair returns
it and captures the upper half, and the next read of the high half returns what was captured (R373). -/
def Obligations.OtherAccessesChangeNothing : Prop :=
  (∀ (s : State) (addr : BitVec 24) (data : BitVec 32) (be : BitVec 4), (be ≠ 0xF ∨ addr.toNat % 4 ≠ 0) →
    Does (.registerWrite addr data be) s fun t =>
      t.cfg = { s.cfg with accErr := true, errAddr := BitVec.ofNat 32 (2 ^ 31 + addr.toNat) } ∧ t.aon = s.aon ∧
      t.pending = s.pending ∧ t.blk = s.blk.emit (.regWritten addr)) ∧
  (∀ (s : State) (addr : BitVec 24) (be : BitVec 4),
    (be ≠ 0xF ∨ addr.toNat % 4 ≠ 0 ∨ (regAt s.aon.grade addr.toNat).isSome ∧ s.env.powered addr.toNat = false) →
    Does (.registerAccessError addr be) s fun t =>
      t.blk = s.blk.emit (.regRead addr 0) ∧
      t.cfg = { s.cfg with accErr := true, errAddr := BitVec.ofNat 32 addr.toNat } ∧ t.aon = s.aon ∧
      t.pending = s.pending) ∧
  (∀ (s : State) (addr : BitVec 24), addr.toNat % 4 = 0 →
    ((regAt s.aon.grade addr.toNat).isSome → s.env.powered addr.toNat = true) →
    Does (.registerAccessError addr 0xF) s fun t => exec (.registerReadCapture addr) s = .next t) ∧
  (∀ (s : State) (addr : BitVec 24) (data : BitVec 32), regAt s.aon.grade addr.toNat = none → addr.toNat % 4 = 0 →
     s.blk.resetting = true →
     Does (.registerWrite addr data 0xF) s fun t =>
       t.cfg = { s.cfg with accErr := true, errAddr := BitVec.ofNat 32 (2 ^ 31 + addr.toNat) } ∧ t.aon = s.aon ∧
       t.pending = s.pending ∧ t.blk = s.blk.emit (.regWritten addr)) ∧
  (∀ (s : State) (addr : BitVec 24) (data : BitVec 32), regAt s.aon.grade addr.toNat = none → addr.toNat % 4 = 0 →
     s.blk.resetting = false →
     tget s.cfg.capture (addr.toNat - 4) = none → s.blk.roPair s.env addr.toNat = none →
     Does (.registerWrite addr data 0xF) s (fun t => t = { s with blk := s.blk.emit (.regWritten addr) }) ∧
     Does (.registerReadCapture addr) s fun t =>
       t = { s with blk := s.blk.emit (.regRead addr 0) }) ∧
  (∀ (s : State) (addr : BitVec 24) (r : Reg) (x : BitVec 64), regAt s.aon.grade addr.toNat = some r → r.access = .ro →
    s.env.powered addr.toNat = true → s.blk.roPair s.env addr.toNat = some x →
    Does (.registerReadCapture addr) s fun t =>
      t.blk = s.blk.emit (.regRead addr (x.setWidth 32)) ∧
      tget t.cfg.capture addr.toNat = some (BitVec.ofNat 32 (bits x 32 32)) ∧
      t.cfg = { s.cfg with capture := t.cfg.capture } ∧ t.aon = s.aon) ∧
  (∀ (s : State) (addr : BitVec 24) (u : Word32), 4 ≤ addr.toNat → addr.toNat % 4 = 0 →
    ((regAt s.aon.grade addr.toNat).isSome → s.env.powered addr.toNat = true) →
    s.blk.roPair s.env addr.toNat = none → tget s.cfg.capture (addr.toNat - 4) = some u →
    Does (.registerReadCapture addr) s fun t =>
      t.blk = s.blk.emit (.regRead addr u) ∧ tget t.cfg.capture (addr.toNat - 4) = none ∧
      t.cfg = { s.cfg with capture := t.cfg.capture } ∧ t.aon = s.aon)

/-- Registers that start something: FE_CTL and PG_CTL store their value and act at the next edge (R284, R319, R374,
R377), MC_SEG_CTL stores and attaches (R359). When EN of FE_CTL acts for the first time, the words of the retirement
table that FE_RETIRE_N counts are read, a block word adds its blocks to those retired, a granule word its granules and a
bank word both, and nothing else is retired (R319). RCH_TEST_n: FENCE acts at the next edge: it is set in a reach in
which no context has blocks or granules, and refused with RESULT BUSY in another; START begins a test in a fenced reach
and is refused with RESULT BUSY in another (R320). That START clears DONE and FAIL and sets RESULT to OK, and acts on
the fence that holds, is the model's choice (log 53). -/
def Obligations.EnablesStoreAndStart : Prop :=
  (∀ (s : State) (value : BitVec 32) (retire : List (BitVec 64)), s.cfg.lock = false → PortOpen s 0x100000 →
    Does (.feCtlEn value retire) s fun t =>
      t.cfg.storedAt s.aon.grade 0x100000 = (s.cfg.storedAt s.aon.grade 0x100000 &&& ~~~3) ||| (value &&& 3) ∧
      t.cfg.active = s.cfg.active ∧ t.cfg.frozen = s.cfg.frozen ∧ t.aon = s.aon ∧
      t.blk = { s.blk with
        fe := { s.blk.fe with retireIn := retire }, out := s.blk.out ++ [.regWritten 0x100000] }) ∧
  (∀ (v : Env) (b : Blk) (ws : List (BitVec 64)) (r : Nat), r < v.reaches → (b.reach r).fenceIn = none →
    let read := b.readRetirement v ws
    (∀ k, (read.reach r).retiredBlocks.contains k = true ↔
      ∃ w ∈ ws.take (v.reg 0x128).toNat, retiredOf v w = .bank r (k / 32) ∨
        ∃ lo n, retiredOf v w = .blocks r lo n ∧ lo ≤ k ∧ k < lo + n) ∧
    (∀ k, (read.reach r).retiredGranules.contains k = true ↔
      ∃ w ∈ ws.take (v.reg 0x128).toNat, retiredOf v w = .bank r (k / 512) ∨
        ∃ lo n, retiredOf v w = .granules r lo n ∧ lo ≤ k ∧ k < lo + n) ∧
    ((∀ k, k < v.reaches → (b.reach k).fenceIn = none) → b.writesAct v false = b) ∧
    (b.fe.retireIn = ws → (∀ k, k < v.reaches → (b.reach k).fenceIn = none) → b.writesAct v true = read)) ∧
  (∀ (s : State) (value : BitVec 32), s.cfg.lock = false → s.blk.resetting = false →
    Does (.pgCtlEn value) s fun t =>
      t.cfg.storedAt s.aon.grade 0xA00000 = (s.cfg.storedAt s.aon.grade 0xA00000 &&& ~~~0xFFF9) ||| (value &&& 0xFFF9) ∧
      t.cfg.active = s.cfg.active ∧ t.aon = s.aon ∧ t.blk = s.blk.emit (.regWritten 0xA00000)) ∧
  (∀ (s : State) (value : BitVec 32), s.cfg.lock = false → s.blk.resetting = false →
    Does (.mcSegCtlEn value) s fun t =>
      t.cfg.storedAt s.aon.grade 0xC00000 = (s.cfg.storedAt s.aon.grade 0xC00000 &&& ~~~0xF1F) ||| (value &&& 0xF1F) ∧
      t.cfg.active = s.cfg.active ∧ t.aon = s.aon ∧
      t.blk = { s.blk with mc := t.blk.mc, out := s.blk.out ++ [.regWritten 0xC00000] } ∧
      (value.getLsbD 0 = false → t.blk.mc.attach = .off) ∧
      (value.getLsbD 0 = true → t.blk.mc.attach = if s.blk.mc.attach = .off then .probing else s.blk.mc.attach)) ∧
  (∀ (s : State) (r : Nat), r < s.aon.grade.reaches → PortOpen s (0x200044 + 0x1000 * r) →
    Does (.rchTestFence r) s fun t => OnlyBlk s t ∧
      t.blk.reach r = { s.blk.reach r with fenceIn := some true } ∧
      (∀ k, k ≠ r → t.blk.reach k = s.blk.reach k) ∧ t.blk = { s.blk with
        reaches := t.blk.reaches, out := s.blk.out ++ [.regWritten (BitVec.ofNat 24 (0x200044 + 0x1000 * r))] }) ∧
  (∀ (s : State) (r : Nat), r < s.aon.grade.reaches → PortOpen s (0x200044 + 0x1000 * r) →
    Does (.rchTestStart r) s fun t => OnlyBlk s t ∧
      t.blk.reach r = (if (s.blk.reach r).fence
        then { s.blk.reach r with
          fenceIn := some ((s.blk.reach r).fenceIn.getD true), testing := true, testDone := false, testFail := 0
          testResult := stOk }
        else { s.blk.reach r with fenceIn := some ((s.blk.reach r).fenceIn.getD false), testResult := stBusy }) ∧
      (∀ k, k ≠ r → t.blk.reach k = s.blk.reach k) ∧ t.blk = { s.blk with
        reaches := t.blk.reaches, out := s.blk.out ++ [.regWritten (BitVec.ofNat 24 (0x200044 + 0x1000 * r))] }) ∧
  (∀ (b : Blk) (r : Nat), (b.reach r).fenceIn = some true →
    (((b.reach r).fence = true ∨ b.fe.reachFree r = true) →
      (b.fenceEdge r).reach r = { b.reach r with fenceIn := none, fence := true }) ∧
    ((b.reach r).fence = false → b.fe.reachFree r = false →
      (b.fenceEdge r).reach r = { b.reach r with fenceIn := none, testResult := stBusy }) ∧
    (∀ k, k ≠ r → (b.fenceEdge r).reach k = b.reach k) ∧ b.fenceEdge r = { b with reaches := (b.fenceEdge r).reaches }) ∧
  (∀ (b : Blk) (r : Nat), (b.reach r).fenceIn = some false →
    (b.fenceEdge r).reach r = { b.reach r with fenceIn := none, fence := false } ∧
    (∀ k, k ≠ r → (b.fenceEdge r).reach k = b.reach k) ∧ b.fenceEdge r = { b with reaches := (b.fenceEdge r).reaches })

/-- The write-only registers act and store nothing: FE_FW_CTL starts a load in BOOT_WAIT (R208), DB_SNAP_RESUME ends a
held stop at the next edge (R338), DB_BP_RESUME lets a halted core run (R342), MC_REQ_GO asks for the operation of
MC_REQ_OP or counts an overlap (R350), MC_ALARM_RAISE counts an alarm of kind 128 to 255 (R363), MC_RX_POP removes the
head frame (R367). -/
def Obligations.WriteOnlyRegistersAct : Prop :=
  (∀ (s : State) (value : BitVec 32), value.getLsbD 0 = true → PortOpen s 0x10010C → s.blk.fe.fwState = .bootWait →
    Does (.feFwCtlGo value) s fun t => OnlyBlk s t ∧
      t.blk = (Blk.ask (.firmwareRead ((s.env.pair 0x100100).setWidth 63) (s.env.reg 0x100108).toNat)
        { s.blk with fe := { s.blk.fe with
            fwState := .loading, fwAttempts := min 0xFFFF (s.blk.fe.fwAttempts + 1) } }).emit (.regWritten 0x10010C)) ∧
  (∀ (s : State) (value : BitVec 32) (x : Snap), value.getLsbD 0 = true → PortOpen s 0xB00030 →
    s.blk.db.snap = some x → x.writing = false → s.blk.db.stopped = true →
    Does (.dbSnapResumeGo value) s fun t => OnlyBlk s t ∧
      t.blk = { s.blk with db := { s.blk.db with resumeReq := true }, out := s.blk.out ++ [.regWritten 0xB00030] }) ∧
  (∀ (s : State) (value : BitVec 32), PortOpen s 0xB00054 →
    Does (.dbBpResume value) s fun t => OnlyBlk s t ∧
      t.blk.db.cpHalted = (s.blk.db.cpHalted && !value.getLsbD 0) ∧
      t.blk.db.rcHalted = (s.blk.db.rcHalted && !value.getLsbD 1) ∧
      t.blk = { s.blk with
        db := t.blk.db, counters := t.blk.counters, fresh := t.blk.fresh, out := s.blk.out ++ [.regWritten 0xB00054] }) ∧
  (∀ (s : State) (value : BitVec 32), value.getLsbD 0 = true → s.blk.resetting = false → s.blk.mc.portBusy = false →
    Does (.mcReqGo value) s fun t => OnlyBlk s t ∧
      t.blk.mc.portBusy = true ∧ t.blk.mc.rspDone = false ∧ t.blk.ctr .mcReq = s.blk.ctr .mcReq + 1 ∧
      (s.blk.mc.running = none → (t.blk.mc.running.map McOp.op) = some (bits (s.env.stored 0xC00010) 0 4)) ∧
      (s.blk.mc.running ≠ none → t.blk.mc.running = s.blk.mc.running) ∧
      t.blk = { s.blk with mc := t.blk.mc, counters := t.blk.counters, out := s.blk.out ++ [.regWritten 0xC00024] }) ∧
  (∀ (s : State) (value : BitVec 32), value.getLsbD 0 = true → s.blk.resetting = false → s.blk.mc.portBusy = true →
    Does (.mcReqGo value) s fun t => OnlyBlk s t ∧
      t.blk = (s.blk.bump .mcReqOverlap).emit (.regWritten 0xC00024)) ∧
  (∀ (s : State) (value : BitVec 32), 128 ≤ bits value 0 8 → s.blk.resetting = false →
    Does (.mcAlarmRaise value) s fun t => OnlyBlk s t ∧
      tgetD 0 t.blk.mc.alarms (bits value 0 8) = min 0xFFFF (tgetD 0 s.blk.mc.alarms (bits value 0 8) + 1) ∧
      (∀ k, k ≠ bits value 0 8 → tgetD 0 t.blk.mc.alarms k = tgetD 0 s.blk.mc.alarms k) ∧
      t.blk = { s.blk with
        mc := { s.blk.mc with alarms := t.blk.mc.alarms }, out := s.blk.out ++ [.regWritten 0xC00050] }) ∧
  (∀ (s : State) (value : BitVec 32), value.getLsbD 0 = true → s.blk.resetting = false →
    Does (.mcRxPop value) s fun t => OnlyBlk s t ∧
      t.blk = { s.blk with
        mc := { s.blk.mc with rxQueue := s.blk.mc.rxQueue.drop 1 }, out := s.blk.out ++ [.regWritten 0xC00058] })

/-! ## Power and the pulse -/

/-- A cold reset leaves the block as State.reset has it, whatever went before, with die_id and the straps as sampled; the
grade and the commands that wait stay (R273, R276, R278, R292, R293). -/
def Obligations.ColdResetClearsEverything : Prop :=
  ∀ (s : State) (die : BitVec 64) (st : BitVec 6) (lantern maker : Bool),
    Does (.powerOnReset die st lantern maker) s fun t =>
      t.blk = State.reset.blk ∧ t.cfg = State.reset.cfg ∧ t.pending = s.pending ∧
      t.aon = { State.reset.aon with grade := s.aon.grade, dieId := die, station := st, lanternOk := lantern, makerEn := maker }

/-- A power acknowledgement that rises as MC requested is noted for its domain alone, and MC then requests the next domain
in the order of R278 step 2; one that falls after MC took its request away makes MC request the domain again (R276, R315).
A fall of power good takes an idle engine out of the broadcast; after a rise its local objects are zero, its fence is
down, and it joins at an edge (R211, R267, R309, R325). The front end powers up in BOOT_WAIT with no page of CP memory
valid (R208, R316). -/
def Obligations.DomainsAndEnginesPowerUp : Prop :=
  (∀ (s : State) (d : Nat), (domainOrder s.aon.grade).contains d = true → s.aon.pdAck.getLsbD d = false →
    s.aon.pdReq.getLsbD d = true →
    Does (.domainPowerAck d true) s fun t =>
      t.cfg = s.cfg ∧ t.pending = s.pending ∧ t.aon.pdAck.getLsbD d = true ∧
      (∀ k, k < 20 → k ≠ d → t.aon.pdAck.getLsbD k = s.aon.pdAck.getLsbD k) ∧
      (∀ k, nextDomain d (domainOrder s.aon.grade) = some k → t.aon.pdReq.getLsbD k = true) ∧
      (d = 16 → t.blk.fe.fwState = .bootWait) ∧
      (∀ p, p ∈ t.blk.rel.validPages → p ∈ s.blk.rel.validPages ∧ (d = 16 → p.1 ≠ 34 ∧ p.1 ≠ 35)) ∧
      t.blk = { s.blk with fe := t.blk.fe, out := t.blk.out
                           rel := { s.blk.rel with validPages := t.blk.rel.validPages, partPages := t.blk.rel.partPages } }) ∧
  (∀ (s : State) (d : Nat), (domainOrder s.aon.grade).contains d = true → s.aon.pdAck.getLsbD d = true →
    s.aon.pdReq.getLsbD d = false →
    Does (.domainPowerAck d false) s fun t =>
      t.cfg = s.cfg ∧ t.pending = s.pending ∧ t.aon.pdAck.getLsbD d = false ∧ t.aon.pdReq.getLsbD d = true ∧
      t.blk = s.blk.emit (.powerReq d true)) ∧
  (∀ (s : State) (e : Nat), e < s.aon.grade.engines → (s.blk.agent e).pwrGood = false →
    Does (.enginePowerGood e true) s fun t => OnlyBlk s t ∧
      t.blk.agent e = { s.blk.agent e with pwrGood := true, joined := false, locals := [], fenced := false } ∧
      OtherAgents e s.blk t.blk ∧ t.blk.ctr .busyClk e = 0 ∧ t.blk.ctr .syncOp e = 0 ∧
      t.blk = { s.blk with agents := t.blk.agents, counters := t.blk.counters }) ∧
  (∀ (s : State) (e : Nat), e < s.aon.grade.engines → (s.blk.agent e).pwrGood = true → (s.blk.agent e).idle = true →
    Does (.enginePowerGood e false) s fun t => OnlyBlk s t ∧
      t.blk.agent e = { s.blk.agent e with pwrGood := false, joined := false, bcast := {} } ∧
      OtherAgents e s.blk t.blk ∧ t.blk = { s.blk with agents := t.blk.agents })

/-- A pulse edge always completes. The count advances by one, MTIME by the periods of mg_clk, and the values that the
port holds are those that the block acts on from then on (R7, R337, R374). What the pulse brought lands, the written
values take effect, and the edge follows (R21). In a data plane that works, an edge does these things in this order
(R24): what the last STEP applications brought, completions of every reach, predicate operations, aborts and gangs,
queue operations and STEP applications, page-ins and the router's decrements; then readiness and the ready lists of
every reach; then paging, teardowns, queues that close and the records (R26, R301); then the samples, latches and
results. The order of what R24 does not order, such as the paging of an edge, is the model's choice (log 155). -/
def Obligations.PulseEdgeAppliesWrites : Prop :=
  (∀ (s : State) (p : PulseIn), Does (.pulseEdge p) s fun t =>
    t.aon = { s.aon with
      pulse := s.aon.pulse + 1, mtime := (s.aon.mtime + max p.mgClks s.aon.since) % 2 ^ 64, since := 0 } ∧
    t.cfg.active = s.cfg.stored ∧ t.cfg.stored = s.cfg.stored ∧ t.cfg.lock = s.cfg.lock ∧ t.pending = s.pending ∧
    t.blk = (((s.blk.pulseNews s.env p).endPulse s.env).writesAct t.env (t.cfg.frozen && !s.cfg.frozen)).edge t.env
      (max p.mgClks s.aon.since)) ∧
  (∀ (v : Env) (ran : Bool) (b : Blk),
    let all (f : Nat → Blk → Blk) (b : Blk) : Blk := b.forEach (List.range v.reaches) f
    let b0 := b.openQueue0 v
    let done := ({ b0 with predOps := b0.predOps ++ b0.predNext, predNext := [] } : Blk).stepResults.completionEdge v
    let preds := (done.1.sendAnnounces v).predStage v
    let aborts := all (fun r b => (b.abortStage v r).gangEdge v r) preds
    let ops := all (fun r b => (b.pageInStage v r).routerEdge v r) ((aborts.queueOps v).stepEdge v)
    let ready := all (fun r b =>
      let b := (b.readyStage v r (done.2.contains r)).commitLists v r
      (b.forEach (b.reach r).listRecs fun l b => b.listUpdate v l).insertReady r) ops
    let rest := ready.edgeRecords v
    b.workEdge v ran = (((if ran then rest.edgeSamples v else rest).takeLatches v).writeResults v))

/-- While the data plane is stopped by a snapshot, and neither a resume nor a block reset has been asked for, a pulse
edge holds it: the stores, the predicates, the hub and the router stay as they are (R103). -/
def Obligations.StopHoldsTheDataPlane : Prop :=
  ∀ (s : State) (p : PulseIn), s.blk.db.stopped = true → s.blk.db.resumeReq = false →
    (s.blk.pulseNews s.env p).rel.pendingCause = none →
    Does (.pulseEdge p) s fun t =>
      t.blk.preds = s.blk.preds ∧ t.blk.history = s.blk.history ∧ t.blk.hb = s.blk.hb ∧ t.blk.rt = s.blk.rt ∧
      (∀ r, (t.blk.reach r).blocks = (s.blk.reach r).blocks ∧ (t.blk.reach r).edges = (s.blk.reach r).edges ∧
        (t.blk.reach r).lc = (s.blk.reach r).lc ∧ (t.blk.reach r).backlog = (s.blk.reach r).backlog ∧
        (t.blk.reach r).ledger = (s.blk.reach r).ledger) ∧
      t.blk.rel.journal = s.blk.rel.journal

/-- Completions are applied in the order of R92: what landed, in the order of landing, then completions from no engine
and then the faults of flagged tasks, each in ascending order, until the first that does not fit; that one and those
after it are held over and stay ahead of what lands next (R95). An OK word of a dispatched plain or expert task makes it
done, with its ITER one lower, its COMPLETE record and its backlog record (R48, R94); with a re-arm pending and ITER
left it waits again for DEPINIT less its bank, where that is not less than zero (R49). A fault status makes it faulted
and tears its context down (Table 2.4). A word for a task that is not dispatched, or that is faulted at this edge, is
discarded and counted (R99, R101). -/
def Obligations.CompletionsApplyInOrder : Prop :=
  (∀ rc : Reach, ∃ own faults : List TaskRef,
    rc.arrivalsInOrder = rc.landed ++ own.map .own ++ faults.map .flagged ∧ own.Perm rc.selfDone ∧
    own.Pairwise (fun x y => x.order ≤ y.order) ∧ faults.Pairwise (fun x y => x.order ≤ y.order) ∧
    ∀ k, k ∈ faults ↔ k ∈ rc.cfSet ∧ Arrival.flagged k ∉ rc.landed) ∧
  (∀ (v : Env) (b : Blk) (r : Nat), ∃ (done held : List Arrival) (c : Blk),
    (b.reach r).arrivalsInOrder = done ++ held ∧
    Applied v done (b.modReach r fun rc => { rc with landed := [], selfDone := [] }) c ∧
    (held = [] → b.applyCompletions v r = (c, false)) ∧
    (∀ x rest, held = x :: rest → (c.applyArrival v x).1 = none ∧ (b.applyCompletions v r).2 = true ∧
      (let d := (b.applyCompletions v r).1
       d.reach r = { c.reach r with landed := held } ∧ (∀ k, k ≠ r → d.reach k = c.reach k) ∧
       d = { c with reaches := d.reaches, counters := d.counters }))) ∧
  (∀ (v : Env) (b : Blk) (c : Cpl) (x : Task), b.task? c.ref = some x → (x.kind = .plain ∨ x.kind = .expert) →
    let k := c.ref
    ((x.state ≠ .dispatched ∨ k ∈ (b.reach k.reach).cfSet) → b.applyWord v c = (some (b.bump .discardedUnit k.reach), [])) ∧
    (x.state = .dispatched → k ∉ (b.reach k.reach).cfSet →
      let fits := b.wordFits v k.reach c.rsig.length (cplStatus c.word == stOk)
      (fits.1 = false → (b.applyWord v c).1 = none) ∧
      (fits.1 = true → cplStatus c.word = stOk → ∃ d, b.applyWord v c = (some d, []) ∧
        (let iter := if x.loop && x.iter != 0 then x.iter - 1 else x.iter
         let bank := x.depcnt + x.kept
         (x.ra = false → d.task? k = some { x with state := .done, depcnt := bank, kept := 0, iter := iter }) ∧
         (x.ra = true → iter ≠ 0 → bank.toNat + (if x.rf then 1 else 0) ≤ x.depinit.toNat →
           d.task? k = some { x with
             state := .waiting, sk := false, ra := false, rf := false, kept := 0, iter := iter
             depcnt := BitVec.ofNat 16 (x.depinit.toNat - (bank.toNat + if x.rf then 1 else 0)) }) ∧
         (x.ra = true → iter = 0 → d.task? k = some { x with
           state := .done, depcnt := bank, kept := 0, iter := iter, ra := false, rf := false }) ∧
         (d.reach k.reach).backlog = (b.reach k.reach).backlog ++ [
           { ref := k, skipped := false, continuing := x.loop && iter != 0, succPtr := x.succPtr.toNat
             succN := x.succN.toNat, portal := none }]) ∧
        ∃ r, (k.reach, r) ∈ d.rel.staged ∧ r.type = .complete ∧ r.id = k.id ∧ r.ctx = k.ctx ∧ r.status = stOk) ∧
      (fits.1 = true → cplStatus c.word ≠ stOk → ∃ d, b.applyWord v c = (some d, []) ∧
        d.task? k = some { x with state := .faulted } ∧
        (d.reach k.reach).backlog = (b.reach k.reach).backlog ∧
        (b.canTearDown k.ctx = true → d.fe.teardownsIn = b.fe.teardownsIn ++ [(k.ctx, cplStatus c.word, none)]))))

/-- Arming makes every used entry of every resident block of the context wait with DEPCNT at DEPINIT and CF, SK and RA
clear, takes ITER of a LOOP block from its launch copy where the spill DMA works (R83; log 146, the model's choice),
raises the launch count, and asks for the ROOTS blocks that are not resident (R87, R192). A task of the zero set whose
count is zero (R100) becomes ready where its predicate is met and SK is clear, is skipped where SK is set or the
predicate refuses, and else stays as it is (R54, R55); no skip is decided at an edge that holds a completion over (R95),
and what is armed at an edge is first tested at the next (R35). The ready lists take what returns to them at their head
and what becomes ready, in ascending order, at their tail: LC, FILL or plain (R106). -/
def Obligations.ReadyTasksEnterTheirLists : Prop :=
  (∀ (v : Env) (b : Blk) (c : Nat) (x : Ctx), b.ctx? c = some x →
    let d := b.armContext v c
    (∃ y, d.ctx? c = some y ∧
      y = { x with launchCount := x.launchCount + 1, closedLaunch := false, armEdge := v.n }) ∧
    (∀ (k : TaskRef) (n : Nat) (bl : Block) (z : Task), k.reach < v.reaches → b.locate k = .at n bl z →
      (k.ctx ≠ c → d.task? k = some z) ∧
      (k.ctx = c → ∃ y, d.task? k = some y ∧ y = { z with
          state := .waiting, depcnt := z.depinit, cf := false, sk := false, ra := false, rf := false, released := false
          kept := 0, iter := y.iter } ∧
        (bl.loop = false ∨ (b.reach k.reach).spillHalted = true → y.iter = z.iter) ∧
        (bl.loop = true → (b.reach k.reach).spillHalted = false → ∀ f w,
          x.image.frames.find? (fun f => f.reach == k.reach && f.seg == k.seg && f.vblock == k.vblock) = some f →
          tget f.launch k.entry = some w → y.iter = w.iter))) ∧
    (x.backwater = false → ∀ f ∈ x.image.frames, f.roots = true →
      ((d.reach f.reach).find c f.seg f.vblock).isSome = true ∨
      (∃ q ∈ (d.reach f.reach).pageReqs, q.ctx = c ∧ q.seg = f.seg ∧ q.vblock = f.vblock) ∨
      (∃ p, (d.reach f.reach).pagingIn = some p ∧ p.ctx = c ∧ p.seg = f.seg ∧ p.vblock = f.vblock))) ∧
  (∀ (b : Blk) (k : TaskRef) (x : Task),
    (x.sk = true → b.readyTest k x = some true) ∧
    (∀ p, x.sk = false → b.pred k.ctx x.pred.toNat = some p → b.readyTest k x = some (p != x.pol)) ∧
    (x.sk = false → b.pred k.ctx x.pred.toNat = none → b.readyTest k x = none)) ∧
  (∀ (v : Env) (b : Blk) (k : TaskRef) (x : Task) (held : Bool), b.task? k = some x → Followed b k →
    k ∉ (b.reach k.reach).squashed →
    let d := b.readyStage v k.reach held
    let tests : Prop := x.inZeroSet = true ∧ b.torn k.ctx = false ∧ b.armedNow v k.ctx = false
    (tests → b.readyTest k x = some false →
      d.task? k = some { x with state := .ready, depcnt := x.depcnt + x.kept, kept := 0, readyEdge := v.n } ∧
      k ∈ (d.reach k.reach).becoming) ∧
    ((¬ tests ∨ b.readyTest k x = none ∨ (b.readyTest k x = some true ∧ held = true)) → d.task? k = some x) ∧
    (tests → b.readyTest k x = some true → held = false → x.ra = false →
      b.tested v ((b.reach k.reach).tasks k.reach) true = [k] → (b.reach k.reach).squashed = [] →
      ((b.wordFits v k.reach 0 true).1 = true →
        (∃ y, d.task? k = some y ∧ y.state = .skipped) ∧
        ∃ q, (d.reach k.reach).backlog = (b.reach k.reach).backlog ++ [q] ∧ q.ref = k ∧ q.skipped = true) ∧
      ((b.wordFits v k.reach 0 true).1 = false → d.task? k = some x))) ∧
  (∀ (b : Blk) (r : Nat), ∃ new : List TaskRef,
    let rc := b.reach r
    let among (p : Task → Bool) (k : TaskRef) : Bool :=
      match b.task? k with | some x => x.state == .ready && p x | none => false
    let goes (p : Task → Bool) (l : List TaskRef) : List TaskRef :=
      rc.returning.filter (among p) ++ l ++ new.filter (among p)
    new.Perm rc.becoming ∧ new.Pairwise (fun x y => x.order ≤ y.order) ∧
    (b.insertReady r).reach r = { rc with
      lc := goes (fun x => !x.be) rc.lc, fillList := goes (fun x => x.be && x.fills) rc.fillList
      plainList := goes (fun x => x.be && !x.fills) rc.plainList, becoming := [], returning := [] } ∧
    b.insertReady r = { b with reaches := (b.insertReady r).reaches })

/-- Predicate operations of an edge touch exactly the slots that they name, slot 0 never, and a resolution stands
against a clear of its edge (R51, R53, R93). A clear makes its slot unknown; a resolution of an unknown slot gives it
its value and its history and settles every shadow task that it gates: one whose predicate is met is dispatched, with
LAST the engine of its highest tile and a commit notice to each of its engines (R134, R142), any other is skipped, with
squash notices, and its skip awaits the readiness stage (R143); no other task changes. A resolution to the other value
of a known slot tears the context down (R53). An operation of a run's completion word or of the census enters its PRED
record (R301, R335). -/
def Obligations.PredicatesResolveTheirSlots : Prop :=
  (∀ (v : Env) (b : Blk) (key : Nat), (∀ m ∈ b.predOps, m.slot = 0 ∨ m.ctx * 4096 + m.slot ≠ key) →
    tgetD none (b.predStage v).preds key = tgetD none b.preds key ∧
    tgetD .none (b.predStage v).history key = tgetD .none b.history key ∧ (b.predStage v).predOps = []) ∧
  (∀ (v : Env) (b : Blk) (m n : PredMsg), (b.predOps = [m, n] ∨ b.predOps = [n, m]) → m.op = .clear → n.op ≠ .clear →
    n.ctx = m.ctx → n.slot = m.slot → m.slot ≠ 0 →
    (b.predStage v).pred m.ctx m.slot = some (n.op == .resolveTrue) ∧
    (b.predStage v).fe.teardownsIn = b.fe.teardownsIn) ∧
  (∀ (v : Env) (b : Blk) (m : PredMsg), b.predOps = [m] →
    let d := b.predStage v
    (m.record = true → ∃ r, d.rel.staged = b.rel.staged ++ [(18, r)] ∧ r.type = .pred ∧ r.ctx = m.ctx ∧
      r.id = BitVec.ofNat 32 m.slot) ∧
    (m.record = false → d.rel.staged = b.rel.staged) ∧
    (m.slot ≠ 0 → m.op = .clear → d.pred m.ctx m.slot = none ∧ d.reaches = b.reaches ∧ d.agents = b.agents) ∧
    (∀ old, m.slot ≠ 0 → m.op ≠ .clear → b.pred m.ctx m.slot = some old → d.preds = b.preds ∧ d.reaches = b.reaches ∧
      (old = (m.op == .resolveTrue) → d.fe = b.fe) ∧
      (old ≠ (m.op == .resolveTrue) → b.canTearDown m.ctx = true →
        d.fe.teardownsIn = b.fe.teardownsIn ++ [(m.ctx, stContextFault, none)])) ∧
    (m.slot ≠ 0 → m.op ≠ .clear → b.pred m.ctx m.slot = none →
      let value := m.op == .resolveTrue
      d.pred m.ctx m.slot = some value ∧
      tgetD .none d.history (m.ctx * 4096 + m.slot) = (if value then .lastTrue else .lastFalse) ∧
      ∀ (k : TaskRef) (x : Task), b.task? k = some x → Once b k → k.reach < v.reaches →
        let engines := (((b.reach k.reach).shadowRecs.find? fun q => q.ref == k).map ShadowRec.engines).getD []
        let gated : Prop := k.ctx = m.ctx ∧ x.state = .shadow ∧ x.pred.toNat = m.slot
        (¬ gated → d.task? k = some x) ∧
        (gated → x.pol = value → (∃ y, d.task? k = some y ∧ y = { x with state := .dispatched, last := y.last } ∧
            ∀ p ∈ engines, (∀ q ∈ engines, q = p ∨ q.1 < p.1) → y.last = BitVec.ofNat 11 p.2) ∧
          ∀ p ∈ engines, k ∈ (d.agent p.2).inCommits) ∧
        (gated → x.pol ≠ value → d.task? k = some { x with state := .skipped } ∧
          k ∈ (d.reach k.reach).squashed ∧ ∀ p ∈ engines, k ∈ (d.agent p.2).inSquashes)))

/-- A task's STATE changes only along the transitions of Table 2.4 (R59). At a pulse edge it follows any number of them,
in the order of R24: to waiting from any STATE only where a launch arms its context at that edge, to idle only where an
abort, the teardown of its context or a new image of it ends it. Of the other commands only the application of a unit
re-arms a task that has completed (R48), and the deadline of its context's teardown makes it idle (R308); replay after a
block reset rebuilds STATE, as the table has it. The premise rules out stores that no run builds, in which two entries
have one name, and members of a gang, whose STATE is that of their head (R42, log 14). -/
def Obligations.TaskStateFollowsTable2_4 : Prop :=
  ∀ (c : Instr) (s t : State) (k : TaskRef) (x y : Task), exec c s = .next t → Followed s.blk k →
    s.blk.task? k = some x → t.blk.task? k = some y →
    match c with
    | .pulseEdge _ => Path (t.blk.armedNow t.env k.ctx) (s.blk.endsSoon k || t.blk.torn k.ctx) x.state y.state
    | .unitApply _ => y.state = x.state ∨ ((x.state = .done ∨ x.state = .skipped) ∧ y.state = .waiting)
    | .teardownDeadline ctx => y.state = x.state ∨ (k.ctx = ctx ∧ y.state = .idle)
    | .journalReplay => True
    | _ => y.state = x.state

/-! ## The power governor -/

/-- What arrives at the governor's pins is noted for the rule that uses it and changes nothing else: a power sample for
the next control edge (R285), the supply level for the next edge (R290), the boost grant (R287). When a sag hold expires
the sag level never rises, and with one supply level in the whole window it falls to that level (R290). A rising edge of
the OR of the counted droop inputs is a droop event: it is counted, drops a boost request at the next edge and, with droop
handling enabled and not forced off, raises the stretch request (R287, R288); the request falls at its end if no counted
input is high (R288). -/
def Obligations.GovernorFollowsItsPins : Prop :=
  (∀ (s : State) (mw : BitVec 20),
    Does (.pgPowerSample mw) s fun t => OnlyBlk s t ∧ t.blk = { s.blk with
      pg := { s.blk.pg with sample := some mw, latest := mw } }) ∧
  (∀ (s : State) (x : BitVec 3),
    Does (.supplyLevelChange x) s fun t => OnlyBlk s t ∧ t.blk = { s.blk with pg := { s.blk.pg with supply := x } }) ∧
  (∀ (s : State) (level : Bool),
    Does (.boostGrant level) s fun t => OnlyBlk s t ∧ t.blk = { s.blk with pg := { s.blk.pg with boostGrant := level } }) ∧
  (∀ s : State,
    Does .sagHoldExpiry s fun t => OnlyBlk s t ∧ t.blk.pg.sag ≤ s.blk.pg.sag ∧
      (∀ st x, s.blk.pg.supplyHist = [(st, x)] → x = min s.blk.pg.supply.toNat 5 →
        t.blk.pg.sag = min s.blk.pg.sag x) ∧
      t.blk = { s.blk with pg := { s.blk.pg with sag := t.blk.pg.sag } }) ∧
  (∀ (s : State) (pins : BitVec 8), s.blk.pg.counted s.env pins = true → s.blk.pg.countedOr = false →
    s.env.droopEn = true → s.blk.pg.droopOff = false → s.blk.pg.stretch = false →
    Does (.droopEvent pins) s fun t => OnlyBlk s t ∧
      t.blk.pg.pins = pins ∧ t.blk.pg.stretch = true ∧ t.blk.pg.boostDrop = true ∧
      t.blk.pg.lastDroop = some s.aon.pulse ∧ t.blk.ctr .droopEvent = s.blk.ctr .droopEvent + 1 ∧
      t.blk.out = s.blk.out ++ [.stretch true (s.env.field 0xA0001C 0 3)] ∧
      t.blk = { s.blk with pg := t.blk.pg, counters := t.blk.counters, out := t.blk.out }) ∧
  (∀ (s : State) (pins : BitVec 8), s.blk.pg.counted s.env pins = false → s.blk.pg.stretch = true →
    Does (.stretchRequestEnd pins) s fun t => OnlyBlk s t ∧
      t.blk.pg.pins = pins ∧ t.blk.pg.stretch = false ∧
      t.blk.out = s.blk.out ++ [.stretch false (s.env.field 0xA0001C 0 3)] ∧
      t.blk = { s.blk with pg := t.blk.pg, counters := t.blk.counters, out := t.blk.out })

/-- At a control edge that is due the governor consumes the sample, moves the power average toward it by FP32 arithmetic
and clears the sums of charges; FILL follows from the average and the base power, CEIL prevailing over FLOOR (R283).
With calibration off P_base and the factors stay; with it on, a period without charges moves P_base, and any other moves
each factor with charges by the share of its class, rounded to 4.12 and clamped, and no other (R283, R286). At an edge
with PG_CTL.EN set the bucket is debited with the charges of the pulse, each class by its factor, and filled, up to its
cap, and starts full; the permit and ALLOW follow from the bucket and the shed level (R279-R281, R284). A missing sample
is taken as the last one; from the fourth in a row on as PG_CEIL_MW, and SAMPLE_STALE is set (R285). Every 1,024 control
edges a calibration period of the droop level is due; it takes, with CAL_EN, the lowest affordable level for the coming
edge and counts the inputs afresh (R286, R289). -/
def Obligations.ControlEdgeFollowsTheSample : Prop :=
  (∀ (v : Env) (b : Blk) (mg : Nat),
    let d := b.pgEdge v mg
    (v.pgEn = true → b.pg.metering = true → d.pg.bucket = min v.burst (b.pg.bucket
      - (((List.range 16).map fun k => b.pg.factor k * b.chargesOf v k).foldl (· + ·) 0 : Nat) + roundFp b.pg.fillFp 12)) ∧
    (v.pgEn = true → b.pg.metering = false → d.pg.bucket = v.burst) ∧
    (v.cfg.frozen = false → d.pg.permit = 0) ∧
    (v.cfg.frozen = true → d.pg.shed ≤ 5 →
      d.dspEn = (v.feEn && decide (d.pg.shed < 5) && !(v.pgEn && decide (d.pg.bucket ≤ 0))) ∧
      d.beEn = decide (d.pg.shed < 3) ∧ d.shEn = decide (d.pg.shed < 2) ∧ d.sasEn = decide (d.pg.shed < 4) ∧
      d.pg.throttle = (v.pgEn && decide (d.pg.bucket ≤ 0)) ∧ bits d.pg.permit 13 3 = d.pg.shed ∧
      (v.pgEn = false → d.allow = none) ∧
      (v.pgEn = true → d.allow = some (256 * min 0xFFFFFFFE ((max 0 d.pg.bucket).toNat / v.reaches / (4096 * 256)))))) ∧
  (∀ s : State, s.blk.controlDue s.env = true →
    Does .controlEdge s fun t => OnlyBlk s t ∧
      t.blk.pg.pAvg = addFp s.blk.pg.pAvg
        (divFp (mulFp (subFp (ofIntFp t.blk.pg.lastP.toNat) s.blk.pg.pAvg) s.blk.pg.periodNs) s.env.windowNs) ∧
      (∀ x, s.blk.pg.sample = some x → t.blk.pg.lastP = x ∧ t.blk.pg.miss = 0 ∧ t.blk.pg.stale = false) ∧
      (s.blk.pg.sample = none → t.blk.pg.miss = s.blk.pg.miss + 1 ∧ t.blk.pg.stale = decide (4 ≤ s.blk.pg.miss + 1) ∧
        t.blk.pg.lastP = if 4 ≤ s.blk.pg.miss + 1 then BitVec.ofNat 20 (s.env.field 0xA00008 0 20) else s.blk.pg.lastP) ∧
      t.blk.pg.sample = none ∧ t.blk.pg.sums = [] ∧ t.blk.pg.bucket = s.blk.pg.bucket ∧
      t.blk.pg.calEdges = s.blk.pg.calEdges + 1 ∧
      t.blk.pg.calDue = (s.blk.pg.calDue || decide ((s.blk.pg.calEdges + 1) % 1024 = 0)) ∧
      (s.env.calEn = false → t.blk.pg.pBase = s.blk.pg.pBase ∧ t.blk.pg.factors = s.blk.pg.factors) ∧
      (let sum (k : Nat) : BitVec 32 := ofIntFp (tgetD 0 s.blk.pg.sums k : Nat)
       let cur (k : Nat) : BitVec 32 := mulFp (ofIntFp (s.blk.pg.factor k : Nat)) (pow2Fp 12)
       let total (f : Nat → BitVec 32) : BitVec 32 := (List.range 16).foldl (fun acc k => addFp acc (f k)) 0
       let above : BitVec 32 := subFp (ofIntFp t.blk.pg.lastP.toNat) s.blk.pg.pBase
       let err : BitVec 32 := subFp (mulFp above s.blk.pg.periodNs) (total fun k => mulFp (cur k) (sum k))
       let norm : BitVec 32 := total fun k => mulFp (sum k) (sum k)
       s.env.calEn = true →
       ((∀ k, k < 16 → tgetD 0 s.blk.pg.sums k = 0) →
         t.blk.pg.factors = s.blk.pg.factors ∧
         t.blk.pg.pBase = addFp s.blk.pg.pBase (mulFp (pow2Fp s.env.gain) above)) ∧
       (∀ j, j < 16 → tgetD 0 s.blk.pg.sums j ≠ 0 → t.blk.pg.pBase = s.blk.pg.pBase ∧
         ∀ k, k < 16 →
           (tgetD 0 s.blk.pg.sums k = 0 → t.blk.pg.factor k = s.blk.pg.factor k) ∧
           (tgetD 0 s.blk.pg.sums k ≠ 0 → (t.blk.pg.factor k : Int) = min 0xFFFF (max 0x400
             (roundFp (addFp (cur k) (divFp (mulFp (mulFp (pow2Fp s.env.gain) err) (sum k)) norm)) 12))))) ∧
      t.blk.pg.fillFp = divFp (mulFp (maxFp 0 (subFp
          (minFp (s.env.mwFp 0xA00008) (maxFp (s.env.mwFp 0xA0000C)
            (subFp (mulFp (ofIntFp 2) (s.env.mwFp 0xA00004)) t.blk.pg.pAvg))) t.blk.pg.pBase)) s.blk.pg.periodNs)
        (ofIntFp 1024) ∧
      t.blk.ctr .controlEdge = s.blk.ctr .controlEdge + 1 ∧
      t.blk.pg = { s.blk.pg with
        lastP := t.blk.pg.lastP, miss := t.blk.pg.miss, stale := t.blk.pg.stale, sample := none, pAvg := t.blk.pg.pAvg
        pBase := t.blk.pg.pBase, factors := t.blk.pg.factors, fillFp := t.blk.pg.fillFp, sums := []
        controlAt := s.aon.pulse, calEdges := t.blk.pg.calEdges, calDue := t.blk.pg.calDue
        boostReq := t.blk.pg.boostReq } ∧
      t.blk = { s.blk with pg := t.blk.pg, mc := t.blk.mc, counters := t.blk.counters, out := t.blk.out }) ∧
  (∀ s : State, s.blk.pg.calDue = true →
    Does .droopCalibrationPeriod s fun t => OnlyBlk s t ∧
      t.blk.pg.calDue = false ∧ t.blk.pg.perInput = [] ∧
      (s.env.calEn = true → t.blk.pg.levelNext = some (BitVec.ofNat 3 (s.blk.pg.affordable s.env))) ∧
      (s.env.calEn = false → t.blk.pg.levelNext = s.blk.pg.levelNext) ∧
      t.blk = { s.blk with pg := { s.blk.pg with
        calDue := false, perInput := [], levelNext := t.blk.pg.levelNext } })

/-! ## Transport and paging -/

/-- Step requests of a reach arrive at the front end, each at its context, in their order (R130). Edge read goes on until
its backlog is empty, 256 entries have been read in the pulse or the queue of the next entry's destination is full; it
never passes these limits, and it changes nothing but its own backlog, outbox and count (R94, R98). A reach sends at most
16 units to a destination in a pulse, itself included (R96), and a destination admits group deliveries while they cover at
most 2,048 entries (R97). While a source is within the first limit, the first unit of its queue for the destination goes
if it is no group delivery, and a group delivery goes from the reach that is first in turn, n mod 16, if the second limit
admits it: units stand at the end of the destination's arrivals in the order of their queue. Sending moves units only: no
task, list or ledger entry changes. -/
def Obligations.RequestsAndUnitsMoveOn : Prop :=
  (∀ (s : State) (r c : Nat) (x : Ctx), r < s.aon.grade.reaches → s.blk.frozen = false → s.blk.ctx? c = some x →
     Does (.stepRequest r) s fun t => OnlyBlk s t ∧
       t.blk.ctx? c = some { x with
         requests := x.requests ++ s.blk.fe.stepsIn.filter fun k => k.reach == r && k.ctx == c } ∧
       t.blk.fe.stepsIn = s.blk.fe.stepsIn.filter (fun k => k.reach != r) ∧
       t.blk.fe.queues = s.blk.fe.queues ∧ t.blk = { s.blk with fe := t.blk.fe }) ∧
  (∀ (s : State) (r : Nat), r < s.aon.grade.reaches → s.blk.frozen = false →
     Does (.edgeRead r) s fun t => OnlyBlk s t ∧
       (t.blk.reach r).readEntry = none ∧
       ((s.blk.reach r).readCount ≤ 256 → (t.blk.reach r).readCount ≤ 256) ∧
       (∀ d, (tgetD [] (s.blk.reach r).outbox d).length ≤ 256 → (tgetD [] (t.blk.reach r).outbox d).length ≤ 256) ∧
       t.blk.reach r = { s.blk.reach r with
         backlog := (t.blk.reach r).backlog, outbox := (t.blk.reach r).outbox, readCount := (t.blk.reach r).readCount } ∧
       (∀ k, k ≠ r → t.blk.reach k = s.blk.reach k) ∧ t.blk = { s.blk with reaches := t.blk.reaches }) ∧
  (∀ (s : State) (dst : Nat), dst < s.aon.grade.reaches → s.blk.frozen = false →
    Does (.outboxSend dst) s fun t => OnlyBlk s t ∧
      (∀ r, tgetD 0 (s.blk.reach r).sentCount dst ≤ 16 → tgetD 0 (t.blk.reach r).sentCount dst ≤ 16) ∧
      ((s.blk.reach dst).admitCount ≤ 2048 → (t.blk.reach dst).admitCount ≤ 2048) ∧
      (∀ k, (t.blk.reach k).blocks = (s.blk.reach k).blocks ∧ (t.blk.reach k).lc = (s.blk.reach k).lc ∧
        (t.blk.reach k).ledger = (s.blk.reach k).ledger ∧ (t.blk.reach k).landed = (s.blk.reach k).landed) ∧
      t.blk = { s.blk with reaches := t.blk.reaches, counters := t.blk.counters }) ∧
  (∀ (s : State) (dst r : Nat) (u : XUnit) (q : List XUnit), dst < s.aon.grade.reaches → r < s.aon.grade.reaches →
    s.blk.frozen = false → tgetD [] (s.blk.reach r).outbox dst = u :: q → tgetD 0 (s.blk.reach r).sentCount dst < 16 →
    u.span = 0 → (s.blk.reach dst).admitCount ≤ 2048 →
    Does (.outboxSend dst) s fun t => ∃ before taken after new rest,
      (t.blk.reach dst).arrivals = (s.blk.reach dst).arrivals ++ before ++ u :: taken ++ after ∧
      q ++ new = taken ++ rest ∧ tgetD [] (t.blk.reach r).outbox dst = rest) ∧
  (∀ (s : State) (dst r : Nat) (u : XUnit) (q : List XUnit), dst < s.aon.grade.reaches → r < s.aon.grade.reaches →
    s.blk.frozen = false → tgetD [] (s.blk.reach r).outbox dst = u :: q → tgetD 0 (s.blk.reach r).sentCount dst < 16 →
    r = s.aon.pulse % 16 → (s.blk.reach dst).admitCount + u.span ≤ 2048 →
    Does (.outboxSend dst) s fun t => ∃ taken after new rest,
      (t.blk.reach dst).arrivals = (s.blk.reach dst).arrivals ++ u :: taken ++ after ∧
      q ++ new = taken ++ rest ∧ tgetD [] (t.blk.reach r).outbox dst = rest)

/-- What a unit that is the only one on its way does (R99). A decrement lowers the DEPCNT of its waiting target by one
(R35), and a skip decrement sets SK besides (R55). One to a LOOP task that is not waiting is banked; one to a count of
zero, to an idle task, to a task without LOOP that is not waiting, or to a full bank is excess: it is counted, the count
flag is set and the fault awaits the next edge (R36, R37). One to a faulted task is discarded. A group delivery
decrements each task of its run once (R46). A re-arm of a task with ITER left makes one that has completed wait for
DEPINIT less its bank, leaves RA in one that has not, and does nothing with ITER zero (R48, R49). A decrement for a
block that is not resident goes to the ledger, and its first entry asks for the block's page-in (R86); a re-arm has no
effect there (R99). A unit of a context that is torn down is discarded and counted (R99). -/
def Obligations.UnitsActOnTheirTarget : Prop :=
  (∀ (s : State) (dst : Nat) (u : XUnit) (x : Task), dst < s.aon.grade.reaches → OnlyUnit s dst u →
    u.target.reach = dst → (u.kind = .plain ∨ u.kind = .skip) →
    s.blk.torn u.target.ctx = false → s.blk.task? u.target = some x → x.state = .waiting → x.depcnt ≠ 0 →
    Does (.unitApply dst) s fun t => OnlyBlk s t ∧
      t.blk.task? u.target = some { x with depcnt := x.depcnt - 1, sk := x.sk || decide (u.kind = .skip) } ∧
      (∀ k, k ≠ u.target → k.reach = dst → (t.blk.task? k).map Task.depcnt = (s.blk.task? k).map Task.depcnt) ∧
      (t.blk.reach dst).arrivals = [] ∧
      t.blk.ctr .unitsApplied dst = s.blk.ctr .unitsApplied dst + 1 ∧
      t.blk = { s.blk with reaches := t.blk.reaches, counters := t.blk.counters }) ∧
  (∀ (s : State) (dst : Nat) (u : XUnit) (x : Task), dst < s.aon.grade.reaches → OnlyUnit s dst u →
    u.target.reach = dst → (u.kind = .plain ∨ u.kind = .skip) → s.blk.inBackwater u.target.ctx = false →
    s.blk.torn u.target.ctx = false → s.blk.task? u.target = some x → x.state ≠ .waiting → x.state ≠ .idle →
    x.state ≠ .faulted → x.loop = true → x.depcnt ≠ 0xFFFF →
    Does (.unitApply dst) s fun t => OnlyBlk s t ∧
      t.blk.task? u.target = some { x with depcnt := x.depcnt + 1 } ∧
      t.blk.ctr .unitsApplied dst = s.blk.ctr .unitsApplied dst + 1 ∧
      t.blk = { s.blk with reaches := t.blk.reaches, counters := t.blk.counters }) ∧
  (∀ (s : State) (dst : Nat) (u : XUnit) (x : Task), dst < s.aon.grade.reaches → OnlyUnit s dst u →
    u.target.reach = dst → (u.kind = .plain ∨ u.kind = .skip) → s.blk.inBackwater u.target.ctx = false →
    s.blk.torn u.target.ctx = false → s.blk.task? u.target = some x → x.state ≠ .faulted →
    (x.state = .waiting ∧ x.depcnt = 0 ∨ x.state = .idle ∧ s.blk.launchAborted u.target.ctx = false ∨
      x.state ≠ .waiting ∧ x.state ≠ .idle ∧ (x.loop = false ∨ x.depcnt = 0xFFFF)) →
    Does (.unitApply dst) s fun t => OnlyBlk s t ∧
      t.blk.task? u.target = some { x with cf := true } ∧
      (t.blk.reach (s.blk.headAny u.target).reach).cfSet.contains (s.blk.headAny u.target) = true ∧
      t.blk.ctr .excessDecrement dst = s.blk.ctr .excessDecrement dst + 1 ∧
      t.blk.ctr .unitsApplied dst = s.blk.ctr .unitsApplied dst ∧
      t.blk = { s.blk with reaches := t.blk.reaches, counters := t.blk.counters }) ∧
  (∀ (s : State) (dst : Nat) (u : XUnit) (x : Task), dst < s.aon.grade.reaches → OnlyUnit s dst u →
    u.target.reach = dst → (u.kind = .plain ∨ u.kind = .skip ∨ ∃ rf, u.kind = .rearm rf) →
    s.blk.inBackwater u.target.ctx = false → s.blk.torn u.target.ctx = false →
    s.blk.task? u.target = some x → x.state = .faulted →
    Does (.unitApply dst) s fun t => OnlyBlk s t ∧
      t.blk.task? u.target = some x ∧ t.blk.ctr .discardedUnit dst = s.blk.ctr .discardedUnit dst + 1 ∧
      t.blk = { s.blk with reaches := t.blk.reaches, counters := t.blk.counters }) ∧
  (∀ (s : State) (dst len : Nat) (u : XUnit) (i : Nat) (x : Task), dst < s.aon.grade.reaches → OnlyUnit s dst u →
    u.target.reach = dst → u.kind = .group len → s.blk.torn u.target.ctx = false →
    u.target.entry + len < 256 → i ≤ len → s.blk.task? (u.target.plus i) = some x → x.state = .waiting → x.depcnt ≠ 0 →
    Does (.unitApply dst) s fun t => OnlyBlk s t ∧
      t.blk.task? (u.target.plus i) = some { x with depcnt := x.depcnt - 1 } ∧
      t.blk.ctr .groupEntry dst ≤ s.blk.ctr .groupEntry dst + (len + 1) ∧
      ((∀ k, k ≤ len → ∃ y, s.blk.task? (u.target.plus k) = some y ∧ y.state = .waiting ∧ y.depcnt ≠ 0) →
        t.blk.ctr .groupEntry dst = s.blk.ctr .groupEntry dst + (len + 1)) ∧
      t.blk = { s.blk with reaches := t.blk.reaches, fe := t.blk.fe, counters := t.blk.counters }) ∧
  (∀ (s : State) (dst : Nat) (u : XUnit) (rf : Bool) (x : Task), dst < s.aon.grade.reaches → OnlyUnit s dst u →
    u.target.reach = dst → u.kind = .rearm rf → s.blk.torn u.target.ctx = false → s.blk.task? u.target = some x →
    x.kind ≠ .gang → x.state ≠ .faulted →
    Does (.unitApply dst) s fun t => OnlyBlk s t ∧
      (x.iter = 0 → t.blk.task? u.target = some x) ∧
      (x.iter ≠ 0 → (x.state = .done ∨ x.state = .skipped) → x.depcnt.toNat + b2n rf ≤ x.depinit.toNat →
        t.blk.task? u.target = some { x with
          state := .waiting, sk := false, ra := false, rf := false, kept := 0
          depcnt := BitVec.ofNat 16 (x.depinit.toNat - (x.depcnt.toNat + b2n rf)) }) ∧
      (x.iter ≠ 0 → (x.state = .done ∨ x.state = .skipped) → x.depinit.toNat < x.depcnt.toNat + b2n rf →
        t.blk.task? u.target = some { x with cf := true }) ∧
      (x.iter ≠ 0 → (x.state = .ready ∨ x.state = .dispatched ∨ x.state = .shadow) → x.ra = false →
        t.blk.task? u.target = some { x with ra := true, rf := rf }) ∧
      (x.iter ≠ 0 → x.state = .waiting →
        t.blk.task? u.target = some { x with cf := true } ∧
        t.blk.ctr .excessDecrement dst = s.blk.ctr .excessDecrement dst + 1) ∧
      t.blk = { s.blk with reaches := t.blk.reaches, counters := t.blk.counters }) ∧
  (∀ (s : State) (dst : Nat) (u : XUnit), dst < s.aon.grade.reaches → OnlyUnit s dst u →
    u.target.reach = dst → (u.kind = .plain ∨ u.kind = .skip) → s.blk.inBackwater u.target.ctx = false →
    s.blk.torn u.target.ctx = false → s.blk.launchAborted u.target.ctx = false →
    (s.blk.reach dst).find u.target.ctx u.target.seg u.target.vblock = none →
    (s.blk.reach dst).ledger.length < 4096 →
    (∀ l ∈ (s.blk.reach dst).ledger, l.ref ≠ u.target) →
    Does (.unitApply dst) s fun t => OnlyBlk s t ∧
      (t.blk.reach dst).ledger = (s.blk.reach dst).ledger ++ [{ ref := u.target, count := 1, skip := decide (u.kind = .skip) }] ∧
      ((∀ l ∈ (s.blk.reach dst).ledger, l.ref.ctx ≠ u.target.ctx ∨ l.ref.seg ≠ u.target.seg ∨
          l.ref.vblock ≠ u.target.vblock) →
        (s.blk.reach dst).pagingIn = none → (s.blk.reach dst).pageReqs = [] →
        (t.blk.reach dst).pageReqs = [{ ctx := u.target.ctx, seg := u.target.seg, vblock := u.target.vblock }]) ∧
      t.blk.ctr .unitsApplied dst = s.blk.ctr .unitsApplied dst + 1 ∧
      t.blk = { s.blk with reaches := t.blk.reaches, counters := t.blk.counters }) ∧
  (∀ (s : State) (dst : Nat) (u : XUnit) (rf : Bool), dst < s.aon.grade.reaches → OnlyUnit s dst u →
    u.target.reach = dst → u.kind = .rearm rf → s.blk.torn u.target.ctx = false →
    (s.blk.reach dst).find u.target.ctx u.target.seg u.target.vblock = none →
    Does (.unitApply dst) s fun t => OnlyBlk s t ∧
      (t.blk.reach dst).ledger = (s.blk.reach dst).ledger ∧ (t.blk.reach dst).blocks = (s.blk.reach dst).blocks ∧
      t.blk.ctr .unitsApplied dst = s.blk.ctr .unitsApplied dst + 1 ∧
      t.blk = { s.blk with reaches := t.blk.reaches, counters := t.blk.counters }) ∧
  (∀ (s : State) (dst : Nat) (u : XUnit), dst < s.aon.grade.reaches → OnlyUnit s dst u →
    u.target.reach = dst → u.kind ≠ .notice → s.blk.torn u.target.ctx = true →
    Does (.unitApply dst) s fun t => OnlyBlk s t ∧
      (t.blk.reach dst).blocks = (s.blk.reach dst).blocks ∧ (t.blk.reach dst).ledger = (s.blk.reach dst).ledger ∧
      t.blk.ctr .discardedUnit dst = s.blk.ctr .discardedUnit dst + 1 ∧
      t.blk = { s.blk with reaches := t.blk.reaches, counters := t.blk.counters })

/-- The responses of the spill DMA: a page that has been read waits for the next edge (R87); a page-out whose live copy is
acknowledged frees its physical block and enters a PAGE_OUT record, and the frame holds its entries under the launch that
they belong to (R84, R85, R301); a ledger read-modify-write leaves its queue, is counted, and lowers the count of a
waiting task in the live copy, or is discarded with its context (R86); an uncorrectable error of a page-in halts the DMA
(R89). In backwater mode a retired block leaves its reach, and the read of the next block in directory order begins where
there is room (R90). -/
def Obligations.SpillMovesBlocks : Prop :=
  (∀ (s : State) (r : Nat) (p : PageIn), r < s.aon.grade.reaches → (s.blk.reach r).pagingIn = some p → p.read = false →
    (s.blk.reach r).spillHalted = false → s.blk.rel.phase = 0 →
    Does (.pageInComplete r true) s fun t => OnlyBlk s t ∧
      t.blk.reach r = { s.blk.reach r with pagingIn := some { p with read := true } } ∧
      (∀ k, k ≠ r → t.blk.reach k = s.blk.reach k) ∧ t.blk = { s.blk with reaches := t.blk.reaches }) ∧
  (∀ (s : State) (r : Nat) (p : PageIn), r < s.aon.grade.reaches → (s.blk.reach r).pagingIn = some p → p.read = false →
    (s.blk.reach r).spillHalted = false → s.blk.rel.phase = 0 →
    Does (.pageInComplete r false) s fun t => OnlyBlk s t ∧ (t.blk.reach r).spillHalted = true ∧
      (t.blk.reach r).blocks = (s.blk.reach r).blocks) ∧
  (∀ (s : State) (r k : Nat) (x : Block) (rest : List (Nat × Block)), r < s.aon.grade.reaches →
    (s.blk.reach r).pagingOut = (k, x) :: rest → (s.blk.reach r).spillHalted = false → s.blk.rel.phase = 0 →
    Does (.pageOutComplete r true) s fun t => OnlyBlk s t ∧
      t.blk.reach r = { s.blk.reach r with pagingOut := rest } ∧
      (∃ j, t.blk.rel.staged = s.blk.rel.staged ++ [(20 + r, j)] ∧ j.type = .pageOut ∧ j.ctx = x.ctx ∧
        j.aux = BitVec.ofNat 32 k) ∧
      t.blk.ctr .pageOut r = s.blk.ctr .pageOut r + 1 ∧
      (∀ g, ((s.blk.ctx? x.ctx).bind fun y => y.frame r x.seg x.vblock) = some g →
        ((t.blk.ctx? x.ctx).bind fun y => y.frame r x.seg x.vblock) =
          some { g with live := some (movePtr 0 x.edgeBase x.entries), epoch := x.epoch }) ∧
      (∀ k, k ≠ r → t.blk.reach k = s.blk.reach k) ∧
      t.blk = { s.blk with
        reaches := t.blk.reaches, fe := t.blk.fe, db := t.blk.db, counters := t.blk.counters, out := t.blk.out
        rel := { s.blk.rel with staged := t.blk.rel.staged, tickets := s.blk.rel.tickets + 1 } }) ∧
  (∀ (s : State) (r : Nat) (u : XUnit) (rest : List XUnit), r < s.aon.grade.reaches →
    (s.blk.reach r).rmw = u :: rest → (s.blk.reach r).spillHalted = false → s.blk.frozen = false →
    s.blk.torn u.target.ctx = true →
    Does (.ledgerRmw r true) s fun t => OnlyBlk s t ∧
      t.blk.reach r = { s.blk.reach r with rmw := rest } ∧ (∀ k, k ≠ r → t.blk.reach k = s.blk.reach k) ∧
      t.blk.ctr .ledgerRmw r = s.blk.ctr .ledgerRmw r + 1 ∧ t.blk.ctr .discardedUnit r = s.blk.ctr .discardedUnit r + 1 ∧
      t.blk = { s.blk with reaches := t.blk.reaches, counters := t.blk.counters }) ∧
  (∀ (s : State) (r : Nat) (u : XUnit) (rest : List XUnit) (f : Frame) (x : Task), r < s.aon.grade.reaches →
    (s.blk.reach r).rmw = u :: rest → u.kind ≠ .notice → (s.blk.reach r).spillHalted = false → s.blk.frozen = false →
    s.blk.torn u.target.ctx = false →
    (s.blk.reach r).find u.target.ctx u.target.seg u.target.vblock = none → (s.blk.reach r).pagingOut = [] →
    ((s.blk.ctx? u.target.ctx).bind fun k => k.frame r u.target.seg u.target.vblock) = some f →
    tget (f.pageEntries (s.blk.epoch u.target.ctx)) u.target.entry = some x → x.state = .waiting → x.depcnt ≠ 0 →
    Does (.ledgerRmw r true) s fun t => OnlyBlk s t ∧
      t.blk.reach r = { s.blk.reach r with rmw := rest } ∧
      ((t.blk.ctx? u.target.ctx).bind fun k => k.frame r u.target.seg u.target.vblock) = some { f with
        epoch := s.blk.epoch u.target.ctx
        live := some (tput (f.pageEntries (s.blk.epoch u.target.ctx)) u.target.entry
          { x with depcnt := x.depcnt - 1, sk := x.sk || u.kind == .skip }) } ∧
      t.blk = { s.blk with
        reaches := t.blk.reaches, fe := t.blk.fe, counters := t.blk.counters, out := t.blk.out }) ∧
  (∀ (s : State) (r c : Nat) (x : Ctx) (f : Frame) (p : Nat × Block), r < s.aon.grade.reaches →
     s.blk.ctx? c = some x → x.backwater = true → x.faulted = false → x.launchQueue.isSome = true →
     (s.blk.reach r).pagingIn = none → (s.blk.reach r).spillHalted = false →
     x.image.frames.find? (fun g => g.reach == r && !g.loaded) = some f → s.blk.frozen = false →
     (s.blk.reach r).blocks.find? (fun q => q.2.ctx == c && q.2.isRetired) = some p →
     Does (.backwaterBlockLoad r c) s fun t => OnlyBlk s t ∧
       tget (t.blk.reach r).blocks p.1 = none ∧
       (∀ k, k ≠ p.1 → tget (t.blk.reach r).blocks k = tget (s.blk.reach r).blocks k) ∧
       ((t.blk.reach r).pagingIn = none ∧ t.blk.out = s.blk.out ∨
         (∃ phys base, (t.blk.reach r).pagingIn =
           some { ctx := c, seg := f.seg, vblock := f.vblock, phys := phys, base := base, read := false }) ∧
         ∃ n, t.blk.out = s.blk.out ++ [.dmRead f.copyAddr 8192, .dmRead (f.copyAddr + 16384) n]) ∧
       (∀ k, k ≠ r → t.blk.reach k = s.blk.reach k) ∧
       t.blk = { s.blk with reaches := t.blk.reaches, fe := t.blk.fe, out := t.blk.out })

/-! ## Dispatch -/

/-- A dispatch word that arrives at an agent whose engine takes part joins the dispatch queue of 4 (R31). A pre-empting
word goes into the empty register of an agent that runs a BE task with PREEMPT set instead, and the run's abort is asked
for (R114). A word that the agent cannot take is refused, counted, and returned to its reach; for a member of a gang the
whole gang is marked refused (R121, R384). -/
def Obligations.DispatchWordQueuesOrReturns : Prop :=
  (∀ (s : State) (e : Nat) (d : DWord) (rest : List DWord), e < s.aon.grade.engines →
    (s.blk.agent e).inWords = d :: rest → (s.blk.agent e).joined = true → (s.blk.agent e).pwrGood = true →
    (s.blk.agent e).fenced = false → (s.blk.agent e).queue.length < 4 →
    (d.preempting = false ∨ (s.blk.agent e).pre ≠ none ∨ (s.blk.agent e).preemptible = false) →
    Does (.dispatchWordArrive e) s fun t => OnlyBlk s t ∧
      t.blk.agent e = { s.blk.agent e with inWords := rest, queue := (s.blk.agent e).queue ++ [d] } ∧
      OtherAgents e s.blk t.blk ∧ t.blk = { s.blk with agents := t.blk.agents }) ∧
  (∀ (s : State) (e : Nat) (d : DWord) (rest : List DWord) (r : Run), e < s.aon.grade.engines →
    (s.blk.agent e).inWords = d :: rest → (s.blk.agent e).joined = true → (s.blk.agent e).pwrGood = true →
    (s.blk.agent e).fenced = false → d.preempting = true → (s.blk.agent e).pre = none →
    (s.blk.agent e).preemptible = true → (s.blk.agent e).run = some r → (s.blk.agent e).abort = none →
    Does (.dispatchWordArrive e) s fun t => OnlyBlk s t ∧
      t.blk.agent e = { s.blk.agent e with inWords := rest, pre := some d, abort := some .preempt } ∧
      t.blk.out = s.blk.out ++ [.abort e] ∧
      OtherAgents e s.blk t.blk ∧ t.blk = { s.blk with agents := t.blk.agents, out := t.blk.out }) ∧
  (∀ (s : State) (e : Nat) (d : DWord) (rest : List DWord), e < s.aon.grade.engines →
    (s.blk.agent e).inWords = d :: rest →
    ((s.blk.agent e).joined = false ∨ (s.blk.agent e).pwrGood = false ∨ (s.blk.agent e).fenced = true ∨
      4 ≤ (s.blk.agent e).queue.length ∧
        (d.preempting = false ∨ (s.blk.agent e).pre ≠ none ∨ (s.blk.agent e).preemptible = false)) →
    Does (.dispatchWordArrive e) s fun t => OnlyBlk s t ∧
      t.blk.agent e = { s.blk.agent e with inWords := rest } ∧ OtherAgents e s.blk t.blk ∧
      t.blk.ctr .dispatchRefusal (s.blk.headOf d.ref).reach = s.blk.ctr .dispatchRefusal (s.blk.headOf d.ref).reach + 1 ∧
      (d.gangMember = none →
        ∃ x, (t.blk.reach (s.blk.headOf d.ref).reach).returns = (s.blk.reach (s.blk.headOf d.ref).reach).returns ++ [x] ∧
          x.ref = d.ref ∧ x.engine = e ∧ x.refused = true) ∧
      (d.gangMember ≠ none →
        (t.blk.reach (s.blk.headOf d.ref).reach).returns = (s.blk.reach (s.blk.headOf d.ref).reach).returns ∧
        ∀ g, g ∈ (t.blk.reach (s.blk.headOf d.ref).reach).gangs → g.ref = s.blk.headOf d.ref → g.refused = true) ∧
      t.blk = { s.blk with agents := t.blk.agents, reaches := t.blk.reaches, counters := t.blk.counters })

/-- An agent that may offer a word presents it on its port, and notes the pulse; taken, the word leaves the queue or the
pre-empting register and its run begins, with the local objects' values noted as its start values, no object touched, and
the watchpoints of its context (R113, R114, R217, R266, R344). A list word waits for a tile. -/
def Obligations.PresentedWordBecomesRun : Prop :=
  (∀ (s : State) (e : Nat) (d : DWord), e < s.aon.grade.engines → s.blk.frozen = false → (s.blk.agent e).offer = some d →
    Does (.dispatchPresent e) s fun t => OnlyBlk s t ∧
      t.blk.agent e = { s.blk.agent e with present := some d, presentEdge := s.aon.pulse } ∧ OtherAgents e s.blk t.blk ∧
      t.blk.out = s.blk.out ++ [.present e d.word] ∧ t.blk = { s.blk with agents := t.blk.agents, out := t.blk.out }) ∧
  (∀ (s : State) (e : Nat) (d : DWord), e < s.aon.grade.engines → (s.blk.agent e).present = some d →
    (d.kind ≠ .list ∨ d.shadow = true) →
    Does (.engineTakeDispatch e) s fun t => OnlyBlk s t ∧
      (t.blk.agent e).present = none ∧
      ((s.blk.agent e).pre ≠ some d →
        (t.blk.agent e).queue = (s.blk.agent e).queue.drop 1 ∧ (t.blk.agent e).pre = (s.blk.agent e).pre) ∧
      ((s.blk.agent e).pre = some d →
        (t.blk.agent e).queue = (s.blk.agent e).queue ∧ (t.blk.agent e).pre = none) ∧
      (∃ r, (t.blk.agent e).run = some r ∧ r.dw = d ∧ r.active = true ∧ r.startEdge = (s.blk.agent e).presentEdge ∧
        r.tile = d.tile.getD d.tileField ∧ r.rsig = [] ∧ r.watch = s.env.watchpoints d.ref.ctx) ∧
      (∀ i x, tget (s.blk.agent e).locals i = some x →
        tget (t.blk.agent e).locals i = some { x with touched := false, start := x.value }) ∧
      (t.blk.agent e).items = (s.blk.agent e).items ∧
      OtherAgents e s.blk t.blk ∧ t.blk = { s.blk with agents := t.blk.agents }) ∧
  (∀ (s : State) (e : Nat) (d : DWord), e < s.aon.grade.engines → (s.blk.agent e).present = some d →
    d.kind = .list → d.shadow = false →
    Does (.engineTakeDispatch e) s fun t => OnlyBlk s t ∧
      t.blk.agent e = { s.blk.agent e with
        present := none, listWord := some d, fedFirst := false, advance := none, pull := .none, pullEmpty := false
        pre := if (s.blk.agent e).pre = some d then none else (s.blk.agent e).pre
        queue := if (s.blk.agent e).pre = some d then (s.blk.agent e).queue else (s.blk.agent e).queue.drop 1 } ∧
      OtherAgents e s.blk t.blk ∧ t.blk = { s.blk with agents := t.blk.agents })

/-- A run that completes sends its completion word to its reach, with the status that ranks higher of the engine's and the
agent's (R16, R113, R265); landed, the word waits at the reach for the edge, or is discarded and counted if its launch is
over (R102, R202). -/
def Obligations.CompletionReachesItsReach : Prop :=
  (∀ (s : State) (e : Nat) (r : Run) (word : BitVec 128), RunsAt s e r → r.parks = false →
    (s.blk.agent e).abort = none → (s.blk.agent e).listWord = none → (s.blk.agent e).lateReplies = [] →
    Does (.engineCompletion e word) s fun t => OnlyBlk s t ∧
      (∃ c, t.blk.agent e = { s.blk.agent e with run := none, outCpl := (s.blk.agent e).outCpl ++ [c] } ∧
        c.ref = r.ref ∧ c.engine = e ∧ c.rsig = r.rsig ∧
        c.word = withStatus word (completionStatus (cplStatus word) r.status)) ∧
      OtherAgents e s.blk t.blk ∧ t.blk = { s.blk with agents := t.blk.agents }) ∧
  (∀ (s : State) (e : Nat) (c : Cpl) (rest : List Cpl), e < s.aon.grade.engines → s.blk.frozen = false →
    (s.blk.agent e).outCpl = c :: rest → s.blk.torn (s.blk.headOf c.ref).ctx = false →
    s.blk.isLate (s.blk.headOf c.ref).ctx (cplEpoch c.word) = false →
    Does (.completionLand e) s fun t => OnlyBlk s t ∧
      t.blk.agent e = { s.blk.agent e with outCpl := rest, landDue := (s.blk.agent e).landDue - 1 } ∧
      OtherAgents e s.blk t.blk ∧
      t.blk.reach (s.blk.headOf c.ref).reach = { s.blk.reach (s.blk.headOf c.ref).reach with
        landed := (s.blk.reach (s.blk.headOf c.ref).reach).landed ++ [.word c] } ∧
      (∀ k, k ≠ (s.blk.headOf c.ref).reach → t.blk.reach k = s.blk.reach k) ∧
      t.blk = { s.blk with agents := t.blk.agents, reaches := t.blk.reaches }) ∧
  (∀ (s : State) (e : Nat) (c : Cpl) (rest : List Cpl), e < s.aon.grade.engines → s.blk.frozen = false →
    (s.blk.agent e).outCpl = c :: rest → s.blk.torn (s.blk.headOf c.ref).ctx = false →
    s.blk.isLate (s.blk.headOf c.ref).ctx (cplEpoch c.word) = true →
    Does (.completionLand e) s fun t => OnlyBlk s t ∧
      (t.blk.agent e).outCpl = rest ∧ OtherAgents e s.blk t.blk ∧ t.blk.reaches = s.blk.reaches ∧
      t.blk.ctr .lateCompletion = s.blk.ctr .lateCompletion + 1 ∧
      t.blk = { s.blk with agents := t.blk.agents, counters := t.blk.counters })

/-- When the engine acknowledges an abort that was asked for, the run is gone without a completion, every local object
that it touched holds its start value again and no other local object changes, global objects are not restored, and the
agent replies (R62, R64, R122, R217). -/
def Obligations.AbortRestoresLocals : Prop :=
  ∀ (s : State) (e : Nat) (r : Run), e < s.aon.grade.engines → (s.blk.agent e).run = some r →
    (s.blk.agent e).abort = some .request → (s.blk.agent e).wait = none → (s.blk.agent e).listWord = none →
    (s.blk.agent e).lateReplies = [] → (s.blk.agent e).pre = none → (s.blk.agent e).present = none →
    Does (.engineAbortAck e) s fun t => OnlyBlk s t ∧
      (t.blk.agent e).run = none ∧ (t.blk.agent e).abort = none ∧
      (t.blk.agent e).outReplies = (s.blk.agent e).outReplies ++ [s.blk.headOf r.ref] ∧
      (t.blk.agent e).outCpl = (s.blk.agent e).outCpl ∧
      (∀ i x, tget (s.blk.agent e).locals i = some x →
        tget (t.blk.agent e).locals i =
          some (if x.touched then { x with value := x.start, sat := false, touched := false } else x)) ∧
      t.blk.hb = s.blk.hb ∧ OtherAgents e s.blk t.blk ∧
      (∀ k, t.blk.reach k = { s.blk.reach k with abortRecs := (t.blk.reach k).abortRecs } ∧
        (t.blk.reach k).abortRecs.map AbortRec.ref = (s.blk.reach k).abortRecs.map AbortRec.ref ∧
        (t.blk.reach k).abortRecs.map AbortRec.waiting = (s.blk.reach k).abortRecs.map AbortRec.waiting) ∧
      t.blk = { s.blk with agents := t.blk.agents, reaches := t.blk.reaches, counters := t.blk.counters }

/-- Notices, abort requests and replies: a pre-emption notice waits at its reach for the position of aborts (R115), and
one of a launch that is over is discarded and counted (R202); an abort request for a task that the agent does not run
drops its words and is replied to, and one for the run of a forced destroy or a teardown asserts abort (R122, R202); a
reply lands behind the completion words sent before it (R122). -/
def Obligations.AbortMessagesLand : Prop :=
  (∀ (s : State) (e : Nat) (x : Return) (rest : List Return), e < s.aon.grade.engines → s.blk.frozen = false →
    (s.blk.agent e).outReturns = x :: rest → s.blk.torn (s.blk.headOf x.ref).ctx = false →
    s.blk.isLate (s.blk.headOf x.ref).ctx x.epoch = true →
    Does (.preemptionNoticeLand e) s fun t => OnlyBlk s t ∧
      t.blk.agent e = { s.blk.agent e with outReturns := rest } ∧ OtherAgents e s.blk t.blk ∧
      t.blk.ctr .lateCompletion = s.blk.ctr .lateCompletion + 1 ∧
      t.blk = { s.blk with agents := t.blk.agents, counters := t.blk.counters }) ∧
  (∀ (s : State) (e : Nat) (x : Return) (rest : List Return), e < s.aon.grade.engines → s.blk.frozen = false →
    (s.blk.agent e).outReturns = x :: rest → s.blk.torn (s.blk.headOf x.ref).ctx = false →
    s.blk.isLate (s.blk.headOf x.ref).ctx x.epoch = false →
    Does (.preemptionNoticeLand e) s fun t => OnlyBlk s t ∧
      t.blk.agent e = { s.blk.agent e with outReturns := rest } ∧ OtherAgents e s.blk t.blk ∧
      t.blk.reach (s.blk.headOf x.ref).reach = { s.blk.reach (s.blk.headOf x.ref).reach with
        returns := (s.blk.reach (s.blk.headOf x.ref).reach).returns ++ [x] } ∧
      t.blk = { s.blk with agents := t.blk.agents, reaches := t.blk.reaches }) ∧
  (∀ (s : State) (e : Nat) (k : TaskRef) (why : AbortWhy) (rest : List (TaskRef × AbortWhy)), e < s.aon.grade.engines →
    s.blk.frozen = false → (s.blk.agent e).inAborts = (k, why) :: rest → (s.blk.agent e).run = none →
    (s.blk.agent e).present = none → (s.blk.agent e).listWord = none → (s.blk.agent e).committed = [] →
    Does (.abortRequest e) s fun t => OnlyBlk s t ∧
      (t.blk.agent e).inAborts = rest ∧ (t.blk.agent e).outReplies = (s.blk.agent e).outReplies ++ [k] ∧
      (t.blk.agent e).queue = (s.blk.agent e).queue.filter (fun d => s.blk.headOf d.ref != k) ∧
      (t.blk.agent e).items = (s.blk.agent e).items.filter (fun i => i.1 != k) ∧
      OtherAgents e s.blk t.blk ∧ t.blk = { s.blk with agents := t.blk.agents, counters := t.blk.counters }) ∧
  (∀ (s : State) (e : Nat) (k : TaskRef) (rest : List (TaskRef × AbortWhy)) (r : Run), e < s.aon.grade.engines →
    s.blk.frozen = false → (s.blk.agent e).inAborts = (k, .teardown) :: rest → (s.blk.agent e).run = some r →
    s.blk.headOf r.ref = k → (s.blk.agent e).abort = none →
    Does (.abortRequest e) s fun t => OnlyBlk s t ∧
      (t.blk.agent e).inAborts = rest ∧ (t.blk.agent e).abort = some .request ∧ (t.blk.agent e).run = some r ∧
      t.blk.out = s.blk.out ++ [.abort e] ∧ OtherAgents e s.blk t.blk ∧
      t.blk = { s.blk with agents := t.blk.agents, out := t.blk.out }) ∧
  (∀ (s : State) (e : Nat) (k : TaskRef) (rest : List TaskRef), e < s.aon.grade.engines → s.blk.frozen = false →
    (s.blk.agent e).outReplies = k :: rest →
    Does (.abortReplyLand e) s fun t => OnlyBlk s t ∧
      (t.blk.agent e).outReplies = rest ∧ (t.blk.agent e).outCpl = [] ∧
      (t.blk.reach k.reach).repliesIn = (s.blk.reach k.reach).repliesIn ++ [(k, e)] ∧
      OtherAgents e s.blk t.blk ∧
      t.blk = { s.blk with agents := t.blk.agents, reaches := t.blk.reaches, counters := t.blk.counters })

/-- A tile pull of an agent that holds a list word is answered, in a pulse whose permit and allowance admit it, with the
tile that R118 names, at once or when a pull that was held back is tried again: the tile starts if the agent has no run,
and is held in advance otherwise; LAST is the engine of the most recent tile (R71, R118). -/
def Obligations.TilePullGivesTheNextTile : Prop :=
  ∀ (s : State) (e k : Nat) (d : DWord) (x : Task) (rc : Reach), e < s.aon.grade.engines →
    (s.blk.agent e).listWord = some d → (s.blk.agent e).advance = none →
    (s.blk.agent e).pullEmpty = false → (s.blk.agent e).abort = none → s.blk.frozen = false → s.blk.coreHalted = false →
    s.blk.torn d.ref.ctx = false → s.blk.isLate d.ref.ctx d.epoch = false → s.blk.task? d.ref = some x →
    (x.state = .ready ∨ x.state = .dispatched) → s.blk.dspEn = true → (x.be = true → s.blk.beEn = true) →
    s.blk.chargeOk d.ref.reach (if (s.blk.agent e).fedFirst then energyPj x.energy else 0) = true →
    (s.blk.reach d.ref.reach).takeTile d.ref x.tiles.toNat = some (k, rc) →
    let given (t : State) : Prop := OnlyBlk s t ∧
      t.blk.out = s.blk.out ++ [.pullAnswer e (BitVec.ofNat 32 k)] ∧
      ((s.blk.agent e).run = none → (t.blk.agent e).run.map Run.tile = some k ∧ (t.blk.agent e).advance = none) ∧
      ((s.blk.agent e).run ≠ none → (t.blk.agent e).run = (s.blk.agent e).run ∧ (t.blk.agent e).advance = some k) ∧
      (t.blk.agent e).pull = .none ∧ (t.blk.agent e).fedFirst = true ∧ OtherAgents e s.blk t.blk ∧
      (t.blk.task? d.ref).map Task.last = some (BitVec.ofNat 11 e) ∧
      t.blk.ctr .tilePull d.ref.reach = s.blk.ctr .tilePull d.ref.reach + 1 ∧
      (t.blk.reach d.ref.reach).listRecs = rc.listRecs ∧ (t.blk.reach d.ref.reach).pool = rc.pool ∧
      (∀ j, j ≠ d.ref.reach → t.blk.reach j = s.blk.reach j) ∧
      t.blk = { s.blk with
        agents := t.blk.agents, reaches := t.blk.reaches, counters := t.blk.counters, out := t.blk.out }
    ((s.blk.agent e).pull = .none → Does (.tilePull e) s given) ∧
    ((s.blk.agent e).pull = .tile → Does (.tilePullRetry e) s given)

/-- Dispatch select of a reach, while it sends no gang's words and no core is halted, examines its LC list, then FILL,
then plain, then the shadow candidates (R107, R108). The engine is a free-open one, or one open to pre-emption where
none is free: the task's home, else its last, else the first in the rotated scan (R110-R112). A candidate whose charge
or class the permit does not admit is counted and passed over (R109), and a tile that is not released or a task with no
engine is passed over (R163). A plain task that is selected is dispatched on its engine, which joins the chosen set and
becomes its LAST, leaves the lists and uses one clk, with its word on its way and its charge made (R31, R109, R112); a
shadow candidate is launched in shadow, with its record (R132, R136). An armed standby table of the cyclic schedule that
is due becomes active, and one that is not due stays (R125). -/
def Obligations.SelectionFollowsItsOrder : Prop :=
  (∀ (v : Env) (b : Blk) (r : Nat), b.coreHalted = false → (b.reach r).gangs = [] →
    let b0 := b.modReach r fun rc => { rc with clkUsed := 0, chosen := [] }
    let walk (p : SelectFrom) (l : List TaskRef) (b : Blk) : Blk := b.forEach l fun k b => b.examine v p k 64
    let b1 := walk .plain (b.reach r).plainList
      (walk .fill (b.reach r).fillList (walk .lc (b.reach r).lc b0))
    b.select v r = walk .shadow (b1.shadowCandidates v r) b1) ∧
  (∀ (v : Env) (b : Blk) (r c : Nat) (x : Task),
    let first (pool : Nat → Bool) (e : Nat) : Prop := pool e = true ∧
      (e = x.home.toNat ∨ (pool x.home.toNat = false ∧ (e = x.last.toNat ∨ (pool x.last.toNat = false ∧
        ∃ pre post, v.scan r = pre ++ e :: post ∧ ∀ k ∈ pre, pool k = false))))
    (∀ e, b.chooseEngine v r c x = some (e, false) → first (b.freeOpen v r c x) e) ∧
    (∀ e, b.chooseEngine v r c x = some (e, true) → first (b.preemptOpen v r c x) e ∧
      ∀ k ∈ v.scan r, b.freeOpen v r c x k = false) ∧
    (b.chooseEngine v r c x = none → ∀ k ∈ v.scan r, b.freeOpen v r c x k = false ∧ b.preemptOpen v r c x k = false)) ∧
  (∀ (v : Env) (b : Blk) (p : SelectFrom) (k : TaskRef) (x : Task), b.task? k = some x → b.torn k.ctx = false →
    b.launchAborted k.ctx = false → p ≠ .shadow → x.state = .ready → x.kind ≠ .list →
    (x.kind = .expert → x.released = false → b.trySelect v p k = (b, false)) ∧
    ((x.kind = .expert → x.released = true) → b.permits k x p = false →
      b.trySelect v p k = (b.bump .permitPass k.reach, false)) ∧
    (x.kind = .plain ∨ (x.kind = .expert ∧ x.released = true) → b.permits k x p = true →
      (b.chooseEngine v k.reach k.ctx x = none → b.trySelect v p k = (b, false)) ∧
      (∀ e pre, b.chooseEngine v k.reach k.ctx x = some (e, pre) →
        (b.trySelect v p k).2 = true ∧
        (let d := (b.trySelect v p k).1
         d.task? k = some { x with state := .dispatched, last := BitVec.ofNat 11 e } ∧
         (d.reach k.reach).clkUsed = (b.reach k.reach).clkUsed + 1 ∧
         (d.reach k.reach).chosen = (b.reach k.reach).chosen ++ [e] ∧
         k ∉ (d.reach k.reach).lc ∧ k ∉ (d.reach k.reach).fillList ∧ k ∉ (d.reach k.reach).plainList ∧
         (d.reach k.reach).allowLeft = (b.reach k.reach).allowLeft - energyPj x.energy ∧
         (∃ w, d.agent e = { b.agent e with inWords := (b.agent e).inWords ++ [w] } ∧ w.ref = k ∧ w.preempting = pre ∧
           w.shadow = false ∧ w.gangMember = none) ∧ OtherAgents e b d)))) ∧
  (∀ (v : Env) (b : Blk) (k : TaskRef) (x : Task) (e : Nat), b.task? k = some x → b.torn k.ctx = false →
    b.launchAborted k.ctx = false → x.kind = .plain → b.shadowCandidate v k x = true → x.state = .waiting →
    (b.reach k.reach).shadowOk v k.reach k = true → b.permits k x .shadow = true →
    b.chooseShadow v k.reach k.ctx x = some e → (∀ q ∈ (b.reach k.reach).shadowRecs, q.ref ≠ k) →
    (b.trySelect v .shadow k).2 = true ∧
      (let d := (b.trySelect v .shadow k).1
       d.task? k = some { x with state := .shadow, depcnt := x.depcnt + x.kept, kept := 0 } ∧
       (d.reach k.reach).shadowRecs = (b.reach k.reach).shadowRecs ++ [{ ref := k, engines := [(0, e)] }] ∧
       (∃ w, d.agent e = { b.agent e with inWords := (b.agent e).inWords ++ [w] } ∧ w.ref = k ∧ w.shadow = true) ∧
       OtherAgents e b d)) ∧
  (∀ s : State, s.blk.fe.cycStandby.arm = true → s.blk.fe.cycStandby.dueAt ≤ s.aon.pulse + 1 →
    Does .cyclicTableSwitch s fun t => OnlyBlk s t ∧
      t.blk.fe.cycActive = { s.blk.fe.cycStandby with arm := false } ∧ t.blk.fe.cycStandby = s.blk.fe.cycActive ∧
      t.blk.fe.cycBase = s.blk.fe.cycStandby.dueAt ∧
      t.blk = { s.blk with fe := { s.blk.fe with
        cycA := t.blk.fe.cycA, cycB := t.blk.fe.cycB, cycActiveB := t.blk.fe.cycActiveB, cycBase := t.blk.fe.cycBase } }) ∧
  (∀ s : State, (s.blk.fe.cycStandby.arm = false ∨ s.aon.pulse + 1 < s.blk.fe.cycStandby.dueAt) →
    Does .cyclicTableSwitch s fun t => t = s)

/-! ## Shadow runs -/

/-- An item of a shadow run goes to the tail of the write-hold buffer if it fits in 64 KiB, and is refused and stalls
its engine otherwise (R139, R140); the sizes of contributions and of CB_OPEN items that this counts are the model's
choice (log 121). A commit notice releases a memory write at the head of the buffer; it holds back whatever follows it
until it is acknowledged, which is the model's choice for what is no completion word (R142, log 104). A squash notice
discards the items of its task (R143). -/
def Obligations.HeldItemsFollowTheirTask : Prop :=
  (∀ (s : State) (e : Nat) (r : Run) (i : HoldItem), RunsAt s e r → r.shadow = true → itemOk i = true →
    (s.blk.agent e).committed = [] → (s.blk.agent e).held + itemBytes i ≤ 65536 →
    Does (.holdItem e i) s fun t => OnlyBlk s t ∧
      t.blk.agent e = { s.blk.agent e with items := (s.blk.agent e).items ++ [(r.ref, i)] } ∧
      OtherAgents e s.blk t.blk ∧ t.blk = { s.blk with agents := t.blk.agents }) ∧
  (∀ (s : State) (e : Nat) (r : Run) (i : HoldItem), RunsAt s e r → r.shadow = true → itemOk i = true →
    (s.blk.agent e).committed = [] → 65536 < (s.blk.agent e).held + itemBytes i →
    Does (.holdItem e i) s fun t => OnlyBlk s t ∧
      t.blk.agent e = { s.blk.agent e with stalled := some (r.ref, i) } ∧
      t.blk.out = s.blk.out ++ [.holdRefused e] ∧
      OtherAgents e s.blk t.blk ∧ t.blk = { s.blk with agents := t.blk.agents, out := t.blk.out }) ∧
  (∀ (s : State) (e : Nat) (k : TaskRef) (rest : List TaskRef) (a : BitVec 64) (d : List Byte)
      (more : List (TaskRef × HoldItem)), e < s.aon.grade.engines → s.blk.frozen = false →
    (s.blk.agent e).inCommits = k :: rest → (s.blk.agent e).items = (k, .memWrite a d) :: more →
    (s.blk.agent e).committed = [] → (s.blk.agent e).ackDue = none → (s.blk.agent e).stalled = none →
    Does (.commitNotice e) s fun t => OnlyBlk s t ∧
      t.blk.agent e = { s.blk.agent e with inCommits := rest, items := more, committed := [k], ackDue := some k } ∧
      t.blk.out = s.blk.out ++ [.itemRelease e (.memWrite a d)] ∧
      t.blk.ctr .heldBytesReleased e = s.blk.ctr .heldBytesReleased e + itemBytes (.memWrite a d) ∧
      OtherAgents e s.blk t.blk ∧
      t.blk = { s.blk with agents := t.blk.agents, out := t.blk.out, counters := t.blk.counters }) ∧
  (∀ (s : State) (e : Nat) (k : TaskRef), e < s.aon.grade.engines → s.blk.frozen = false →
    (s.blk.agent e).ackDue = some k → (s.blk.agent e).stalled = none →
    (s.blk.agent e).items.find? (fun i => (s.blk.agent e).committed.contains i.1) = none →
    Does (.releaseItemAck e) s fun t => OnlyBlk s t ∧
      (t.blk.agent e).ackDue = none ∧ (t.blk.agent e).items = (s.blk.agent e).items ∧
      OtherAgents e s.blk t.blk ∧ t.blk = { s.blk with agents := t.blk.agents }) ∧
  (∀ (s : State) (e : Nat) (k : TaskRef) (rest : List TaskRef), e < s.aon.grade.engines → s.blk.frozen = false →
    (s.blk.agent e).inSquashes = k :: rest → (s.blk.agent e).run = none → (s.blk.agent e).present = none →
    Does (.squashNotice e) s fun t => OnlyBlk s t ∧
      (t.blk.agent e).inSquashes = rest ∧
      (t.blk.agent e).items = (s.blk.agent e).items.filter (fun i => i.1 != k) ∧
      (t.blk.agent e).queue = (s.blk.agent e).queue.filter (fun d => d.ref != k) ∧
      OtherAgents e s.blk t.blk ∧ t.blk = { s.blk with agents := t.blk.agents, counters := t.blk.counters }) ∧
  (∀ (s : State) (e : Nat) (k : TaskRef) (rest : List TaskRef) (r : Run), e < s.aon.grade.engines →
    s.blk.frozen = false → (s.blk.agent e).inSquashes = k :: rest → (s.blk.agent e).run = some r → r.ref = k →
    (s.blk.agent e).abort = none →
    Does (.squashNotice e) s fun t => OnlyBlk s t ∧
      (t.blk.agent e).abort = some .squash ∧ (t.blk.agent e).items = (s.blk.agent e).items ∧
      t.blk.out = s.blk.out ++ [.abort e] ∧ OtherAgents e s.blk t.blk ∧
      t.blk = { s.blk with agents := t.blk.agents, out := t.blk.out })

/-! ## Sync objects and remote signals -/

/-- Operations on a sync object on which nothing waits. SYNC_READ and SYNC_ADD answer at once, and so does a wait whose
condition holds; READ and WAIT leave the value, ADD adds and clamps with SAT and SATURATED, TAKE subtracts (R213-R216);
that a TAKE of a shadow run subtracts at once too is the model's choice (log 120). No
other object and no other agent changes but for the object's own place. -/
def Obligations.SyncOperationsAct : Prop :=
  (∀ (s : State) (e : Nat) (r : Run) (id : BitVec 32) (l : SyncLoc), RunsAt s e r →
    s.blk.syncLoc s.env e r.ref.ctx id = some l → s.blk.waitsOn l = [] →
    Does (.syncRead e id) s fun t => OnlyBlk s t ∧
      (t.blk.syncObj l).value = (s.blk.syncObj l).value ∧ (t.blk.syncObj l).sat = (s.blk.syncObj l).sat ∧
      (∀ k, k ≠ l → t.blk.syncObj k = s.blk.syncObj k) ∧
      t.blk.out = s.blk.out ++ [.opResult e stOk (s.blk.syncObj l).value []] ∧ OnlySync s.blk t.blk) ∧
  (∀ (s : State) (e : Nat) (r : Run) (id delta : BitVec 32) (l : SyncLoc), RunsAt s e r → r.parks = false →
    s.blk.syncLoc s.env e r.ref.ctx id = some l → s.blk.waitsOn l = [] →
    Does (.syncAdd e id delta) s fun t => OnlyBlk s t ∧
      (let x : Int := (s.blk.syncObj l).value.toNat + delta.toInt
       ((t.blk.syncObj l).value.toNat : Int) = max 0 (min 0xFFFFFFFF x) ∧
       (t.blk.syncObj l).sat = ((s.blk.syncObj l).sat || decide (x < 0 ∨ 0xFFFFFFFF < x)) ∧
       (t.blk.agent e).run = some (if x < 0 ∨ 0xFFFFFFFF < x then r.faulted stSaturated else r)) ∧
      (∀ k, k ≠ l → t.blk.syncObj k = s.blk.syncObj k) ∧
      (∀ k, k ≠ e → t.blk.agent k = { s.blk.agent k with locals := (t.blk.agent k).locals }) ∧
      t.blk.out = s.blk.out ++ [.opResult e stOk 0 []] ∧
      t.blk = { s.blk with agents := t.blk.agents, hb := { s.blk.hb with gsync := t.blk.hb.gsync }
                           counters := t.blk.counters, out := t.blk.out }) ∧
  (∀ (s : State) (e : Nat) (r : Run) (id x : BitVec 32) (l : SyncLoc), RunsAt s e r →
    s.blk.syncLoc s.env e r.ref.ctx id = some l → s.blk.waitsOn l = [] → (∀ k i, l = .ofAgent k i → k = e) →
    (x.toNat ≤ (s.blk.syncObj l).value.toNat → Does (.syncWaitGe e id x) s fun t => OnlyBlk s t ∧
      (t.blk.syncObj l).value = (s.blk.syncObj l).value ∧ (∀ k, k ≠ l → t.blk.syncObj k = s.blk.syncObj k) ∧
      t.blk.out = s.blk.out ++ [.opResult e stOk 0 []] ∧ OnlySync s.blk t.blk) ∧
    (x = (s.blk.syncObj l).value → Does (.syncWaitEq e id x) s fun t => OnlyBlk s t ∧
      (t.blk.syncObj l).value = (s.blk.syncObj l).value ∧ (∀ k, k ≠ l → t.blk.syncObj k = s.blk.syncObj k) ∧
      t.blk.out = s.blk.out ++ [.opResult e stOk 0 []] ∧ OnlySync s.blk t.blk) ∧
    (x.toNat ≤ (s.blk.syncObj l).value.toNat → Does (.syncTake e id x) s fun t => OnlyBlk s t ∧
      (t.blk.syncObj l).value = (s.blk.syncObj l).value - x ∧ (∀ k, k ≠ l → t.blk.syncObj k = s.blk.syncObj k) ∧
      t.blk.out = s.blk.out ++ [.opResult e stOk 0 []] ∧ OnlySync s.blk t.blk))

/-- A wait, or a TAKE that cannot proceed, gates its engine, touches a local object that it waits on and changes no value
(R215, R217); an ADD after which the condition of the only wait on a global object holds ends it and answers the engine
that waited, and a TAKE then subtracts (R215); an operation that names a reserved scope, a reserved field or another
engine's object to wait on, and every reserved operation, is answered with CONTEXT_FAULT and puts it in the run's
completion word (R213, R234, R263). That a TAKE of a shadow run which waited subtracts when it ends is the model's choice
(log 120), and so is that a local object of an engine beyond the grade is none (log 96). -/
def Obligations.WaitsGateTheirEngine : Prop :=
  (∀ (s : State) (e : Nat) (r : Run) (id x : BitVec 32) (l : SyncLoc), RunsAt s e r →
    s.blk.syncLoc s.env e r.ref.ctx id = some l → (∀ k i, l = .ofAgent k i → k = e) →
    let gated (op : WaitOp) (t : State) : Prop := OnlyBlk s t ∧
      (t.blk.agent e).wait = some (l.number, { engine := e, op := op, operand := x }) ∧ OtherAgents e s.blk t.blk ∧
      (∀ k, (t.blk.syncObj k).value = (s.blk.syncObj k).value) ∧
      (∀ i, l = .ofAgent e i → (t.blk.syncObj l).touched = true) ∧
      (∀ i, l = .ofHub i → t.blk.waitsOn l = s.blk.waitsOn l ++ [{ engine := e, op := op, operand := x }]) ∧
      t.blk.out = s.blk.out ++ [.gate e true] ∧
      t.blk = { s.blk with agents := t.blk.agents, hb := { s.blk.hb with gwaits := t.blk.hb.gwaits }
                           out := t.blk.out }
    ((s.blk.syncObj l).value.toNat < x.toNat →
      Does (.syncWaitGe e id x) s (gated .ge) ∧ Does (.syncTake e id x) s (gated .take)) ∧
    ((s.blk.syncObj l).value ≠ x → Does (.syncWaitEq e id x) s (gated .eq))) ∧
  (∀ (s : State) (e : Nat) (r : Run) (id delta : BitVec 32) (i : Nat) (w : Wait), RunsAt s e r → r.parks = false →
    s.blk.syncLoc s.env e r.ref.ctx id = some (.ofHub i) → s.blk.waitsOn (.ofHub i) = [w] →
    0 ≤ (s.blk.syncObj (.ofHub i)).value.toNat + delta.toInt →
    (s.blk.syncObj (.ofHub i)).value.toNat + delta.toInt < 2 ^ 32 →
    w.holds ((s.blk.syncObj (.ofHub i)).value + delta) = true →
    Does (.syncAdd e id delta) s fun t => OnlyBlk s t ∧
      (t.blk.syncObj (.ofHub i)).value =
        (s.blk.syncObj (.ofHub i)).value + delta - (if w.op = .take then w.operand else 0) ∧
      (∀ k, k ≠ .ofHub i → t.blk.syncObj k = s.blk.syncObj k) ∧
      (t.blk.agent w.engine).wait = none ∧ t.blk.waitsOn (.ofHub i) = [] ∧
      t.blk.out = s.blk.out ++ [.gate w.engine false, .opResult w.engine stOk 0 [], .opResult e stOk 0 []]) ∧
  (∀ (s : State) (e : Nat) (r : Run), RunsAt s e r →
    let turnedAway (t : State) : Prop := OnlyBlk s t ∧
      t.blk.agent e = { s.blk.agent e with run := some (r.faulted stContextFault) } ∧
      OtherAgents e s.blk t.blk ∧ t.blk.out = s.blk.out ++ [.opResult e stContextFault 0 []] ∧
      t.blk = { s.blk with agents := t.blk.agents, out := t.blk.out }
    Does (.syncReservedOp e) s turnedAway ∧ Does (.operationClassReserved e) s turnedAway ∧
    Does (.channelReservedOp e) s turnedAway ∧ (∀ x, rsigOk x = false → Does (.syncRsig e x) s turnedAway) ∧
    (∀ id x, s.blk.syncLoc s.env e r.ref.ctx id = none →
      Does (.syncRead e id) s turnedAway ∧ Does (.syncAdd e id x) s turnedAway ∧ Does (.syncWaitGe e id x) s turnedAway ∧
      Does (.syncWaitEq e id x) s turnedAway ∧ Does (.syncTake e id x) s turnedAway) ∧
    (∀ id x k i, s.blk.syncLoc s.env e r.ref.ctx id = some (.ofAgent k i) → k ≠ e →
      Does (.syncWaitGe e id x) s turnedAway ∧ Does (.syncWaitEq e id x) s turnedAway ∧ Does (.syncTake e id x) s turnedAway))

/-- SYNC_RSIG puts a remote signal behind the others of its run, whose stream is or becomes bound to the run's context,
and a seventeenth, or one on a stream of another context, is a task fault (R222, R223); the completion signal of a DMA run
adds to the object it names (R218); both are parked in a shadow run (R139, R218, R222). -/
def Obligations.RunsKeepTheirSignals : Prop :=
  (∀ (s : State) (e : Nat) (r : Run) (x : RsigBlk), RunsAt s e r → r.parks = false → r.rsig.length < 16 →
    rsigOk x = true →
    ((tgetD {} s.blk.hb.streams x.stream.toNat).owner = none ∨
      (tgetD {} s.blk.hb.streams x.stream.toNat).owner = some r.ref.ctx) →
    Does (.syncRsig e x) s fun t => OnlyBlk s t ∧
      (t.blk.agent e).run = some { r with rsig := r.rsig ++ [x] } ∧ OtherAgents e s.blk t.blk ∧
      (tgetD {} t.blk.hb.streams x.stream.toNat).owner = some r.ref.ctx ∧
      ((tgetD {} s.blk.hb.streams x.stream.toNat).owner = some r.ref.ctx → t.blk.hb = s.blk.hb) ∧
      t.blk.out = s.blk.out ++ [.opResult e stOk 0 []] ∧
      t.blk = { s.blk with agents := t.blk.agents, hb := { s.blk.hb with streams := t.blk.hb.streams }
                           out := t.blk.out }) ∧
  (∀ (s : State) (e : Nat) (r : Run) (x : RsigBlk), RunsAt s e r → r.parks = false →
    (16 ≤ r.rsig.length ∨ ∃ c, (tgetD {} s.blk.hb.streams x.stream.toNat).owner = some c ∧ c ≠ r.ref.ctx) →
    Does (.syncRsig e x) s fun t => OnlyBlk s t ∧
      (t.blk.agent e).run = some (r.faulted stContextFault) ∧
      t.blk.hb = s.blk.hb ∧ t.blk.out = s.blk.out ++ [.opResult e stContextFault 0 []]) ∧
  (∀ (s : State) (e : Nat) (r : Run) (id delta : BitVec 32) (l : SyncLoc), RunsAt s e r → r.parks = false →
    s.blk.syncLoc s.env e r.ref.ctx id = some l → s.blk.waitsOn l = [] →
    0 ≤ (s.blk.syncObj l).value.toNat + delta.toInt → (s.blk.syncObj l).value.toNat + delta.toInt < 2 ^ 32 →
    Does (.dmaCompletionSignal e id delta) s fun t => OnlyBlk s t ∧
      (t.blk.syncObj l).value = (s.blk.syncObj l).value + delta ∧ (t.blk.syncObj l).sat = (s.blk.syncObj l).sat ∧
      (∀ k, k ≠ l → t.blk.syncObj k = s.blk.syncObj k) ∧ t.blk.out = s.blk.out ∧ OnlySync s.blk t.blk) ∧
  (∀ (s : State) (e : Nat) (r : Run) (id delta : BitVec 32) (x : RsigBlk) (l : SyncLoc), RunsAt s e r → r.parks = true →
    (s.blk.agent e).held + 32 ≤ 65536 → s.blk.syncLoc s.env e r.ref.ctx id = some l →
    let parked (i : HoldItem) (t : State) : Prop := OnlyBlk s t ∧
      t.blk.agent e = { s.blk.agent e with items := (s.blk.agent e).items ++ [(r.ref, i)] } ∧
      OtherAgents e s.blk t.blk ∧ t.blk = { s.blk with agents := t.blk.agents }
    Does (.syncAdd e id delta) s (parked (.syncSignal id delta)) ∧
    (rsigOk x = true → Does (.syncRsig e x) s (parked (.remoteSignal x))) ∧
    Does (.dmaCompletionSignal e id delta) s (parked (.dmaSignal id delta)))

/-- The sender: acknowledged journal slots rise to what has been written at most, and an error response halts the
journal and asks for a reset (R27, R299, Table 13.9); in a stop the hub does not act on them (R103). An entry is sent
again when its RESEND pulses are over (R226), in slot 0 of a beat of its own, which is the model's choice (log 122); an
acknowledgement that matches frees its entry with OK, PEER_RESET and CONTEXT_FAULT and no other status (R226), and one
that is malformed, is not followed by 16 zero bytes (R271) or matches none is discarded, and counted in rs-discard, for
which R226 names no counter (the model's choice, log 102). -/
def Obligations.SignalsAreResentAndFreed : Prop :=
  (∀ (s : State) (n : Nat), s.blk.rel.jHalted = false →
    Does (.journalAck n false) s fun t => OnlyBlk s t ∧
      t.blk.rel.acked = min s.blk.rel.slots (s.blk.rel.acked + n) ∧ t.blk.rel.journal = s.blk.rel.journal ∧
      t.blk.rel.staged = s.blk.rel.staged ∧ t.blk.reaches = s.blk.reaches ∧ t.blk.agents = s.blk.agents ∧
      t.blk.hb.channels = s.blk.hb.channels ∧ t.blk.hb.gsync = s.blk.hb.gsync ∧
      t.blk.hb.outstanding.length = s.blk.hb.outstanding.length ∧ (s.blk.frozen = true → t.blk.hb = s.blk.hb)) ∧
  (∀ (s : State) (n : Nat), s.blk.rel.jHalted = false →
    Does (.journalAck n true) s fun t => OnlyBlk s t ∧
      t.blk.rel.jHalted = true ∧ t.blk.rel.acked = s.blk.rel.acked ∧ t.blk.rel.pendingCause.isSome = true) ∧
  (∀ (s : State) (n : Nat) (err : Bool), s.blk.rel.jHalted = true → Does (.journalAck n err) s fun t => t = s) ∧
  (∀ (s : State) (o : Outstanding) (p : Nat), s.blk.frozen = false → s.blk.hb.outstanding = [o] → o.sentAt = some p →
    (p + s.env.resend ≤ s.aon.pulse →
      Does (.signalResend o.stream o.seq) s fun t => OnlyBlk s t ∧
        t.blk.hb = { s.blk.hb with outstanding := [{ o with sentAt := some s.aon.pulse }] } ∧
        t.blk.out = s.blk.out ++ [.fabric (fabricBeat (some o.packet.toNat) none)] ∧
        t.blk.ctr .rsResend = s.blk.ctr .rsResend + 1 ∧
        t.blk = { s.blk with hb := t.blk.hb, out := t.blk.out, counters := t.blk.counters }) ∧
    (s.aon.pulse < p + s.env.resend → Does (.signalResend o.stream o.seq) s fun t => t = s)) ∧
  (∀ (s : State) (beat : FbBeat) (w : BitVec 256) (pkt : BitVec 128) (o : Outstanding), s.env.hubOn = true →
    s.blk.frozen = false → packetsOf beat = [w] → bits w 128 128 = 0 → w.setWidth 128 = pkt → ackWellFormed pkt = true →
    s.blk.hb.outstanding = [o] → o.matches pkt = true →
    Does (.signalAckReceive beat) s fun t => OnlyBlk s t ∧
      (let st := BitVec.ofNat 8 (bits pkt 8 8)
       t.blk.hb.outstanding =
         (if st = stOk ∨ st = stPeerReset ∨ st = stContextFault then [] else [o]) ∧
       t.blk.ctr .rsAckRefused = s.blk.ctr .rsAckRefused + (if st = stOk then 0 else 1)) ∧
      t.blk = { s.blk with hb := { s.blk.hb with outstanding := t.blk.hb.outstanding }, counters := t.blk.counters }) ∧
  (∀ (s : State) (beat : FbBeat) (w : BitVec 256), s.env.hubOn = true → packetsOf beat = [w] → bits w 0 8 = 2 →
    (bits w 128 128 ≠ 0 ∨ ackWellFormed (w.setWidth 128) = false ∨
      ∀ o ∈ s.blk.hb.outstanding, o.matches (w.setWidth 128) = false) →
    Does (.signalAckReceive beat) s fun t => OnlyBlk s t ∧ t.blk = s.blk.bump .rsDiscard)

/-- The receiver: a well-formed signal for this node, of the epoch of its stream's record and the window at its base, is
held until its count covers it, and leaves the hold at once if the count covers it already (R227, R228); a malformed one,
one for another node and one while RS_ACCEPT is off are discarded and counted (R227); a count push is taken for the
record's epoch or the next, and discarded otherwise (R221, R228). A beat carries the packets that its slot mask shows, and
one with two acts as two beats, slot 0 first; a beat acts the same whichever row it comes by (R271). -/
def Obligations.SignalsWaitForTheirCount : Prop :=
  (∀ (s : State) (beat : FbBeat) (pkt : BitVec 256), s.env.hubOn = true → s.blk.frozen = false →
    packetsOf beat = [pkt] → signalWellFormed pkt = true →
    (signalOf pkt).dst = s.env.node → s.env.rsAccept = true →
    (s.blk.recv (signalOf pkt).stream).used = true → (s.blk.recv (signalOf pkt).stream).src = (signalOf pkt).src →
    (s.blk.recv (signalOf pkt).stream).epoch = (signalOf pkt).epoch → s.blk.torn (signalOf pkt).ctx.toNat = false →
    (s.blk.recv (signalOf pkt).stream).base = (signalOf pkt).seq →
    (s.blk.recv (signalOf pkt).stream).done = 0 → (s.blk.recv (signalOf pkt).stream).held = 0 → s.blk.hb.held = [] →
    (2 ^ 31 ≤ ((s.blk.recv (signalOf pkt).stream).count - (signalOf pkt).expect).toNat →
      Does (.signalReceive beat) s fun t => OnlyBlk s t ∧
        t.blk.hb.held = [signalOf pkt] ∧ t.blk.hb.releasing = s.blk.hb.releasing ∧
        (t.blk.recv (signalOf pkt).stream).base = (signalOf pkt).seq ∧
        t.blk.ctr .rsAccepted = s.blk.ctr .rsAccepted + 1 ∧
        t.blk = { s.blk with hb := t.blk.hb, counters := t.blk.counters }) ∧
    (((s.blk.recv (signalOf pkt).stream).count - (signalOf pkt).expect).toNat < 2 ^ 31 →
      Does (.signalReceive beat) s fun t => OnlyBlk s t ∧
        t.blk.hb.held = [] ∧ t.blk.hb.releasing = s.blk.hb.releasing ++ [signalOf pkt] ∧
        (t.blk.recv (signalOf pkt).stream).base = (signalOf pkt).seq + 1 ∧
        t.blk.ctr .rsReleased = s.blk.ctr .rsReleased + 1 ∧
        t.blk = { s.blk with hb := t.blk.hb, counters := t.blk.counters })) ∧
  (∀ (s : State) (beat : FbBeat) (pkt : BitVec 256), s.env.hubOn = true → packetsOf beat = [pkt] → bits pkt 0 8 ≠ 2 →
    (signalWellFormed pkt = false ∨ (signalOf pkt).dst ≠ s.env.node ∨ s.env.rsAccept = false) →
    Does (.signalReceive beat) s fun t => OnlyBlk s t ∧ t.blk = s.blk.bump .rsDiscard) ∧
  (∀ (s : State) (x : BitVec 512),
    Does (.signalReceive { mask := 1, bits := x }) s fun u => Does (.signalReceive { mask := 2, bits := x }) u fun t =>
      exec (.signalReceive { mask := 3, bits := x }) s = .next t ∧
      exec (.signalAckReceive { mask := 3, bits := x }) s = .next t) ∧
  (∀ (s : State) (push : BitVec 56), s.env.hubOn = true → s.blk.hb.held = [] →
    Does (.fabricCountPush push) s fun t => OnlyBlk s t ∧
      (let st := BitVec.ofNat 16 (bits push 0 16)
       let ep := BitVec.ofNat 8 (bits push 16 8)
       let n := BitVec.ofNat 32 (bits push 24 32)
       let r := s.blk.recv st
       t.blk.recv st = (if ep = r.epoch then { r with count := n }
         else if ep = r.epoch + 1 then { r with countN := n } else r) ∧
       (∀ k, k ≠ st → t.blk.recv k = s.blk.recv k)) ∧
      t.blk = { s.blk with hb := { s.blk.hb with recvs := t.blk.hb.recvs } })

/-- R341: while the data plane is stopped, also by a block reset (R103), every packet from the fabric is discarded
without an acknowledgement and counted, and a count push is still recorded. R332: a fabric telemetry report of KIND 0 to
3 becomes the latest VALUE of its PORT and KIND and of no other, and one with a reserved KIND is discarded and counted.
-/
def Obligations.StopsAndTelemetryOfTheFabric : Prop :=
  (∀ (s : State) (beat : FbBeat), s.env.hubOn = true → s.blk.frozen = true →
    let discarded (t : State) : Prop := OnlyBlk s t ∧
      t.blk.ctr .rsDiscard = s.blk.ctr .rsDiscard + (packetsOf beat).length ∧
      t.blk.hb = s.blk.hb ∧ t.blk.out = s.blk.out ∧ t.blk = { s.blk with counters := t.blk.counters }
    Does (.signalReceive beat) s discarded ∧ Does (.signalAckReceive beat) s discarded) ∧
  (∀ (s : State) (push : BitVec 56), s.env.hubOn = true → s.blk.frozen = true →
    Does (.fabricCountPush push) s fun t => OnlyBlk s t ∧
      (BitVec.ofNat 8 (bits push 16 8) = (s.blk.recv (BitVec.ofNat 16 (bits push 0 16))).epoch →
        (t.blk.recv (BitVec.ofNat 16 (bits push 0 16))).count = BitVec.ofNat 32 (bits push 24 32)) ∧
      (BitVec.ofNat 8 (bits push 16 8) = (s.blk.recv (BitVec.ofNat 16 (bits push 0 16))).epoch + 1 →
        (t.blk.recv (BitVec.ofNat 16 (bits push 0 16))).countN = BitVec.ofNat 32 (bits push 24 32)) ∧
      t.blk.hb.held = s.blk.hb.held ∧ t.blk = { s.blk with hb := { s.blk.hb with recvs := t.blk.hb.recvs } }) ∧
  (∀ (s : State) (w : BitVec 64), s.env.debugOn = true → bits w 8 4 < 4 →
    Does (.fabricTelemetry w) s fun t => OnlyBlk s t ∧
      tget t.blk.db.fabTel (bits w 0 8 * 4 + bits w 8 4) = some (BitVec.ofNat 52 (bits w 12 52)) ∧
      (∀ k, k ≠ bits w 0 8 * 4 + bits w 8 4 → tget t.blk.db.fabTel k = tget s.blk.db.fabTel k) ∧
      t.blk = { s.blk with db := { s.blk.db with fabTel := t.blk.db.fabTel } }) ∧
  (∀ (s : State) (w : BitVec 64), s.env.debugOn = true → 4 ≤ bits w 8 4 →
    Does (.fabricTelemetry w) s fun t => OnlyBlk s t ∧
      t.blk.ctr .telemetryDiscard = s.blk.ctr .telemetryDiscard + 1 ∧
      t.blk = { s.blk with counters := t.blk.counters })

/-- The effect of one released signal that is due is delivered: a TASK signal is one decrement that arrives at its reach
while the reach takes more in the pulse; a SYNC signal adds to its global object, without a clamp or a waiter in the case
stated; an ANNOUNCE signal goes to the router, and a second one of its STREAM, target and ROUND is discarded and counted
(R229); with nothing due nothing changes. EPOCH_QUERY answers the stream's epoch (R221), also that of a stream that no
context owns, which is the model's choice (log 103). -/
def Obligations.ReleasedSignalsTakeEffect : Prop :=
  (∀ (s : State) (x : Signal) (k : Ctx), s.blk.frozen = false → s.blk.hb.effects = [x] → x.kind = 1 →
    s.blk.ctx? x.ctx.toNat = some k → k.faulted = false → x.target.toNat < k.record.gsyncQ →
    s.blk.waitsOn (.ofHub (gsyncKey x.ctx.toNat x.target.toNat)) = [] →
    0 ≤ (s.blk.syncObj (.ofHub (gsyncKey x.ctx.toNat x.target.toNat))).value.toNat + x.value.toInt →
    (s.blk.syncObj (.ofHub (gsyncKey x.ctx.toNat x.target.toNat))).value.toNat + x.value.toInt < 2 ^ 32 →
    Does .releaseEffect s fun t => OnlyBlk s t ∧ t.blk.hb.effects = [] ∧
      (t.blk.syncObj (.ofHub (gsyncKey x.ctx.toNat x.target.toNat))).value =
        (s.blk.syncObj (.ofHub (gsyncKey x.ctx.toNat x.target.toNat))).value + x.value ∧
      (∀ l, l ≠ .ofHub (gsyncKey x.ctx.toNat x.target.toNat) → t.blk.syncObj l = s.blk.syncObj l) ∧
      t.blk = { s.blk with hb := t.blk.hb, counters := t.blk.counters }) ∧
  (∀ (s : State) (x : Signal) (k : TaskRef), s.blk.frozen = false → s.blk.hb.effects = [x] → x.kind = 0 →
    k = { ctx := x.ctx.toNat, id := x.target } → (s.blk.reach k.reach).hubSent < 16 →
    Does .releaseEffect s fun t => OnlyBlk s t ∧ t.blk.hb = { s.blk.hb with effects := [] } ∧
      t.blk.reach k.reach = { s.blk.reach k.reach with
        arrivals := (s.blk.reach k.reach).arrivals ++ [{ kind := .plain, target := k }]
        hubSent := (s.blk.reach k.reach).hubSent + 1 } ∧
      (∀ r, r ≠ k.reach → t.blk.reach r = s.blk.reach r) ∧
      t.blk = { s.blk with hb := t.blk.hb, reaches := t.blk.reaches }) ∧
  (∀ (s : State) (x : Signal), s.blk.frozen = false → s.blk.hb.effects = [x] → 2 ≤ x.kind.toNat →
    (s.blk.rt.heard.contains (x.ctx.toNat, x.target, x.stream, x.round) = false →
      Does .releaseEffect s fun t => OnlyBlk s t ∧
        t.blk.rt.heard.contains (x.ctx.toNat, x.target, x.stream, x.round) = true ∧
        t.blk = { s.blk with
          hb := { s.blk.hb with effects := [] }
          rt := { s.blk.rt with
            heard := t.blk.rt.heard
            deliver := s.blk.rt.deliver ++ [(x.ctx.toNat, x.target, x.round, x.stream, x.value)] } }) ∧
    (s.blk.rt.heard.contains (x.ctx.toNat, x.target, x.stream, x.round) = true →
      Does .releaseEffect s fun t => OnlyBlk s t ∧
        t.blk.ctr .rsDuplicate = s.blk.ctr .rsDuplicate + 1 ∧
        t.blk = { s.blk with hb := { s.blk.hb with effects := [] }, counters := t.blk.counters })) ∧
  (∀ s : State, s.blk.frozen = false → s.blk.hb.effects = [] → Does .releaseEffect s fun t => t = s) ∧
  (∀ (s : State) (e : Nat) (st : BitVec 16), e < s.aon.grade.engines →
    Does (.epochQuery e st) s fun t => OnlyBlk s t ∧
      t.blk = s.blk.emit (.epoch e (tgetD {} s.blk.hb.streams st.toNat).epoch))


/-! ## Channels and combining -/

/-- ACCEPT takes the receive end of a channel whose receive end is free, with an aligned ring of its own in the context's
region; CONNECT takes a free send end; the channel is open when both are taken, and both status words are then written;
FANOUT lists channels that have a send end; an index that is taken, or a ring with no room, answers BUSY and nothing else
changes (R234-R236, R245, R247, R316). No byte outside the new ring changes. -/
def Obligations.ChannelsOpenInPairs : Prop :=
  (∀ (s : State) (e : Nat) (r : Run) (index rlog a : Nat) (persist autorel : Bool) (stat : BitVec 64) (x : Channel),
    RunsAt s e r → r.parks = false → index < s.blk.chanQ r.ref.ctx → 4 ≤ rlog → rlog ≤ 16 →
    x = (s.blk.chan? (s.blk.headOf r.ref).ctx index).getD { ctx := (s.blk.headOf r.ref).ctx } → x.state = .pending →
    x.recvEnd = none → x.fan = none → (persist = true ∨ ∀ z, x.sendEnd = some z → z.ref = s.blk.headOf r.ref) →
    s.blk.ringPlace (s.blk.headOf r.ref).ctx rlog = some a →
    Does (.accept e index rlog persist autorel stat) s fun t => OnlyBlk s t ∧
      t.blk.chan? (s.blk.headOf r.ref).ctx index = some { x with
        state := if x.sendEnd.isSome then .opened else .pending
        persist := persist, autorel := autorel, rlog := rlog, base := a
        recvEnd := some { engine := e, statEngine := e, ref := s.blk.headOf r.ref, stat := stat } } ∧
      a % (8 * 2 ^ rlog) = 0 ∧
      (∃ k, s.blk.ctx? (s.blk.headOf r.ref).ctx = some k ∧ k.chanBase ≤ a ∧
        a + 8 * 2 ^ rlog ≤ k.chanBase + 1024 * k.record.chanKib) ∧
      (∀ k y, tget s.blk.hb.channels k = some y → y.ctx = (s.blk.headOf r.ref).ctx → y.recvEnd.isSome = true →
        a + 8 * 2 ^ rlog ≤ y.base ∨ y.base + 8 * 2 ^ y.rlog ≤ a) ∧
      (∀ k, k ≠ chKey (s.blk.headOf r.ref).ctx index → tget t.blk.hb.channels k = tget s.blk.hb.channels k) ∧
      (∀ x, (x < a ∨ a + 8 * 2 ^ rlog ≤ x) → t.blk.hb.readByte x = s.blk.hb.readByte x) ∧
      t.blk.out.getLast? = some (.opResult e stOk (mkChId 1 index) []) ∧
      t.blk = { s.blk with
        hb := { s.blk.hb with channels := t.blk.hb.channels, chanMem := t.blk.hb.chanMem }
        rel := { s.blk.rel with validPages := t.blk.rel.validPages, partPages := t.blk.rel.partPages }
        counters := t.blk.counters, out := t.blk.out }) ∧
  (∀ (s : State) (e : Nat) (r : Run) (index : Nat) (stat : BitVec 64) (x : Channel), RunsAt s e r → r.parks = false →
    index < s.blk.chanQ r.ref.ctx →
    x = (s.blk.chan? (s.blk.headOf r.ref).ctx index).getD { ctx := (s.blk.headOf r.ref).ctx } → x.state = .pending →
    x.sendEnd = none → x.fan = none → x.inScope (s.blk.headOf r.ref) = true →
    Does (.connect e index stat) s fun t => OnlyBlk s t ∧
      t.blk.chan? (s.blk.headOf r.ref).ctx index = some { x with
        state := if x.recvEnd.isSome then .opened else .pending
        sendEnd := some { engine := e, statEngine := e, ref := s.blk.headOf r.ref, stat := stat } } ∧
      (∀ k, k ≠ chKey (s.blk.headOf r.ref).ctx index → tget t.blk.hb.channels k = tget s.blk.hb.channels k) ∧
      SameMemory s.blk t.blk ∧ t.blk.ctr .chOpen = s.blk.ctr .chOpen + b2n x.recvEnd.isSome ∧
      (∃ w, w.length = (if x.recvEnd.isSome then 2 else 0) ∧
        t.blk.out = s.blk.out ++ w ++ [.opResult e stOk (mkChId 0 index) []]) ∧
      t.blk = { s.blk with
        hb := { s.blk.hb with channels := t.blk.hb.channels }, counters := t.blk.counters, out := t.blk.out }) ∧
  (∀ (s : State) (e : Nat) (r : Run) (index rlog : Nat) (persist autorel : Bool) (stat : BitVec 64), RunsAt s e r →
    r.parks = false → index < s.blk.chanQ r.ref.ctx → 4 ≤ rlog → rlog ≤ 16 →
    s.blk.chan? (s.blk.headOf r.ref).ctx index = none → s.blk.ringPlace (s.blk.headOf r.ref).ctx rlog = none →
    Does (.accept e index rlog persist autorel stat) s fun t =>
      OnlyBlk s t ∧ t.blk = s.blk.emit (.opResult e stBusy 0 [])) ∧
  (∀ (s : State) (e : Nat) (r : Run) (index : Nat) (stat : BitVec 64) (x : Channel), RunsAt s e r → r.parks = false →
    index < s.blk.chanQ r.ref.ctx → s.blk.chan? (s.blk.headOf r.ref).ctx index = some x → x.state ≠ .pending →
    Does (.connect e index stat) s (fun t => OnlyBlk s t ∧ t.blk = s.blk.emit (.opResult e stBusy 0 [])) ∧
    ∀ rlog persist autorel, 4 ≤ rlog → rlog ≤ 16 →
      Does (.accept e index rlog persist autorel stat) s fun t =>
        OnlyBlk s t ∧ t.blk = s.blk.emit (.opResult e stBusy 0 [])) ∧
  (∀ (s : State) (e : Nat) (r : Run) (index : Nat) (ids : List (BitVec 32)) (is : List Nat), RunsAt s e r →
    r.parks = false → index < s.blk.chanQ r.ref.ctx → s.blk.chan? (s.blk.headOf r.ref).ctx index = none →
    ids ≠ [] → ids.length ≤ 16 → ids.map (s.blk.chanIndex (s.blk.headOf r.ref).ctx 0) = is.map some →
    (∀ i ∈ is, ∃ x, s.blk.chan? (s.blk.headOf r.ref).ctx i = some x ∧ (x.state = .pending ∨ x.state = .opened) ∧
      x.sendEnd.isSome = true ∧ x.fan = none ∧ x.inScope (s.blk.headOf r.ref) = true) →
    Does (.fanout e index ids) s fun t => OnlyBlk s t ∧
      t.blk.chan? (s.blk.headOf r.ref).ctx index =
        some { ctx := (s.blk.headOf r.ref).ctx, state := .opened, fan := some is } ∧
      (∀ k, k ≠ chKey (s.blk.headOf r.ref).ctx index → tget t.blk.hb.channels k = tget s.blk.hb.channels k) ∧
      SameMemory s.blk t.blk ∧ t.blk.out = s.blk.out ++ [.opResult e stOk (mkChId 2 index) []] ∧
      t.blk = { s.blk with hb := { s.blk.hb with channels := t.blk.hb.channels }, out := t.blk.out })

/-- SEND on an open channel: the message, behind the pending gap marker if there is one, is stored at WP where it fits
before the end of the ring, and otherwise behind a PAD at the start of the ring; WP moves past it, and no byte outside its
words changes (R239-R241). One that does not fit is dropped and counted, is answered GAP and stores nothing (R241). A
channel that waits answers BUSY, one in RESET PEER_RESET, and one whose receive end is closed PEER_CLOSED (R235, R237,
R246). A SEND on a fan-out does to the channels what SENDs on its members in list order do, and is answered with the
highest-ranking of their results (R247). A shadow run parks its SEND (R139). -/
def Obligations.SendStoresItsMessage : Prop :=
  (∀ (s : State) (e : Nat) (r : Run) (id : BitVec 32) (payload : List (BitVec 64)) (i : Nat) (x : Channel) (z : ChEnd),
    RunsAt s e r → r.parks = false → s.blk.chanIndex (s.blk.headOf r.ref).ctx 0 id = some i →
    s.blk.chan? (s.blk.headOf r.ref).ctx i = some x → x.state = .opened → x.sendEnd = some z → z.closed = false →
    endClosed x.recvEnd = false → x.fan = none → x.inScope (s.blk.headOf r.ref) = true → payload.length ≤ 2 ^ x.rlog - 2 →
    let words := x.gapWords ++ chHeader 0 payload.length x.seqNext :: payload
    let room := 2 ^ x.rlog - x.wp % 2 ^ x.rlog
    let others (t : State) : Prop := OnlyBlk s t ∧
      (∀ k, k ≠ chKey (s.blk.headOf r.ref).ctx i → tget t.blk.hb.channels k = tget s.blk.hb.channels k) ∧
      t.blk = { s.blk with
        hb := { s.blk.hb with channels := t.blk.hb.channels, chanMem := t.blk.hb.chanMem }
        counters := t.blk.counters, out := t.blk.out }
    let stored (skip : Nat) (t : State) : Prop := others t ∧
      t.blk.chan? (s.blk.headOf r.ref).ctx i = some { x with
        sendEnd := some { z with engine := e }, wp := ptrAdd x.rlog x.wp (skip + words.length)
        gapCount := 0, seqNext := x.seqNext + 1, sent := x.sent + 1 } ∧
      (∀ j w, words[j]? = some w → t.blk.hb.readWord (x.addr (x.wp + skip + j)) = w) ∧
      t.blk.out.getLast? = some (.opResult e stOk 0 [])
    (words.length ≤ room → words.length ≤ x.freeWords →
      Does (.send e id payload) s fun t => stored 0 t ∧
        ∀ a, (a < x.addr x.wp ∨ x.addr x.wp + 8 * words.length ≤ a) → t.blk.hb.readByte a = s.blk.hb.readByte a) ∧
    (room < words.length → room + words.length ≤ x.freeWords →
      Does (.send e id payload) s fun t => stored room t ∧
        t.blk.hb.readWord (x.addr x.wp) = chHeader 2 (room - 1) 0 ∧
        ∀ a, (a < x.addr x.wp ∨ x.addr x.wp + 8 ≤ a) → (a < x.base ∨ x.base + 8 * words.length ≤ a) →
          t.blk.hb.readByte a = s.blk.hb.readByte a) ∧
    (x.freeWords < (if words.length ≤ room then words.length else room + words.length) →
      Does (.send e id payload) s fun t => others t ∧
        t.blk.chan? (s.blk.headOf r.ref).ctx i = some { x with
          sendEnd := some { z with engine := e }, seqNext := x.seqNext + 1, sent := x.sent + 1
          lost := min 0xFFFF (x.lost + 1), gapFlag := true, gapCount := x.gapCount + 1
          gapFirst := if x.gapCount = 0 then x.seqNext else x.gapFirst } ∧
        SameMemory s.blk t.blk ∧ t.blk.ctr .chLost = s.blk.ctr .chLost + 1 ∧
        t.blk.out.getLast? = some (.opResult e stGap 0 []))) ∧
  (∀ (s : State) (e : Nat) (r : Run) (id : BitVec 32) (payload : List (BitVec 64)) (i : Nat) (x : Channel),
    RunsAt s e r → r.parks = false → s.blk.chanIndex (s.blk.headOf r.ref).ctx 0 id = some i →
    s.blk.chan? (s.blk.headOf r.ref).ctx i = some x → x.fan = none → x.inScope (s.blk.headOf r.ref) = true →
    (x.state = .pending → endClosed x.sendEnd = false → Does (.send e id payload) s fun t => OnlyBlk s t ∧
      t.blk = s.blk.emit (.opResult e stBusy 0 [])) ∧
    (x.state = .reset → Does (.send e id payload) s fun t => OnlyBlk s t ∧
      t.blk = (s.blk.bump .chPeerDrop).emit (.opResult e stPeerReset 0 [])) ∧
    (x.state = .opened → endClosed x.sendEnd = false → endClosed x.recvEnd = true → payload.length ≤ 2 ^ x.rlog - 2 →
      Does (.send e id payload) s fun t => OnlyBlk s t ∧
        t.blk.chan? (s.blk.headOf r.ref).ctx i = some { x with
          sendEnd := x.sendEnd.map fun z => { z with engine := e }, seqNext := x.seqNext + 1 } ∧
        t.blk.out = s.blk.out ++ [.opResult e stPeerClosed 0 []] ∧
        t.blk.ctr .chPeerDrop = s.blk.ctr .chPeerDrop + 1 ∧
        t.blk = { s.blk with
          hb := { s.blk.hb with channels := t.blk.hb.channels }, counters := t.blk.counters, out := t.blk.out })) ∧
  (∀ (s u : State) (e : Nat) (r : Run) (id : BitVec 32) (payload : List (BitVec 64)) (i : Nat) (x : Channel)
      (ids : List (BitVec 32)) (ms : List Nat) (sts : List (BitVec 8)), RunsAt s e r → r.parks = false →
    s.blk.chanIndex (s.blk.headOf r.ref).ctx 0 id = none → s.blk.chanIndex (s.blk.headOf r.ref).ctx 2 id = some i →
    s.blk.chan? (s.blk.headOf r.ref).ctx i = some x → x.fan = some ms →
    ids.map (s.blk.chanIndex (s.blk.headOf r.ref).ctx 0) = ms.map some → SendsEach e payload ids s u sts →
    Does (.send e id payload) s fun t => OnlyBlk s t ∧ t.blk.hb = u.blk.hb ∧ t.blk.counters = u.blk.counters ∧
      t.blk.out.getLast? = some (.opResult e (sts.foldl rankMax stOk) 0 []) ∧
      t.blk = { s.blk with hb := t.blk.hb, counters := t.blk.counters, out := t.blk.out }) ∧
  (∀ (s : State) (e : Nat) (r : Run) (id : BitVec 32) (payload : List (BitVec 64)), RunsAt s e r → r.parks = true →
    (s.blk.agent e).held + itemBytes (.chanSend id payload) ≤ 65536 →
    Does (.send e id payload) s fun t => OnlyBlk s t ∧
      t.blk.agent e = { s.blk.agent e with items := (s.blk.agent e).items ++ [(r.ref, .chanSend id payload)] } ∧
      OtherAgents e s.blk t.blk ∧ t.blk = { s.blk with agents := t.blk.agents })

/-- READ returns the entry at RP and moves RP past it, with GAP for a gap marker; with AUTOREL and no mark it releases
what it has read; it answers UNDERRUN with the header last read where there is no entry (R242). MARK notes RP, REWIND
takes RP back to the mark and answers BUSY without one, RELEASE moves RL and MK to RP, counts the messages released and
drops the mark (R243). They store nothing in channel memory, unless a closed send end left a gap, whose marker goes in
as soon as a word is free (R241). After the send end has closed what was written stays readable, and a READ without an
entry answers PEER_CLOSED (R237). Each word that a READ corrects raises CORR and ch-corrected, and the READ goes on; one
that cannot be corrected is a task fault UNCORRECTABLE and resets a persistent channel (R248); in RESET every read-side
operation answers PEER_RESET (R246). CLOSE closes its end, and frees a persistent channel whose other end is closed
(R237). -/
def Obligations.ReadsMoveThePointers : Prop :=
  (∀ (s : State) (e : Nat) (r : Run) (id : BitVec 32) (i : Nat) (x : Channel), RunsAt s e r → r.parks = false →
    s.blk.recvChan (s.blk.headOf r.ref) id = some (i, x) → x.state ≠ .reset →
    (endClosed x.sendEnd = false ∨ x.gapCount = 0) →
    let others (t : State) : Prop := OnlyBlk s t ∧ SameMemory s.blk t.blk ∧
      (∀ k, k ≠ chKey (s.blk.headOf r.ref).ctx i → tget t.blk.hb.channels k = tget s.blk.hb.channels k) ∧
      t.blk = { s.blk with
        hb := { s.blk.hb with channels := t.blk.hb.channels }, counters := t.blk.counters, out := t.blk.out }
    (∀ en, s.blk.hb.nextEntry x x.rp = some en →
      Does (.read e id []) s fun t => others t ∧
        (x.autorel = false ∨ x.marked = true →
          t.blk.chan? (s.blk.headOf r.ref).ctx i = some { x.recvBy e with
            rp := en.next, underrun := false, gapFlag := x.gapFlag && en.kind != 1
            lastHdr := if en.kind = 0 then en.header else x.lastHdr }) ∧
        (x.autorel = true → x.marked = false → ∃ y, t.blk.chan? (s.blk.headOf r.ref).ctx i = some y ∧
          y = { x.recvBy e with
            rp := en.next, rl := en.next, mkp := en.next, relsd := y.relsd, underrun := false
            gapFlag := x.gapFlag && en.kind != 1, lastHdr := if en.kind = 0 then en.header else x.lastHdr }) ∧
        t.blk.out.getLast? = some (.opResult e (if en.kind = 1 then stGap else stOk) 0 (en.header :: en.payload))) ∧
    (∀ ecc, s.blk.hb.nextEntry x x.rp = none →
      Does (.read e id ecc) s fun t => others t ∧
        t.blk.chan? (s.blk.headOf r.ref).ctx i = some { x.recvBy e with underrun := true } ∧
        t.blk.ctr .chUnderrun = s.blk.ctr .chUnderrun + b2n (!endClosed x.sendEnd) ∧
        t.blk.out.getLast? = some (.opResult e (if endClosed x.sendEnd then stPeerClosed else stUnderrun) 0 [x.lastHdr])) ∧
    (∀ en words, s.blk.hb.nextEntry x x.rp = some en →
      (∀ w ∈ words, (s.blk.hb.metWords x x.rp).contains w.1 = true ∧
        eccOutcome (s.blk.pageValid 32 (x.addr (ptrAdd x.rlog x.rp w.1) / 2048)) w.2 = .corrected) →
      Does (.read e id words) s fun t => OnlyBlk s t ∧ SameMemory s.blk t.blk ∧
        (∃ y, t.blk.chan? (s.blk.headOf r.ref).ctx i = some y ∧ y.rp = en.next ∧
          y.corr = min 0xFFFF (x.corr + words.length)) ∧
        t.blk.ctr .chCorrected = s.blk.ctr .chCorrected + words.length ∧
        t.blk.out.getLast? = some (.opResult e (if en.kind = 1 then stGap else stOk) 0 (en.header :: en.payload))) ∧
    (Does (.mark e id) s fun t => others t ∧
      t.blk.chan? (s.blk.headOf r.ref).ctx i = some { x.recvBy e with mkp := x.rp, marked := true } ∧
      t.blk.out.getLast? = some (.opResult e stOk 0 [])) ∧
    (Does (.rewind e id) s fun t => others t ∧
      t.blk.chan? (s.blk.headOf r.ref).ctx i = some { x.recvBy e with rp := if x.marked then x.mkp else x.rp } ∧
      t.blk.out.getLast? = some (.opResult e (if x.marked then stOk else stBusy) 0 [])) ∧
    (Does (.release e id) s fun t => others t ∧
      t.blk.chan? (s.blk.headOf r.ref).ctx i = some { x.recvBy e with
        rl := x.rp, mkp := x.rp, marked := false
        relsd := x.relsd + BitVec.ofNat 32 (s.blk.hb.countData (x.recvBy e) x.rp (2 ^ x.rlog) x.rl) } ∧
      t.blk.out.getLast? = some (.opResult e stOk 0 []))) ∧
  (∀ (s : State) (e : Nat) (r : Run) (id : BitVec 32) (i : Nat) (x : Channel), RunsAt s e r → r.parks = false →
    s.blk.recvChan (s.blk.headOf r.ref) id = some (i, x) → x.state ≠ .reset → endClosed x.sendEnd = true →
    x.gapCount ≠ 0 → 1 ≤ ({ x with rl := x.rp } : Channel).freeWords →
    Does (.release e id) s fun t => OnlyBlk s t ∧
      t.blk.chan? (s.blk.headOf r.ref).ctx i = some { x.recvBy e with
        rl := x.rp, mkp := x.rp, marked := false, wp := ptrAdd x.rlog x.wp 1, gapCount := 0
        relsd := x.relsd + BitVec.ofNat 32 (s.blk.hb.countData (x.recvBy e) x.rp (2 ^ x.rlog) x.rl) } ∧
      t.blk.hb.readWord (x.addr x.wp) = chHeader 1 (min 0xFFFF x.gapCount) x.gapFirst ∧
      (∀ a, (a < x.addr x.wp ∨ x.addr x.wp + 8 ≤ a) → t.blk.hb.readByte a = s.blk.hb.readByte a)) ∧
  (∀ (s : State) (e : Nat) (r : Run) (id : BitVec 32) (i : Nat) (x : Channel) (ecc : Ecc) (en : Entry) (k : Nat),
    RunsAt s e r → r.parks = false → s.blk.recvChan (s.blk.headOf r.ref) id = some (i, x) → x.state ≠ .reset →
    s.blk.hb.nextEntry x x.rp = some en → (s.blk.hb.metWords x x.rp).contains k = true →
    eccOutcome (s.blk.pageValid 32 (x.addr (ptrAdd x.rlog x.rp k) / 2048)) ecc = .uncorrectable →
    Does (.read e id [(k, ecc)]) s fun t => OnlyBlk s t ∧
      t.blk.agent e = { s.blk.agent e with run := some (r.faulted stUncorrectable) } ∧ OtherAgents e s.blk t.blk ∧
      (t.blk.chan? (s.blk.headOf r.ref).ctx i).map Channel.state = some (if x.persist then .reset else x.state) ∧
      t.blk.ctr .uncorrectable = s.blk.ctr .uncorrectable + 1 ∧ SameMemory s.blk t.blk ∧
      t.blk.out.getLast? = some (.opResult e stUncorrectable 0 [])) ∧
  (∀ (s : State) (e : Nat) (r : Run) (id : BitVec 32) (i : Nat) (x : Channel), RunsAt s e r → r.parks = false →
    s.blk.recvChan (s.blk.headOf r.ref) id = some (i, x) → x.state = .reset →
    let answered (t : State) : Prop := OnlyBlk s t ∧ t.blk = s.blk.emit (.opResult e stPeerReset 0 [])
    (∀ ecc, Does (.read e id ecc) s answered) ∧ Does (.mark e id) s answered ∧ Does (.rewind e id) s answered ∧
    Does (.release e id) s answered) ∧
  (∀ (s : State) (e : Nat) (r : Run) (id : BitVec 32) (i : Nat) (x : Channel) (z : ChEnd), RunsAt s e r →
    r.parks = false → s.blk.chan? (s.blk.headOf r.ref).ctx i = some x → x.inScope (s.blk.headOf r.ref) = true →
    x.fan = none → x.gapCount = 0 →
    let closed (other : Option ChEnd) (y : Channel) (t : State) : Prop := OnlyBlk s t ∧
      ((x.persist && endClosed other) = false → t.blk.chan? (s.blk.headOf r.ref).ctx i = some y) ∧
      ((x.persist && endClosed other) = true → t.blk.chan? (s.blk.headOf r.ref).ctx i = none) ∧
      SameMemory s.blk t.blk ∧ t.blk.out.getLast? = some (.opResult e stOk 0 []) ∧
      t.blk = { s.blk with hb := { s.blk.hb with channels := t.blk.hb.channels }, out := t.blk.out }
    (s.blk.chanIndex (s.blk.headOf r.ref).ctx 0 id = some i → x.sendEnd = some z →
      Does (.close e id) s (closed x.recvEnd { x with sendEnd := some { z with closed := true, engine := e } })) ∧
    (s.blk.chanIndex (s.blk.headOf r.ref).ctx 1 id = some i → x.recvEnd = some z →
      Does (.close e id) s (closed x.sendEnd { x with recvEnd := some { z with closed := true, engine := e } })))

/-- Every step keeps channel memory in its one canonical form, so that equal contents are equal data (the form is the
model's own, log 16). -/
def Obligations.ChannelMemoryStaysCanonical : Prop :=
  ∀ s t : State, Memory.wf s.blk.hb.chanMem = true → step s = .next t → Memory.wf t.blk.hb.chanMem = true

/-- A combining queue: CB_OPEN with a good block makes the set and asks for its order table to be zeroed, and one for the
same set of the same launch succeeds and does nothing (R251); the set is open when the headers are acknowledged, and a
contribution held until then is recorded (R251, R252); a contribution to an open set is recorded once, with its record and
its slot's header written, and one that its operands or its set refuse is a task fault (R252), a FMT that does not fit the
set's MODE among them, which is the model's choice (log 37); a slot that is ripe is
combined once from its rows in position order, with MISS set where its queue is closing (R253, R254); a close whose slots
are all done reports to the reach of its task, once (R254). -/
def Obligations.CombiningFollowsPositions : Prop :=
  (∀ (s : State) (e : Nat) (r : Run) (argix : BitVec 32) (d : BitVec 512), RunsAt s e r → r.parks = false →
    dField d 0 2 < s.blk.cqQ r.ref.ctx → s.blk.cq? r.ref.ctx (dField d 0 2) = none → combBlockOk d = true →
    Does (.cbOpen e argix d) s fun t => OnlyBlk s t ∧
      (∃ q, t.blk.cq? r.ref.ctx (dField d 0 2) = some q ∧ q.ctx = r.ref.ctx ∧ q.state = .opening ∧ q.argix = argix ∧
        q.orderN = dField d 4 1 ∧ q.slotN = dField d 8 4 ∧ q.elems = dField d 0x0C 4 ∧ q.slots = [] ∧
        t.blk.out = s.blk.out ++ [.deviceZero q.orderBase (16 * (q.orderN + 1)) q.slotN, .opResult e stOk 0 []]) ∧
      (∀ k, k ≠ cqKey r.ref.ctx (dField d 0 2) → tget t.blk.hb.cqs k = tget s.blk.hb.cqs k) ∧
      t.blk = { s.blk with hb := { s.blk.hb with cqs := t.blk.hb.cqs }, out := t.blk.out }) ∧
  (∀ (s : State) (e : Nat) (r : Run) (argix : BitVec 32) (d : BitVec 512) (x : CombQ), RunsAt s e r → r.parks = false →
    dField d 0 2 < s.blk.cqQ r.ref.ctx → s.blk.cq? r.ref.ctx (dField d 0 2) = some x → x.state ≠ .closing →
    x.argix = argix → x.launch = ((s.blk.ctx? r.ref.ctx).map Ctx.launchCount).getD 0 →
    Does (.cbOpen e argix d) s fun t => OnlyBlk s t ∧ t.blk = s.blk.emit (.opResult e stOk 0 [])) ∧
  (∀ (s : State) (c k : Nat) (q : CombQ) (src : Option (Nat × TaskRef)) (p : PutOp), c < s.aon.grade.contexts →
    s.blk.frozen = false → s.blk.cq? c k = some q → q.state = .opening → q.held = [(src, p)] → p.queue = k →
    q.refuses p = false → tget (tgetD {} q.slots p.slot).puts p.pos = none →
    Does (.cbQueueOpen c k) s fun t => OnlyBlk s t ∧
      (∃ q', t.blk.cq? c k = some q' ∧ q' = { q with state := .opened, held := [], slots := q'.slots } ∧
        tget (tgetD {} q'.slots p.slot).puts p.pos = some p ∧
        (∀ j, j ≠ p.slot → tgetD {} q'.slots j = tgetD {} q.slots j)) ∧
      t.blk.ctr .cbOpen = s.blk.ctr .cbOpen + 1 ∧ t.blk.ctr .cbPut = s.blk.ctr .cbPut + 1 ∧
      t.blk = { s.blk with
        hb := { s.blk.hb with cqs := t.blk.hb.cqs }, counters := t.blk.counters, out := t.blk.out }) ∧
  (∀ (s : State) (c k : Nat) (q : CombQ), c < s.aon.grade.contexts → s.blk.frozen = false → s.blk.cq? c k = some q →
    q.state = .opening → q.held = [] →
    Does (.cbQueueOpen c k) s fun t => OnlyBlk s t ∧
      t.blk.cq? c k = some { q with state := .opened } ∧ t.blk.ctr .cbOpen = s.blk.ctr .cbOpen + 1 ∧
      t.blk = { s.blk with hb := { s.blk.hb with cqs := t.blk.hb.cqs }, counters := t.blk.counters }) ∧
  (∀ (s : State) (e : Nat) (r : Run) (p : PutOp) (q : CombQ), RunsAt s e r → r.parks = false →
    p.queue < s.blk.cqQ r.ref.ctx → p.fmt.toNat < 6 → p.cfl.toNat < 4 → s.blk.cq? r.ref.ctx p.queue = some q →
    q.state = .opened → q.refuses p = false → tget (tgetD {} q.slots p.slot).puts p.pos = none →
    Does (.cbPut e p) s fun t => OnlyBlk s t ∧
      (∃ q', t.blk.cq? r.ref.ctx p.queue = some q' ∧ q' = { q with slots := q'.slots } ∧
        tget (tgetD {} q'.slots p.slot).puts p.pos = some p ∧
        (∀ j, j ≠ p.pos → tget (tgetD {} q'.slots p.slot).puts j = tget (tgetD {} q.slots p.slot).puts j) ∧
        (∀ k, k ≠ p.slot → tgetD {} q'.slots k = tgetD {} q.slots k)) ∧
      t.blk.ctr .cbPut = s.blk.ctr .cbPut + 1 ∧
      (∃ h, t.blk.out = s.blk.out ++ [
        .dmWrite (q.headerAddr p.slot + BitVec.ofNat 64 (16 * (p.pos + 1))) (putRecord p),
        .dmWrite (q.headerAddr p.slot) h, .opResult e stOk 0 []]) ∧
      t.blk = { s.blk with
        hb := { s.blk.hb with cqs := t.blk.hb.cqs }, counters := t.blk.counters, out := t.blk.out }) ∧
  (∀ (s : State) (e : Nat) (r : Run) (p : PutOp) (q : CombQ), RunsAt s e r → r.parks = false →
    s.blk.cq? r.ref.ctx p.queue = some q → q.state ≠ .closing →
    (s.blk.cqQ r.ref.ctx ≤ p.queue ∨ 6 ≤ p.fmt.toNat ∨ 4 ≤ p.cfl.toNat ∨ q.refuses p = true) →
    Does (.cbPut e p) s fun t => OnlyBlk s t ∧
      t.blk.agent e = { s.blk.agent e with run := some (r.faulted stContextFault) } ∧ OtherAgents e s.blk t.blk ∧
      t.blk.out = s.blk.out ++ [.opResult e stContextFault 0 []] ∧
      t.blk = { s.blk with agents := t.blk.agents, out := t.blk.out }) ∧
  (∀ (s : State) (c k slot : Nat) (rows : List (List (BitVec 32))) (q : CombQ), c < s.aon.grade.contexts →
    s.blk.frozen = false →
    s.blk.cq? c k = some q → q.ripe slot = true → rows.length = (q.terms (tgetD {} q.slots slot)).length →
    (∀ x ∈ rows, x.length = q.elems) →
    Does (.slotCombine c k slot rows) s fun t => OnlyBlk s t ∧
      (∃ q', t.blk.cq? c k = some q' ∧ q' = { q with slots := q'.slots } ∧ q'.ripe slot = false ∧
        (tgetD {} q'.slots slot).done = true ∧
        (tgetD {} q'.slots slot).puts = (tgetD {} q.slots slot).puts ∧
        ((tgetD {} q'.slots slot).miss = true ↔ q.state = .closing) ∧
        (∀ j, j ≠ slot → tgetD {} q'.slots j = tgetD {} q.slots j)) ∧
      (∃ h, t.blk.out = s.blk.out ++ [
        .dmWrite (q.outBase + BitVec.ofNat 64 (q.outStride * slot)) (q.combine (q.terms (tgetD {} q.slots slot)) rows).1,
        .dmWrite (q.headerAddr slot) h]) ∧
      t.blk.ctr .cbSlot = s.blk.ctr .cbSlot + 1 ∧
      t.blk = { s.blk with
        hb := { s.blk.hb with cqs := t.blk.hb.cqs }, counters := t.blk.counters, out := t.blk.out }) ∧
  (∀ (s : State) (c k : Nat) (q : CombQ) (x : TaskRef), c < s.aon.grade.contexts → s.blk.frozen = false →
    s.blk.cq? c k = some q → q.closer = some x → q.state = .closing → q.reported = false → q.doneN = q.slotN →
    Does (.combineCloseDone c k) s fun t => OnlyBlk s t ∧
      t.blk.cq? c k = some { q with reported := true } ∧
      t.blk.reach x.reach = { s.blk.reach x.reach with selfDone := (s.blk.reach x.reach).selfDone ++ [x] } ∧
      (∀ j, j ≠ x.reach → t.blk.reach j = s.blk.reach j) ∧
      t.blk = { s.blk with hb := { s.blk.hb with cqs := t.blk.hb.cqs }, reaches := t.blk.reaches })

/-! ## The expert router -/

/-- A score vector reaches the intake of its open session, or opens a session in the lowest free slot (R152, R269); it
is held at its port while intake has no room for it (R148; log 128, the model's choice), and one of another length than
its session's tears its context down (R152); that a vector of a shadow run acts at once as any other does is the model's
choice (log 92). Without a router it is a task fault (R3). The next token in order is routed: it leaves the intake and
is counted (R148, R155). -/
def Obligations.TokensAreRoutedInOrder : Prop :=
  (∀ (s : State) (e : Nat) (r : Run) (hdr : BitVec 128) (beats : List (BitVec 512)) (rsd : List Byte) (k : Nat)
      (x : Session), RunsAt s e r → s.aon.grade.hasRouter = true → s.blk.torn (bits hdr 80 6) = false →
    s.blk.rt.slotOf (bits hdr 80 6) (BitVec.ofNat 32 (bits hdr 32 32)) (BitVec.ofNat 16 (bits hdr 64 16)) = some k →
    s.blk.session? k = some x →
    let v : Sys2Proof.Machine.Vector :=
      { engine := e, ctx := bits hdr 80 6, rsdIx := BitVec.ofNat 32 (bits hdr 32 32)
        round := BitVec.ofNat 16 (bits hdr 64 16), token := bits hdr 0 32, words := beats.flatMap beatWords }
    (s.blk.rt.holds e = false → beats.length = x.rsd.beats →
      Does (.scoreVector e hdr beats rsd) s fun t => OnlyBlk s t ∧
        t.blk = { s.blk with rt := { s.blk.rt with intake := s.blk.rt.intake ++ [{ v with pulse := s.aon.pulse }] } }) ∧
    (s.blk.rt.holds e = true →
      Does (.scoreVector e hdr beats rsd) s fun t => OnlyBlk s t ∧
        t.blk = { s.blk with rt := { s.blk.rt with waiting := s.blk.rt.waiting ++ [(v, rsd)] } }) ∧
    (s.blk.rt.holds e = false → beats.length ≠ x.rsd.beats → bits hdr 80 6 ≠ 0 → s.blk.fe.teardownsIn = [] →
      Does (.scoreVector e hdr beats rsd) s fun t => OnlyBlk s t ∧ t.blk.rt = s.blk.rt ∧
        t.blk.fe.teardownsIn = [(bits hdr 80 6, stContextFault, none)])) ∧
  (∀ (s : State) (e : Nat) (r : Run) (hdr : BitVec 128) (beats : List (BitVec 512)) (rsd : List Byte) (k : Nat)
      (x : Ctx), RunsAt s e r → s.aon.grade.hasRouter = true → s.env.rtEn = true →
    s.blk.ctx? (bits hdr 80 6) = some x → x.faulted = false → s.blk.torn (bits hdr 80 6) = false →
    s.blk.rt.holds e = false →
    s.blk.rt.slotOf (bits hdr 80 6) (BitVec.ofNat 32 (bits hdr 32 32)) (BitVec.ofNat 16 (bits hdr 64 16)) = none →
    (List.range 4).find? (fun k => (s.blk.session? k).isNone) = some k → Rsd.ok x (bits hdr 80 6) rsd = true →
    Does (.scoreVector e hdr beats rsd) s fun t => OnlyBlk s t ∧
      t.blk.session? k = some
        { ctx := bits hdr 80 6, rsdIx := BitVec.ofNat 32 (bits hdr 32 32), round := BitVec.ofNat 16 (bits hdr 64 16)
          rsd := rsdOf rsd } ∧
      (∀ j, j ≠ k → t.blk.session? j = s.blk.session? j) ∧ t.blk.ctr .sessionOpen = s.blk.ctr .sessionOpen + 1) ∧
  (∀ (s : State) (e : Nat) (r : Run) (hdr : BitVec 128) (beats : List (BitVec 512)) (rsd : List Byte),
    RunsAt s e r → s.aon.grade.hasRouter = false →
    Does (.scoreVector e hdr beats rsd) s fun t => OnlyBlk s t ∧
      t.blk.agent e = { s.blk.agent e with run := some (r.faulted stContextFault) } ∧ OtherAgents e s.blk t.blk ∧
      t.blk = { s.blk with agents := t.blk.agents }) ∧
  (∀ (s : State) (x : Sys2Proof.Machine.Vector) (rest : List Sys2Proof.Machine.Vector) (k : Nat) (y : Session),
    s.blk.frozen = false → s.blk.rt.unsent = [] → s.blk.rt.intake = x :: rest →
    s.blk.rt.slotOf x.ctx x.rsdIx x.round = some k → s.blk.session? k = some y → s.blk.torn y.ctx = false →
    y.processed < y.rsd.tokenN → y.rsd.quota = false →
    (y.admitAll x.token ((List.range (topK y.rsd.k (x.scores y.rsd)).length).zip
      ((topK y.rsd.k (x.scores y.rsd)).map (·.1)))).2.2 = none →
    Does .tokenRoute s fun t => OnlyBlk s t ∧ (∃ more, t.blk.rt.intake = rest ++ more) ∧
      (t.blk.session? k).map Session.processed = some (y.processed + 1) ∧
      t.blk.ctr .tokensRouted = s.blk.ctr .tokensRouted + 1 ∧
      (s.blk.rt.waiting = [] → t.blk.rt.intake = rest ∧ t.blk = { s.blk with
        rt := t.blk.rt, fe := t.blk.fe, agents := t.blk.agents, predNext := t.blk.predNext
        counters := t.blk.counters, out := t.blk.out })) ∧
  (∀ s : State, (s.blk.frozen = true ∨ (s.blk.rt.unsent = [] ∧ s.blk.rt.intake = [])) →
    Does .tokenRoute s fun t => t = s)

/-- Chunks: RC binds the lowest unbound chunk to the row that the stage waits for (R165); a full chunk whose sends are
done becomes claimable (R165); a pull of an expert tile takes the lowest free chunk of its row, at once or when the pull
that was held back is tried again, and no other pull takes it (R166). -/
def Obligations.ChunksAreBoundAndClaimedOnce : Prop :=
  (∀ (s : State) (k r : Nat) (x : Session), s.blk.session? k = some x → x.wantChunk = some r → s.blk.frozen = false →
    s.blk.db.rcHalted = false → s.blk.torn x.ctx = false → x.nextChunk < x.rsd.chunkN →
    Does (.chunkBind k) s fun t => OnlyBlk s t ∧
      (∃ y, t.blk.session? k = some y ∧ y = { x with
          chunks := y.chunks, nextChunk := x.nextChunk + 1, wantChunk := none, rowSt := y.rowSt } ∧
        tget y.chunks x.nextChunk = some { row := some r } ∧ (y.row r).openChunk = some x.nextChunk ∧
        (y.row r).bound = (x.row r).bound + 1 ∧ (∀ j, j ≠ r → y.row j = x.row j)) ∧
      (∃ bs, t.blk.out = s.blk.out ++ [.dmWrite (x.rsd.cmdBase + BitVec.ofNat 64 (16 * x.nextChunk)) bs]) ∧
      t.blk.ctr .chunkBind = s.blk.ctr .chunkBind + 1 ∧
      t.blk = { s.blk with rt := { s.blk.rt with sessions := t.blk.rt.sessions }, counters := t.blk.counters
                           out := t.blk.out }) ∧
  (∀ (s : State) (k c : Nat) (x : Session) (y : Chunk), s.blk.session? k = some x → tget x.chunks c = some y →
    s.blk.frozen = false → s.blk.db.rcHalted = false → y.claimable = false → y.count = x.rsd.tileT →
    x.chunkSent c = true →
    Does (.chunkClaimable k c) s fun t => OnlyBlk s t ∧
      t.blk.session? k = some { x with chunks := tput x.chunks c { y with claimable := true } } ∧
      t.blk.out = s.blk.out ++
        [.dmWrite (x.rsd.cmdBase + BitVec.ofNat 64 (16 * c + 4)) (leBytes 4 x.rsd.tileT)] ∧
      t.blk = { s.blk with rt := { s.blk.rt with sessions := t.blk.rt.sessions }, out := t.blk.out }) ∧
  (∀ (s : State) (e c row tile : Nat) (r : Run) (x : Task) (k : Option Nat) (y : Session), RunsAt s e r →
    r.dw.kind = .expert → (s.blk.agent e).abort = none → (s.blk.agent e).listWord = none → s.blk.coreHalted = false →
    s.blk.torn r.ref.ctx = false → s.blk.isLate r.ref.ctx r.dw.epoch = false → s.blk.task? r.ref = some x →
    s.blk.dspEn = true → (x.be = true → s.blk.beEn = true) → s.blk.rt.pullSession r.ref = some (k, y, row, tile) →
    (y.phase = .closed ∨ ∀ z, y.rsd.rows[row]? = some z → tile + 1 ≠ z.tileN) → y.freeChunk row = some c →
    s.blk.chargeOk r.ref.reach (energyPj x.energy) = true →
    let answered (t : State) : Prop := OnlyBlk s t ∧
      t.blk.agent e = { s.blk.agent e with pull := .none } ∧ OtherAgents e s.blk t.blk ∧
      t.blk.out = s.blk.out ++ [.pullAnswer e (BitVec.ofNat 32 c)] ∧
      t.blk.rt = s.blk.rt.putPull k { y with chunks := tmod {} y.chunks c fun z => { z with claimed := true } } ∧
      t.blk.ctr .chunkPull = s.blk.ctr .chunkPull + 1 ∧
      t.blk = { s.blk with agents := t.blk.agents, reaches := t.blk.reaches, rt := t.blk.rt, pg := t.blk.pg
                           counters := t.blk.counters, out := t.blk.out }
    ((s.blk.agent e).pull = .none → Does (.chunkPull e) s answered) ∧
    ((s.blk.agent e).pull = .chunk → Does (.tilePullRetry e) s answered))

/-- Sends and notices: a send that is done leaves its agent and its session's count (R161, R270); a deferred send is
issued with the enable set, when its agent has credit (R162); a tile whose slots are all sent is released once, by a
notice to its task's reach (R163); a notice lands at its reach in order, as a release or as a skip (R163, R164). -/
def Obligations.SendsReleaseTheirTiles : Prop :=
  (∀ (s : State) (e : Nat) (id : BitVec 32) (w : SendWord) (x : Session), e < s.aon.grade.engines →
    (s.blk.agent e).sends.find? (fun w => w.id == id) = some w → s.blk.rt.unsent = [] →
    s.blk.session? w.slot = some x →
    Does (.sendDone e id) s fun t => OnlyBlk s t ∧
      t.blk.agent e = { s.blk.agent e with sends := (s.blk.agent e).sends.filter fun w => w.id != id } ∧
      OtherAgents e s.blk t.blk ∧
      (∃ y, t.blk.session? w.slot = some y ∧ y = { x with placed := y.placed, sendsOut := x.sendsOut - 1 } ∧
        y.placed.length = x.placed.length) ∧
      (∀ k, k ≠ w.slot → t.blk.session? k = s.blk.session? k) ∧
      t.blk = { s.blk with agents := t.blk.agents, rt := { s.blk.rt with sessions := t.blk.rt.sessions }
                           out := t.blk.out }) ∧
  (∀ (s : State) (k e : Nat) (x : Session) (y : RsdRow) (p : Placed), s.blk.session? k = some x → s.blk.frozen = false →
    s.blk.torn x.ctx = false → s.blk.sasEn = true → s.blk.rt.unsent = [] → x.placed = [p] → p.sent = false →
    x.rsd.rows[p.row]? = some y → x.rsd.sendEngine s.env p.row p.index = some e →
    (s.blk.agent e).sends.length < s.env.sendCredit →
    Does (.deferredSendIssue k) s fun t => OnlyBlk s t ∧
      (∃ w, t.blk.agent e = { s.blk.agent e with sends := (s.blk.agent e).sends ++ [w] } ∧
        w.id = BitVec.ofNat 32 s.blk.rt.nextSend ∧ w.len = BitVec.ofNat 32 x.rsd.rowBytes ∧
        w.src = x.rsd.actBase + BitVec.ofNat 64 (x.rsd.rowBytes * p.record.token.toNat) ∧
        w.row = p.row ∧ w.index = p.index ∧ t.blk.out = s.blk.out ++ [.sendWord e w.bits256]) ∧
      OtherAgents e s.blk t.blk ∧ t.blk.ctr .sendIssued = s.blk.ctr .sendIssued + 1 ∧
      (∃ z, t.blk.session? k = some z ∧ z.placed = [{ p with sent := true }] ∧ z.sendsOut = x.sendsOut + 1) ∧
      t.blk = { s.blk with agents := t.blk.agents, rt := t.blk.rt, counters := t.blk.counters, out := t.blk.out }) ∧
  (∀ (s : State) (k row tile : Nat) (x : Session) (y : RsdRow), s.blk.session? k = some x →
    x.rsd.rows[row]? = some y → s.blk.frozen = false → s.blk.torn x.ctx = false → x.phase ≠ .closing →
    x.tileReady row tile = true →
    Does (.tileRelease k row tile) s fun t => OnlyBlk s t ∧
      (t.blk.session? k).map (fun z => (z.row row).released) = some ((x.row row).released ++ [tile]) ∧
      tgetD [] t.blk.rt.notices (y.tile x.ctx tile).reach =
        tgetD [] s.blk.rt.notices (y.tile x.ctx tile).reach ++ [(y.tile x.ctx tile, true)] ∧
      t.blk.ctr .releaseNotice = s.blk.ctr .releaseNotice + 1 ∧
      t.blk = { s.blk with
        rt := { s.blk.rt with sessions := t.blk.rt.sessions, notices := t.blk.rt.notices }
        counters := t.blk.counters }) ∧
  (∀ (s : State) (r : Nat) (x : TaskRef) (release : Bool) (rest : List (TaskRef × Bool)), r < s.aon.grade.reaches →
    tgetD [] s.blk.rt.notices r = (x, release) :: rest → s.blk.frozen = false → s.blk.torn x.ctx = false →
    Does (.routerNoticeLand r) s fun t => OnlyBlk s t ∧
      tgetD [] t.blk.rt.notices r = rest ∧
      t.blk.reach r = (if release then { s.blk.reach r with relNotes := (s.blk.reach r).relNotes ++ [x] }
        else { s.blk.reach r with landed := (s.blk.reach r).landed ++ [.skip x] }) ∧
      (∀ k, k ≠ r → t.blk.reach k = s.blk.reach k) ∧
      t.blk = { s.blk with rt := { s.blk.rt with notices := t.blk.rt.notices }, reaches := t.blk.reaches })

/-- The close of a session: at the close point every token is processed and every send done (R168); then RC writes its
records, and when they are acknowledged the session is closed, its slot is free and its close task is decremented
(R168). An announcement of a token count within the row's capacity is taken once, by the IN row of its stream (R169).
That an error response to a close write tears the context down with UNCORRECTABLE is the model's choice (log 93). -/
def Obligations.SessionsCloseInSteps : Prop :=
  (∀ (s : State) (k : Nat) (x : Session), s.blk.session? k = some x → s.blk.frozen = false →
    s.blk.torn x.ctx = false → x.phase = .routing → x.processed = x.rsd.tokenN → x.sendsOut = 0 →
    (∀ u ∈ s.blk.rt.unsent, u.1 ≠ k) → (∀ p ∈ x.placed, p.sent = true) →
    Does (.sessionClosePoint k) s fun t => OnlyBlk s t ∧
      t.blk.session? k = some { x with phase := .closePoint } ∧
      (s.blk.rt.unsent = [] → (∀ j, j ≠ k → t.blk.session? j = s.blk.session? j) ∧
        t.blk = { s.blk with rt := { s.blk.rt with sessions := t.blk.rt.sessions } })) ∧
  (∀ (s : State) (k : Nat) (x : Session), s.blk.session? k = some x → s.blk.frozen = false →
    s.blk.db.rcHalted = false → s.blk.torn x.ctx = false → x.phase = .closePoint → x.sendsOut = 0 →
    (∀ p ∈ x.placed, p.done = true) → x.announcedAll = true →
    Does (.sessionClose k) s fun t => OnlyBlk s t ∧
      t.blk.session? k = some { x with phase := .closing } ∧
      (∀ j, j ≠ k → t.blk.session? j = s.blk.session? j) ∧
      t.blk = { s.blk with rt := { s.blk.rt with sessions := t.blk.rt.sessions }, out := t.blk.out
                           fresh := t.blk.fresh }) ∧
  (∀ (s : State) (k : Nat) (x : Session), s.blk.session? k = some x → s.blk.frozen = false →
    s.blk.db.rcHalted = false → s.blk.torn x.ctx = false → x.phase = .closing →
    (s.blk.rt.waiting = [] → Does (.closeWritesAcked k true) s fun t => OnlyBlk s t ∧
      t.blk.session? k = none ∧ (∃ y ∈ t.blk.rt.closed, y.is x.ctx x.rsdIx x.round = true ∧ y.phase = .closed) ∧
      (x.rsd.closeTask ≠ 0xFFFFFFFF →
        let c : TaskRef := { ctx := x.ctx, id := x.rsd.closeTask }
        c ∈ (t.blk.reach c.reach).closeDecs)) ∧
    (x.ctx ≠ 0 → s.blk.fe.teardownsIn = [] → Does (.closeWritesAcked k false) s fun t => OnlyBlk s t ∧
      t.blk.session? k = some x ∧ t.blk.fe.teardownsIn = [(x.ctx, stUncorrectable, none)])) ∧
  (∀ (s : State) (c k row : Nat) (ix : BitVec 32) (round stream : BitVec 16) (l : BitVec 32) (x : Session) (y : RsdRow),
    s.blk.frozen = false → s.blk.rt.deliver = [(c, ix, round, stream, l)] → s.blk.torn c = false →
    s.blk.rt.sessions.find? (fun p => p.2.is c ix round) = some (k, x) →
    ((List.range x.rsd.rows.length).zip x.rsd.rows).find? (fun p => p.2.type == 2 && p.2.stream == stream) =
      some (row, y) →
    ((x.row row).announced = false → l.toNat ≤ y.cap →
      Does .announcementReceive s fun t => OnlyBlk s t ∧ t.blk.rt.deliver = [] ∧
        (t.blk.session? k).map (fun z => ((z.row row).announced, (z.row row).len)) = some (true, l) ∧
        t.blk.reaches = s.blk.reaches ∧ t.blk.agents = s.blk.agents ∧ t.blk.hb = s.blk.hb ∧ t.blk.fe = s.blk.fe) ∧
    ((x.row row).announced = true →
      Does .announcementReceive s fun t => OnlyBlk s t ∧
        t.blk = { s.blk.bump .rsDuplicate with rt := { s.blk.rt with deliver := [] } })) ∧
  (∀ s : State, (s.blk.frozen = true ∨ s.blk.rt.deliver = []) → Does .announcementReceive s fun t => t = s)


/-! ## Rings and descriptors -/

/-- Polls: one begins at an edge at which it is due, by the timer or by a hint of an earlier pulse, and reads the
summary; one that falls due while another is under way is noted and begins after it (R179, R181). A write-monitor hint
is noted if the monitor is enabled (R181) and the front end is powered (R276). A request takes a free tag or waits, and
a response frees its tag for the request that has waited longest (R260; log 123, the model's choice). -/
def Obligations.PollsBeginWhenDue : Prop :=
  (∀ s : State, s.blk.feRuns s.env = true → s.blk.fe.poll.polledAt ≠ s.aon.pulse →
    (s.env.pollTimer = true ∨ ∃ k ∈ s.blk.fe.poll.hints, k < s.aon.pulse) →
    let later := s.blk.fe.poll.hints.filter fun k => decide (s.aon.pulse ≤ k)
    (s.blk.fe.poll.busy = false → s.blk.fe.poll.endedAt ≠ some s.aon.pulse →
      (∀ p ∈ s.blk.fe.queues, p.2.look ≠ .again) →
      Does .doorbellPollDue s fun t => OnlyBlk s t ∧
        t.blk.fe.poll = { busy := true, reading := true, polledAt := s.aon.pulse, hints := later } ∧
        Asked s.blk t.blk (.summaryRead ((s.env.pair 0x100008).setWidth 63)) ∧
        t.blk.ctr .poll = s.blk.ctr .poll + 1 ∧
        t.blk = { s.blk with
          fe := { s.blk.fe with poll := t.blk.fe.poll, hostOut := t.blk.fe.hostOut, hostWait := t.blk.fe.hostWait }
          out := t.blk.out, counters := t.blk.counters }) ∧
    ((s.blk.fe.poll.busy = true ∨ s.blk.fe.poll.endedAt = some s.aon.pulse) →
      Does .doorbellPollDue s fun t => OnlyBlk s t ∧
        t.blk = { s.blk with fe := { s.blk.fe with poll := { s.blk.fe.poll with
          timerDue := s.blk.fe.poll.timerDue || s.env.pollTimer
          hintDue := s.blk.fe.poll.hintDue || s.blk.fe.poll.hints.any fun k => decide (k < s.aon.pulse)
          hints := later, polledAt := s.aon.pulse } } })) ∧
  (∀ s : State, s.blk.feRuns s.env = true → s.blk.fe.poll.busy = false → s.blk.fe.poll.polledAt ≠ s.aon.pulse →
    s.blk.fe.poll.endedAt ≠ some s.aon.pulse →
    (s.blk.fe.poll.timerDue = true ∨ s.blk.fe.poll.hintDue = true) → (∀ p ∈ s.blk.fe.queues, p.2.look ≠ .again) →
    Does .deferredPollStart s fun t => OnlyBlk s t ∧
      t.blk.fe.poll = { busy := true, reading := true, polledAt := s.aon.pulse
                        hints := s.blk.fe.poll.hints.filter fun k => decide (s.aon.pulse ≤ k) } ∧
      Asked s.blk t.blk (.summaryRead ((s.env.pair 0x100008).setWidth 63)) ∧
      t.blk = { s.blk with
        fe := { s.blk.fe with poll := t.blk.fe.poll, hostOut := t.blk.fe.hostOut, hostWait := t.blk.fe.hostWait }
        out := t.blk.out, counters := t.blk.counters }) ∧
  (∀ s : State, Does .writeMonitorHint s fun t => OnlyBlk s t ∧
    t.blk = { s.blk with fe := { s.blk.fe with poll := { s.blk.fe.poll with
      hints := if s.env.domainUp 16 && s.env.wmEn && !s.blk.fe.poll.hints.contains s.aon.pulse
        then s.blk.fe.poll.hints ++ [s.aon.pulse] else s.blk.fe.poll.hints } } }) ∧
  (∀ (b : Blk) (p : HostReq → Bool) (tag : Nat) (r : HostReq) (pre post : List (Nat × HostReq)),
    b.fe.hostOut = pre ++ (tag, r) :: post → p r = true → (∀ x ∈ pre, p x.2 = false) →
    (b.fe.hostWait = [] → b.answered p = { b with fe := { b.fe with hostOut := pre ++ post } }) ∧
    (∀ w rest, b.fe.hostWait = w :: rest →
      Asked { b with fe := { b.fe with hostOut := pre ++ post, hostWait := rest } } (b.answered p) w))

/-- Responses to requests that still have their owner. A bell: the summary shows it, its bit is cleared by an AND, also
of a queue that is closing or none, and when that is done its producer index is read; the index is taken if it lies
between CI and the ring's length above it, an overrun of queue 0 is counted and taken by nothing, and one of another
context tears it down (R177, R179, R180). A last look reads the index in the same way and makes an empty queue idle
(R182). A fetched descriptor is kept in order and raises CI (R177); the response to a result record raises DONE, with
the record's status unless a later descriptor has completed since (R183, R189). -/
def Obligations.BellsLeadToDescriptors : Prop :=
  (∀ (s : State) (words : List (BitVec 64)) (q : Nat), s.blk.fe.poll.reading = true → bellsOf words = [q] →
    (∀ p ∈ s.blk.fe.queues, p.2.readAgain = false) → NoneLate s.blk HostReq.isSummary →
    let cleared (t : State) : Prop := OnlyBlk s t ∧
      Asked (s.blk.answered HostReq.isSummary) t.blk (.summaryAnd q (s.env.sumAddr q)) ∧
      (∀ k, k ≠ q → t.blk.queue? k = s.blk.queue? k) ∧
      t.blk.fe.late = (if (s.blk.queue? q).isSome then s.blk.fe.late
        else s.blk.fe.late ++ [{ req := .summaryAnd q (s.env.sumAddr q), ctx := 0, who := some .stray }]) ∧
      t.blk = { s.blk with
        fe := { s.blk.fe with queues := t.blk.fe.queues, poll := t.blk.fe.poll, hostOut := t.blk.fe.hostOut
                              hostWait := t.blk.fe.hostWait, late := t.blk.fe.late }
        out := t.blk.out, counters := t.blk.counters }
    (∀ u, s.blk.queue? q = some u → u.isOpen = true →
      Does (.summaryReadDone words false) s fun t => cleared t ∧
        t.blk.queue? q = some { u with ands := u.ands ++ [.bell], readAgain := false } ∧
        t.blk.fe.poll = { s.blk.fe.poll with reading := false, bells := s.blk.fe.poll.bells ++ [q] } ∧
        t.blk.ctr .bell = s.blk.ctr .bell + 1) ∧
    (∀ u, s.blk.queue? q = some u → u.isOpen = false →
      Does (.summaryReadDone words false) s fun t => cleared t ∧
        t.blk.queue? q = some { u with ands := u.ands ++ [.stray] } ∧
        t.blk.ctr .strayBell = s.blk.ctr .strayBell + 1) ∧
    (s.blk.queue? q = none →
      Does (.summaryReadDone words false) s fun t => cleared t ∧ t.blk.queue? q = none ∧
        t.blk.ctr .strayBell = s.blk.ctr .strayBell + 1)) ∧
  (∀ (s : State) (q : Nat) (u : Queue) (rest : List AskedBy), q < 1024 → s.blk.queue? q = some u → u.isOpen = true →
    NoneLate s.blk (HostReq.isAnd q) →
    let reads (w : Queue) (t : State) : Prop := OnlyBlk s t ∧ t.blk.queue? q = some w ∧
      (∀ k, k ≠ q → t.blk.queue? k = s.blk.queue? k) ∧
      Asked (s.blk.answered (HostReq.isAnd q)) t.blk (.piRead q (s.env.piAddr q)) ∧ OnlyRings s.blk t.blk
    (u.ands = .bell :: rest → s.blk.fe.poll.abandoned = false →
      Does (.bellAndDone q false) s (reads { u with ands := rest, piReads := u.piReads ++ [.bell] })) ∧
    (u.ands = .look :: rest →
      Does (.bellAndDone q false) s
        (reads { u with ands := rest, look := .readOut, piReads := u.piReads ++ [.look] }))) ∧
  (∀ (s : State) (q : Nat) (u : Queue) (rest : List AskedBy) (pi : BitVec 64), q < 1024 → s.blk.queue? q = some u →
    u.isOpen = true → NoneLate s.blk (HostReq.isPi q) →
    (u.piReads = .bell :: rest → u.ci ≤ pi.toNat → pi.toNat ≤ u.ci + 2 ^ u.log2n →
      Does (.piReadDone q pi false) s fun t => OnlyBlk s t ∧
        (∃ u', t.blk.queue? q = some u' ∧ u'.piRead = max u.piRead pi.toNat ∧ u'.ci = u.ci ∧ u'.piReads = rest ∧
          u'.qstate = (if u.ci < pi.toNat ∧ u.qstate = .idle then .active else u.qstate) ∧
          u'.started = u.started ∧ u'.fetched = u.fetched)) ∧
    (u.piReads = .look :: rest → u.ci ≤ pi.toNat → pi.toNat ≤ u.ci + 2 ^ u.log2n →
      Does (.piReadDone q pi false) s fun t => OnlyBlk s t ∧
        (∃ u', t.blk.queue? q = some u' ∧ u'.piRead = pi.toNat ∧ u'.look = .none ∧ u'.ci = u.ci ∧ u'.piReads = rest ∧
          u'.qstate = (if u.ci = pi.toNat ∧ u.qstate = .active then .idle else u.qstate) ∧
          u'.started = u.started ∧ u'.fetched = u.fetched)) ∧
    (u.piReads = .bell :: rest → (pi.toNat < u.ci ∨ u.ci + 2 ^ u.log2n < pi.toNat) →
      (u.ctx = 0 → Does (.piReadDone q pi false) s fun t => OnlyBlk s t ∧
        t.blk.queue? q = some { u with piReads := rest } ∧ t.blk.ctr .piOverrun = s.blk.ctr .piOverrun + 1 ∧
        t.blk.out = (s.blk.answered (HostReq.isPi q)).out) ∧
      (u.ctx ≠ 0 → s.blk.torn u.ctx = false → s.blk.fe.teardownsIn = [] →
        Does (.piReadDone q pi false) s fun t => OnlyBlk s t ∧
          t.blk.queue? q = some { u with piReads := rest } ∧
          t.blk.fe.teardownsIn = [(u.ctx, stContextFault, none)]))) ∧
  (∀ (s : State) (q : Nat) (u : Queue) (d : BitVec 512), q < 1024 → s.blk.queue? q = some u → u.fetchOut = true →
    u.isOpen = true → (∀ x ∈ u.started, x.index < u.ci - u.fetched.length) → NoneLate s.blk (HostReq.isFetch q) →
    Does (.descriptorFetchDone q d false) s fun t => OnlyBlk s t ∧
      (∃ u', t.blk.queue? q = some u' ∧ u'.fetched = u.fetched ++ [some d] ∧ u'.ci = u.ci + 1 ∧
        u'.started = u.started ∧ u'.qstate = u.qstate)) ∧
  (∀ (s : State) (q : Nat) (u : Queue) (st : BitVec 8) (k : Nat) (rest : List (BitVec 8 × Nat)), q < 1024 →
    s.blk.queue? q = some u → u.resOut = (st, k) :: rest → NoneLate s.blk (HostReq.isResult q) →
    Does (.statusRecordWriteResponse q true false) s fun t => OnlyBlk s t ∧
      (∃ u', t.blk.queue? q = some u' ∧ u'.done = u.done + 1 ∧ u'.resOut = rest ∧ u'.ci = u.ci ∧
        u'.lastStatus = (if u.lastTicket ≤ k then st else u.lastStatus) ∧ u'.started = u.started)) ∧
  (∀ (s : State) (q : Nat), q < 1024 → NoneLate s.blk (HostReq.isStatus q) → Does (.statusRecordWriteResponse q false false) s fun t => OnlyBlk s t ∧
    t.blk = s.blk.answered (HostReq.isStatus q))

/-- The descriptor whose turn it is starts with what its opcode does (R185, R188, R191): NOP and the range markers are
ready to complete (Table 8.6); contexts, queues and dumps wait for the next edge (R198-R203); a LAUNCH_GRAPH that passes
its checks arms at the next edge, and waits while the last launch has work (R82, R192); a LOAD_IMAGE goes to the loader
and is BUSY while its context is (R81); a PATCH takes its records (R194); a STEP becomes its context's pending one
(R129, R197); a WAIT_VALUE reads (R195); a WRITE_VALUE enters its fence record (R196). Records and lists are read of
device memory or, under a free tag, of host memory (R260); that a descriptor waits to start while there is no tag, and
that its tag is free when it has started, are the model's choice (log 123). -/
def Obligations.DescriptorsStartTheirWork : Prop :=
  (∀ (s : State) (q : Nat) (u : Queue) (d : BitVec 512), Starts s q u d → verdict s.env u d = none →
    let plain (p : Phase) (head : Bool) (t : State) : Prop :=
      StartedAs s t q u d p head ∧ t.blk = { s.blk with fe := t.blk.fe, counters := t.blk.counters }
    let area : BitVec 64 × Nat :=
      if dOpcode d = 0x01 then launchArea d else if dOpcode d = 0x03 then patchArea d else stepArea d
    let tag : Prop := area.1.getLsbD 63 = true → area.2 ≠ 0 → s.blk.fe.freeTag ≠ none
    let reads (p : Phase) (head : Bool) (t : State) : Prop :=
      StartedAs s t q u d p head ∧ t.blk.fe.hostOut = s.blk.fe.hostOut ∧
      t.blk = { s.blk with fe := t.blk.fe, counters := t.blk.counters, out := s.blk.out ++
        (if area.2 = 0 then [] else if area.1.getLsbD 63 = false then [.dmRead area.1 area.2]
          else (s.blk.fe.freeTag.toList.map fun k => .host k (.descRead q (area.1.setWidth 63) area.2))) }
    (dOpcode d = 0x00 → Does (.nop q) s (plain (.finishing stOk) false)) ∧
    (dOpcode d = 0x06 → Does (.markBegin q) s (plain (.finishing stOk) true)) ∧
    (dOpcode d = 0x07 → Does (.markEnd q) s (plain (.finishing stOk) true)) ∧
    (dOpcode d = 0x09 → ∀ r g, Does (.contextCreate q r g) s (plain (.ctxCreate r g) true)) ∧
    (dOpcode d = 0x0A → Does (.contextDestroy q) s (plain .ctxDestroy true)) ∧
    (dOpcode d = 0x0B → Does (.queueCreate q) s (plain .queueCreate true)) ∧
    (dOpcode d = 0x0C → Does (.queueDestroy q) s (plain .queueDestroy true)) ∧
    (dOpcode d = 0x0D → Does (.dumpTensor q) s (plain .dump true)) ∧
    (dOpcode d = 0x03 → tag → dField d 0x10 1 = 0 → u.ctx ≠ 0 → ∀ ps,
      Does (.patch q ps .ok) s (reads (.patchWait (ps.take (dField d 0x14 4))) true)) ∧
    (dOpcode d = 0x03 → tag → dField d 0x10 1 = 1 → u.ctx = 0 → ∀ ps,
      Does (.patch q ps .ok) s (reads (.patchWait (ps.take (dField d 0x14 4))) true)) ∧
    (dOpcode d = 0x03 → ¬ tag → ∀ ps rsp, Does (.patch q ps rsp) s fun t => t = s) ∧
    (dOpcode d = 0x08 → ¬ tag → ∀ bs err, Does (.step q bs err) s fun t => t = s) ∧
    (dOpcode d = 0x01 → u.launchRead = none → ¬ tag → ∀ hs ps rsp, Does (.launchGraph q hs ps rsp) s fun t => t = s) ∧
    (dOpcode d = 0x01 → u.launchRead = none → tag → s.blk.launchBusy s.env u.ctx = true → ∀ hs ps,
      Does (.launchGraph q hs ps .ok) s (reads (.launchWait hs (ps.take (dField d 0x18 4))) true)) ∧
    (dOpcode d = 0x01 → u.launchRead = none → tag → s.blk.launchBusy s.env u.ctx = false → ∀ hs ps x,
      s.blk.ctx? u.ctx = some x →
      Does (.launchGraph q hs ps .ok) s fun t =>
        StartedAs s t q u d (if x.launchOk u.ctx d hs (ps.take (dField d 0x18 4)) = true then .arming
          else .finishing stContextFault) true ∧
        t.blk = { s.blk with fe := t.blk.fe, counters := t.blk.counters, out := t.blk.out }) ∧
    (dOpcode d = 0x02 → (s.blk.fe.loaderHalted = true ∨ s.blk.loadBusy s.env u.ctx = true) →
      Does (.loadImage q) s (plain (.finishing stBusy) true)) ∧
    (dOpcode d = 0x02 → s.blk.fe.loaderHalted = false → s.blk.loadBusy s.env u.ctx = false →
      Does (.loadImage q) s fun t => StartedAs s t q u d .imageReading true ∧
        t.blk.fe.loader = s.blk.fe.loader ++ [(q, u.ci - u.fetched.length)] ∧
        (s.blk.fe.loader = [] → (BitVec.ofNat 64 (dField d 0x10 8)).getLsbD 63 = true →
          Asked s.blk t.blk (.imageRead ((BitVec.ofNat 64 (dField d 0x10 8)).setWidth 63) (dField d 0x18 8))) ∧
        (s.blk.fe.loader = [] → (BitVec.ofNat 64 (dField d 0x10 8)).getLsbD 63 = false →
          t.blk.out = s.blk.out ++ [.dmRead (BitVec.ofNat 64 (dField d 0x10 8)) (dField d 0x18 8)])) ∧
    (dOpcode d = 0x04 → Does (.waitValue q) s fun t => StartedAs s t q u d (.valueWait none false s.aon.pulse) true ∧
      (if (BitVec.ofNat 64 (dField d 0x10 8)).getLsbD 63 = true
        then Asked s.blk t.blk (.valueRead q ((BitVec.ofNat 64 (dField d 0x10 8)).setWidth 63))
        else t.blk.out = s.blk.out ++ [.dmRead (BitVec.ofNat 64 (dField d 0x10 8)) 8])) ∧
    (dOpcode d = 0x05 → Does (.writeValue q) s fun t => StartedAs s t q u d (.fenceRecord s.blk.rel.tickets) true ∧
      (∃ r, t.blk.rel.staged = s.blk.rel.staged ++ [(19, r)] ∧ r.type = .fence ∧ r.ticket = s.blk.rel.tickets ∧
        r.ctx = u.ctx)) ∧
    (dOpcode d = 0x08 → tag → ∀ lists x, s.blk.ctx? u.ctx = some x → x.pendingStep = none →
      listsOk lists (dField d 0x12 2) (dField d 0x14 2) = true →
      x.stepOk (leavesOf lists (dField d 0x12 2)) (joinsOf lists (dField d 0x12 2) (dField d 0x14 2)) = true →
      Does (.step q lists false) s fun t => StartedAs s t q u d .stepPending false ∧
        (∃ r y, t.blk.ctx? u.ctx = some y ∧ y = { x with pendingStep := some r } ∧ r.queue = q ∧
          r.index = u.ci - u.fetched.length ∧ r.leaves = leavesOf lists (dField d 0x12 2) ∧
          r.joins = joinsOf lists (dField d 0x12 2) (dField d 0x14 2)))) ∧
  (∀ (s : State) (q : Nat) (u : Queue) (d : BitVec 512) (st : BitVec 8) (bad : Bool), Starts s q u d →
    verdict s.env u d = some (st, bad) →
    (0x0E ≤ dOpcode d → Does (.reservedOpcode q) s fun t => StartedAs s t q u d (.finishing stContextFault) true) ∧
    (dOpcode d = 0x00 → Does (.nop q) s fun t => StartedAs s t q u d (.finishing st) true) ∧
    (dOpcode d = 0x01 → u.launchRead = none →
      ((launchArea d).1.getLsbD 63 = true → (launchArea d).2 ≠ 0 → s.blk.fe.freeTag ≠ none) → ∀ hs ps rsp,
      Does (.launchGraph q hs ps rsp) s fun t => StartedAs s t q u d (.finishing st) true) ∧
    (dOpcode d = 0x0B → Does (.queueCreate q) s fun t => StartedAs s t q u d (.finishing st) true))

/-- Descriptors that read or write memory go on with the answers: an image that was read is kept for the next edge,
where one that passes its checks is written and one that cannot be parsed completes with CONTEXT_FAULT (R81, R188,
R191), and the writes' acknowledgement completes it; a RELOCATE launch that waited is checked with the handle table's
present entries (R82), which a second LAUNCH_GRAPH command brings (log 131, the model's choice); a value is read again
after POLL pulses, and the wait completes when its compare holds (R195); the acknowledgement of a fence's write enters
its FENCE_DONE record, also where its descriptor has ended since, and completes the descriptor otherwise (R196, R300). A
queue whose timer has reached TIMEOUT is acted on: context 0's head completes with TIMEOUT, another context is torn
down, or the block is reset if its run hangs (R204, R205). -/
def Obligations.DescriptorsFollowTheirAnswers : Prop :=
  (∀ (s : State) (q : Nat) (u : Queue) (x : Started) (image : List Byte) (hs : List (BitVec 64)),
    s.blk.queue? q = some u → s.blk.loading = some (q, u, x) →
    (x.phase = .imageReading → NoneLate s.blk HostReq.isImage → Does (.imageReadDone image hs .ok) s fun t => OnlyBlk s t ∧
      t.blk.queue? q = some (u.atPhase x.index (.imageRead image hs)) ∧ t.blk.fe.loader = s.blk.fe.loader ∧
      OnlyRings s.blk t.blk) ∧
    (parseImage image (dField x.desc 0x18 8) = none →
      let b := s.blk.imageRead s.env q u x image hs
      b.queue? q = some (u.atPhase x.index (.finishing stContextFault)) ∧
        b.fe.loader = s.blk.fe.loader.drop 1 ∧ b.fe.ctxs = s.blk.fe.ctxs ∧ b.reaches = s.blk.reaches) ∧
    (∀ m k, parseImage image (dField x.desc 0x18 8) = some m → s.blk.ctx? u.ctx = some k →
      m.ok s.env k image = true → relocsOk k m.relocs hs = true → s.blk.loadBusy s.env u.ctx = false →
      let b := s.blk.imageRead s.env q u x image hs
      b.queue? q = some (u.atPhase x.index .imageWriting) ∧ b.fe.loader = s.blk.fe.loader) ∧
    (x.phase = .imageReading → NoneLate s.blk HostReq.isImage → Does (.imageReadDone image hs .hostError) s fun t =>
      OnlyBlk s t ∧
      t.blk.queue? q = some (u.atPhase x.index (.finishing stContextFault)) ∧
      t.blk.ctr .hostError = s.blk.ctr .hostError + 1 ∧ t.blk.fe.loader = s.blk.fe.loader.drop 1)) ∧
  (∀ (s : State) (q : Nat) (u : Queue) (x : Started) (ps : List (BitVec 128)) (k : Ctx), q < 1024 →
    s.blk.queue? q = some u → u.launchRead = some (x, ps) → s.blk.feRuns s.env = true →
    s.blk.launchBusy s.env u.ctx = false → s.blk.ctx? u.ctx = some k → ∀ hs qs,
    Does (.launchGraph q hs qs .ok) s fun t => OnlyBlk s t ∧
      t.blk.queue? q = some (u.atPhase x.index
        (if k.launchOk u.ctx x.desc hs ps = true then .arming else .finishing stContextFault)) ∧
      t.blk = { s.blk with fe := { s.blk.fe with queues := t.blk.fe.queues }, out := t.blk.out }) ∧
  (∀ (s : State) (q : Nat) (u : Queue) (x : Started), s.blk.loading = some (q, u, x) → x.phase = .imageWriting →
    s.blk.queue? q = some u →
    (Does (.loadImageWritesAcked true) s fun t => OnlyBlk s t ∧
      t.blk.queue? q = some (u.atPhase x.index (.finishing stOk)) ∧ t.blk.fe.loader = s.blk.fe.loader.drop 1 ∧
      t.blk.fe.loaderHalted = s.blk.fe.loaderHalted) ∧
    (Does (.loadImageWritesAcked false) s fun t => OnlyBlk s t ∧
      t.blk.queue? q = some (u.atPhase x.index (.finishing stUncorrectable)) ∧ t.blk.fe.loader = [] ∧
      t.blk.fe.loaderHalted = true)) ∧
  (∀ (s : State) (q : Nat) (u : Queue) (x : Started) (f : Option (BitVec 64)) (c : Bool) (n : Nat), q < 1024 →
    s.blk.queue? q = some u → u.valueWait = some (x, f, c, n) →
    (s.blk.rel.phase = 0 → n + dField x.desc 0x24 4 ≤ s.aon.pulse →
      Does (.waitValuePoll q) s fun t => OnlyBlk s t ∧
        t.blk.queue? q = some (u.atPhase x.index (.valueWait f c s.aon.pulse)) ∧
        (if (BitVec.ofNat 64 (dField x.desc 0x10 8)).getLsbD 63 = true
          then Asked s.blk t.blk (.valueRead q ((BitVec.ofNat 64 (dField x.desc 0x10 8)).setWidth 63))
          else t.blk.out = s.blk.out ++ [.dmRead (BitVec.ofNat 64 (dField x.desc 0x10 8)) 8])) ∧
    (s.aon.pulse < n + dField x.desc 0x24 4 → Does (.waitValuePoll q) s fun t => t = s) ∧
    (∀ value, NoneLate s.blk (HostReq.isValueRead q) → Does (.waitValueReadDone q value false) s fun t => OnlyBlk s t ∧
      (let changed := c || decide (f.getD value ≠ value)
       t.blk.queue? q = some { u.atPhase x.index
        (if compareHolds (dField x.desc 0x20 1) value (BitVec.ofNat 64 (dField x.desc 0x18 8)) changed = true
          then .finishing stOk else .valueWait (some (f.getD value)) changed n) with waitLast := value }) ∧
      (∀ k, k ≠ q → t.blk.queue? k = s.blk.queue? k) ∧ OnlyRings s.blk t.blk)) ∧
  (∀ (s : State) (q : Nat) (f : FenceOut), q < 1024 → s.blk.fe.fences.find? (fun f => f.queue == q) = some f →
    NoneLate s.blk (HostReq.isValueWrite q) →
    let done (t : State) : Prop := OnlyBlk s t ∧
      t.blk.fe.fences = ldrop1 (fun f => f.queue == q) s.blk.fe.fences ∧
      (∃ r, t.blk.rel.staged = s.blk.rel.staged ++ [(19, r)] ∧ r.type = .fenceDone ∧ r.ctx = f.ctx ∧
        r.id = descId q f.index) ∧
      t.blk = { s.blk with fe := t.blk.fe, rel := t.blk.rel, out := t.blk.out }
    (∀ u x, s.blk.queue? q = some u → s.blk.fencing f = some x →
      Does (.writeValueAck q false) s fun t => done t ∧ t.blk.queue? q = some (u.atPhase x.index (.finishing stOk))) ∧
    (s.blk.fencing f = none →
      Does (.writeValueAck q false) s fun t => done t ∧ t.blk.fe.queues = s.blk.fe.queues)) ∧
  (∀ (s : State) (q : Nat) (u : Queue), q < 1024 → s.blk.queue? q = some u →
    ((u.timeoutOf s.env q = 0 ∨ u.timer < u.timeoutOf s.env q) → Does (.queueTimeout q) s fun t => t = s) ∧
    (u.timeoutOf s.env q ≠ 0 → u.timeoutOf s.env q ≤ u.timer → s.blk.frozen = false →
      (∀ x rest, u.ctx = 0 → u.started = x :: rest → Does (.queueTimeout q) s fun t => OnlyBlk s t ∧
        t.blk.queue? q = some { u.atPhase x.index (.finishing (match x.phase with
          | .finishing st => rankMax st stTimeout
          | _ => stTimeout)) with timer := 0 }) ∧
      (u.ctx ≠ 0 → s.blk.hungRun s.env q u = true → Does (.queueTimeout q) s fun t => OnlyBlk s t ∧
        t.blk.rel.pendingCause.isSome = true ∧ t.blk.ctr .timeoutReset = s.blk.ctr .timeoutReset + 1) ∧
      (u.ctx ≠ 0 → s.blk.hungRun s.env q u = false → s.blk.torn u.ctx = false → s.blk.fe.teardownsIn = [] →
        Does (.queueTimeout q) s fun t => OnlyBlk s t ∧
          t.blk.fe.teardownsIn = [(u.ctx, stTimeout, none)] ∧
          t.blk.ctr .timeoutContext = s.blk.ctr .timeoutContext + 1)))


/-! ## Firmware, recovery and stored data -/

/-- A firmware image that has been read and passes its checks runs, and one that does not returns to BOOT_WAIT with its
reason (R208); as much of its sections as was read is in the memories either way, also where an error ended the reading,
if their lengths fit (R208). A trap or a silent heartbeat of a running core, and the pin, ask for a block reset (R298);
a trap is traced (R336, Table 14.8). The order of the checks, the sections of an image whose lengths do not fit, the
signature check and that the first cause stands are the model's choices (logs 27, 124, 44). -/
def Obligations.FirmwareRunsOrIsRejected : Prop :=
  (∀ (s : State) (image : List Byte), s.blk.fe.fwState = .loading →
    let kept (t : State) : Prop := t.blk.fe = { s.blk.fe with
      fwState := t.blk.fe.fwState, fwReason := t.blk.fe.fwReason, cpInstr := t.blk.fe.cpInstr, cpData := t.blk.fe.cpData
      rcMem := t.blk.fe.rcMem, hostOut := t.blk.fe.hostOut, hostWait := t.blk.fe.hostWait }
    (fwHeadOk image = true → fwLengthsOk image (s.env.reg 0x100108).toNat = true → fwServes s.aon.grade image = true →
      Does (.firmwareLoadDone image false) s fun t => OnlyBlk s t ∧ kept t ∧
        t.blk.fe.fwState = (if signatureOk bootKey image then .running else .bootWait) ∧
        t.blk.fe.fwReason = (if signatureOk bootKey image then 0 else 4) ∧
        (signatureOk bootKey image = true →
          t.blk = { s.blk with
            fe := t.blk.fe, out := t.blk.out
            rel := { s.blk.rel with validPages := t.blk.rel.validPages, partPages := t.blk.rel.partPages } })) ∧
    (∀ err, Does (.firmwareLoadDone image err) s fun t =>
      let read : Bool := decide (64 ≤ image.length) && fwBoundsOk image (s.env.reg 0x100108).toNat
      let laid (from_ n : Nat) (old : List Byte) : List Byte :=
        if read then (image.drop from_).take n ++ old.drop ((image.drop from_).take n).length else old
      t.blk.fe.cpInstr = laid 64 (fwCpi image) s.blk.fe.cpInstr ∧
      t.blk.fe.cpData = laid (64 + fwCpi image) (fwCpd image) s.blk.fe.cpData ∧
      t.blk.fe.rcMem = laid (64 + fwCpi image + fwCpd image) (fwRc image) s.blk.fe.rcMem) ∧
    (fwReason s.env image ≠ 0 → Does (.firmwareLoadDone image false) s fun t => OnlyBlk s t ∧ kept t ∧
      t.blk.fe.fwState = .bootWait ∧ t.blk.fe.fwReason = fwReason s.env image ∧
      t.blk.ctr .fwReject = s.blk.ctr .fwReject + 1) ∧
    Does (.firmwareLoadDone image true) s fun t => OnlyBlk s t ∧ kept t ∧
      t.blk.fe.fwState = .bootWait ∧ t.blk.fe.fwReason = 3 ∧
      t.blk.ctr .hostError = s.blk.ctr .hostError + 1 ∧ t.blk.ctr .fwReject = s.blk.ctr .fwReject + 1) ∧
  (∀ s : State,
    let asks (cause : Cause) (t : State) : Prop := OnlyBlk s t ∧
      t.blk = { s.blk with rel := { s.blk.rel with pendingCause := some (s.blk.rel.pendingCause.getD cause) } }
    let traps (cause : Cause) (t : State) : Prop := OnlyBlk s t ∧
      t.blk = { s.blk with
        rel := { s.blk.rel with pendingCause := some (s.blk.rel.pendingCause.getD cause) }
        db := t.blk.db, counters := t.blk.counters, fresh := t.blk.fresh, out := t.blk.out }
    (s.blk.fe.fwState = .running → Does (.cpTrap .cp) s (traps .cpTrap) ∧ Does (.cpTrap .rc) s (traps .rcTrap)) ∧
    (s.blk.fe.fwState = .running → s.blk.db.cpHalted = false → s.blk.db.rcHalted = false →
      Does .cpHeartbeatSilent s (asks .cpHeartbeat)) ∧
    ((s.blk.db.cpHalted = true ∨ s.blk.db.rcHalted = true) → Does .cpHeartbeatSilent s fun t => t = s) ∧
    Does .blkResetReq s (asks .pin) ∧
    (s.blk.fe.fwState ≠ .running → ∀ k, Does (.cpTrap k) s fun t => t = s))

/-- The phases of a block reset (R309): the first clears the control state of the agents, the router, the hub's objects
and queues and the journal's staged records, keeps the task blocks, the edge stores, the predicates and the runs, and
notes the lock, and powers the front end down if the sweep found a bad word, which is counted (R315); 896 pulses later
abort is raised on every engine with a run; when the drain is over no agent has a run or an item, and one whose run was
cut off is fenced; the replay keeps of the journal what is acknowledged, and nothing else (R310); and resume enters a
RESET record, sets the lock again if it was set, and ends the reset (R12, R309), unless a cause arose meanwhile. The
division of the phases into commands, and that the replay is taken in phase 3 or 4, are the model's choice (log 43). -/
def Obligations.BlockResetKeepsTheStores : Prop :=
  (∀ (s : State) (l : List Met), s.blk.rel.phase = 1 → s.blk.sweepBad l = false →
    Does (.blockReset l) s fun t => t.pending = s.pending ∧ t.aon = s.aon ∧
      t.blk.rel.phase = 2 ∧ t.blk.rel.resetEdge = s.aon.pulse ∧ t.blk.preds = s.blk.preds ∧
      (∀ r, (t.blk.reach r).blocks = (s.blk.reach r).blocks ∧ (t.blk.reach r).edges = (s.blk.reach r).edges) ∧
      t.blk.hb.gsync = [] ∧ t.blk.hb.cqs = [] ∧ t.blk.rel.staged = [] ∧ t.blk.fe.poll = {} ∧
      t.blk.rt = { err := t.blk.rt.err } ∧
      (∀ e, (t.blk.agent e).queue = [] ∧ (t.blk.agent e).run = (s.blk.agent e).run) ∧
      t.cfg.lock = false ∧ t.cfg.lockSaved = (s.cfg.lockSaved || s.cfg.lock) ∧ t.cfg.stored = s.cfg.stored) ∧
  (∀ (s : State) (l : List Met), s.blk.rel.phase = 1 → s.blk.sweepBad l = true →
    Does (.blockReset l) s fun t => t.pending = s.pending ∧
      (∀ x, l = [x] → t.blk.ctr .uncorrectable = s.blk.ctr .uncorrectable + 1) ∧
      t.aon = { s.aon with pdReq := setBit20 s.aon.pdReq 16 false } ∧
      t.blk.rel.phase = 2 ∧ t.blk.rel.resetEdge = s.aon.pulse ∧ t.blk.fe.fwState = .bootWait ∧
      t.blk.out.getLast? = some (.powerReq 16 false) ∧
      t.cfg.lock = false ∧ t.cfg.lockSaved = (s.cfg.lockSaved || s.cfg.lock) ∧ t.cfg.stored = s.cfg.stored) ∧
  (∀ s : State, s.blk.rel.phase = 2 → s.blk.rel.resetEdge + 896 ≤ s.aon.pulse →
    Does .resetDrainExpiry s fun t => OnlyBlk s t ∧
      (∀ e, (s.blk.agent e).run ≠ none → (t.blk.agent e).abort = some .reset) ∧
      (∀ e, (t.blk.agent e).run = (s.blk.agent e).run) ∧
      t.blk = { s.blk with agents := t.blk.agents, out := t.blk.out }) ∧
  (∀ s : State, s.blk.rel.phase = 2 → s.aon.pulse < s.blk.rel.resetEdge + 896 →
    Does .resetDrainExpiry s fun t => t = s) ∧
  (∀ (s : State) (retire : List (BitVec 64)), s.blk.rel.phase = 2 → s.blk.drainOver s.env = true →
    s.blk.fe.fwState = .running →
    Does (.resetPhaseEnd2 retire) s fun t => OnlyBlk s t ∧ t.blk.rel.phase = 3 ∧
      ∀ e, (t.blk.agent e).run = none ∧ (t.blk.agent e).listWord = none ∧ (t.blk.agent e).items = [] ∧
        ((s.blk.agent e).run ≠ none → (t.blk.agent e).fenced = true)) ∧
  (∀ s : State, (s.blk.rel.phase = 3 ∨ s.blk.rel.phase = 4) →
    Does .journalReplay s fun t => OnlyBlk s t ∧ t.blk.rel.phase = 5 ∧ t.blk.rel.slots = s.blk.rel.acked ∧
      ∀ r ∈ t.blk.rel.journal, r ∈ s.blk.rel.journal ∧ r.slot + r.size ≤ s.blk.rel.acked) ∧
  (∀ s : State, s.blk.rel.phase = 5 → s.blk.rel.pendingCause ≠ none → Does .resetResume s fun t => t = s) ∧
  (∀ s : State, s.blk.rel.phase = 5 → s.blk.rel.pendingCause = none →
    Does .resetResume s fun t => t.pending = s.pending ∧ t.aon = s.aon ∧ t.cfg.stored = s.cfg.stored ∧
      t.cfg.active = s.cfg.active ∧ t.cfg.lock = (s.cfg.lock || s.cfg.lockSaved) ∧ t.cfg.lockSaved = false ∧
      t.blk.rel.phase = 0 ∧
      (∃ r, t.blk.rel.staged = s.blk.rel.staged ++ [(38, r)] ∧ r.type = .reset) ∧
      t.blk = { s.blk with
        rel := t.blk.rel, fe := t.blk.fe, out := t.blk.out, counters := t.blk.counters
        hb := { s.blk.hb with outstanding := t.blk.hb.outstanding } })

/-- Checkpoints begin when the journal has grown by the checkpoint distance and end when every context is copied (R306,
R307); 594 edges after a teardown no entry of its context is in any state but idle (R308); a scrubber's visit to a sound
page is counted and changes no stored data (R315, R317); a page whose codewords, the sixteen of its bytes modulo 16,
have at most 8 bytes in error each is corrected and counted so, with more in one the error is uncorrectable (R314,
R315); a self-test shows its failing banks in its own reach, whose pages are no longer valid (R316, R320). -/
def Obligations.StoredDataIsGuarded : Prop :=
  (∀ s : State, s.blk.frozen = false → s.blk.rel.ckptActive = none →
    (s.blk.rel.ckptSince + 2 ^ s.env.ckptLog ≤ s.blk.rel.slots → Does .checkpointBegin s fun t => OnlyBlk s t ∧
      t.blk = { s.blk with rel := { s.blk.rel with ckptBegin := true } }) ∧
    (s.blk.rel.slots < s.blk.rel.ckptSince + 2 ^ s.env.ckptLog → Does .checkpointBegin s fun t => t = s)) ∧
  (∀ (s : State) (k : Ckpt), s.blk.frozen = false → s.blk.rel.ckptActive = some k →
    ((∀ p ∈ s.blk.fe.ctxs, ∃ y ∈ k.copies, y.ctx = p.1) → Does .checkpointEnd s fun t => OnlyBlk s t ∧
      t.blk = { s.blk with rel := { s.blk.rel with ckptEnd := true } }) ∧
    ((∃ p ∈ s.blk.fe.ctxs, ∀ y ∈ k.copies, y.ctx ≠ p.1) → Does .checkpointEnd s fun t => t = s)) ∧
  (∀ (s : State) (c n : Nat), c < s.aon.grade.contexts → tget s.blk.rel.teardowns c = some n → s.blk.frozen = false →
    (n + 594 ≤ s.aon.pulse + 1 → Does (.teardownDeadline c) s fun t => OnlyBlk s t ∧
      tget t.blk.rel.teardowns c = none ∧
      (∀ (k : TaskRef) (x : Task), k.ctx = c → k.reach < s.aon.grade.reaches → t.blk.task? k = some x →
        x.state = .idle)) ∧
    (s.aon.pulse + 1 < n + 594 → Does (.teardownDeadline c) s fun t => t = s)) ∧
  (∀ (s : State) (mem page word ci : Nat), s.env.scrubEn = true → s.blk.shEn = true → mem ≤ 36 →
    (mem, page) ∈ s.blk.rel.validPages →
    Does (.scrubPage mem page word ci .clean) s fun t => OnlyBlk s t ∧
      t.blk.ctr .scrubPage = s.blk.ctr .scrubPage + 1 ∧ t.blk.rel.elogPi = s.blk.rel.elogPi ∧
      t.blk.rel.validPages = s.blk.rel.validPages ∧
      t.blk = { s.blk with rel := t.blk.rel, counters := t.blk.counters }) ∧
  (∀ (s : State) (mem page word ci : Nat) (l : List Nat), s.env.scrubEn = true → s.blk.shEn = true → mem ≤ 36 →
    (mem, page) ∈ s.blk.rel.validPages →
    let symbols (k : Nat) : Nat := (l.eraseDups.filter fun i => i % 16 == k).length
    ((∃ k, k < 16 ∧ 8 < symbols k) →
      Does (.scrubPage mem page word ci (.detected l)) s fun t => OnlyBlk s t ∧
        t.blk.ctr .scrubPage = s.blk.ctr .scrubPage + 1 ∧ t.blk.ctr .uncorrectable = s.blk.ctr .uncorrectable + 1 ∧
        t.blk.ctr .pageCorrected = s.blk.ctr .pageCorrected ∧ t.blk.reaches = s.blk.reaches ∧ t.blk.hb = s.blk.hb) ∧
    (l ≠ [] → (∀ k, k < 16 → symbols k ≤ 8) →
      Does (.scrubPage mem page word ci (.detected l)) s fun t => OnlyBlk s t ∧
        t.blk.ctr .scrubPage = s.blk.ctr .scrubPage + 1 ∧ t.blk.ctr .pageCorrected = s.blk.ctr .pageCorrected + 1 ∧
        t.blk.ctr .uncorrectable = s.blk.ctr .uncorrectable ∧ t.blk.reaches = s.blk.reaches ∧ t.blk.hb = s.blk.hb)) ∧
  (∀ (s : State) (r : Nat) (fail : BitVec 8), r < s.aon.grade.reaches → (s.blk.reach r).testing = true →
    Does (.selfTestDone r fail) s fun t => OnlyBlk s t ∧
      t.blk.reach r = { s.blk.reach r with testing := false, testDone := true, testFail := fail } ∧
      (∀ k, k ≠ r → t.blk.reach k = s.blk.reach k) ∧
      t.blk.rel.validPages = s.blk.rel.validPages.filter fun p => p.1 != r && p.1 != 16 + r)

/-! ## Debug -/

/-- A census report adds to its run and a census close is taken once (R333); the watchpoints that a run found when it
started are fetched, and one hit in a pulse is taken (R344); a reserved operation and a reserved format are answered with
CONTEXT_FAULT (R333). -/
def Obligations.DebugOperationsAct : Prop :=
  ∀ (s : State) (e : Nat) (r : Run), RunsAt s e r →
    let turnedAway (t : State) : Prop := OnlyBlk s t ∧
      t.blk.agent e = { s.blk.agent e with run := some (r.faulted stContextFault) } ∧
      OtherAgents e s.blk t.blk ∧ t.blk.out = s.blk.out ++ [.opResult e stContextFault 0 []] ∧
      t.blk = { s.blk with agents := t.blk.agents, out := t.blk.out }
    let runIs (x : Run) (t : State) : Prop := OnlyBlk s t ∧
      t.blk.agent e = { s.blk.agent e with run := some x } ∧ OtherAgents e s.blk t.blk ∧
      t.blk.out = s.blk.out ++ [.opResult e stOk 0 []] ∧ t.blk = { s.blk with agents := t.blk.agents, out := t.blk.out }
    Does (.debugReservedOp e) s turnedAway ∧
    (∀ fmt values ovf van nan, 11 ≤ fmt.toNat → Does (.census e fmt values ovf van nan) s turnedAway) ∧
    (∀ fmt values ovf van nan, fmt.toNat < 11 → (s.blk.agent e).shadowRun = false →
      Does (.census e fmt values ovf van nan) s (runIs { r with
        census := addReport fmt.toNat (values.toNat, ovf.toNat, van.toNat, nan.toNat) r.census })) ∧
    (∀ slot fmask kmask addr, (s.blk.agent e).shadowRun = false →
      (r.close = none → Does (.censusClose e slot fmask kmask addr) s (runIs { r with
        close := some (slot, fmask, kmask, addr) })) ∧
      (r.close ≠ none → Does (.censusClose e slot fmask kmask addr) s turnedAway)) ∧
    (Does (.watchFetch e) s fun t => OnlyBlk s t ∧
      t.blk = { s.blk with out := s.blk.out ++
        [.watchpoints e r.watch, .opResult e stOk 0 []] }) ∧
    (∀ addr w k, (s.blk.agent e).hitsPulse = 0 → Does (.watchHit e addr w k) s fun t => OnlyBlk s t ∧
      t.blk.agent e = { s.blk.agent e with hitsPulse := 1 } ∧ OtherAgents e s.blk t.blk ∧
      t.blk.ctr .watchHit = s.blk.ctr .watchHit + 1 ∧ t.blk.out = s.blk.out ++ [.opResult e stOk 0 []] ∧
      t.blk = { s.blk with agents := t.blk.agents, db := t.blk.db, counters := t.blk.counters, out := t.blk.out }) ∧
    (∀ addr w k, 1 ≤ (s.blk.agent e).hitsPulse → Does (.watchHit e addr w k) s fun t => OnlyBlk s t ∧
      t.blk.ctr .watchHitLost e = s.blk.ctr .watchHitLost e + 1 ∧
      t.blk = { s.blk with counters := t.blk.counters, out := s.blk.out ++ [.opResult e stOk 0 []] })

/-- What the debug unit does by itself: every 1,024 edges, once an edge, a TIME record with OFFSET, the lantern and
MTIME is appended to the trace buffer, behind a LOSS record if records were lost, or is lost itself where the buffer or
the ring is full, the governor sheds or the channel is halted (R336, R337); the load map over its window (R326); a halt
at an enabled breakpoint of a running core (R342); the end of a dump (R343); the trace records that the ring has room
for are written and PI passes them, which is written once in a pulse, and a halted channel writes none (R336); the image
of a snapshot is over when its writes are (R338). -/
def Obligations.DebugUnitKeepsItsEdges : Prop :=
  (∀ s : State, (s.aon.pulse % 1024 = 0 → s.blk.db.timeAt ≠ s.aon.pulse → Does .timeRecord s fun t => OnlyBlk s t ∧
      let loss : List TraceRec := if s.blk.db.trcLoss = 0 then []
        else [{ edge := s.aon.pulse, type := 0, aux := BitVec.ofNat 64 s.blk.db.trcLoss }]
      let off := s.blk.mc.offset
      let time : TraceRec :=
        { edge := s.aon.pulse, type := 13, id := off.setWidth 32, engine := bits off 32 16
          status := BitVec.ofNat 8 (bits off 48 8), pad := bits off 56 8
          range := BitVec.ofNat 32 (s.blk.mc.lantern.getD 0 + if s.blk.mc.offValid then 128 else 0)
          aux := BitVec.ofNat 64 s.aon.mtime }
      let lost : Prop := 1 ≤ s.blk.pg.shed ∨ s.blk.db.trcHalted = true ∨
        1024 < s.blk.db.trcBuf.length + loss.length + 1 ∨ 2 ^ s.env.trcLog ≤ s.blk.db.trcPi - s.blk.db.trcCi
      (s.env.trcEn = false → t.blk = { s.blk with db := { s.blk.db with timeAt := s.aon.pulse } }) ∧
      (s.env.trcEn = true → ¬ lost → t.blk = { s.blk with db := { s.blk.db with
        timeAt := s.aon.pulse, trcBuf := s.blk.db.trcBuf ++ loss ++ [time], trcLoss := 0 } }) ∧
      (s.env.trcEn = true → lost → t.blk.ctr .traceLost = s.blk.ctr .traceLost + 1 ∧
        t.blk = { s.blk with counters := t.blk.counters
                             db := { s.blk.db with timeAt := s.aon.pulse, trcLoss := s.blk.db.trcLoss + 1 } })) ∧
    (s.aon.pulse % 1024 ≠ 0 ∨ s.blk.db.timeAt = s.aon.pulse → Does .timeRecord s fun t => t = s)) ∧
  (∀ s : State, s.aon.pulse % 2 ^ s.env.loadLog = 0 → s.blk.db.loadAt ≠ s.aon.pulse →
    Does .loadMapSample s fun t => OnlyBlk s t ∧ t.blk.db.loadAt = s.aon.pulse ∧
      (s.blk.sampling s.env = true → ∀ e, e < s.aon.grade.engines →
        tget t.blk.db.loadMap e = some (s.blk.loadEntry s.env e)) ∧
      (s.blk.sampling s.env = false → t.blk.db.loadMap = s.blk.db.loadMap) ∧
      (∀ e, e < s.aon.grade.engines → (t.blk.agent e).busyAtMap = s.blk.ctr .busyClk e) ∧
      t.blk = { s.blk with db := t.blk.db, agents := t.blk.agents }) ∧
  (∀ (s : State) (k : Core) (i : Nat), i < 4 → s.env.field (bpOff k i) 0 1 ≠ 0 → s.blk.fe.fwState = .running →
    s.blk.db.halted k = false → s.blk.rel.phase = 0 →
    Does (.breakpointHalt k i) s fun t => OnlyBlk s t ∧
      t.blk.db.halted k = true ∧ tget t.blk.db.haltIx (coreCode k) = some i ∧
      (∀ j, j ≠ k → t.blk.db.halted j = s.blk.db.halted j) ∧ t.blk.ctr .bpHalt = s.blk.ctr .bpHalt + 1 ∧
      t.blk = { s.blk with db := t.blk.db, counters := t.blk.counters, fresh := t.blk.fresh }) ∧
  (∀ (s : State) (d : Dump) (rest : List Dump), s.blk.db.dumps = d :: rest → d.taken = true →
    Does .dumpCopyDone s fun t => OnlyBlk s t ∧ t.blk.db.dumps = rest ∧ t.blk.ctr .dump = s.blk.ctr .dump + 1 ∧
      t.blk = { s.blk with
        db := t.blk.db, counters := t.blk.counters, out := t.blk.out
        fe := { s.blk.fe with hostOut := t.blk.fe.hostOut, hostWait := t.blk.fe.hostWait } }) ∧
  (∀ (s : State) (n ci : Nat), s.blk.db.trcHalted = false → s.blk.db.flushUpto = none →
    Does (.traceWriteAck n ci true) s fun t => OnlyBlk s t ∧
      (let seen := max s.blk.db.trcCi (min ci s.blk.db.trcPi)
       let k := min (min n (2 ^ s.env.trcLog - (s.blk.db.trcPi - seen))) s.blk.db.trcBuf.length
       t.blk.db.trcCi = seen ∧ t.blk.db.trcPi = s.blk.db.trcPi + k ∧ t.blk.db.trcBuf = s.blk.db.trcBuf.drop k ∧
       t.blk.ctr .traceRecord = s.blk.ctr .traceRecord + k) ∧
      (s.blk.db.trcPiAt ≠ some s.aon.pulse → t.blk.db.trcPiOut = t.blk.db.trcPi ∧
        (s.blk.db.trcPiOut ≠ t.blk.db.trcPi → t.blk.db.trcPiAt = some s.aon.pulse ∧
          t.blk.out.getLast? = some (.dmWrite s.env.trcBase (leBytes 8 t.blk.db.trcPi)))) ∧
      (s.blk.db.trcPiAt = some s.aon.pulse → t.blk.db.trcPiOut = s.blk.db.trcPiOut) ∧
      t.blk.mc = s.blk.mc ∧
      t.blk = { s.blk with db := t.blk.db, counters := t.blk.counters, out := t.blk.out }) ∧
  (∀ (s : State) (n ci : Nat) (ok : Bool), s.blk.db.trcHalted = true →
    Does (.traceWriteAck n ci ok) s fun t => t = s) ∧
  (∀ (s : State) (x : Snap), s.blk.db.snap = some x → x.writing = true → x.cause ≠ 2 → s.blk.db.stopped = true →
    s.blk.mc.running = none →
    Does (.snapshotWritesAcked true) s fun t => OnlyBlk s t ∧
      t.blk = { s.blk with db := { s.blk.db with
        snap := some { x with writing := false }, resumeReq := s.blk.db.resumeReq || !s.env.snapHold } })


/-! ## The management controller -/

/-- Operations of the request port are answered one at a time (R349, R350, Table 15.1): the reads at once; a counter or
hang snapshot, a flush, a shed order and a block reset begin and wait for their effect, and are BUSY where DB is off, its
channel has halted or one is under way (R331, R336, R338); the maker port is DENIED without its strap, answers a request
with a challenge, and opens on a response that matches it (R322); reserved operations answer CONTEXT_FAULT; an operation
whose time is over answers TIMEOUT, and OP 4, also at once where the block clock is stopped, all ones (R349, Table 15.1).
That the first cause of a block reset stands, that a response that does not match keeps its challenge, and that a counter
snapshot on a halted channel is BUSY are the model's choices (logs 44, 71, 75). -/
def Obligations.OperationsAreAnsweredInTurn : Prop :=
  (∀ (s : State) (x : McOp) (op : Nat), s.blk.mc.due op = some x → x.asker = .port →
    let answers (c : Instr) (st : BitVec 8) (data : List Word32) : Prop :=
      Does c s fun t => OnlyBlk s t ∧ PortAnswered s t op st data ∧ t.blk = { s.blk with mc := t.blk.mc }
    (op = 0 → answers .identityRead stOk
      ([0x200, 0x204, 0x208, 0x20C, 0xC00008].map fun o => s.blk.regNow s.env o)) ∧
    (op = 1 → answers .statusRead stOk
      (([0x130, 0xA00024, 0x100110, 0xB00004, 0x8].map fun o => s.blk.regNow s.env o) ++
        [BitVec.ofNat 32 s.aon.pulse, BitVec.ofNat 32 (s.aon.pulse / 2 ^ 32), s.blk.regNow s.env 0xC00008])) ∧
    (op = 2 → (s.env.dbOff = true ∨ s.blk.db.snapHalted = true) → answers .counterSnapshot stBusy []) ∧
    (op = 3 → (s.env.dbOff = true ∨ s.blk.db.snapHalted = true ∨ s.blk.db.snapBusy = true) →
      answers .hangSnapshot stBusy []) ∧
    (op = 5 → (s.env.dbOff = true ∨ s.blk.db.trcHalted = true) → answers .traceFlush stBusy []) ∧
    (op = 7 → s.aon.makerEn = false → Does .makerPortRequest s fun t => OnlyBlk s t ∧
      t.blk.mc.rspStatus = stDenied ∧ t.blk.mc.rspOp = 7 ∧ t.blk.mc.rspDone = true ∧ t.blk.mc.rspData = [] ∧
      t.blk.mc.running = s.blk.mc.waiting.head? ∧ t.blk.rel = s.blk.rel ∧
      tgetD 0 t.blk.mc.alarms 9 = min 0xFFFF (tgetD 0 s.blk.mc.alarms 9 + 1)) ∧
    (op = 7 → s.aon.makerEn = true → s.blk.rel.mkTries < 3 → (∀ p ∈ s.blk.fe.ctxs, p.1 = 0) →
      (x.args[0]? = some 0 → Does .makerPortRequest s fun t => OnlyBlk s t ∧
        (∃ c, t.blk.mc.rspData = [c] ∧ t.blk.rel = { s.blk.rel with
          mkPending := some c, mkAsked := s.blk.rel.mkAsked + 1 }) ∧
        t.blk.mc.rspStatus = stOk ∧ t.blk.mc.rspOp = 7 ∧ t.blk.mc.rspDone = true ∧
        t.blk.mc.running = s.blk.mc.waiting.head?) ∧
      (∀ c r, x.args[0]? = some 1 → x.args[1]? = some r → s.blk.rel.mkPending = some c →
        Does .makerPortRequest s fun t => OnlyBlk s t ∧
          t.blk.rel = (if makerResponseOk c r = true then { s.blk.rel with mkOpen := true, mkPending := none }
            else { s.blk.rel with mkTries := s.blk.rel.mkTries + 1 }) ∧
          t.blk.mc.rspStatus = (if makerResponseOk c r = true then stOk else stDenied) ∧
          t.blk.mc.rspOp = 7 ∧ t.blk.mc.rspDone = true ∧ t.blk.mc.running = s.blk.mc.waiting.head?)) ∧
    (8 ≤ op → answers .mcReservedOp stContextFault [])) ∧
  (∀ (s : State) (x : McOp) (op : Nat), s.blk.mc.due op = some x →
    (op = 2 → s.env.dbOff = false → s.blk.db.snapHalted = false → Does .counterSnapshot s fun t => OnlyBlk s t ∧
      OpBegan s t x ∧ t.blk = { s.blk with mc := t.blk.mc, db := { s.blk.db with csnapReq := true } }) ∧
    (op = 3 → s.env.dbOff = false → s.blk.db.snapHalted = false → s.blk.db.snapBusy = false →
      Does .hangSnapshot s fun t => OnlyBlk s t ∧
        OpBegan s t x ∧ t.blk = { s.blk with mc := t.blk.mc, db := { s.blk.db with stopReq := some 0 } }) ∧
    (op = 4 → s.env.clkRun = false → x.asker = .port → Does .powerShedControl s fun t => OnlyBlk s t ∧
      PortAnswered s t 4 stOk [0xFFFFFFFF, 0xFFFFFFFF] ∧ t.blk = { s.blk with mc := t.blk.mc, pg := { s.blk.pg with
        forcedIn := some (min 5 (bits ((x.args[0]?).getD 0) 0 3), ((x.args[0]?).getD 0).getLsbD 8) } }) ∧
    (op = 4 → s.env.clkRun = true → Does .powerShedControl s fun t => OnlyBlk s t ∧
      OpBegan s t x ∧ t.blk = { s.blk with mc := t.blk.mc, pg := { s.blk.pg with
        forcedIn := some (min 5 (bits ((x.args[0]?).getD 0) 0 3), ((x.args[0]?).getD 0).getLsbD 8) } }) ∧
    (op = 5 → s.env.dbOff = false → s.blk.db.trcHalted = false → Does .traceFlush s fun t => OnlyBlk s t ∧
      OpBegan s t x ∧ t.blk = { s.blk with mc := t.blk.mc, db := { s.blk.db with
        flushUpto := some (s.blk.db.trcPi + s.blk.db.trcBuf.length) } }) ∧
    (op = 6 → Does .mgmtBlockReset s fun t => OnlyBlk s t ∧ OpBegan s t x ∧
      t.blk = { s.blk with mc := t.blk.mc, rel := { s.blk.rel with
        pendingCause := some (s.blk.rel.pendingCause.getD .management) } })) ∧
  (∀ (s : State) (x : McOp) (k : Nat) (tag : BitVec 8), s.blk.mc.due 0 = some x → x.asker = .station k tag →
    Does .identityRead s fun t => OnlyBlk s t ∧ t.blk.mc.running = s.blk.mc.waiting.head? ∧
      (∃ f : TxFrame, t.blk.mc.txQueue = s.blk.mc.txQueue ++ [f] ∧ f.type = 5 ∧ f.dst = k ∧ f.body = responseBody 0 tag stOk
        ([0x200, 0x204, 0x208, 0x20C, 0xC00008].map fun o => s.blk.regNow s.env o))) ∧
  (∀ (s : State) (x : McOp), s.blk.mc.running = some x → x.asker = .port →
    (x.started = true → Does .mcOperationTimeout s fun t => t.pending = s.pending ∧ t.cfg = s.cfg ∧
      t.aon = { s.aon with since := if s.blk.awaitsEdge x.op then max s.aon.since (2 ^ 20) else s.aon.since } ∧
      t.blk.mc.rspStatus = (if x.op = 4 then stOk else stTimeout) ∧ t.blk.mc.rspOp = x.op ∧ t.blk.mc.rspDone = true ∧
      t.blk.mc.rspData = (if x.op = 4 then [0xFFFFFFFF, 0xFFFFFFFF] else []) ∧
      t.blk.pg = s.blk.pg ∧ t.blk.mc.running = s.blk.mc.waiting.head?) ∧
    (x.started = false → Does .mcOperationTimeout s fun t => t = s) ∧
    (∀ k, s.blk.mc.waits 2 = true → s.blk.db.csnap = some k → s.blk.db.snapHalted = false →
      Does (.counterSnapshotWritesAcked true) s fun t => OnlyBlk s t ∧
        PortAnswered s t 2 stOk (two k.1 ++ two k.2) ∧
        t.blk = { s.blk with mc := t.blk.mc, db := { s.blk.db with csnap := none } }))

/-! ## The management segment -/

/-- A frame that passes the tests of Table 15.4: ALARM, TELEMETRY, LOG and RESPONSE go to the receive queue while it has
room, and are counted as lost otherwise (R354, R367); a PROBE does nothing; a REQUEST is DENIED by a RESPONSE frame where
remote requests are off, and is served in turn otherwise (R351). One that fails a test is counted and does nothing else
(R354). That a denied request is answered at once and not counted, and that a frame whose LEN is not its type's is
discarded as one with a reserved field, are the model's choices (logs 63, 72). -/
def Obligations.FramesAreReceivedOrCounted : Prop :=
  (∀ (s : State) (frame : List Byte), s.blk.mc.attach ≠ .off → hearFrame s.env frame (frame.length / 8) = .valid →
    (fDst frame = s.aon.station.toNat ∨ fDst frame = 0xFF) →
    let heard (m : Mc) : Mc := { s.blk.mc with heardFrom := m.heardFrom }
    let received (t : State) : Prop := OnlyBlk s t ∧
      (s.blk.mc.rxBytes + frame.length ≤ 32768 →
        t.blk.mc = { heard t.blk.mc with rxQueue := s.blk.mc.rxQueue ++ [frame] } ∧
        t.blk.ctr .segRx = s.blk.ctr .segRx + 1) ∧
      (32768 < s.blk.mc.rxBytes + frame.length →
        t.blk.mc = heard t.blk.mc ∧ t.blk.ctr .segRxLost = s.blk.ctr .segRxLost + 1) ∧
      t.blk = { s.blk with mc := t.blk.mc, counters := t.blk.counters }
    (fType frame = 1 → Does (.alarm frame) s received) ∧ (fType frame = 2 → Does (.telemetry frame) s received) ∧
    (fType frame = 3 → Does (.log frame) s received) ∧ (fType frame = 5 → Does (.response frame) s received) ∧
    (fType frame = 6 → Does (.probe frame) s fun t => OnlyBlk s t ∧ t.blk.mc = heard t.blk.mc ∧
      t.blk = { s.blk with mc := t.blk.mc }) ∧
    (fType frame = 4 → s.env.segCtl 3 1 = 0 → Does (.request frame) s fun t => OnlyBlk s t ∧
      (∃ f : TxFrame, t.blk.mc.txQueue = s.blk.mc.txQueue ++ [f] ∧ f.type = 5 ∧ f.dst = fSrc frame ∧
        f.body = responseBody (leAt frame 0x10 1) (BitVec.ofNat 8 (leAt frame 0x11 1)) stDenied []) ∧
      t.blk.mc.running = s.blk.mc.running ∧ t.blk = { s.blk with mc := t.blk.mc }) ∧
    (fType frame = 4 → s.env.segCtl 3 1 ≠ 0 → leAt frame 0x10 1 < 4 → s.blk.mc.running = none →
      s.blk.mc.remoteWaiting < 4 → Does (.request frame) s fun t => OnlyBlk s t ∧
        t.blk.mc.running = some { op := leAt frame 0x10 1
                                  args := (List.range 4).map fun i => BitVec.ofNat 32 (leAt frame (0x18 + 4 * i) 4)
                                  asker := .station (fSrc frame) (BitVec.ofNat 8 (leAt frame 0x11 1)) } ∧
        t.blk.ctr .mcReq = s.blk.ctr .mcReq + 1 ∧ t.blk.mc.txQueue = s.blk.mc.txQueue)) ∧
  (∀ (s : State) (frame : List Byte) (words : Nat), s.blk.mc.attach ≠ .off →
    (hearFrame s.env frame words = .damaged → Does (.discardedFrame frame words) s fun t => OnlyBlk s t ∧
      t.blk = s.blk.bump .segCrcError) ∧
    (hearFrame s.env frame words = .reserved → Does (.discardedFrame frame words) s fun t => OnlyBlk s t ∧
      t.blk = s.blk.bump .segDiscard) ∧
    (hearFrame s.env frame words = .stranger → Does (.discardedFrame frame words) s fun t => OnlyBlk s t ∧
      t.blk.ctr .segStranger = s.blk.ctr .segStranger + 1 ∧ t.blk.mc.strangers = s.blk.mc.strangers + 1 ∧
      t.blk.mc.rxQueue = s.blk.mc.rxQueue))

/-- How the attachment moves: a listening or electing station joins the lantern whose beacon it hears, and a lantern
yields to a lower station and to no other (R359, R360); a listener whose time is over elects; the election beacon of an
eligible station is sent once its carrier has been low, with CYCLE one above the last heard, and the third beacon missed
in a row starts an election (R360, R361); the lantern sends its beacon with the next cycle (R361), unless a frame of its
own is still on the segment (log 150, the model's choice; log 149 for the count of the carrier). A frame goes out behind
its start word (R352). -/
def Obligations.StationsFollowOneLantern : Prop :=
  (∀ (s : State) (frame : List Byte), hearFrame s.env frame (frame.length / 8) = .valid → fType frame = 0 →
    (fDst frame = s.aon.station.toNat ∨ fDst frame = 0xFF) →
    ((s.blk.mc.attach = .listening ∨ s.blk.mc.attach = .electing ∨ s.blk.mc.attach = .joined ∨
        (s.blk.mc.attach = .lantern ∧ fSrc frame < s.aon.station.toNat)) →
      Does (.beacon frame) s fun t => OnlyBlk s t ∧
        t.blk.mc.attach = .joined ∧ t.blk.mc.lantern = some (fSrc frame) ∧ t.blk.mc.missed = 0 ∧
        t.blk.mc.cycle = some (BitVec.ofNat 64 (leAt frame 0x10 8)) ∧ t.blk.mc.heardCycle = t.blk.mc.cycle ∧
        t.blk.mc.alarmN = leAt frame 0x20 1 ∧
        t.blk = { s.blk with mc := t.blk.mc, counters := t.blk.counters, fresh := t.blk.fresh }) ∧
    (s.blk.mc.attach = .lantern → s.aon.station.toNat < fSrc frame →
      Does (.beacon frame) s fun t => OnlyBlk s t ∧ t.blk.mc.attach = .lantern ∧
        t.blk.mc.lantern = s.blk.mc.lantern ∧ t.blk.mc.cycle = s.blk.mc.cycle)) ∧
  (∀ s : State, s.blk.mc.attach = .listening → Does .listenTimeout s fun t => OnlyBlk s t ∧
    t.blk = { s.blk with mc := { s.blk.mc with attach := .electing } }) ∧
  (∀ s : State, s.blk.mc.attach = .electing → eligible s.env = true → s.blk.mc.onAir = [] →
    (s.blk.carrierLow s.env (carrierNeed (4 * s.aon.station.toNat)) = true →
      Does .electionBeacon s fun t => OnlyBlk s t ∧
        (∃ f : TxFrame, t.blk.mc.onAir = [f] ∧ f.type = 0 ∧ f.dst = 0xFF ∧ f.slotted = true ∧
          f.sent.head? = some 0xD5D5D5D5D5D5D5D5 ∧ t.blk.out = s.blk.out ++ [.frame f.sent]) ∧
        t.blk.mc.attach = .electing ∧
        t.blk.mc.cycle = some (match s.blk.mc.heardCycle with | some c => c + 1 | none => 0) ∧
        t.blk = { s.blk with mc := t.blk.mc, out := t.blk.out }) ∧
    (s.blk.carrierLow s.env (carrierNeed (4 * s.aon.station.toNat)) = false → Does .electionBeacon s fun t => t = s)) ∧
  (∀ s : State, s.blk.mc.attach = .lantern → Does .beaconSend s fun t => OnlyBlk s t ∧
    t.blk.mc.cycle = some (BitVec.ofNat 64 (s.blk.mc.cycleNo + 1)) ∧ t.blk.mc.attach = .lantern ∧
    (s.blk.mc.onAir = [] → ∃ f : TxFrame, t.blk.mc.onAir = [f] ∧ f.type = 0 ∧ f.dst = 0xFF ∧
      f.sent.head? = some 0xD5D5D5D5D5D5D5D5 ∧ t.blk.out = s.blk.out ++ [.frame f.sent]) ∧
    (s.blk.mc.onAir ≠ [] → t.blk.mc.onAir = s.blk.mc.onAir ∧ t.blk.out = s.blk.out) ∧
    t.blk = { s.blk with mc := t.blk.mc, out := t.blk.out }) ∧
  (∀ s : State, s.blk.mc.attach = .joined → Does .beaconMissed s fun t => OnlyBlk s t ∧
    t.blk.mc.missed = s.blk.mc.missed + 1 ∧ t.blk.mc.lantern = s.blk.mc.lantern ∧
    t.blk.mc.attach = (if 3 ≤ s.blk.mc.missed + 1 then .electing else .joined) ∧
    t.blk.mc.cycle = some (BitVec.ofNat 64 (s.blk.mc.cycleNo + 1)) ∧ t.blk.mc.heardCycle = s.blk.mc.heardCycle ∧
    t.blk.ctr .segBeaconMissed = s.blk.ctr .segBeaconMissed + 1 ∧
    t.blk = { s.blk with mc := t.blk.mc, counters := t.blk.counters })

/-- Frames of this station: a probe is sent while probing with the carrier low, a queued frame while the carrier has
been low long enough for its priority and it ends before the window closes (R355, R356, R359); a frame whose echo
matches is sent, and the lantern's first beacon makes it the lantern (R357, R360); a collision sends it back to the
queue to wait, sixteen times at most (R358). The pending alarms are frozen into one summary, once in a cycle, and its
frame is sent in no cycle before that (R362); while one is on the segment no other is frozen (log 150, the model's
choice). Telemetry is built once in its cycle (R364). -/
def Obligations.FramesAreSentInTheirWindow : Prop :=
  (∀ s : State, s.blk.mc.attach = .probing → s.blk.mc.onAir = [] → s.blk.mc.backoff = none →
    (∀ f ∈ s.blk.mc.txQueue, f.type ≠ 6) →
    (s.blk.carrierLow s.env (carrierNeed 0) = true → Does .probeSend s fun t => OnlyBlk s t ∧
      (∃ f : TxFrame, t.blk.mc.onAir = [f] ∧ f.type = 6 ∧ f.dst = s.aon.station.toNat ∧
        f.sent.head? = some 0xD5D5D5D5D5D5D5D5 ∧ t.blk.out = s.blk.out ++ [.frame f.sent]) ∧
      t.blk.mc.txQueue = s.blk.mc.txQueue ∧ t.blk = { s.blk with mc := t.blk.mc, out := t.blk.out }) ∧
    (s.blk.carrierLow s.env (carrierNeed 0) = false → Does .probeSend s fun t => t = s)) ∧
  (∀ (s : State) (star low : Nat) (f : TxFrame), (s.blk.mc.attach = .joined ∨ s.blk.mc.attach = .lantern) →
    s.blk.mc.onAir = [] → s.blk.mc.backoff = none → s.blk.mc.txQueue = [f] → 64 * (1 + s.blk.mc.alarmN) ≤ star →
    let may : Prop := f.type = 1 → s.blk.mc.missed = 0 ∧ s.blk.mc.frozeAt = s.blk.mc.cycle
    (may → carrierNeed f.prio ≤ low → star + s.blk.mc.echo + f.len / 8 ≤ 24576 →
      Does (.frameTransmit star low) s fun t => OnlyBlk s t ∧ t.blk.mc.txQueue = [] ∧
        (∃ ws, t.blk.mc.onAir = [{ f with sent := ws }] ∧ ws.head? = some 0xD5D5D5D5D5D5D5D5 ∧
          t.blk.out = s.blk.out ++ [.frame ws]) ∧ t.blk = { s.blk with mc := t.blk.mc, out := t.blk.out }) ∧
    (may → (low < carrierNeed f.prio ∨ 24576 < star + s.blk.mc.echo + f.len / 8) →
      Does (.frameTransmit star low) s fun t => t = s) ∧
    (¬ may → s.blk.mc.logQueue = [] → Does (.frameTransmit star low) s fun t => t = s)) ∧
  (∀ (s : State) (f : TxFrame) (received : List (BitVec 64)) (echo : Nat), s.blk.mc.onAir = [f] →
    (received.take f.sent.length = f.sent → Does (.reflectionCheck received echo) s fun t => OnlyBlk s t ∧
      t.blk.mc.onAir = [] ∧ t.blk.ctr .segTx = s.blk.ctr .segTx + 1 ∧
      (f.type = 0 → s.blk.mc.attach = .electing → t.blk.mc.attach = .lantern ∧
        t.blk.mc.lantern = some s.aon.station.toNat) ∧
      (f.type = 6 → s.blk.mc.attach = .probing →
        t.blk.mc.attach = (if 400 < echo then .probing else .listening) ∧ t.blk.mc.echo = echo) ∧
      (f.type = 1 → t.blk.mc.frozen = [])) ∧
    (received.take f.sent.length ≠ f.sent → f.slotted = false →
      Does (.reflectionCheck received echo) s fun t => OnlyBlk s t ∧ t.blk.mc.onAir = [] ∧
      t.blk.ctr .segCollision = s.blk.ctr .segCollision + 1 ∧
      (f.tries + 1 < 16 → t.blk.mc.txQueue = { f with tries := f.tries + 1, sent := [] } :: s.blk.mc.txQueue ∧
        ∃ w, t.blk.mc.backoff = some w ∧ w < 2 ^ (min (f.tries + 1) 10)) ∧
      (16 ≤ f.tries + 1 → t.blk.mc.txQueue = s.blk.mc.txQueue ∧
        t.blk.ctr .segExcess = s.blk.ctr .segExcess + 1))) ∧
  (∀ s : State, Does .backoffExpiry s fun t => OnlyBlk s t ∧
    t.blk = { s.blk with mc := { s.blk.mc with backoff := none } }) ∧
  (∀ s : State, (s.blk.mc.attach = .joined ∨ s.blk.mc.attach = .lantern) → s.blk.mc.missed = 0 →
    s.blk.mc.frozeAt ≠ s.blk.mc.cycle →
    ((∀ f ∈ s.blk.mc.onAir, f.type ≠ 1) →
      Does .alarmFreeze s fun t => OnlyBlk s t ∧ t.blk.mc.alarms = [] ∧ t.blk.mc.frozeAt = s.blk.mc.cycle ∧
        t.blk.mc.frozen = mergeAlarms s.blk.mc.frozen s.blk.mc.alarms ∧
        t.blk = { s.blk with mc := t.blk.mc, out := t.blk.out }) ∧
    ((∃ f ∈ s.blk.mc.onAir, f.type = 1) → Does .alarmFreeze s fun t => OnlyBlk s t ∧
      t.blk = { s.blk with mc := { s.blk.mc with frozeAt := s.blk.mc.cycle } })) ∧
  (∀ s : State, (s.blk.mc.attach = .joined ∨ s.blk.mc.attach = .lantern) → s.blk.mc.telAt ≠ s.blk.mc.cycle →
    s.blk.mc.cycleNo % 2 ^ (s.env.segCtl 8 4 + s.blk.mc.telD) = 0 →
    ((s.blk.mc.txQueue ++ s.blk.mc.onAir).filter fun f => f.type == 2).length < 4 →
    Does .telemetryBuild s fun t => OnlyBlk s t ∧ t.blk.mc.telAt = s.blk.mc.cycle ∧
      (∃ f : TxFrame, t.blk.mc.txQueue = s.blk.mc.txQueue ++ [f] ∧ f.type = 2 ∧ f.dst = 0xFF) ∧
      t.blk = { s.blk with mc := t.blk.mc })

end
end

