-- ==== Sys2Proof/Laws/Table.lean ====
section
/-! SUPPORT. Laws of the sparse tables: reading after writing, and the canonical form. -/

namespace Sys2Proof

variable {ν : Type}

@[simp] theorem tget_nil (k : Nat) : tget ([] : Tbl ν) k = none := rfl
@[simp] theorem tgetD_nil (d : ν) (k : Nat) : tgetD d ([] : Tbl ν) k = d := rfl

/-- What a table with one entry written reads as. -/
theorem tget_tput (t : Tbl ν) (k j : Nat) (v : ν) : tget (tput t k v) j = if j = k then some v else tget t j := by
  fun_induction tput <;> grind [tget]

/-- What a table with one entry unlisted reads as. -/
theorem tget_tdel (t : Tbl ν) (k j : Nat) : tget (tdel t k) j = if j = k then none else tget t j := by
  induction t <;> grind [tget, tdel]

@[simp] theorem tget_tput_same (t : Tbl ν) (k : Nat) (v : ν) : tget (tput t k v) k = some v := by simp [tget_tput]

theorem tget_tput_other (t : Tbl ν) {k j : Nat} (v : ν) (h : j ≠ k) : tget (tput t k v) j = tget t j := by
  simp [tget_tput, h]

@[simp] theorem tget_tdel_same (t : Tbl ν) (k : Nat) : tget (tdel t k) k = none := by simp [tget_tdel]

theorem tget_tdel_other (t : Tbl ν) {k j : Nat} (h : j ≠ k) : tget (tdel t k) j = tget t j := by simp [tget_tdel, h]

@[simp] theorem tgetD_tput_same (d : ν) (t : Tbl ν) (k : Nat) (v : ν) : tgetD d (tput t k v) k = v := by simp [tgetD]

theorem tgetD_tput_other (d : ν) (t : Tbl ν) {k j : Nat} (v : ν) (h : j ≠ k) : tgetD d (tput t k v) j = tgetD d t j := by
  simp [tgetD, tget_tput_other t v h]

@[simp] theorem tgetD_tmod_same (d : ν) (t : Tbl ν) (k : Nat) (f : ν → ν) : tgetD d (tmod d t k f) k = f (tgetD d t k) := by
  simp [tmod]

theorem tget_tmod_other (d : ν) (t : Tbl ν) {k j : Nat} (f : ν → ν) (h : j ≠ k) : tget (tmod d t k f) j = tget t j := by
  simp [tmod, tget_tput_other t _ h]

theorem tgetD_tmod_other (d e : ν) (t : Tbl ν) {k j : Nat} (f : ν → ν) (h : j ≠ k) :
    tgetD e (tmod d t k f) j = tgetD e t j := by simp [tgetD, tget_tmod_other d t f h]

/-- What a table reads as is listed in it. -/
theorem mem_of_tget {t : Tbl ν} {k : Nat} {v : ν} (h : tget t k = some v) : (k, v) ∈ t := by
  induction t <;> grind [tget]

/-- A table answers its default, or an entry that it lists. -/
theorem mem_of_tgetD (d : ν) (t : Tbl ν) (k : Nat) : tgetD d t k = d ∨ (k, tgetD d t k) ∈ t := by
  unfold tgetD
  cases h : tget t k with
  | none => exact .inl rfl
  | some v => exact .inr (mem_of_tget h)

/-! ## The canonical form -/

theorem tsorted_lt {b : Nat} {t : Tbl ν} (w : tsorted (some b) t = true) : ∀ p ∈ t, b < p.1 := by
  induction t generalizing b <;> grind [tsorted]

/-- A sorted tail starts above any bound that lies under its members. -/
theorem tsorted_some {lo : Option Nat} {b : Nat} {t : Tbl ν} (w : tsorted lo t = true) (h : ∀ p ∈ t, b < p.1) :
    tsorted (some b) t = true := by
  cases t <;> cases lo <;> grind [tsorted]

theorem tsorted_filter {lo : Option Nat} {t : Tbl ν} (f : Nat × ν → Bool) (w : tsorted lo t = true) :
    tsorted lo (t.filter f) = true := by
  induction t generalizing lo with
  | nil => rfl
  | cons q r ih =>
    have above := tsorted_lt (b := q.1) (t := r)
    have rest := ih (lo := some q.1)
    have keep (b : Nat) := tsorted_some (b := b) (t := r.filter f) (lo := some q.1)
    cases lo <;> cases h : r.filter f <;> grind [tsorted]

theorem tsorted_tput {lo : Option Nat} {t : Tbl ν} {k : Nat} (v : ν) (hk : ∀ a, lo = some a → a < k)
    (w : tsorted lo t = true) : tsorted lo (tput t k v) = true := by
  fun_induction tput generalizing lo <;> cases lo <;> grind [tsorted]

theorem mem_tput {t : Tbl ν} {k : Nat} {v : ν} {p : Nat × ν} (h : p ∈ tput t k v) : p = (k, v) ∨ p ∈ t := by
  fun_induction tput <;> grind

/-- Dropping entries keeps the canonical form. -/
theorem twf_filter [DecidableEq ν] {d : ν} {t : Tbl ν} (f : Nat × ν → Bool) (w : twf d t = true) :
    twf d (t.filter f) = true := by
  have := tsorted_filter f (lo := none) (t := t)
  grind [twf]

/-- A write of one entry keeps the canonical form. -/
theorem twf_tset [DecidableEq ν] {d : ν} {t : Tbl ν} (k : Nat) (v : ν) (w : twf d t = true) :
    twf d (tset d t k v) = true := by
  unfold tset
  split
  · exact twf_filter _ w
  · have := tsorted_tput (lo := none) (t := t) (k := k) v (by simp)
    have (p : Nat × ν) := mem_tput (t := t) (k := k) (v := v) (p := p)
    grind [twf]

@[simp] theorem tgetD_tset_same [DecidableEq ν] (d : ν) (t : Tbl ν) (k : Nat) (v : ν) : tgetD d (tset d t k v) k = v := by
  grind [tset, tgetD, tget_tdel, tget_tput]

theorem tgetD_tset_other [DecidableEq ν] (d : ν) (t : Tbl ν) {k j : Nat} (v : ν) (h : j ≠ k) :
    tgetD d (tset d t k v) j = tgetD d t j := by
  grind [tset, tgetD, tget_tdel, tget_tput]

end Sys2Proof
end

