-- ==== Sys2Proof/Laws/State.lean ====
section
/-! SUPPORT. What each update of the state leaves and gives: one lemma per field and update, so that no proof unfolds an
update. -/

namespace Sys2Proof.Machine

/-! ### The field `reaches` after each update -/

@[simp] theorem Blk.emit_reaches (b : Blk) (o : Out) : (b.emit o).reaches = b.reaches := rfl
@[simp] theorem Blk.modFe_reaches (b : Blk) (f : Fe → Fe) : (b.modFe f).reaches = b.reaches := rfl
@[simp] theorem Blk.spend_reaches (b : Blk) : (b.spend).reaches = b.reaches := rfl
@[simp] theorem Blk.modRt_reaches (b : Blk) (f : Rt → Rt) : (b.modRt f).reaches = b.reaches := rfl
@[simp] theorem Blk.modReach_reaches (b : Blk) (r : Nat) (f : Reach → Reach) :
    (b.modReach r f).reaches = tmod {} b.reaches r f := rfl
@[simp] theorem Blk.modHb_reaches (b : Blk) (f : Hb → Hb) : (b.modHb f).reaches = b.reaches := rfl
@[simp] theorem Blk.bump_reaches (b : Blk) (c : Ctr) (i n : Nat) : (b.bump c i n).reaches = b.reaches := by
  unfold Blk.bump; split <;> rfl
@[simp] theorem Blk.modPg_reaches (b : Blk) (f : Pg → Pg) : (b.modPg f).reaches = b.reaches := rfl
@[simp] theorem Blk.modAgent_reaches (b : Blk) (e : Nat) (f : Agent → Agent) : (b.modAgent e f).reaches = b.reaches := rfl
@[simp] theorem Blk.modRel_reaches (b : Blk) (f : Rel → Rel) : (b.modRel f).reaches = b.reaches := rfl
@[simp] theorem Blk.modDb_reaches (b : Blk) (f : Db → Db) : (b.modDb f).reaches = b.reaches := rfl
@[simp] theorem Blk.modQueue_reaches (b : Blk) (q : Nat) (f : Queue → Queue) : (b.modQueue q f).reaches = b.reaches := by
  unfold Blk.modQueue; split <;> rfl
@[simp] theorem Blk.modMc_reaches (b : Blk) (f : Mc → Mc) : (b.modMc f).reaches = b.reaches := rfl
@[simp] theorem Blk.modCtx_reaches (b : Blk) (c : Nat) (f : Ctx → Ctx) : (b.modCtx c f).reaches = b.reaches := by
  unfold Blk.modCtx; split <;> rfl

/-! ### The field `preds` after each update -/

@[simp] theorem Blk.emit_preds (b : Blk) (o : Out) : (b.emit o).preds = b.preds := rfl
@[simp] theorem Blk.modFe_preds (b : Blk) (f : Fe → Fe) : (b.modFe f).preds = b.preds := rfl
@[simp] theorem Blk.spend_preds (b : Blk) : (b.spend).preds = b.preds := rfl
@[simp] theorem Blk.modRt_preds (b : Blk) (f : Rt → Rt) : (b.modRt f).preds = b.preds := rfl
@[simp] theorem Blk.modReach_preds (b : Blk) (r : Nat) (f : Reach → Reach) : (b.modReach r f).preds = b.preds := rfl
@[simp] theorem Blk.modHb_preds (b : Blk) (f : Hb → Hb) : (b.modHb f).preds = b.preds := rfl
@[simp] theorem Blk.bump_preds (b : Blk) (c : Ctr) (i n : Nat) : (b.bump c i n).preds = b.preds := by
  unfold Blk.bump; split <;> rfl
@[simp] theorem Blk.modPg_preds (b : Blk) (f : Pg → Pg) : (b.modPg f).preds = b.preds := rfl
@[simp] theorem Blk.modAgent_preds (b : Blk) (e : Nat) (f : Agent → Agent) : (b.modAgent e f).preds = b.preds := rfl
@[simp] theorem Blk.modRel_preds (b : Blk) (f : Rel → Rel) : (b.modRel f).preds = b.preds := rfl
@[simp] theorem Blk.modTask_preds (b : Blk) (t : TaskRef) (f : Task → Task) : (b.modTask t f).preds = b.preds := by
  unfold Blk.modTask; split <;> rfl
@[simp] theorem Blk.modDb_preds (b : Blk) (f : Db → Db) : (b.modDb f).preds = b.preds := rfl
@[simp] theorem Blk.modQueue_preds (b : Blk) (q : Nat) (f : Queue → Queue) : (b.modQueue q f).preds = b.preds := by
  unfold Blk.modQueue; split <;> rfl
@[simp] theorem Blk.modMc_preds (b : Blk) (f : Mc → Mc) : (b.modMc f).preds = b.preds := rfl
@[simp] theorem Blk.modCtx_preds (b : Blk) (c : Nat) (f : Ctx → Ctx) : (b.modCtx c f).preds = b.preds := by
  unfold Blk.modCtx; split <;> rfl

/-! ### The field `history` after each update -/

@[simp] theorem Blk.emit_history (b : Blk) (o : Out) : (b.emit o).history = b.history := rfl
@[simp] theorem Blk.modFe_history (b : Blk) (f : Fe → Fe) : (b.modFe f).history = b.history := rfl
@[simp] theorem Blk.spend_history (b : Blk) : (b.spend).history = b.history := rfl
@[simp] theorem Blk.modRt_history (b : Blk) (f : Rt → Rt) : (b.modRt f).history = b.history := rfl
@[simp] theorem Blk.modReach_history (b : Blk) (r : Nat) (f : Reach → Reach) : (b.modReach r f).history = b.history := rfl
@[simp] theorem Blk.modHb_history (b : Blk) (f : Hb → Hb) : (b.modHb f).history = b.history := rfl
@[simp] theorem Blk.bump_history (b : Blk) (c : Ctr) (i n : Nat) : (b.bump c i n).history = b.history := by
  unfold Blk.bump; split <;> rfl
@[simp] theorem Blk.modPg_history (b : Blk) (f : Pg → Pg) : (b.modPg f).history = b.history := rfl
@[simp] theorem Blk.modAgent_history (b : Blk) (e : Nat) (f : Agent → Agent) : (b.modAgent e f).history = b.history := rfl
@[simp] theorem Blk.modRel_history (b : Blk) (f : Rel → Rel) : (b.modRel f).history = b.history := rfl
@[simp] theorem Blk.modTask_history (b : Blk) (t : TaskRef) (f : Task → Task) : (b.modTask t f).history = b.history := by
  unfold Blk.modTask; split <;> rfl
@[simp] theorem Blk.modDb_history (b : Blk) (f : Db → Db) : (b.modDb f).history = b.history := rfl
@[simp] theorem Blk.modQueue_history (b : Blk) (q : Nat) (f : Queue → Queue) : (b.modQueue q f).history = b.history := by
  unfold Blk.modQueue; split <;> rfl
@[simp] theorem Blk.modMc_history (b : Blk) (f : Mc → Mc) : (b.modMc f).history = b.history := rfl
@[simp] theorem Blk.modCtx_history (b : Blk) (c : Nat) (f : Ctx → Ctx) : (b.modCtx c f).history = b.history := by
  unfold Blk.modCtx; split <;> rfl

/-! ### The field `predOps` after each update -/

@[simp] theorem Blk.emit_predOps (b : Blk) (o : Out) : (b.emit o).predOps = b.predOps := rfl
@[simp] theorem Blk.modFe_predOps (b : Blk) (f : Fe → Fe) : (b.modFe f).predOps = b.predOps := rfl
@[simp] theorem Blk.spend_predOps (b : Blk) : (b.spend).predOps = b.predOps := rfl
@[simp] theorem Blk.modRt_predOps (b : Blk) (f : Rt → Rt) : (b.modRt f).predOps = b.predOps := rfl
@[simp] theorem Blk.modReach_predOps (b : Blk) (r : Nat) (f : Reach → Reach) : (b.modReach r f).predOps = b.predOps := rfl
@[simp] theorem Blk.modHb_predOps (b : Blk) (f : Hb → Hb) : (b.modHb f).predOps = b.predOps := rfl
@[simp] theorem Blk.bump_predOps (b : Blk) (c : Ctr) (i n : Nat) : (b.bump c i n).predOps = b.predOps := by
  unfold Blk.bump; split <;> rfl
@[simp] theorem Blk.modPg_predOps (b : Blk) (f : Pg → Pg) : (b.modPg f).predOps = b.predOps := rfl
@[simp] theorem Blk.modAgent_predOps (b : Blk) (e : Nat) (f : Agent → Agent) : (b.modAgent e f).predOps = b.predOps := rfl
@[simp] theorem Blk.modRel_predOps (b : Blk) (f : Rel → Rel) : (b.modRel f).predOps = b.predOps := rfl
@[simp] theorem Blk.modTask_predOps (b : Blk) (t : TaskRef) (f : Task → Task) : (b.modTask t f).predOps = b.predOps := by
  unfold Blk.modTask; split <;> rfl
@[simp] theorem Blk.modDb_predOps (b : Blk) (f : Db → Db) : (b.modDb f).predOps = b.predOps := rfl
@[simp] theorem Blk.modQueue_predOps (b : Blk) (q : Nat) (f : Queue → Queue) : (b.modQueue q f).predOps = b.predOps := by
  unfold Blk.modQueue; split <;> rfl
@[simp] theorem Blk.modMc_predOps (b : Blk) (f : Mc → Mc) : (b.modMc f).predOps = b.predOps := rfl
@[simp] theorem Blk.modCtx_predOps (b : Blk) (c : Nat) (f : Ctx → Ctx) : (b.modCtx c f).predOps = b.predOps := by
  unfold Blk.modCtx; split <;> rfl

/-! ### The field `predNext` after each update -/

@[simp] theorem Blk.emit_predNext (b : Blk) (o : Out) : (b.emit o).predNext = b.predNext := rfl
@[simp] theorem Blk.modFe_predNext (b : Blk) (f : Fe → Fe) : (b.modFe f).predNext = b.predNext := rfl
@[simp] theorem Blk.spend_predNext (b : Blk) : (b.spend).predNext = b.predNext := rfl
@[simp] theorem Blk.modRt_predNext (b : Blk) (f : Rt → Rt) : (b.modRt f).predNext = b.predNext := rfl
@[simp] theorem Blk.modReach_predNext (b : Blk) (r : Nat) (f : Reach → Reach) : (b.modReach r f).predNext = b.predNext := rfl
@[simp] theorem Blk.modHb_predNext (b : Blk) (f : Hb → Hb) : (b.modHb f).predNext = b.predNext := rfl
@[simp] theorem Blk.bump_predNext (b : Blk) (c : Ctr) (i n : Nat) : (b.bump c i n).predNext = b.predNext := by
  unfold Blk.bump; split <;> rfl
@[simp] theorem Blk.modPg_predNext (b : Blk) (f : Pg → Pg) : (b.modPg f).predNext = b.predNext := rfl
@[simp] theorem Blk.modAgent_predNext (b : Blk) (e : Nat) (f : Agent → Agent) : (b.modAgent e f).predNext = b.predNext := rfl
@[simp] theorem Blk.modRel_predNext (b : Blk) (f : Rel → Rel) : (b.modRel f).predNext = b.predNext := rfl
@[simp] theorem Blk.modTask_predNext (b : Blk) (t : TaskRef) (f : Task → Task) : (b.modTask t f).predNext = b.predNext := by
  unfold Blk.modTask; split <;> rfl
@[simp] theorem Blk.modDb_predNext (b : Blk) (f : Db → Db) : (b.modDb f).predNext = b.predNext := rfl
@[simp] theorem Blk.modQueue_predNext (b : Blk) (q : Nat) (f : Queue → Queue) : (b.modQueue q f).predNext = b.predNext := by
  unfold Blk.modQueue; split <;> rfl
@[simp] theorem Blk.modMc_predNext (b : Blk) (f : Mc → Mc) : (b.modMc f).predNext = b.predNext := rfl
@[simp] theorem Blk.modCtx_predNext (b : Blk) (c : Nat) (f : Ctx → Ctx) : (b.modCtx c f).predNext = b.predNext := by
  unfold Blk.modCtx; split <;> rfl

/-! ### The field `agents` after each update -/

@[simp] theorem Blk.emit_agents (b : Blk) (o : Out) : (b.emit o).agents = b.agents := rfl
@[simp] theorem Blk.modFe_agents (b : Blk) (f : Fe → Fe) : (b.modFe f).agents = b.agents := rfl
@[simp] theorem Blk.spend_agents (b : Blk) : (b.spend).agents = b.agents := rfl
@[simp] theorem Blk.modRt_agents (b : Blk) (f : Rt → Rt) : (b.modRt f).agents = b.agents := rfl
@[simp] theorem Blk.modReach_agents (b : Blk) (r : Nat) (f : Reach → Reach) : (b.modReach r f).agents = b.agents := rfl
@[simp] theorem Blk.modHb_agents (b : Blk) (f : Hb → Hb) : (b.modHb f).agents = b.agents := rfl
@[simp] theorem Blk.bump_agents (b : Blk) (c : Ctr) (i n : Nat) : (b.bump c i n).agents = b.agents := by
  unfold Blk.bump; split <;> rfl
@[simp] theorem Blk.modPg_agents (b : Blk) (f : Pg → Pg) : (b.modPg f).agents = b.agents := rfl
@[simp] theorem Blk.modAgent_agents (b : Blk) (e : Nat) (f : Agent → Agent) : (b.modAgent e f).agents = tmod {} b.agents e f := rfl
@[simp] theorem Blk.modRel_agents (b : Blk) (f : Rel → Rel) : (b.modRel f).agents = b.agents := rfl
@[simp] theorem Blk.modTask_agents (b : Blk) (t : TaskRef) (f : Task → Task) : (b.modTask t f).agents = b.agents := by
  unfold Blk.modTask; split <;> rfl
@[simp] theorem Blk.modDb_agents (b : Blk) (f : Db → Db) : (b.modDb f).agents = b.agents := rfl
@[simp] theorem Blk.modQueue_agents (b : Blk) (q : Nat) (f : Queue → Queue) : (b.modQueue q f).agents = b.agents := by
  unfold Blk.modQueue; split <;> rfl
@[simp] theorem Blk.modMc_agents (b : Blk) (f : Mc → Mc) : (b.modMc f).agents = b.agents := rfl
@[simp] theorem Blk.modCtx_agents (b : Blk) (c : Nat) (f : Ctx → Ctx) : (b.modCtx c f).agents = b.agents := by
  unfold Blk.modCtx; split <;> rfl

/-! ### The field `fe` after each update -/

@[simp] theorem Blk.emit_fe (b : Blk) (o : Out) : (b.emit o).fe = b.fe := rfl
@[simp] theorem Blk.modFe_fe (b : Blk) (f : Fe → Fe) : (b.modFe f).fe = f b.fe := rfl
@[simp] theorem Blk.spend_fe (b : Blk) : (b.spend).fe = b.fe := rfl
@[simp] theorem Blk.modRt_fe (b : Blk) (f : Rt → Rt) : (b.modRt f).fe = b.fe := rfl
@[simp] theorem Blk.modReach_fe (b : Blk) (r : Nat) (f : Reach → Reach) : (b.modReach r f).fe = b.fe := rfl
@[simp] theorem Blk.modHb_fe (b : Blk) (f : Hb → Hb) : (b.modHb f).fe = b.fe := rfl
@[simp] theorem Blk.bump_fe (b : Blk) (c : Ctr) (i n : Nat) : (b.bump c i n).fe = b.fe := by
  unfold Blk.bump; split <;> rfl
@[simp] theorem Blk.modPg_fe (b : Blk) (f : Pg → Pg) : (b.modPg f).fe = b.fe := rfl
@[simp] theorem Blk.modAgent_fe (b : Blk) (e : Nat) (f : Agent → Agent) : (b.modAgent e f).fe = b.fe := rfl
@[simp] theorem Blk.modRel_fe (b : Blk) (f : Rel → Rel) : (b.modRel f).fe = b.fe := rfl
@[simp] theorem Blk.modTask_fe (b : Blk) (t : TaskRef) (f : Task → Task) : (b.modTask t f).fe = b.fe := by
  unfold Blk.modTask; split <;> rfl
@[simp] theorem Blk.modDb_fe (b : Blk) (f : Db → Db) : (b.modDb f).fe = b.fe := rfl
@[simp] theorem Blk.modMc_fe (b : Blk) (f : Mc → Mc) : (b.modMc f).fe = b.fe := rfl

/-! ### The field `rt` after each update -/

@[simp] theorem Blk.emit_rt (b : Blk) (o : Out) : (b.emit o).rt = b.rt := rfl
@[simp] theorem Blk.modFe_rt (b : Blk) (f : Fe → Fe) : (b.modFe f).rt = b.rt := rfl
@[simp] theorem Blk.spend_rt (b : Blk) : (b.spend).rt = b.rt := rfl
@[simp] theorem Blk.modRt_rt (b : Blk) (f : Rt → Rt) : (b.modRt f).rt = f b.rt := rfl
@[simp] theorem Blk.modReach_rt (b : Blk) (r : Nat) (f : Reach → Reach) : (b.modReach r f).rt = b.rt := rfl
@[simp] theorem Blk.modHb_rt (b : Blk) (f : Hb → Hb) : (b.modHb f).rt = b.rt := rfl
@[simp] theorem Blk.bump_rt (b : Blk) (c : Ctr) (i n : Nat) : (b.bump c i n).rt = b.rt := by
  unfold Blk.bump; split <;> rfl
@[simp] theorem Blk.modPg_rt (b : Blk) (f : Pg → Pg) : (b.modPg f).rt = b.rt := rfl
@[simp] theorem Blk.modAgent_rt (b : Blk) (e : Nat) (f : Agent → Agent) : (b.modAgent e f).rt = b.rt := rfl
@[simp] theorem Blk.modRel_rt (b : Blk) (f : Rel → Rel) : (b.modRel f).rt = b.rt := rfl
@[simp] theorem Blk.modTask_rt (b : Blk) (t : TaskRef) (f : Task → Task) : (b.modTask t f).rt = b.rt := by
  unfold Blk.modTask; split <;> rfl
@[simp] theorem Blk.modDb_rt (b : Blk) (f : Db → Db) : (b.modDb f).rt = b.rt := rfl
@[simp] theorem Blk.modQueue_rt (b : Blk) (q : Nat) (f : Queue → Queue) : (b.modQueue q f).rt = b.rt := by
  unfold Blk.modQueue; split <;> rfl
@[simp] theorem Blk.modMc_rt (b : Blk) (f : Mc → Mc) : (b.modMc f).rt = b.rt := rfl
@[simp] theorem Blk.modCtx_rt (b : Blk) (c : Nat) (f : Ctx → Ctx) : (b.modCtx c f).rt = b.rt := by
  unfold Blk.modCtx; split <;> rfl

/-! ### The field `hb` after each update -/

@[simp] theorem Blk.emit_hb (b : Blk) (o : Out) : (b.emit o).hb = b.hb := rfl
@[simp] theorem Blk.modFe_hb (b : Blk) (f : Fe → Fe) : (b.modFe f).hb = b.hb := rfl
@[simp] theorem Blk.spend_hb (b : Blk) : (b.spend).hb = b.hb := rfl
@[simp] theorem Blk.modRt_hb (b : Blk) (f : Rt → Rt) : (b.modRt f).hb = b.hb := rfl
@[simp] theorem Blk.modReach_hb (b : Blk) (r : Nat) (f : Reach → Reach) : (b.modReach r f).hb = b.hb := rfl
@[simp] theorem Blk.modHb_hb (b : Blk) (f : Hb → Hb) : (b.modHb f).hb = f b.hb := rfl
@[simp] theorem Blk.bump_hb (b : Blk) (c : Ctr) (i n : Nat) : (b.bump c i n).hb = b.hb := by
  unfold Blk.bump; split <;> rfl
@[simp] theorem Blk.modPg_hb (b : Blk) (f : Pg → Pg) : (b.modPg f).hb = b.hb := rfl
@[simp] theorem Blk.modAgent_hb (b : Blk) (e : Nat) (f : Agent → Agent) : (b.modAgent e f).hb = b.hb := rfl
@[simp] theorem Blk.modRel_hb (b : Blk) (f : Rel → Rel) : (b.modRel f).hb = b.hb := rfl
@[simp] theorem Blk.modTask_hb (b : Blk) (t : TaskRef) (f : Task → Task) : (b.modTask t f).hb = b.hb := by
  unfold Blk.modTask; split <;> rfl
@[simp] theorem Blk.modDb_hb (b : Blk) (f : Db → Db) : (b.modDb f).hb = b.hb := rfl
@[simp] theorem Blk.modQueue_hb (b : Blk) (q : Nat) (f : Queue → Queue) : (b.modQueue q f).hb = b.hb := by
  unfold Blk.modQueue; split <;> rfl
@[simp] theorem Blk.modMc_hb (b : Blk) (f : Mc → Mc) : (b.modMc f).hb = b.hb := rfl
@[simp] theorem Blk.modCtx_hb (b : Blk) (c : Nat) (f : Ctx → Ctx) : (b.modCtx c f).hb = b.hb := by
  unfold Blk.modCtx; split <;> rfl

/-! ### The field `pg` after each update -/

@[simp] theorem Blk.emit_pg (b : Blk) (o : Out) : (b.emit o).pg = b.pg := rfl
@[simp] theorem Blk.modFe_pg (b : Blk) (f : Fe → Fe) : (b.modFe f).pg = b.pg := rfl
@[simp] theorem Blk.spend_pg (b : Blk) : (b.spend).pg = b.pg := rfl
@[simp] theorem Blk.modRt_pg (b : Blk) (f : Rt → Rt) : (b.modRt f).pg = b.pg := rfl
@[simp] theorem Blk.modReach_pg (b : Blk) (r : Nat) (f : Reach → Reach) : (b.modReach r f).pg = b.pg := rfl
@[simp] theorem Blk.modHb_pg (b : Blk) (f : Hb → Hb) : (b.modHb f).pg = b.pg := rfl
@[simp] theorem Blk.bump_pg (b : Blk) (c : Ctr) (i n : Nat) : (b.bump c i n).pg = b.pg := by
  unfold Blk.bump; split <;> rfl
@[simp] theorem Blk.modPg_pg (b : Blk) (f : Pg → Pg) : (b.modPg f).pg = f b.pg := rfl
@[simp] theorem Blk.modAgent_pg (b : Blk) (e : Nat) (f : Agent → Agent) : (b.modAgent e f).pg = b.pg := rfl
@[simp] theorem Blk.modRel_pg (b : Blk) (f : Rel → Rel) : (b.modRel f).pg = b.pg := rfl
@[simp] theorem Blk.modTask_pg (b : Blk) (t : TaskRef) (f : Task → Task) : (b.modTask t f).pg = b.pg := by
  unfold Blk.modTask; split <;> rfl
@[simp] theorem Blk.modDb_pg (b : Blk) (f : Db → Db) : (b.modDb f).pg = b.pg := rfl
@[simp] theorem Blk.modQueue_pg (b : Blk) (q : Nat) (f : Queue → Queue) : (b.modQueue q f).pg = b.pg := by
  unfold Blk.modQueue; split <;> rfl
@[simp] theorem Blk.modMc_pg (b : Blk) (f : Mc → Mc) : (b.modMc f).pg = b.pg := rfl
@[simp] theorem Blk.modCtx_pg (b : Blk) (c : Nat) (f : Ctx → Ctx) : (b.modCtx c f).pg = b.pg := by
  unfold Blk.modCtx; split <;> rfl

/-! ### The field `rel` after each update -/

@[simp] theorem Blk.emit_rel (b : Blk) (o : Out) : (b.emit o).rel = b.rel := rfl
@[simp] theorem Blk.modFe_rel (b : Blk) (f : Fe → Fe) : (b.modFe f).rel = b.rel := rfl
@[simp] theorem Blk.spend_rel (b : Blk) : (b.spend).rel = b.rel := rfl
@[simp] theorem Blk.modRt_rel (b : Blk) (f : Rt → Rt) : (b.modRt f).rel = b.rel := rfl
@[simp] theorem Blk.modReach_rel (b : Blk) (r : Nat) (f : Reach → Reach) : (b.modReach r f).rel = b.rel := rfl
@[simp] theorem Blk.modHb_rel (b : Blk) (f : Hb → Hb) : (b.modHb f).rel = b.rel := rfl
@[simp] theorem Blk.bump_rel (b : Blk) (c : Ctr) (i n : Nat) : (b.bump c i n).rel = b.rel := by
  unfold Blk.bump; split <;> rfl
@[simp] theorem Blk.modPg_rel (b : Blk) (f : Pg → Pg) : (b.modPg f).rel = b.rel := rfl
@[simp] theorem Blk.modAgent_rel (b : Blk) (e : Nat) (f : Agent → Agent) : (b.modAgent e f).rel = b.rel := rfl
@[simp] theorem Blk.modRel_rel (b : Blk) (f : Rel → Rel) : (b.modRel f).rel = f b.rel := rfl
@[simp] theorem Blk.modTask_rel (b : Blk) (t : TaskRef) (f : Task → Task) : (b.modTask t f).rel = b.rel := by
  unfold Blk.modTask; split <;> rfl
@[simp] theorem Blk.modDb_rel (b : Blk) (f : Db → Db) : (b.modDb f).rel = b.rel := rfl
@[simp] theorem Blk.modQueue_rel (b : Blk) (q : Nat) (f : Queue → Queue) : (b.modQueue q f).rel = b.rel := by
  unfold Blk.modQueue; split <;> rfl
@[simp] theorem Blk.modMc_rel (b : Blk) (f : Mc → Mc) : (b.modMc f).rel = b.rel := rfl
@[simp] theorem Blk.modCtx_rel (b : Blk) (c : Nat) (f : Ctx → Ctx) : (b.modCtx c f).rel = b.rel := by
  unfold Blk.modCtx; split <;> rfl

/-! ### The field `db` after each update -/

@[simp] theorem Blk.emit_db (b : Blk) (o : Out) : (b.emit o).db = b.db := rfl
@[simp] theorem Blk.modFe_db (b : Blk) (f : Fe → Fe) : (b.modFe f).db = b.db := rfl
@[simp] theorem Blk.spend_db (b : Blk) : (b.spend).db = b.db := rfl
@[simp] theorem Blk.modRt_db (b : Blk) (f : Rt → Rt) : (b.modRt f).db = b.db := rfl
@[simp] theorem Blk.modReach_db (b : Blk) (r : Nat) (f : Reach → Reach) : (b.modReach r f).db = b.db := rfl
@[simp] theorem Blk.modHb_db (b : Blk) (f : Hb → Hb) : (b.modHb f).db = b.db := rfl
@[simp] theorem Blk.bump_db (b : Blk) (c : Ctr) (i n : Nat) : (b.bump c i n).db = b.db := by
  unfold Blk.bump; split <;> rfl
@[simp] theorem Blk.modPg_db (b : Blk) (f : Pg → Pg) : (b.modPg f).db = b.db := rfl
@[simp] theorem Blk.modAgent_db (b : Blk) (e : Nat) (f : Agent → Agent) : (b.modAgent e f).db = b.db := rfl
@[simp] theorem Blk.modRel_db (b : Blk) (f : Rel → Rel) : (b.modRel f).db = b.db := rfl
@[simp] theorem Blk.modTask_db (b : Blk) (t : TaskRef) (f : Task → Task) : (b.modTask t f).db = b.db := by
  unfold Blk.modTask; split <;> rfl
@[simp] theorem Blk.modDb_db (b : Blk) (f : Db → Db) : (b.modDb f).db = f b.db := rfl
@[simp] theorem Blk.modQueue_db (b : Blk) (q : Nat) (f : Queue → Queue) : (b.modQueue q f).db = b.db := by
  unfold Blk.modQueue; split <;> rfl
@[simp] theorem Blk.modMc_db (b : Blk) (f : Mc → Mc) : (b.modMc f).db = b.db := rfl
@[simp] theorem Blk.modCtx_db (b : Blk) (c : Nat) (f : Ctx → Ctx) : (b.modCtx c f).db = b.db := by
  unfold Blk.modCtx; split <;> rfl

/-! ### The field `mc` after each update -/

@[simp] theorem Blk.emit_mc (b : Blk) (o : Out) : (b.emit o).mc = b.mc := rfl
@[simp] theorem Blk.modFe_mc (b : Blk) (f : Fe → Fe) : (b.modFe f).mc = b.mc := rfl
@[simp] theorem Blk.spend_mc (b : Blk) : (b.spend).mc = b.mc := rfl
@[simp] theorem Blk.modRt_mc (b : Blk) (f : Rt → Rt) : (b.modRt f).mc = b.mc := rfl
@[simp] theorem Blk.modReach_mc (b : Blk) (r : Nat) (f : Reach → Reach) : (b.modReach r f).mc = b.mc := rfl
@[simp] theorem Blk.modHb_mc (b : Blk) (f : Hb → Hb) : (b.modHb f).mc = b.mc := rfl
@[simp] theorem Blk.bump_mc (b : Blk) (c : Ctr) (i n : Nat) : (b.bump c i n).mc = b.mc := by
  unfold Blk.bump; split <;> rfl
@[simp] theorem Blk.modPg_mc (b : Blk) (f : Pg → Pg) : (b.modPg f).mc = b.mc := rfl
@[simp] theorem Blk.modAgent_mc (b : Blk) (e : Nat) (f : Agent → Agent) : (b.modAgent e f).mc = b.mc := rfl
@[simp] theorem Blk.modRel_mc (b : Blk) (f : Rel → Rel) : (b.modRel f).mc = b.mc := rfl
@[simp] theorem Blk.modTask_mc (b : Blk) (t : TaskRef) (f : Task → Task) : (b.modTask t f).mc = b.mc := by
  unfold Blk.modTask; split <;> rfl
@[simp] theorem Blk.modDb_mc (b : Blk) (f : Db → Db) : (b.modDb f).mc = b.mc := rfl
@[simp] theorem Blk.modQueue_mc (b : Blk) (q : Nat) (f : Queue → Queue) : (b.modQueue q f).mc = b.mc := by
  unfold Blk.modQueue; split <;> rfl
@[simp] theorem Blk.modMc_mc (b : Blk) (f : Mc → Mc) : (b.modMc f).mc = f b.mc := rfl
@[simp] theorem Blk.modCtx_mc (b : Blk) (c : Nat) (f : Ctx → Ctx) : (b.modCtx c f).mc = b.mc := by
  unfold Blk.modCtx; split <;> rfl

/-! ### The field `counters` after each update -/

@[simp] theorem Blk.emit_counters (b : Blk) (o : Out) : (b.emit o).counters = b.counters := rfl
@[simp] theorem Blk.modFe_counters (b : Blk) (f : Fe → Fe) : (b.modFe f).counters = b.counters := rfl
@[simp] theorem Blk.spend_counters (b : Blk) : (b.spend).counters = b.counters := rfl
@[simp] theorem Blk.modRt_counters (b : Blk) (f : Rt → Rt) : (b.modRt f).counters = b.counters := rfl
@[simp] theorem Blk.modReach_counters (b : Blk) (r : Nat) (f : Reach → Reach) : (b.modReach r f).counters = b.counters := rfl
@[simp] theorem Blk.modHb_counters (b : Blk) (f : Hb → Hb) : (b.modHb f).counters = b.counters := rfl
@[simp] theorem Blk.modPg_counters (b : Blk) (f : Pg → Pg) : (b.modPg f).counters = b.counters := rfl
@[simp] theorem Blk.modAgent_counters (b : Blk) (e : Nat) (f : Agent → Agent) : (b.modAgent e f).counters = b.counters := rfl
@[simp] theorem Blk.modRel_counters (b : Blk) (f : Rel → Rel) : (b.modRel f).counters = b.counters := rfl
@[simp] theorem Blk.modTask_counters (b : Blk) (t : TaskRef) (f : Task → Task) : (b.modTask t f).counters = b.counters := by
  unfold Blk.modTask; split <;> rfl
@[simp] theorem Blk.modDb_counters (b : Blk) (f : Db → Db) : (b.modDb f).counters = b.counters := rfl
@[simp] theorem Blk.modQueue_counters (b : Blk) (q : Nat) (f : Queue → Queue) : (b.modQueue q f).counters = b.counters := by
  unfold Blk.modQueue; split <;> rfl
@[simp] theorem Blk.modMc_counters (b : Blk) (f : Mc → Mc) : (b.modMc f).counters = b.counters := rfl
@[simp] theorem Blk.modCtx_counters (b : Blk) (c : Nat) (f : Ctx → Ctx) : (b.modCtx c f).counters = b.counters := by
  unfold Blk.modCtx; split <;> rfl

/-! ### The field `out` after each update -/

@[simp] theorem Blk.emit_out (b : Blk) (o : Out) : (b.emit o).out = b.out ++ [o] := rfl
@[simp] theorem Blk.modFe_out (b : Blk) (f : Fe → Fe) : (b.modFe f).out = b.out := rfl
@[simp] theorem Blk.spend_out (b : Blk) : (b.spend).out = b.out := rfl
@[simp] theorem Blk.modRt_out (b : Blk) (f : Rt → Rt) : (b.modRt f).out = b.out := rfl
@[simp] theorem Blk.modReach_out (b : Blk) (r : Nat) (f : Reach → Reach) : (b.modReach r f).out = b.out := rfl
@[simp] theorem Blk.modHb_out (b : Blk) (f : Hb → Hb) : (b.modHb f).out = b.out := rfl
@[simp] theorem Blk.bump_out (b : Blk) (c : Ctr) (i n : Nat) : (b.bump c i n).out = b.out := by
  unfold Blk.bump; split <;> rfl
@[simp] theorem Blk.modPg_out (b : Blk) (f : Pg → Pg) : (b.modPg f).out = b.out := rfl
@[simp] theorem Blk.modAgent_out (b : Blk) (e : Nat) (f : Agent → Agent) : (b.modAgent e f).out = b.out := rfl
@[simp] theorem Blk.modRel_out (b : Blk) (f : Rel → Rel) : (b.modRel f).out = b.out := rfl
@[simp] theorem Blk.modTask_out (b : Blk) (t : TaskRef) (f : Task → Task) : (b.modTask t f).out = b.out := by
  unfold Blk.modTask; split <;> rfl
@[simp] theorem Blk.modDb_out (b : Blk) (f : Db → Db) : (b.modDb f).out = b.out := rfl
@[simp] theorem Blk.modQueue_out (b : Blk) (q : Nat) (f : Queue → Queue) : (b.modQueue q f).out = b.out := by
  unfold Blk.modQueue; split <;> rfl
@[simp] theorem Blk.modMc_out (b : Blk) (f : Mc → Mc) : (b.modMc f).out = b.out := rfl
@[simp] theorem Blk.modCtx_out (b : Blk) (c : Nat) (f : Ctx → Ctx) : (b.modCtx c f).out = b.out := by
  unfold Blk.modCtx; split <;> rfl

/-! ### The field `fresh` after each update -/

@[simp] theorem Blk.emit_fresh (b : Blk) (o : Out) : (b.emit o).fresh = b.fresh := rfl
@[simp] theorem Blk.modFe_fresh (b : Blk) (f : Fe → Fe) : (b.modFe f).fresh = b.fresh := rfl
@[simp] theorem Blk.spend_fresh (b : Blk) : (b.spend).fresh = b.fresh + 1 := rfl
@[simp] theorem Blk.modRt_fresh (b : Blk) (f : Rt → Rt) : (b.modRt f).fresh = b.fresh := rfl
@[simp] theorem Blk.modReach_fresh (b : Blk) (r : Nat) (f : Reach → Reach) : (b.modReach r f).fresh = b.fresh := rfl
@[simp] theorem Blk.modHb_fresh (b : Blk) (f : Hb → Hb) : (b.modHb f).fresh = b.fresh := rfl
@[simp] theorem Blk.bump_fresh (b : Blk) (c : Ctr) (i n : Nat) : (b.bump c i n).fresh = b.fresh := by
  unfold Blk.bump; split <;> rfl
@[simp] theorem Blk.modPg_fresh (b : Blk) (f : Pg → Pg) : (b.modPg f).fresh = b.fresh := rfl
@[simp] theorem Blk.modAgent_fresh (b : Blk) (e : Nat) (f : Agent → Agent) : (b.modAgent e f).fresh = b.fresh := rfl
@[simp] theorem Blk.modRel_fresh (b : Blk) (f : Rel → Rel) : (b.modRel f).fresh = b.fresh := rfl
@[simp] theorem Blk.modTask_fresh (b : Blk) (t : TaskRef) (f : Task → Task) : (b.modTask t f).fresh = b.fresh := by
  unfold Blk.modTask; split <;> rfl
@[simp] theorem Blk.modDb_fresh (b : Blk) (f : Db → Db) : (b.modDb f).fresh = b.fresh := rfl
@[simp] theorem Blk.modQueue_fresh (b : Blk) (q : Nat) (f : Queue → Queue) : (b.modQueue q f).fresh = b.fresh := by
  unfold Blk.modQueue; split <;> rfl
@[simp] theorem Blk.modMc_fresh (b : Blk) (f : Mc → Mc) : (b.modMc f).fresh = b.fresh := rfl
@[simp] theorem Blk.modCtx_fresh (b : Blk) (c : Nat) (f : Ctx → Ctx) : (b.modCtx c f).fresh = b.fresh := by
  unfold Blk.modCtx; split <;> rfl

/-! ### Reading what an update wrote -/

@[simp] theorem Blk.reach_modReach_same (b : Blk) (r : Nat) (f : Reach → Reach) : (b.modReach r f).reach r = f (b.reach r) := by
  simp [Blk.reach]

theorem Blk.reach_modReach_other (b : Blk) {r k : Nat} (f : Reach → Reach) (h : k ≠ r) :
    (b.modReach r f).reach k = b.reach k := by
  simp [Blk.reach, tgetD_tmod_other _ _ _ _ h]

@[simp] theorem Blk.agent_modAgent_same (b : Blk) (e : Nat) (f : Agent → Agent) :
    (b.modAgent e f).agent e = f (b.agent e) := by simp [Blk.agent]

theorem Blk.agent_modAgent_other (b : Blk) {e k : Nat} (f : Agent → Agent) (h : k ≠ e) :
    (b.modAgent e f).agent k = b.agent k := by
  simp [Blk.agent, tgetD_tmod_other _ _ _ _ h]

theorem Blk.agent_congr {b b' : Blk} (h : b'.agents = b.agents) (e : Nat) : b'.agent e = b.agent e := by
  simp [Blk.agent, h]

theorem Blk.reach_congr {b b' : Blk} (h : b'.reaches = b.reaches) (r : Nat) : b'.reach r = b.reach r := by
  simp [Blk.reach, h]

theorem Blk.queue?_modQueue_same (b : Blk) (q : Nat) (f : Queue → Queue) : (b.modQueue q f).queue? q = (b.queue? q).map f := by
  unfold Blk.modQueue
  split
  · rename_i x h; simp [Blk.queue?] at h ⊢; simp [h]
  · rename_i h; simp [h]

theorem Blk.ctx?_modCtx_same (b : Blk) (c : Nat) (f : Ctx → Ctx) : (b.modCtx c f).ctx? c = (b.ctx? c).map f := by
  unfold Blk.modCtx
  split
  · rename_i x h; simp [Blk.ctx?] at h ⊢; simp [h]
  · rename_i h; simp [h]

@[simp] theorem Blk.ctr_bump_same (b : Blk) (c : Ctr) (i n : Nat) : (b.bump c i n).ctr c i = b.ctr c i + n := by
  unfold Blk.bump
  split
  · subst_vars; rfl
  · simp [Blk.ctr]

theorem Ctr.ctorIdx_lt (c : Ctr) : c.ctorIdx < 256 := by cases c <;> decide

theorem ctrKey_inj {c c' : Ctr} {i i' : Nat} (h : ctrKey c i = ctrKey c' i') : c = c' ∧ i = i' := by
  have l := c.ctorIdx_lt
  have l' := c'.ctorIdx_lt
  unfold ctrKey at h
  have e : c.ctorIdx = c'.ctorIdx := by omega
  exact ⟨by rw [← Ctr.ofNat_ctorIdx c, e, Ctr.ofNat_ctorIdx], by omega⟩

theorem Blk.ctr_bump_other (b : Blk) {c c' : Ctr} {i i' : Nat} (n : Nat) (h : c' ≠ c ∨ i' ≠ i) :
    (b.bump c i n).ctr c' i' = b.ctr c' i' := by
  unfold Blk.bump
  split
  · rfl
  · have : ctrKey c' i' ≠ ctrKey c i := fun k => by
      have := ctrKey_inj k
      rcases h with h | h
      · exact h this.1
      · exact h this.2
    simp [Blk.ctr, tgetD_tmod_other _ _ _ _ this]

/-- A change made for each member of a list keeps what each change keeps. -/
theorem Blk.forEach_keeps {α β : Type} (g : Blk → β) (f : α → Blk → Blk) (h : ∀ x b, g (f x b) = g b) (l : List α) (b : Blk) :
    g (b.forEach l f) = g b := by
  induction l generalizing b with
  | nil => rfl
  | cons x r ih => exact (ih (f x b)).trans (h x b)

end Sys2Proof.Machine
end

