-- ==== Sys2Proof/Laws/Memory.lean ====
section
/-! SUPPORT. Channel memory: its canonical form is kept by every operation on it, and a write changes the bytes it names
alone. -/

namespace Sys2Proof.Machine

/-- Memory after reset is in its canonical form. -/
theorem reset_memory_wf : Memory.wf State.reset.blk.hb.chanMem = true := by decide

theorem Hb.writeByte_wf {h : Hb} (a : Nat) (x : Byte) (w : Memory.wf h.chanMem = true) :
    Memory.wf (h.writeByte a x).chanMem = true := twf_tset a x w

theorem Hb.writeBytes_wf {h : Hb} (a : Nat) (xs : List Byte) (w : Memory.wf h.chanMem = true) :
    Memory.wf (h.writeBytes a xs).chanMem = true := by
  induction xs generalizing h a with
  | nil => exact w
  | cons x r ih => exact ih (a + 1) (Hb.writeByte_wf a x w)

theorem Hb.writeWord_wf {h : Hb} (a : Nat) (x : BitVec 64) (w : Memory.wf h.chanMem = true) :
    Memory.wf (h.writeWord a x).chanMem = true := Hb.writeBytes_wf a _ w

theorem Hb.putWords_wf {h : Hb} (c : Channel) (p : Nat) (ws : List (BitVec 64)) (w : Memory.wf h.chanMem = true) :
    Memory.wf (Hb.putWords c p ws h).chanMem = true := by
  induction ws generalizing h p with
  | nil => exact w
  | cons x r ih => exact ih _ (Hb.writeWord_wf _ x w)

theorem Hb.clearBytes_wf {h : Hb} (lo n : Nat) (w : Memory.wf h.chanMem = true) :
    Memory.wf (h.clearBytes lo n).chanMem = true := twf_filter _ w

@[simp] theorem Hb.readByte_writeByte_same (h : Hb) (a : Nat) (x : Byte) : (h.writeByte a x).readByte a = x := by
  simp [Hb.readByte, Hb.writeByte]

theorem Hb.readByte_writeByte_other (h : Hb) {a k : Nat} (x : Byte) (n : k ≠ a) : (h.writeByte a x).readByte k = h.readByte k := by
  simp [Hb.readByte, Hb.writeByte, tgetD_tset_other _ _ _ n]

/-- Bytes outside the written ones read as before. -/
theorem Hb.readByte_writeBytes_outside (h : Hb) (a : Nat) (xs : List Byte) (k : Nat) (n : k < a ∨ a + xs.length ≤ k) :
    (h.writeBytes a xs).readByte k = h.readByte k := by
  induction xs generalizing h a with
  | nil => rfl
  | cons x r ih =>
    simp only [List.length_cons] at n
    have := ih (h.writeByte a x) (a + 1) (by omega)
    exact this.trans (Hb.readByte_writeByte_other h x (by omega))

theorem leBytes_length (n v : Nat) : (leBytes n v).length = n := by
  induction n generalizing v with
  | zero => rfl
  | succ n ih => simp [leBytes, ih]

/-- A word write leaves every byte outside its eight. -/
theorem Hb.readByte_writeWord_outside (h : Hb) (a : Nat) (x : BitVec 64) (k : Nat) (n : k < a ∨ a + 8 ≤ k) :
    (h.writeWord a x).readByte k = h.readByte k :=
  Hb.readByte_writeBytes_outside h a _ k (by rw [leBytes_length]; exact n)

@[simp] theorem Hb.writeByte_channels (h : Hb) (a : Nat) (x : Byte) : (h.writeByte a x).channels = h.channels := rfl
@[simp] theorem Hb.writeBytes_channels (h : Hb) (a : Nat) (xs : List Byte) : (h.writeBytes a xs).channels = h.channels := by
  induction xs generalizing h a with
  | nil => rfl
  | cons x r ih => exact ih _ _
@[simp] theorem Hb.writeWord_channels (h : Hb) (a : Nat) (x : BitVec 64) : (h.writeWord a x).channels = h.channels :=
  Hb.writeBytes_channels h a _
@[simp] theorem Hb.putWords_channels (h : Hb) (c : Channel) (p : Nat) (ws : List (BitVec 64)) :
    (Hb.putWords c p ws h).channels = h.channels := by
  induction ws generalizing h p with
  | nil => rfl
  | cons x r ih => exact (ih _ _).trans (Hb.writeWord_channels h _ x)

/-- Freeing channels leaves channel memory. -/
@[simp] theorem Hb.freeChannels_chanMem (h : Hb) (p : Nat → Channel → Bool) : (h.freeChannels p).chanMem = h.chanMem := rfl

end Sys2Proof.Machine
end

