-- ==== Sys2Proof/Laws/Ops.lean ====
section
/-! SUPPORT. What the shared answers of the meanings can do: one lemma each, with its guards. -/

namespace Sys2Proof.Machine

open Sys2Proof.Config

theorem onBlk_next {s t : State} {f : Env → Blk → Blk} (h : onBlk s f = .next t) : t = { s with blk := f s.env s.blk } := by
  simpa [onBlk] using h.symm

/-- A command about a unit always answers; it acts only on a unit that the grade has. -/
theorem atUnit_eq (s : State) (have_ unit : Nat) (f : Env → Blk → Blk) :
    atUnit s have_ unit f = .next { s with blk := if unit < have_ then f s.env s.blk else s.blk } := rfl

/-- The unit exists: the command acts. -/
theorem atUnit_acts {s : State} {have_ unit : Nat} (f : Env → Blk → Blk) (h : unit < have_) :
    atUnit s have_ unit f = .next { s with blk := f s.env s.blk } := by simp [atUnit_eq, h]

theorem atEngine_acts {s : State} {e : Nat} (f : Env → Blk → Blk) (h : e < s.aon.grade.engines) :
    atEngine s e f = .next { s with blk := f s.env s.blk } := atUnit_acts f h

theorem atReach_acts {s : State} {r : Nat} (f : Env → Blk → Blk) (h : r < s.aon.grade.reaches) :
    atReach s r f = .next { s with blk := f s.env s.blk } := atUnit_acts f h

theorem atContext_acts {s : State} {c : Nat} (f : Env → Blk → Blk) (h : c < s.aon.grade.contexts) :
    atContext s c f = .next { s with blk := f s.env s.blk } := atUnit_acts f h

theorem atQueue_acts {s : State} {q : Nat} (f : Env → Blk → Blk) (h : q < 1024) :
    atQueue s q f = .next { s with blk := f s.env s.blk } := atUnit_acts f h

/-- An operation of a run: nothing happens (no such engine, or it stalls), or the active run's operation acts. -/
theorem atRun_next {s t : State} {e : Nat} {f : Env → Run → Blk → Blk} (h : atRun s e f = .next t) :
    t = s ∨ ∃ r, (s.blk.agent e).run = some r ∧ r.active = true ∧ t = { s with blk := f s.env r s.blk } := by
  simp only [atRun] at h
  repeat' split at h
  all_goals first
    | exact .inl (by simpa using h.symm)
    | exact .inr ⟨_, ‹_›, ‹_›, onBlk_next h⟩

/-- The operation of an active run whose engine neither waits nor stalls acts. -/
theorem atRun_acts {s : State} {e : Nat} {r : Run} {f : Env → Run → Blk → Blk} (he : e < s.aon.grade.engines)
    (hf : s.blk.frozen = false) (hw : (s.blk.agent e).wait = none) (hs : (s.blk.agent e).stalled = none)
    (hr : (s.blk.agent e).run = some r) (ha : r.active = true) :
    atRun s e f = .next { s with blk := f s.env r s.blk } := by
  have : ¬ s.aon.grade.engines ≤ e := by omega
  simp [atRun, this, hf, hw, hs, hr, ha, onBlk]

/-- A task that is found stands in a block of its reach. -/
theorem Blk.task?_mem {b : Blk} {k : TaskRef} {x : Task} (h : b.task? k = some x) :
    ∃ p ∈ (b.reach k.reach).blocks, p.2.ctx = k.ctx ∧ p.2.seg = k.seg ∧ p.2.vblock = k.vblock ∧ (k.entry, x) ∈ p.2.entries := by
  unfold Blk.task? Blk.locate at h
  split at h
  case h_2 => cases h
  case h_1 e =>
    split at e
    · cases e
    · rename_i f
      split at e
      · rename_i g
        cases e; cases h
        have m := List.find?_some f
        simp at m
        exact ⟨_, List.mem_of_find?_eq_some f, m.1.1, m.1.2, m.2, mem_of_tget g⟩
      · cases e

end Sys2Proof.Machine
end

