-- ==== Sys2Proof/Laws/Outside.lean ====
section
/-! SUPPORT. Which commands change something beside the block: all the others leave time, identity, registers and the
queue. -/

namespace Sys2Proof.Machine

theorem OnlyBlk.of_onBlk {s t : State} {f : Env → Blk → Blk} (h : onBlk s f = .next t) : OnlyBlk s t := by
  rw [onBlk_next h]; exact ⟨rfl, rfl, rfl⟩

theorem OnlyBlk.of_atRun {s t : State} {e : Nat} {f : Env → Run → Blk → Blk} (h : atRun s e f = .next t) : OnlyBlk s t := by
  rcases atRun_next h with rfl | ⟨r, _, _, rfl⟩ <;> exact ⟨rfl, rfl, rfl⟩

/-- The commands that may change a register, an identity pin, a power state or the time: resets, power, the pulse, and
every access of the register port. -/
def Instr.leavesBlk : Instr → Bool
  | .powerOnReset .. | .domainPowerAck .. | .pulseEdge .. | .mcOperationTimeout | .feFwCtlGo .. | .pgCtlEn .. | .blockReset .. | .resetResume ..
  | .rchTestFence .. | .rchTestStart .. | .dbSnapResumeGo .. | .dbBpResume .. | .mcReqGo .. | .mcSegCtlEn ..
  | .mcAlarmRaise .. | .mcRxPop .. | .feCtlEn .. | .glbLock .. | .registerWrite .. | .registerReadCapture ..
  | .registerAccessError .. => true
  | _ => false

/-- Every other command changes the block alone. -/
theorem exec_onlyBlk {c : Instr} {s t : State} (a : Instr.leavesBlk c = false) (h : exec c s = .next t) : OnlyBlk s t := by
  cases c
  all_goals try cases a
  all_goals try (injection h with h; subst h; exact ⟨rfl, rfl, rfl⟩)
  all_goals try exact .of_atRun h
  all_goals
    delta exec at h
    simp only [execEngineCompletion, execHoldItem, execSendDone, execLaunchGraph,
      execSlotCombine, execEnginePowerGood] at h
    repeat' split at h
    all_goals first
      | (injection h with h; subst h; exact ⟨rfl, rfl, rfl⟩)
      | injection h

end Sys2Proof.Machine
end

