-- ==== Sys2Proof/Tests/Slice0.lean ====
section
/-! SUPPORT. Tests: a term that each check of WellFormed refuses, steps of the manual's worked examples with the values the
manual prints, and for each statement concrete states and operands that meet its hypotheses. -/

namespace Sys2Proof.Tests

open Sys2Proof Sys2Proof.Machine Sys2Proof.Config

set_option Elab.async false

/-! ## WellFormed (R2, R73, R139, R179, R342, R353): a term for each check, just outside it and just within it -/

def illFormed1 : List Instr :=
  [.domainPowerAck 20 false, .stepRequest 16, .edgeRead 16, .outboxSend 16, .unitApply 16, .ledgerRmw 16 false,
   .pageInComplete 16 false, .pageOutComplete 16 false, .backwaterBlockLoad 16 0, .dispatchWordArrive 2048,
   .dispatchPresent 2048, .engineTakeDispatch 2048, .engineCompletion 2048 0, .completionLand 2048, .engineAbortAck 2048,
   .preemptionNoticeLand 2048, .abortRequest 2048, .abortReplyLand 2048, .tilePull 2048, .tilePullRetry 2048,
   .holdItem 2048 (.syncSignal 0 0), .commitNotice 2048, .releaseItemAck 2048, .squashNotice 2048,
   .scoreVector 2048 0 [] [], .chunkBind 4, .sendDone 2048 0, .deferredSendIssue 4, .tileRelease 4 0 0,
   .routerNoticeLand 16]
def illFormed2 : List Instr :=
  [.chunkPull 2048, .sessionClosePoint 4, .sessionClose 4, .closeWritesAcked 4 false, .bellAndDone 1024 false,
   .piReadDone 1024 0 false, .descriptorFetchDone 1024 0 false, .nop 1024, .launchGraph 1024 [] [] .ok, .loadImage 1024,
   .patch 1024 [] .ok, .waitValue 1024, .waitValuePoll 1024, .waitValueReadDone 1024 0 false, .writeValue 1024,
   .writeValueAck 1024 false, .markBegin 1024, .markEnd 1024, .step 1024 [] false,
   .contextCreate 1024 (List.replicate 256 0) (List.replicate 256 0), .contextDestroy 1024, .queueCreate 1024,
   .queueDestroy 1024, .dumpTensor 1024, .reservedOpcode 1024, .queueTimeout 1024, .syncRead 2048 0, .syncAdd 2048 0 0,
   .syncWaitGe 2048 0 0, .syncWaitEq 2048 0 0]
def illFormed3 : List Instr :=
  [.syncTake 2048 0 0, .syncRsig 2048 ⟨0, 0, 0, 0, 0, 0, 0⟩, .syncReservedOp 2048, .operationClassReserved 2048,
   .dmaCompletionSignal 2048 0 0, .epochQuery 2048 0, .connect 2048 0 0, .accept 2048 0 0 false false 0, .send 2048 0 [],
   .read 2048 0 [], .mark 2048 0, .rewind 2048 0, .release 2048 0, .close 2048 0, .fanout 2048 0 [],
   .cbOpen 2048 0 0, .cbQueueOpen 64 0, .cbPut 2048 ⟨0, 0, 0, 0, 0, 0, 0⟩, .channelReservedOp 2048,
   .slotCombine 64 0 0 [], .combineCloseDone 64 0, .enginePowerGood 2048 false, .teardownDeadline 64, .rchTestFence 16,
   .rchTestStart 16, .selfTestDone 16 0, .census 2048 0 0 0 0 0, .censusClose 2048 0 0 0 0, .watchFetch 2048,
   .watchHit 2048 0 0 false]
def illFormed4 : List Instr :=
  [.pulseEdge { reads := [⟨38, 0, 0, 0, false, .clean⟩] },
   .debugReservedOp 2048, .statusRecordWriteResponse 1024 false false, .chunkClaimable 4 0, .backwaterBlockLoad 0 64,
   .holdItem 0 (.memWrite 0 []), .holdItem 0 (.memWrite 0 (List.replicate 257 0)),
   .scoreVector 0 0 (List.replicate 17 0) [], .tileRelease 0 256 0, .tileRelease 0 0 65536,
   .summaryReadDone (List.replicate 15 0) false, .contextCreate 0 (List.replicate 255 0) (List.replicate 256 0),
   .contextCreate 0 (List.replicate 256 0) (List.replicate 257 0), .connect 0 65536 0, .accept 0 65536 0 false false 0,
   .fanout 0 65536 [], .scrubPage 256 0 0 0 .clean, .breakpointHalt .cp 4, .beacon (List.replicate 2049 0),
   .request (List.replicate 2049 0), .alarm (List.replicate 2049 0), .telemetry (List.replicate 2049 0),
   .log (List.replicate 2049 0), .response (List.replicate 2049 0), .probe (List.replicate 2049 0)]

theorem test_wf_refuses_1 : illFormed1.all (fun i => !i.wf) = true := by decide +kernel
theorem test_wf_refuses_2 : illFormed2.all (fun i => !i.wf) = true := by decide +kernel
theorem test_wf_refuses_3 : illFormed3.all (fun i => !i.wf) = true := by decide +kernel
theorem test_wf_refuses_4 : illFormed4.all (fun i => !i.wf) = true := by decide +kernel

def edgeFormed1 : List Instr :=
  [.domainPowerAck 19 false, .stepRequest 15, .edgeRead 15, .outboxSend 15, .unitApply 15, .ledgerRmw 15 false,
   .pageInComplete 15 false, .pageOutComplete 15 false, .backwaterBlockLoad 15 0, .dispatchWordArrive 2047,
   .dispatchPresent 2047, .engineTakeDispatch 2047, .engineCompletion 2047 0, .completionLand 2047, .engineAbortAck 2047,
   .preemptionNoticeLand 2047, .abortRequest 2047, .abortReplyLand 2047, .tilePull 2047, .tilePullRetry 2047,
   .holdItem 2047 (.syncSignal 0 0), .commitNotice 2047, .releaseItemAck 2047, .squashNotice 2047,
   .scoreVector 2047 0 [] [], .chunkBind 3, .sendDone 2047 0, .deferredSendIssue 3, .tileRelease 3 0 0,
   .routerNoticeLand 15]
def edgeFormed2 : List Instr :=
  [.chunkPull 2047, .sessionClosePoint 3, .sessionClose 3, .closeWritesAcked 3 false, .bellAndDone 1023 false,
   .piReadDone 1023 0 false, .descriptorFetchDone 1023 0 false, .nop 1023, .launchGraph 1023 [] [] .ok, .loadImage 1023,
   .patch 1023 [] .ok, .waitValue 1023, .waitValuePoll 1023, .waitValueReadDone 1023 0 false, .writeValue 1023,
   .writeValueAck 1023 false, .markBegin 1023, .markEnd 1023, .step 1023 [] false,
   .contextCreate 1023 (List.replicate 256 0) (List.replicate 256 0), .contextDestroy 1023, .queueCreate 1023,
   .queueDestroy 1023, .dumpTensor 1023, .reservedOpcode 1023, .queueTimeout 1023, .syncRead 2047 0, .syncAdd 2047 0 0,
   .syncWaitGe 2047 0 0, .syncWaitEq 2047 0 0]
def edgeFormed3 : List Instr :=
  [.syncTake 2047 0 0, .syncRsig 2047 ⟨0, 0, 0, 0, 0, 0, 0⟩, .syncReservedOp 2047, .operationClassReserved 2047,
   .dmaCompletionSignal 2047 0 0, .epochQuery 2047 0, .connect 2047 0 0, .accept 2047 0 0 false false 0, .send 2047 0 [],
   .read 2047 0 [], .mark 2047 0, .rewind 2047 0, .release 2047 0, .close 2047 0, .fanout 2047 0 [],
   .cbOpen 2047 0 0, .cbQueueOpen 63 0, .cbPut 2047 ⟨0, 0, 0, 0, 0, 0, 0⟩, .channelReservedOp 2047,
   .slotCombine 63 0 0 [], .combineCloseDone 63 0, .enginePowerGood 2047 false, .teardownDeadline 63, .rchTestFence 15,
   .rchTestStart 15, .selfTestDone 15 0, .census 2047 0 0 0 0 0, .censusClose 2047 0 0 0 0, .watchFetch 2047,
   .watchHit 2047 0 0 false]
def edgeFormed4 : List Instr :=
  [.pulseEdge { reads := [⟨37, 0, 0, 0, false, .clean⟩] },
   .debugReservedOp 2047, .statusRecordWriteResponse 1023 false false, .chunkClaimable 3 0,
   .holdItem 0 (.memWrite 0 (List.replicate 256 0)), .scoreVector 0 0 (List.replicate 16 0) [], .tileRelease 0 255 65535,
   .summaryReadDone (List.replicate 16 0) false, .scrubPage 255 0 0 0 .clean, .breakpointHalt .cp 3,
   .beacon (List.replicate 2048 0)]

theorem test_wf_accepts_1 : edgeFormed1.all Instr.wf = true := by decide +kernel
theorem test_wf_accepts_2 : edgeFormed2.all Instr.wf = true := by decide +kernel
theorem test_wf_accepts_3 : edgeFormed3.all Instr.wf = true := by decide +kernel
theorem test_wf_accepts_4 : edgeFormed4.all Instr.wf = true := by decide +kernel

/-! ## States -/

/-- A block whose domains are powered, at pulse 2000, with no channel work under way. -/
def tOn : State :=
  { State.reset with aon := { State.reset.aon with pulse := 2000, pdReq := 0xFFFFF, pdAck := 0xFFFFF } }
def tB (b : Blk) : State := { tOn with blk := b }
def tCfg (c : RegFile) : State := { tOn with cfg := c }
/-- Context 1 with room for its objects, and a launch with epoch 0. -/
def tCtx : Ctx :=
  { record := { gsyncQ := 256, chanQ := 16, cqQ := 4, chanKib := 1, blocks := [0, 1], granules := [0] }, launchQueue := some 1 }
def tFe (x : Ctx) : Fe := { ctxs := [(0, {}), (1, x)] }
def tRef : TaskRef := { ctx := 1, id := 0 }
def tWord : DWord := { ref := tRef, word := 0 }
def tRun : Run := { dw := tWord }
def tShadow : Run := { tRun with shadow := true }
def tUp : Agent := { pwrGood := true, joined := true }
/-- Engine 0 in a given state. -/
def tA (a : Agent) : State := tB { agents := [(0, a)], fe := tFe tCtx }
/-- Reach 0 in a given state. -/
def tR (rc : Reach) : State := tB { reaches := [(0, rc)], fe := tFe tCtx }
/-- A context of the task of `tRef`, in a block of reach 0. -/
def tTask : Task := { state := .waiting, depcnt := 2 }
def tBlock (x : Task) : Block :=
  { ctx := 1, seg := 0, vblock := 0, taskN := 1, roots := false, loop := false, edgeBase := 0, edgeN := 0
    entries := [(0, x)], lastDec := 0 }
def tUnit : XUnit := { kind := .plain, target := tRef }
def tPageIn : PageIn := { ctx := 1, seg := 0, vblock := 0, phys := 0, base := 0 }
def tFrame : Frame :=
  { reach := 0, seg := 0, vblock := 0, taskN := 1, roots := false, loop := false, copyAddr := 0, launch := [(0, tTask)]
    edges := [], live := some [(0, tTask)] }
/-- Engine 0 with a run. -/
def tEng (r : Run) : State := tA { tUp with run := some r }
/-- Queue 1 of context 1, with the front end running. -/
def tQ : Queue := { ctx := 1, prio := 0, slot := 0, log2n := 6, ring := 0, statAddr := 0, timeout := 0, ci := 1 }
def tOnCfg : RegFile := { stored := [(0x100000, 1)], active := [(0x100000, 1)] }
def tQs (qs : Tbl Queue) : State :=
  { tB { fe := { tFe tCtx with queues := qs, fwState := .running } } with cfg := tOnCfg }
def tFetched (c : Nat) (d : BitVec 512) : Queue := { tQ with ctx := c, fetched := [some d] }
def tStart (c : Nat) (d : BitVec 512) : State := tQs [(1, tFetched c d)]
def tBegun (d : BitVec 512) (p : Phase) : Started := { index := 0, desc := d, phase := p, head := true, start := 0 }
def tQAt (d : BitVec 512) (p : Phase) : Queue := { tQ with started := [tBegun d p] }
def tAt (d : BitVec 512) (p : Phase) : State := tQs [(1, tQAt d p)]
/-- The loader at work for the queue of a state. -/
def tLoad (k : Ctx) (d : BitVec 512) (p : Phase) : State :=
  { tB { fe := { tFe k with queues := [(1, tQAt d p)], loader := [(1, 0)], fwState := .running } } with cfg := tOnCfg }
/-- A loaded-image description: one reach, one block, one plain task, no edges (R76-R79). -/
def tImage : List Byte :=
  leBytes 4 0x474B4C4F ++ leBytes 4 0x0102 ++ leBytes 4 1 ++ leBytes 4 0x85c112c3 ++ leBytes 8 224 ++ leBytes 40 0
    ++ leBytes 4 0 ++ leBytes 4 1 ++ leBytes 8 128 ++ leBytes 8 192 ++ leBytes 8 0 ++ leBytes 32 0
    ++ leBytes 4 0x10000 ++ leBytes 4 0 ++ leBytes 8 192 ++ leBytes 48 0 ++ leBytes 32 0
def tImgCtx : Ctx := { tCtx with record := { tCtx.record with blocks := [1], spillBytes := 16384 } }
/-- A firmware image with empty sections for every grade (Table 8.22). -/
def tFw : List Byte :=
  leBytes 4 0x57464B4F ++ leBytes 4 0x0102 ++ leBytes 4 0 ++ leBytes 4 0x3F03 ++ leBytes 16 0 ++ leBytes 8 160 ++ leBytes 120 0
/-- An RSD of one row of expert tiles. -/
def tRow : RsdRow :=
  { type := 0, expert := 0, dmaEset := 0, cap := 16, tile0 := 0, tileN := 2, stream := 5, buf := 0, slot0 := 0, fill0 := 0 }
def tRsd : Rsd :=
  { tokenN := 1, k := 1, expM1 := 0, wraw := false, renorm := false, quota := false, dyn := false, sfp32 := true, tlog := 4
    srcN := 1, poolTokens := 0, chunkN := 1, predBase := 0, actBase := 0, rowBytes := 64, recBase := 0, slotRec := 0
    chunkBuf := 0, chunkRec := 0, cmdBase := 0, fillBase := 0, cntBase := 0, closeTask := 0, combQ0 := 0, qlog := 0
    rows := [tRow] }
def tSess : Session := { ctx := 1, rsdIx := 0, round := 0, rsd := tRsd }
def tRt (x : Session) : State := tB { fe := tFe tCtx, rt := { sessions := [(0, x)] } }
def tVec : Sys2Proof.Machine.Vector := { engine := 0, ctx := 1, rsdIx := 0, round := 0, token := 0, words := List.replicate 16 0 }
def tPlaced : Placed := { row := 0, chunk := false, index := 0, record := ⟨0, 0, 0, 0, 0, 0⟩, sent := true, done := true }
def tSend : SendWord :=
  { id := 1, src := 0, dst := 0, len := 64, stream := 0, epoch := 0, fab := false, slot := 0, row := 0, chunk := false
    index := 0 }
/-- Hub objects of context 1. -/
def tHub (h : Hb) (a : Agent) : State := tB { agents := [(0, a)], fe := tFe tCtx, hb := h }
def tEnd : ChEnd := { engine := 0, statEngine := 0, ref := tRef, stat := 0 }
def tChan : Channel := { ctx := 1, state := .opened, rlog := 4, sendEnd := some tEnd, recvEnd := some tEnd }
def tChs (x : Channel) (r : Run) : State := tHub { channels := [(chKey 1 0, x)] } { tUp with run := some r }
def tCq : CombQ :=
  { ctx := 1, state := .opened, argix := 0, launch := 0, intMode := false, osat := false, ofmt := 0, orderN := 1, slotN := 1
    elems := 32, orderBase := 0, outBase := 0, outStride := 128 }
def tPut : PutOp := { queue := 0, slot := 0, pos := 0, fmt := 0, cfl := 0, weight := 0, addr := 0 }
def tCqs (q : CombQ) : State := tHub { cqs := [(cqKey 1 0, q)] } { tUp with run := some tRun }
def tOut : Outstanding :=
  { ctx := 1, stream := 3, dst := 7, epoch := 0, seq := 9, packet := 0, ticket := 0, sentAt := some 1000 }
def tSig : Signal :=
  { kind := 1, epoch := 0, ctx := 1, stream := 3, src := 7, dst := 0, round := 0, seq := 0, expect := 1, target := 5
    value := 1 }
/-- Packets of Tables 9.5 and 9.6: a SYNC signal of stream 3 from node 7, and an acknowledgement of sequence 9. -/
def tPkt : BitVec 256 := 0x0101 ||| (1 <<< 24) ||| (3 <<< 32) ||| (7 <<< 48) ||| (1 <<< 128) ||| (5 <<< 160) ||| (1 <<< 192)
def tAck : BitVec 128 := 2 ||| (3 <<< 32) ||| (7 <<< 48) ||| (9 <<< 96)
def tRecv (count : BitVec 32) : State :=
  { tHub { recvs := [(3, { used := true, src := 7, count := count })] } {} with cfg := { active := [(0x901000, 0x10001)] } }
/-- MC with an operation, or with an attachment. -/
def tMc (m : Mc) : State := tB { mc := m }
def tOp (op : Nat) (started : Bool) : McOp := { op := op, args := [0, 0, 0, 0], asker := .port, started := started }
def tOpSt (op : Nat) (started : Bool) : State := tMc { running := some (tOp op started) }
/-- A frame of station 1 to every station, zero but for its header, with its CRC (R353). -/
def tFrm (type len crc : Nat) : List Byte :=
  leBytes 4 0 ++ leBytes 1 1 ++ leBytes 1 0xFF ++ leBytes 1 type ++ leBytes 1 0 ++ leBytes 2 len ++ leBytes 6 0
    ++ leBytes (len - 20) 0 ++ leBytes 4 crc
def tTx : TxFrame := { type := 2, dst := 0xFF, seq := 0, prio := 4, body := List.replicate 108 0 }
def tList (p : Pull) : State := tB
  { agents := [(0, { tUp with listWord := some tWord, pull := p })], fe := tFe tCtx
    reaches := [(0, { blocks := [(0, tBlock { tTask with kind := .list, state := .ready, tiles := 3 })] })]
    pg := { permit := 0xFFFFFFFF00000003 } }
def tPull (p : Pull) : State := tB
  { agents := [(0, { tUp with run := some { tRun with dw := { tWord with word := 3 } }, pull := p })], fe := tFe tCtx
    reaches := [(0, { blocks := [(0, tBlock { tTask with kind := .expert, state := .dispatched })] })]
    rt := { sessions := [(0, { tSess with chunks := [(0, { row := some 0, count := 16, claimable := true })] })] }
    pg := { permit := 0xFFFFFFFF00000003 } }
def tPoll (p : Poll) : State :=
  { tQs [(1, tQ)] with blk := { (tQs [(1, tQ)]).blk with fe := { (tQs [(1, tQ)]).blk.fe with poll := { p with hints := [5] } } } }
/-- The loader halted, beside a queue that is about to start. -/
def tQs2 (halted : Bool) : State :=
  { tStart 1 2 with blk := { (tStart 1 2).blk with fe := { (tStart 1 2).blk.fe with loaderHalted := halted } } }
/-- A queue at its timeout whose run hangs. -/
def tHung : State :=
  let s := tQs [(1, { tQAt 1 .arming with timeout := 5, timer := 5, timerLeft := 9 })]
  { s with blk := { s.blk with agents := [(0, { tUp with run := some tRun })] } }
def tScrub : State := { tB { rel := { validPages := [(36, 0)] }, pg := { permit := 4 } } with cfg := { active := [(0x12C, 1)] } }
def tDump : Dump := { ctx := 1, src := 0, dst := 0, bytes := 64, tensor := 0, atLaunch := 0, taken := true }
/-- An RSD of one token and one row of expert tiles (R151). -/
def tRsdBytes : List Byte :=
  leBytes 4 1 ++ leBytes 2 1 ++ leBytes 1 1 ++ leBytes 1 0 ++ leBytes 4 16 ++ leBytes 4 4 ++ leBytes 4 1 ++ leBytes 4 0
    ++ leBytes 4 1 ++ leBytes 12 0 ++ leBytes 4 64 ++ leBytes 84 0 ++ leBytes 4 1 ++ leBytes 4 0 ++ leBytes 4 0xFFFFFFFF ++ leBytes 20 0
theorem tSound : RegInv { tCfg { stored := [(0x100000, 1)] } with pending := [.supplyLevelChange 1] } := by
  refine ⟨fun off w h => ?_, fun off w h => ?_⟩
  · simp only [tCfg, tOn, tget, State.reset] at h
    split at h
    · rename_i e; subst e; cases h; exact ⟨_, rfl, by decide, by decide⟩
    · cases h
  · cases h
/-- A task of reach 0, a unit for it, and engine 5 with a task that may be selected for it. -/
def tT (x : Task) : State := tR { blocks := [(0, tBlock x)] }
def tUnits (x : Task) (u : XUnit) : State := tR { blocks := [(0, tBlock x)], arrivals := [u] }
def tSel (x : Task) (a : Agent) : Blk :=
  { agents := [(5, a)], fe := tFe { tCtx with groupMap := [0] }, reaches := [(0, { blocks := [(0, tBlock x)] })]
    pg := { permit := 0xFFFFFFFF00000007 } }
def tBeat (w : Nat) : FbBeat := { mask := 1, bits := BitVec.ofNat 512 w }
/-- A descriptor about to start with every tag of host memory out. -/
def tNoTag (d : BitVec 512) : State :=
  let s := tStart 1 d
  { s with blk := { s.blk with fe := { s.blk.fe with hostOut := (List.range 64).map fun t => (t, .summaryRead 0) } } }
/-- A fence whose write is at work in queue 1, or whose descriptor is gone. -/
def tFence (x : Queue) : State :=
  let s := tQs [(1, x)]
  { s with blk := { s.blk with fe := { s.blk.fe with fences := [{ queue := 1, ctx := 1, index := 0 }] } } }
theorem onlyUnit_of {s : State} {u : XUnit} {rc : Reach} (h : s.blk.frozen = false ∧ s.blk.reaches = [(0, rc)] ∧
    rc.arrivals = [u] ∧ rc.backlog = [] ∧ rc.outbox = []) : OnlyUnit s 0 u := by
  obtain ⟨f, r, a, b, o⟩ := h
  have e (k : Nat) : s.blk.reach k = if k = 0 then rc else {} := by
    by_cases z : k = 0 <;> simp [Blk.reach, r, tgetD, tget, z, eq_comm]
  refine ⟨f, by simp [e, a], fun k => ?_, fun k d => ?_⟩ <;> rw [e] <;> split <;> simp_all [tgetD]
theorem once_of {b : Blk} {k : TaskRef} {x : Task} (h : tsorted none (b.reach k.reach).blocks = true ∧
    (∀ p ∈ (b.reach k.reach).blocks, tsorted none p.2.entries = true) ∧ b.task? k = some x ∧
    ((b.reach k.reach).tasks k.reach).filter (fun p => p.1 == k) = [(k, x)]) : Once b k :=
  ⟨h.1, h.2.1, fun y e => by rw [h.2.2.1] at e; cases e; exact h.2.2.2⟩
theorem followed_of {b : Blk} {k : TaskRef} (o : Once b k) (p : (b.reach k.reach).pagingIn = none)
    (g : ∀ rc ∈ b.reaches, ∀ bl ∈ rc.2.blocks, ∀ e ∈ bl.2.entries, e.2.kind ≠ .gang) : Followed b k :=
  { o with
    paging := fun _ _ _ _ e => by rw [p] at e; cases e
    alone := fun h z e c => by
      obtain ⟨q, m, -, -, -, n⟩ := Blk.task?_mem e
      rcases mem_of_tgetD {} b.reaches h.reach with d | d
      · simp only [Blk.reach, d] at m; cases m
      · exact g _ d _ m _ n c.1 }
theorem runsAt_of {s : State} {e : Nat} {r : Run} (h : e < s.aon.grade.engines ∧ s.blk.frozen = false ∧
    (s.blk.agent e).run = some r ∧ r.active = true ∧ (s.blk.agent e).wait = none ∧ (s.blk.agent e).stalled = none) :
    RunsAt s e r := ⟨h.1, h.2.1, h.2.2.1, h.2.2.2.1, h.2.2.2.2.1, h.2.2.2.2.2⟩
theorem starts_of {s : State} {q : Nat} {u : Queue} {d : BitVec 512} (h : q < 1024 ∧ s.blk.queue? q = some u ∧
    u.fetched.head? = some (some d) ∧ s.blk.nextStart s.env = some q) : Starts s q u d :=
  ⟨h.1, h.2.1, h.2.2.1, h.2.2.2⟩
/-- The first four, or seven, clauses of a witness, decided together. -/
theorem four {a b c d z : Prop} (h : a ∧ b ∧ c ∧ d) (k : z) : a ∧ b ∧ c ∧ d ∧ z :=
  ⟨h.1, h.2.1, h.2.2.1, h.2.2.2, k⟩
theorem seven {a b c d e f g z : Prop} (h : a ∧ b ∧ c ∧ d ∧ e ∧ f ∧ g) (k : z) : a ∧ b ∧ c ∧ d ∧ e ∧ f ∧ g ∧ z :=
  four ⟨h.1, h.2.1, h.2.2.1, h.2.2.2.1⟩ ⟨h.2.2.2.2.1, h.2.2.2.2.2.1, h.2.2.2.2.2.2, k⟩

/-! ## The worked examples of the manual, a step at a time -/

/-- What the block is after a command, of a state in which it completes. -/
def after (c : Instr) (s : State) : State := match exec c s with | .next t => t | _ => s

/-- Tables 16.7, 16.10, 16.11 and 16.13: what the registers read after a cold reset. -/
theorem test_reset_values :
    [0x100004, 0x901000, 0xA00000, 0xC00000, 0x110000, 0x110100].map (fun o => tOn.blk.regNow tOn.env o)
      = [0x20, 0x04000001, 0x230, 0x406, 0xFFFFFFFF, 0] := by decide +kernel

/-- The write of 0x10 to FE_DB_POLL behind the lock (Table 16.17 and the text after it). -/
theorem test_locked_write_is_discarded :
    let t := after (.registerWrite 0x100004 0x10 0xF) (tCfg { lock := true })
    t.blk.regNow t.env 0x100004 = 0x20 ∧ t.cfg.lockedWr = true ∧ t.cfg.errAddr = 0xC0100004 := by decide +kernel

/-- The write to RCH_TEST_3 during phase 3 of a block reset (the text after Table 16.17). -/
theorem test_write_during_reset_is_discarded :
    let t := after (.registerWrite 0x203044 1 0xF) (tB { rel := { phase := 3 } })
    t.cfg.stored = [] ∧ t.cfg.accErr = true ∧ t.cfg.errAddr = 0x80203044 := by decide +kernel

/-- ACC_ERR is cleared by a write of one during phase 3 (the text after Table 16.17). -/
theorem test_status_flag_clears_during_reset :
    (after (.registerWrite 0 1 0xF) { tB { rel := { phase := 3 } } with cfg := { accErr := true } }).cfg.accErr = false := by
  decide +kernel

/-- Task G of Table 3.9, from the image and as it stands in the task store. -/
theorem test_task_entry_of_g :
    (taskOf 0x0004000000000BC8_0000002100000700_05000680C07FFFFF_4000000400000001).map
        (fun x => taskBits 1 { x with succPtr := 0xE402 })
      = some 0x0004000000000BC8_0000002100000700_05003900807FFFFF_4000000400001001 := by decide +kernel

/-- Edge entries of Table 3.8: G to expert 37 is a group of LEN 159. -/
theorem test_edge_to_expert_37 :
    edgeTarget 0x71D4129F = 0x71D41 ∧ edgeKind 0x71D4129F = 1 ∧ edgeKb 0x71D4129F = 159 := by decide

/-- 0xBC8 is 200 × 4^11 pJ (Table 3.9), 0x94C is 76 × 4^9 pJ (Table 12.3). -/
theorem test_energy_fields : energyPj 0xBC8 = 838860800 ∧ energyPj 0x94C = 19922944 := by decide

/-- G's list word on engine 17 (Table 11.11). -/
theorem test_list_word_of_g :
    dispatchWord { ctx := 1, id := 0x01C01 } { kind := .list, code := 0x21 }
        { arg := 0x000000400001C000, tileN := 1024, engine := 17, epoch := 0x2B }
      = 0x000000400001C000_0000002104000000_00000000004400AC_0700410000000001 := by decide +kernel

/-- The completion word of tile 731 (Table 11.12): 11,304,960 bytes of engine SRAM and nothing else. -/
theorem test_completion_word_of_tile_731 :
    let w : BitVec 128 := 0x00000000002B2040_0B6CAC0700400000
    cplStatus w = 0 ∧ cplEpoch w = 0x2B ∧ cplSram w = 11304960 ∧ cplDev w = 0 ∧ cplHost w = 0 ∧ cplFab w = 0 := by
  decide +kernel

/-- The channel of Table 10.7 at a moment. -/
def tRing (wp rp rl seq gaps : Nat) : Channel :=
  { tChan with wp := wp, rp := rp, rl := rl, seqNext := BitVec.ofNat 32 seq, gapCount := gaps
               gapFirst := if gaps = 0 then 0 else 3, gapFlag := gaps != 0 }
/-- What a SEND of some words leaves: the channel, and the header at a word of its ring. -/
def tSent (x : Channel) (n at' : Nat) : Option Channel × BitVec 64 :=
  let t := after (.send 0 0 (List.replicate n 0)) (tChs x tRun)
  (t.blk.chan? 1 0, t.blk.hb.readWord (8 * at'))

/-- SEND B of Table 10.7: words 6 to 12, WP 13. -/
theorem test_send_b : ((tSent (tRing 6 0 0 1 0) 6 6).1.map Channel.wp, (tSent (tRing 6 0 0 1 0) 6 6).2)
    = (some 13, 0x0000600000000001) := by decide +kernel
/-- SEND C of Table 10.7: a pad at words 13 to 15, the message at word 0, WP 21. -/
theorem test_send_c_pads : ((tSent (tRing 13 13 13 2 0) 4 13).1.map Channel.wp, (tSent (tRing 13 13 13 2 0) 4 13).2,
    (tSent (tRing 13 13 13 2 0) 4 0).2) = (some 21, 0x2000200000000000, 0x0000400000000002) := by decide +kernel
/-- SEND D of Table 10.7: dropped, FIRST 3, count 1. -/
theorem test_send_d_is_dropped : (tSent (tRing 21 13 13 3 0) 9 0).1.map (fun x => (x.wp, x.gapFirst, x.gapCount, x.lost))
    = some (21, 3, 1, 1) := by decide +kernel
/-- SEND E of Table 10.7: the marker at word 5, the message at word 6, WP 26. -/
theorem test_send_e_writes_the_marker : ((tSent (tRing 21 21 21 4 1) 3 5).1.map Channel.wp,
    (tSent (tRing 21 21 21 4 1) 3 5).2, (tSent (tRing 21 21 21 4 1) 3 6).2) = (some 26, 0x1000100000000003, 0x0000300000000004) := by
  decide +kernel

/-- Node B of Table 9.9 with a fabric count. -/
def tNodeB (held : List Signal) (map : BitVec 64) (count : BitVec 32) : State :=
  { tHub { recvs := [(0x311, { used := true, src := 0x12, epoch := 0x2A, base := 0x200, held := map, count := count })]
           held := held } {} with cfg := { active := [(0x901004, 0x34)] } }
def tSigA : BitVec 256 :=
  1 ||| (0x2A <<< 16) ||| (1 <<< 24) ||| (0x311 <<< 32) ||| (0x12 <<< 48) ||| (0x34 <<< 64) ||| (0x200 <<< 96)
    ||| (0x14000 <<< 128) ||| (0x52A10 <<< 160)
/-- The signal that overtakes its data is held (Table 9.9, pulse 30,000,001). -/
theorem test_signal_overtakes_its_data :
    let t := after (.signalReceive (tBeat tSigA.toNat)) (tNodeB [] 0 0x13FFE)
    t.blk.hb.held.length = 1 ∧ (t.blk.recv 0x311).base = 0x200 := by decide +kernel
/-- The count push that covers it releases it, and BASE becomes 0x201 (Table 9.9, pulse 30,000,003). -/
theorem test_count_push_releases :
    let t := after (.fabricCountPush (0x311 ||| (0x2A <<< 16) ||| (0x14000 <<< 24))) (tNodeB [signalOf tSigA] 1 0x13FFE)
    t.blk.hb.held = [] ∧ (t.blk.recv 0x311).base = 0x201 ∧ (t.blk.recv 0x311).count = 0x14000 := by decide +kernel

/-- The governor repays (Table 12.3, edge 40,960,020): B = 1,232,896 pJ (held in steps of 1/4,096 pJ), ALLOW = 301 units, DSP_EN. -/
theorem test_governor_repays :
    let s := { tB { pg := { metering := true, bucket := -14767104 * 4096, fillFp := 0x4B742400 } } with
      cfg := { active := [(0x100000, 1), (0xA00000, 0x231)], frozen := true } }
    let b := s.blk.pgEdge s.env 64
    b.pg.bucket = 1232896 * 4096 ∧ bits b.pg.permit 32 32 = 301 ∧ b.dspEn = true := by decide +kernel

/-- The alarm summary of Table 15.12: kinds 0, 1, 2, 5, 13 and 14. -/
theorem test_alarm_summary :
    let t := after .alarmFreeze
      (tMc { attach := .joined, cycle := some 9, alarmN := 64, alarms := [(0, 1), (1, 2), (2, 3), (5, 4), (13, 1), (14, 1)] })
    t.blk.mc.alarms = [] ∧ (t.blk.mc.onAir.map fun f => (f.type, f.dst, f.len, f.body.take 2)) = [(1, 0xFF, 128, [0x27, 0x60])] := by
  decide +kernel

/-- Position order of Table 10.12 on exact operands: 1.5 − 2.0 + 0.75 = 0.25. -/
theorem test_fp32_adds : addFp (addFp 0x3FC00000 0xC0000000) 0x3F400000 = 0x3E800000 := by decide +kernel

/-- A cold reset during use (R276): the strap and identity are sampled, the rest is as State.reset has it. -/
theorem test_cold_reset :
    after (.powerOnReset 7 9 true false) (tCfg { lock := true })
      = { State.reset with aon := { State.reset.aon with dieId := 7, station := 9, lanternOk := true } } := by decide +kernel

/-- SYNC_ADD of −8 to 7 clamps at zero, sets SAT and SATURATED (R214, R216). -/
theorem test_sync_add_clamps :
    let t := after (.syncAdd 0 3 0xFFFFFFF8) (tA { tUp with run := some tRun, locals := [(3, { value := 7 })] })
    (t.blk.syncObj (.ofAgent 0 3)).value = 0 ∧ (t.blk.syncObj (.ofAgent 0 3)).sat = true ∧
      (t.blk.agent 0).run.map Run.status = some stSaturated := by decide +kernel

/-! ## The hypotheses of the statements can be met: a witness for each clause -/

theorem witness_StepRunsTheFrontCommand :
    (∃ (s : State) (c : Instr) (rest : List Instr), s.pending = c :: rest) ∧
    (∃ (s : State), s.pending = []) ∧
    (∃ (s : State), s.pending = [] ∧ (¬ (s.aon.since + 1 = 256 ∧ s.blk.mc.waits 4 = true))) ∧
    (∃ (s : State), ∃ x, s.pending = [] ∧ s.aon.since + 1 = 256 ∧ s.blk.mc.waits 4 = true ∧ s.blk.mc.running = some x ∧
      x.asker = .port) :=
  ⟨⟨{ tOn with pending := [.supplyLevelChange 1] }, .supplyLevelChange 1, [], by decide +kernel⟩,
   ⟨tOn, by decide +kernel⟩,
   ⟨tOn, by decide +kernel⟩,
   ⟨{ tOpSt 4 true with aon := { tOn.aon with since := 255 } }, tOp 4 true, by decide +kernel⟩⟩

theorem witness_TimeMovesOnlyAtEdges :
    ∃ (c : Instr) (s t : State), exec c s = .next t :=
  ⟨.blkResetReq, tOn, _, rfl⟩

theorem witness_RegisterFileStaysSound :
    ∃ (s t : State), RegInv s ∧ step s = .next t :=
  ⟨{ tCfg { stored := [(0x100000, 1)] } with pending := [.supplyLevelChange 1] }, _, tSound, rfl⟩

theorem witness_EnableFreezesTable16_4 :
    (∃ (p : PulseIn) (s t : State), exec (.pulseEdge p) s = .next t ∧ (s.cfg.storedAt s.aon.grade 0x100000).getLsbD 0 =
      true) ∧
    (∃ (c : Instr) (s t : State), exec c s = .next t ∧ s.cfg.frozen = true ∧ (∀ die st lantern maker, c ≠ .powerOnReset die
      st lantern maker)) ∧
    (∃ (c : Instr) (s t : State), ∃ off r, exec c s = .next t ∧ s.cfg.frozen = true ∧ (∀ die st lantern maker, c ≠
      .powerOnReset die st lantern maker) ∧ frozenByEn off = true ∧ regAt s.aon.grade off = some r ∧ r.access = .rwl) ∧
    (∃ (s : State) (addr : BitVec 24) (r : Reg), s.cfg.frozen = true ∧ frozenByEn addr.toNat = true ∧ regAt s.aon.grade
      addr.toNat = some r ∧ r.access = .rwl ∧ PortOpen s addr.toNat) :=
  ⟨⟨{}, tCfg { stored := [(0x100000, 1)] }, _, rfl, by decide +kernel⟩,
   ⟨.supplyLevelChange 1, tCfg { frozen := true }, _, rfl, by decide +kernel, nofun⟩,
   ⟨.supplyLevelChange 1, tCfg { frozen := true }, _, 0x11FFFC, _, rfl, by decide +kernel, nofun, by decide +kernel, rfl,
      by decide +kernel⟩,
   ⟨tCfg { frozen := true }, 0x100030, _, by decide +kernel, by decide +kernel, rfl, by decide +kernel, ⟨by decide +kernel,
      by decide +kernel⟩⟩⟩

theorem witness_LockHoldsRegisters :
    (∃ (s : State) (addr : BitVec 24) (r : Reg), s.cfg.lock = true ∧ regAt s.aon.grade addr.toNat = some r ∧ r.access = .rwl
      ∧ PortOpen s addr.toNat) ∧
    (∃ (c : Instr) (s t : State), exec c s = .next t ∧ (s.cfg.lock || s.cfg.lockSaved) = true ∧ (∀ die st lantern maker, c ≠
      .powerOnReset die st lantern maker)) ∧
    (∃ (c : Instr) (s t : State), exec c s = .next t ∧ s.cfg.lock = true ∧ (∀ die st lantern maker, c ≠ .powerOnReset die st
      lantern maker) ∧ (∀ b, c ≠ .blockReset b)) ∧
    (∃ (s : State), s.blk.rel.phase = 5 ∧ s.blk.rel.pendingCause = none ∧ s.cfg.lockSaved = true) ∧
    (∃ (s : State) (value : BitVec 32), value.getLsbD 0 = true ∧ s.blk.resetting = false) :=
  ⟨⟨tCfg { lock := true }, 0x100, _, by decide +kernel, rfl, by decide +kernel, ⟨by decide +kernel, by decide +kernel⟩⟩,
   ⟨.supplyLevelChange 1, tCfg { lockSaved := true }, _, rfl, by decide +kernel, nofun⟩,
   ⟨.supplyLevelChange 1, tCfg { lock := true }, _, rfl, by decide +kernel, nofun, nofun⟩,
   ⟨{ tB { rel := { phase := 5 } } with cfg := { lockSaved := true } }, by decide +kernel⟩,
   ⟨tOn, 1, by decide +kernel⟩⟩

theorem witness_RegisterWriteStores :
    ∃ (s : State) (addr : BitVec 24) (r : Reg), regAt s.aon.grade addr.toNat = some r ∧ (r.access = .rw ∨ r.access = .rwl ∧
      s.cfg.lock = false ∧ (s.cfg.frozen = false ∨ frozenByEn addr.toNat = false)) ∧ PortOpen s addr.toNat ∧ addr ≠ 0x100000
      ∧ addr ≠ 0xC00000 ∧ testReach addr.toNat = none :=
  ⟨tOn, 0xC00020, _, rfl, by decide +kernel, ⟨by decide +kernel, by decide +kernel⟩, by decide +kernel⟩

theorem witness_OtherAccessesChangeNothing :
    (∃ (addr : BitVec 24) (be : BitVec 4), (be ≠ 0xF ∨ addr.toNat % 4 ≠ 0)) ∧
    (∃ (s : State) (addr : BitVec 24) (be : BitVec 4), (be ≠ 0xF ∨ addr.toNat % 4 ≠ 0 ∨ (regAt s.aon.grade
      addr.toNat).isSome ∧ s.env.powered addr.toNat = false)) ∧
    (∃ (s : State) (addr : BitVec 24), addr.toNat % 4 = 0 ∧ ((regAt s.aon.grade addr.toNat).isSome → s.env.powered
      addr.toNat = true)) ∧
    (∃ (s : State) (addr : BitVec 24), regAt s.aon.grade addr.toNat = none ∧ addr.toNat % 4 = 0 ∧ s.blk.resetting = true) ∧
    (∃ (s : State) (addr : BitVec 24), regAt s.aon.grade addr.toNat = none ∧ addr.toNat % 4 = 0 ∧ s.blk.resetting = false ∧
      tget s.cfg.capture (addr.toNat - 4) = none ∧ s.blk.roPair s.env addr.toNat = none) ∧
    (∃ (s : State) (addr : BitVec 24) (r : Reg) (x : BitVec 64), regAt s.aon.grade addr.toNat = some r ∧ r.access = .ro ∧
      s.env.powered addr.toNat = true ∧ s.blk.roPair s.env addr.toNat = some x) ∧
    (∃ (s : State) (addr : BitVec 24) (u : Word32), 4 ≤ addr.toNat ∧ addr.toNat % 4 = 0 ∧ ((regAt s.aon.grade
      addr.toNat).isSome → s.env.powered addr.toNat = true) ∧ s.blk.roPair s.env addr.toNat = none ∧ tget s.cfg.capture
      (addr.toNat - 4) = some u) :=
  ⟨⟨0x100, 7, by decide +kernel⟩,
   ⟨tOn, 0x102, 0xF, by decide +kernel⟩,
   ⟨tOn, 0x100, by decide +kernel⟩,
   ⟨tB { rel := { phase := 1 } }, 0xFFFFFC, by decide +kernel⟩,
   ⟨tOn, 0xFFFFFC, by decide +kernel⟩,
   ⟨tOn, 0x10, _, _, rfl, by decide +kernel, by decide +kernel, rfl⟩,
   ⟨tCfg { capture := [(0, 5)] }, 4, 5, by decide +kernel⟩⟩

theorem witness_EnablesStoreAndStart :
    (∃ (s : State), s.cfg.lock = false ∧ PortOpen s 0x100000) ∧
    (∃ (v : Env) (b : Blk) (r : Nat), r < v.reaches ∧ (b.reach r).fenceIn = none) ∧
    (∃ (v : Env) (b : Blk) (r : Nat), r < v.reaches ∧ (b.reach r).fenceIn = none ∧ (∀ k, k < v.reaches → (b.reach k).fenceIn
      = none)) ∧
    (∃ (v : Env) (b : Blk) (ws : List (BitVec 64)) (r : Nat), r < v.reaches ∧ (b.reach r).fenceIn = none ∧ b.fe.retireIn =
      ws ∧ (∀ k, k < v.reaches → (b.reach k).fenceIn = none)) ∧
    (∃ (s : State), s.cfg.lock = false ∧ s.blk.resetting = false) ∧
    (∃ (s : State) (r : Nat), r < s.aon.grade.reaches ∧ PortOpen s (0x200044 + 0x1000 * r)) ∧
    (∃ (b : Blk) (r : Nat), (b.reach r).fenceIn = some true ∧ ((b.reach r).fence = true ∨ b.fe.reachFree r = true)) ∧
    (∃ (b : Blk) (r : Nat), (b.reach r).fenceIn = some true ∧ (b.reach r).fence = false ∧ b.fe.reachFree r = false) ∧
    (∃ (b : Blk) (r : Nat), ∃ k, (b.reach r).fenceIn = some true ∧ k ≠ r) ∧
    (∃ (b : Blk) (r : Nat), (b.reach r).fenceIn = some false) ∧
    (∃ (b : Blk) (r : Nat), ∃ k, (b.reach r).fenceIn = some false ∧ k ≠ r) :=
  ⟨⟨tOn, by decide +kernel, ⟨by decide +kernel, by decide +kernel⟩⟩,
   ⟨tOn.env, tOn.blk, 15, by decide +kernel⟩,
   ⟨tOn.env, tOn.blk, 15, by decide +kernel⟩,
   ⟨tOn.env, { tOn.blk with fe := { tOn.blk.fe with retireIn := [5] } }, [5], 15, by decide +kernel⟩,
   ⟨tOn, by decide +kernel⟩,
   ⟨tOn, 15, by decide +kernel, ⟨by decide +kernel, by decide +kernel⟩⟩,
   ⟨{ reaches := [(0, { fenceIn := some true })] }, 0, by decide +kernel⟩,
   ⟨{ (tR { fenceIn := some true }).blk with fe := tFe tImgCtx }, 0, by decide +kernel⟩,
   ⟨(tR { fenceIn := some true }).blk, 0, 1, by decide +kernel⟩,
   ⟨(tR { fenceIn := some false }).blk, 0, by decide +kernel⟩,
   ⟨(tR { fenceIn := some false }).blk, 0, 1, by decide +kernel⟩⟩

theorem witness_WriteOnlyRegistersAct :
    (∃ (s : State) (value : BitVec 32), value.getLsbD 0 = true ∧ PortOpen s 0x10010C ∧ s.blk.fe.fwState = .bootWait) ∧
    (∃ (s : State) (value : BitVec 32) (x : Snap), value.getLsbD 0 = true ∧ PortOpen s 0xB00030 ∧ s.blk.db.snap = some x ∧
      x.writing = false ∧ s.blk.db.stopped = true) ∧
    (∃ (s : State), PortOpen s 0xB00054) ∧
    (∃ (s : State) (value : BitVec 32), value.getLsbD 0 = true ∧ s.blk.resetting = false ∧ s.blk.mc.portBusy = false) ∧
    (∃ (s : State) (value : BitVec 32), value.getLsbD 0 = true ∧ s.blk.resetting = false ∧ s.blk.mc.portBusy = true) ∧
    (∃ (s : State) (value : BitVec 32), 128 ≤ bits value 0 8 ∧ s.blk.resetting = false) ∧
    (∃ (s : State) (value : BitVec 32), value.getLsbD 0 = true ∧ s.blk.resetting = false) :=
  ⟨⟨tOn, 1, by decide +kernel, ⟨by decide +kernel, by decide +kernel⟩, by decide +kernel⟩,
   ⟨tB { db := { stopped := true, snap := some { cause := 0, edge := 0, writing := false, length := 0 } } }, 1,
      { cause := 0, edge := 0, writing := false, length := 0 }, by decide +kernel, ⟨by decide +kernel, by decide +kernel⟩,
      by decide +kernel⟩,
   ⟨tOn, ⟨by decide +kernel, by decide +kernel⟩⟩,
   ⟨tOn, 1, by decide +kernel⟩,
   ⟨tOpSt 1 true, 1, by decide +kernel⟩,
   ⟨tOn, 128, by decide +kernel⟩,
   ⟨tOn, 1, by decide +kernel⟩⟩

theorem witness_DomainsAndEnginesPowerUp :
    (∃ (s : State) (d : Nat), (domainOrder s.aon.grade).contains d = true ∧ s.aon.pdAck.getLsbD d = false ∧
      s.aon.pdReq.getLsbD d = true) ∧
    (∃ (s : State) (d : Nat), (domainOrder s.aon.grade).contains d = true ∧ s.aon.pdAck.getLsbD d = true ∧
      s.aon.pdReq.getLsbD d = false) ∧
    (∃ (s : State) (e : Nat), e < s.aon.grade.engines ∧ (s.blk.agent e).pwrGood = false) ∧
    (∃ (s : State) (e : Nat), e < s.aon.grade.engines ∧ (s.blk.agent e).pwrGood = true ∧ (s.blk.agent e).idle = true) :=
  ⟨⟨State.reset, 16, by decide +kernel⟩,
   ⟨{ tOn with aon := { tOn.aon with pdReq := 0 } }, 16, by decide +kernel⟩,
   ⟨tOn, 0, by decide +kernel⟩,
   ⟨tA tUp, 0, by decide +kernel⟩⟩

theorem witness_StopHoldsTheDataPlane :
    ∃ (s : State) (p : PulseIn), s.blk.db.stopped = true ∧ s.blk.db.resumeReq = false ∧ (s.blk.pulseNews s.env
      p).rel.pendingCause = none :=
  ⟨tB { db := { stopped := true } }, {}, by decide +kernel⟩

theorem witness_CompletionsApplyInOrder :
    (∃ (b : Blk) (c : Cpl) (x : Task), b.task? c.ref = some x ∧ (x.kind = .plain ∨ x.kind = .expert) ∧ (x.state ≠
      .dispatched ∨ c.ref ∈ (b.reach c.ref.reach).cfSet)) ∧
    (∃ (v : Env) (b : Blk) (c : Cpl) (x : Task), b.task? c.ref = some x ∧ (x.kind = .plain ∨ x.kind = .expert) ∧ x.state =
      .dispatched ∧ c.ref ∉ (b.reach c.ref.reach).cfSet ∧ (b.wordFits v c.ref.reach c.rsig.length (cplStatus c.word ==
      stOk)).1 = false) ∧
    (∃ (v : Env) (b : Blk) (c : Cpl) (x : Task), b.task? c.ref = some x ∧ (x.kind = .plain ∨ x.kind = .expert) ∧ x.state =
      .dispatched ∧ c.ref ∉ (b.reach c.ref.reach).cfSet ∧ (b.wordFits v c.ref.reach c.rsig.length (cplStatus c.word ==
      stOk)).1 = true ∧ cplStatus c.word = stOk) ∧
    (∃ (v : Env) (b : Blk) (c : Cpl) (x : Task), b.task? c.ref = some x ∧ (x.kind = .plain ∨ x.kind = .expert) ∧ x.state =
      .dispatched ∧ c.ref ∉ (b.reach c.ref.reach).cfSet ∧ (b.wordFits v c.ref.reach c.rsig.length (cplStatus c.word ==
      stOk)).1 = true ∧ cplStatus c.word = stOk ∧ x.ra = true ∧ (if x.loop && x.iter != 0 then x.iter - 1 else x.iter) ≠ 0 ∧
      (x.depcnt + x.kept).toNat + (if x.rf then 1 else 0) ≤ x.depinit.toNat) ∧
    (∃ (v : Env) (b : Blk) (c : Cpl) (x : Task), b.task? c.ref = some x ∧ (x.kind = .plain ∨ x.kind = .expert) ∧ x.state =
      .dispatched ∧ c.ref ∉ (b.reach c.ref.reach).cfSet ∧ (b.wordFits v c.ref.reach c.rsig.length (cplStatus c.word ==
      stOk)).1 = true ∧ cplStatus c.word = stOk ∧ x.ra = true ∧ (if x.loop && x.iter != 0 then x.iter - 1 else x.iter) = 0) ∧
    (∃ (v : Env) (b : Blk) (c : Cpl) (x : Task), b.task? c.ref = some x ∧ (x.kind = .plain ∨ x.kind = .expert) ∧ x.state =
      .dispatched ∧ c.ref ∉ (b.reach c.ref.reach).cfSet ∧ (b.wordFits v c.ref.reach c.rsig.length (cplStatus c.word ==
      stOk)).1 = true ∧ cplStatus c.word ≠ stOk) ∧
    (∃ (v : Env) (b : Blk) (c : Cpl) (x : Task), b.task? c.ref = some x ∧ (x.kind = .plain ∨ x.kind = .expert) ∧ x.state =
      .dispatched ∧ c.ref ∉ (b.reach c.ref.reach).cfSet ∧ (b.wordFits v c.ref.reach c.rsig.length (cplStatus c.word ==
      stOk)).1 = true ∧ cplStatus c.word ≠ stOk ∧ b.canTearDown c.ref.ctx = true) :=
  ⟨⟨(tT tTask).blk, { ref := tRef, engine := 0, word := 0 }, tTask, by decide +kernel⟩,
   ⟨tOn.env,
      { (tT { tTask with state := .dispatched, depcnt := 0 }).blk with reaches := [(0, { blocks := [(0, tBlock { tTask with state := .dispatched, depcnt := 0 })] })], hb := { outstanding := List.replicate 4097 tOut } },
      { ref := tRef, engine := 0, word := 0 }, { tTask with state := .dispatched, depcnt := 0 }, by decide +kernel⟩,
   ⟨tOn.env, (tT { tTask with state := .dispatched, depcnt := 0 }).blk, { ref := tRef, engine := 0, word := 0 },
      { tTask with state := .dispatched, depcnt := 0 }, by decide +kernel⟩,
   ⟨tOn.env, (tT { tTask with state := .dispatched, depcnt := 0, depinit := 2, loop := true, ra := true, iter := 2 }).blk,
      { ref := tRef, engine := 0, word := 0 },
      { tTask with state := .dispatched, depcnt := 0, depinit := 2, loop := true, ra := true, iter := 2 },
      by decide +kernel⟩,
   ⟨tOn.env, (tT { tTask with state := .dispatched, depcnt := 0, depinit := 2, loop := true, ra := true, iter := 1 }).blk,
      { ref := tRef, engine := 0, word := 0 },
      { tTask with state := .dispatched, depcnt := 0, depinit := 2, loop := true, ra := true, iter := 1 },
      by decide +kernel⟩,
   ⟨tOn.env, (tT { tTask with state := .dispatched, depcnt := 0 }).blk, { ref := tRef, engine := 0, word := 0x02 },
      { tTask with state := .dispatched, depcnt := 0 }, by decide +kernel⟩,
   ⟨tOn.env, (tT { tTask with state := .dispatched, depcnt := 0 }).blk, { ref := tRef, engine := 0, word := 0x02 },
      { tTask with state := .dispatched, depcnt := 0 }, by decide +kernel⟩⟩

theorem witness_ReadyTasksEnterTheirLists :
    (∃ (b : Blk) (c : Nat) (x : Ctx), b.ctx? c = some x) ∧
    (∃ (v : Env) (b : Blk) (c : Nat) (x : Ctx) (k : TaskRef) (n : Nat) (bl : Block) (z : Task), b.ctx? c = some x ∧ k.reach
      < v.reaches ∧ b.locate k = .at n bl z ∧ k.ctx ≠ c) ∧
    (∃ (v : Env) (b : Blk) (c : Nat) (x : Ctx) (k : TaskRef) (n : Nat) (bl : Block) (z : Task), b.ctx? c = some x ∧ k.reach
      < v.reaches ∧ b.locate k = .at n bl z ∧ k.ctx = c) ∧
    (∃ (v : Env) (b : Blk) (c : Nat) (x : Ctx) (k : TaskRef) (n : Nat) (bl : Block) (z : Task), b.ctx? c = some x ∧ k.reach
      < v.reaches ∧ b.locate k = .at n bl z ∧ k.ctx = c ∧ (bl.loop = false ∨ (b.reach k.reach).spillHalted = true)) ∧
    (∃ (v : Env) (b : Blk) (c : Nat) (x : Ctx) (k : TaskRef) (n : Nat) (bl : Block) (z : Task), ∃ f w, b.ctx? c = some x ∧
      k.reach < v.reaches ∧ b.locate k = .at n bl z ∧ k.ctx = c ∧ bl.loop = true ∧ (b.reach k.reach).spillHalted = false ∧
      x.image.frames.find? (fun f => f.reach == k.reach && f.seg == k.seg && f.vblock == k.vblock) = some f ∧ tget f.launch
      k.entry = some w) ∧
    (∃ (x : Task), x.sk = true) ∧
    (∃ (b : Blk) (k : TaskRef) (x : Task), ∃ p, x.sk = false ∧ b.pred k.ctx x.pred.toNat = some p) ∧
    (∃ (b : Blk) (k : TaskRef) (x : Task), x.sk = false ∧ b.pred k.ctx x.pred.toNat = none) ∧
    (∃ (v : Env) (b : Blk) (k : TaskRef) (x : Task), b.task? k = some x ∧ Followed b k ∧ k ∉ (b.reach k.reach).squashed ∧
      (x.inZeroSet = true ∧ b.torn k.ctx = false ∧ b.armedNow v k.ctx = false) ∧ b.readyTest k x = some false) ∧
    (∃ (v : Env) (b : Blk) (k : TaskRef) (x : Task) (held : Bool), b.task? k = some x ∧ Followed b k ∧ k ∉ (b.reach
      k.reach).squashed ∧ (¬ (x.inZeroSet = true ∧ b.torn k.ctx = false ∧ b.armedNow v k.ctx = false) ∨ b.readyTest k x =
      none ∨ (b.readyTest k x = some true ∧ held = true))) ∧
    (∃ (v : Env) (b : Blk) (k : TaskRef) (x : Task) (held : Bool), b.task? k = some x ∧ Followed b k ∧ k ∉ (b.reach
      k.reach).squashed ∧ (x.inZeroSet = true ∧ b.torn k.ctx = false ∧ b.armedNow v k.ctx = false) ∧ b.readyTest k x = some
      true ∧ held = false ∧ x.ra = false ∧ b.tested v ((b.reach k.reach).tasks k.reach) true = [k] ∧ (b.reach
      k.reach).squashed = [] ∧ (b.wordFits v k.reach 0 true).1 = true) ∧
    (∃ (v : Env) (b : Blk) (k : TaskRef) (x : Task) (held : Bool), b.task? k = some x ∧ Followed b k ∧ k ∉ (b.reach
      k.reach).squashed ∧ (x.inZeroSet = true ∧ b.torn k.ctx = false ∧ b.armedNow v k.ctx = false) ∧ b.readyTest k x = some
      true ∧ held = false ∧ x.ra = false ∧ b.tested v ((b.reach k.reach).tasks k.reach) true = [k] ∧ (b.reach
      k.reach).squashed = [] ∧ (b.wordFits v k.reach 0 true).1 = false) :=
  ⟨⟨(tT tTask).blk, 1, tCtx, by decide +kernel⟩,
   ⟨tOn.env, { (tT tTask).blk with fe := { tFe tCtx with ctxs := (tFe tCtx).ctxs ++ [(2, {})] } }, 2, {}, tRef, 0,
      tBlock tTask, tTask, by decide +kernel, by decide +kernel, rfl, by decide +kernel⟩,
   ⟨tOn.env, (tT tTask).blk, 1, tCtx, tRef, 0, tBlock tTask, tTask, by decide +kernel, by decide +kernel, rfl,
      by decide +kernel⟩,
   ⟨tOn.env, (tT tTask).blk, 1, tCtx, tRef, 0, tBlock tTask, tTask, by decide +kernel, by decide +kernel, rfl,
      by decide +kernel⟩,
   ⟨tOn.env,
      { reaches := [(0, { blocks := [(0, { tBlock tTask with loop := true })] })], fe := tFe { tCtx with image := { frames := [{ tFrame with roots := true, loop := true }] } } },
      1, { tCtx with image := { frames := [{ tFrame with roots := true, loop := true }] } }, tRef, 0,
      { tBlock tTask with loop := true }, tTask, { tFrame with roots := true, loop := true }, tTask, by decide +kernel,
      by decide +kernel, rfl, by decide +kernel⟩,
   ⟨{ tTask with sk := true }, by decide +kernel⟩,
   ⟨(tT { tTask with depcnt := 0 }).blk, tRef, { tTask with depcnt := 0 }, true, by decide +kernel⟩,
   ⟨(tT { tTask with depcnt := 0, pred := 1 }).blk, tRef, { tTask with depcnt := 0, pred := 1 }, by decide +kernel⟩,
   ⟨tOn.env, (tT { tTask with depcnt := 0, pol := true }).blk, tRef, { tTask with depcnt := 0, pol := true },
      by decide +kernel,
      followed_of (once_of ⟨by decide +kernel, by decide +kernel, rfl, by decide +kernel⟩) (by decide +kernel) (by decide +kernel),
      by decide +kernel⟩,
   ⟨tOn.env, (tT tTask).blk, tRef, tTask, false, by decide +kernel,
      followed_of (once_of ⟨by decide +kernel, by decide +kernel, rfl, by decide +kernel⟩) (by decide +kernel) (by decide +kernel),
      by decide +kernel⟩,
   ⟨tOn.env, (tT { tTask with depcnt := 0, sk := true }).blk, tRef, { tTask with depcnt := 0, sk := true }, false,
      by decide +kernel,
      followed_of (once_of ⟨by decide +kernel, by decide +kernel, rfl, by decide +kernel⟩) (by decide +kernel) (by decide +kernel),
      by decide +kernel⟩,
   ⟨tOn.env,
      { (tT { tTask with depcnt := 0, sk := true }).blk with reaches := [(0, { blocks := [(0, tBlock { tTask with depcnt := 0, sk := true })] })], hb := { outstanding := List.replicate 4097 tOut } },
      tRef, { tTask with depcnt := 0, sk := true }, false, by decide +kernel,
      followed_of (once_of ⟨by decide +kernel, by decide +kernel, rfl, by decide +kernel⟩) (by decide +kernel) (by decide +kernel),
      by decide +kernel⟩⟩

theorem witness_PredicatesResolveTheirSlots :
    (∃ (b : Blk) (key : Nat), (∀ m ∈ b.predOps, m.slot = 0 ∨ m.ctx * 4096 + m.slot ≠ key)) ∧
    (∃ (b : Blk) (m n : PredMsg), (b.predOps = [m, n] ∨ b.predOps = [n, m]) ∧ m.op = .clear ∧ n.op ≠ .clear ∧ n.ctx = m.ctx
      ∧ n.slot = m.slot ∧ m.slot ≠ 0) ∧
    (∃ (b : Blk) (m : PredMsg), b.predOps = [m] ∧ m.record = true) ∧
    (∃ (b : Blk) (m : PredMsg), b.predOps = [m] ∧ m.record = false) ∧
    (∃ (b : Blk) (m : PredMsg), b.predOps = [m] ∧ m.slot ≠ 0 ∧ m.op = .clear) ∧
    (∃ (b : Blk) (m : PredMsg), ∃ old, b.predOps = [m] ∧ m.slot ≠ 0 ∧ m.op ≠ .clear ∧ b.pred m.ctx m.slot = some old) ∧
    (∃ (b : Blk) (m : PredMsg), ∃ old, b.predOps = [m] ∧ m.slot ≠ 0 ∧ m.op ≠ .clear ∧ b.pred m.ctx m.slot = some old ∧ old =
      (m.op == .resolveTrue)) ∧
    (∃ (b : Blk) (m : PredMsg), ∃ old, b.predOps = [m] ∧ m.slot ≠ 0 ∧ m.op ≠ .clear ∧ b.pred m.ctx m.slot = some old ∧ old ≠
      (m.op == .resolveTrue) ∧ b.canTearDown m.ctx = true) ∧
    (∃ (b : Blk) (m : PredMsg), b.predOps = [m] ∧ m.slot ≠ 0 ∧ m.op ≠ .clear ∧ b.pred m.ctx m.slot = none) ∧
    (∃ (v : Env) (b : Blk) (m : PredMsg) (k : TaskRef) (x : Task), b.predOps = [m] ∧ m.slot ≠ 0 ∧ m.op ≠ .clear ∧ b.pred
      m.ctx m.slot = none ∧ b.task? k = some x ∧ Once b k ∧ k.reach < v.reaches ∧ (¬ (k.ctx = m.ctx ∧ x.state = .shadow ∧
      x.pred.toNat = m.slot))) ∧
    (∃ (v : Env) (b : Blk) (m : PredMsg) (k : TaskRef) (x : Task), b.predOps = [m] ∧ m.slot ≠ 0 ∧ m.op ≠ .clear ∧ b.pred
      m.ctx m.slot = none ∧ b.task? k = some x ∧ Once b k ∧ k.reach < v.reaches ∧ (k.ctx = m.ctx ∧ x.state = .shadow ∧
      x.pred.toNat = m.slot) ∧ x.pol = (m.op == .resolveTrue)) ∧
    (∃ (v : Env) (b : Blk) (m : PredMsg) (k : TaskRef) (x : Task), b.predOps = [m] ∧ m.slot ≠ 0 ∧ m.op ≠ .clear ∧ b.pred
      m.ctx m.slot = none ∧ b.task? k = some x ∧ Once b k ∧ k.reach < v.reaches ∧ (k.ctx = m.ctx ∧ x.state = .shadow ∧
      x.pred.toNat = m.slot) ∧ x.pol ≠ (m.op == .resolveTrue)) :=
  ⟨⟨{ (tT tTask).blk with predOps := [{ ctx := 1, slot := 1, op := .resolveTrue, record := false }] }, 0,
      by decide +kernel⟩,
   ⟨{ (tT tTask).blk with predOps := [{ ctx := 1, slot := 1, op := .clear, record := false }, { ctx := 1, slot := 1, op := .resolveTrue, record := false }] },
      { ctx := 1, slot := 1, op := .clear, record := false }, { ctx := 1, slot := 1, op := .resolveTrue, record := false },
      by decide +kernel⟩,
   ⟨{ (tT tTask).blk with predOps := [{ ctx := 1, slot := 1, op := .resolveTrue, record := true }] },
      { ctx := 1, slot := 1, op := .resolveTrue, record := true }, by decide +kernel⟩,
   ⟨{ (tT tTask).blk with predOps := [{ ctx := 1, slot := 1, op := .resolveTrue, record := false }] },
      { ctx := 1, slot := 1, op := .resolveTrue, record := false }, by decide +kernel⟩,
   ⟨{ (tT tTask).blk with predOps := [{ ctx := 1, slot := 1, op := .clear, record := false }] },
      { ctx := 1, slot := 1, op := .clear, record := false }, by decide +kernel⟩,
   ⟨{ { (tT tTask).blk with predOps := [{ ctx := 1, slot := 1, op := .resolveTrue, record := false }] } with preds := [(4097, some true)] },
      { ctx := 1, slot := 1, op := .resolveTrue, record := false }, true, by decide +kernel⟩,
   ⟨{ { (tT tTask).blk with predOps := [{ ctx := 1, slot := 1, op := .resolveTrue, record := false }] } with preds := [(4097, some true)] },
      { ctx := 1, slot := 1, op := .resolveTrue, record := false }, true, by decide +kernel⟩,
   ⟨{ { (tT tTask).blk with predOps := [{ ctx := 1, slot := 1, op := .resolveTrue, record := false }] } with preds := [(4097, some false)] },
      { ctx := 1, slot := 1, op := .resolveTrue, record := false }, false, by decide +kernel⟩,
   ⟨{ (tT tTask).blk with predOps := [{ ctx := 1, slot := 1, op := .resolveTrue, record := false }] },
      { ctx := 1, slot := 1, op := .resolveTrue, record := false }, by decide +kernel⟩,
   ⟨tOn.env, { (tT tTask).blk with predOps := [{ ctx := 1, slot := 1, op := .resolveTrue, record := false }] },
      { ctx := 1, slot := 1, op := .resolveTrue, record := false }, tRef, tTask,
      four (by decide +kernel) ⟨by decide +kernel, once_of ⟨by decide +kernel, by decide +kernel, rfl, by decide +kernel⟩,
      by decide +kernel⟩⟩,
   ⟨tOn.env,
      { (tT { tTask with state := .shadow, pred := 1, pol := true }).blk with predOps := [{ ctx := 1, slot := 1, op := .resolveTrue, record := false }] },
      { ctx := 1, slot := 1, op := .resolveTrue, record := false }, tRef,
      { tTask with state := .shadow, pred := 1, pol := true }, four (by decide +kernel) ⟨by decide +kernel,
      once_of ⟨by decide +kernel, by decide +kernel, rfl, by decide +kernel⟩, by decide +kernel⟩⟩,
   ⟨tOn.env,
      { (tT { tTask with state := .shadow, pred := 1 }).blk with predOps := [{ ctx := 1, slot := 1, op := .resolveTrue, record := false }] },
      { ctx := 1, slot := 1, op := .resolveTrue, record := false }, tRef, { tTask with state := .shadow, pred := 1 },
      four (by decide +kernel) ⟨by decide +kernel, once_of ⟨by decide +kernel, by decide +kernel, rfl, by decide +kernel⟩,
      by decide +kernel⟩⟩⟩

theorem witness_TaskStateFollowsTable2_4 :
    ∃ (c : Instr) (s t : State) (k : TaskRef) (x y : Task), exec c s = .next t ∧ Followed s.blk k ∧ s.blk.task? k = some x ∧
      t.blk.task? k = some y :=
  ⟨.blkResetReq, tT tTask, _, tRef, tTask, _, rfl,
    followed_of (once_of ⟨by decide +kernel, by decide +kernel, rfl, by decide +kernel⟩) (by decide +kernel) (by decide +kernel),
    by decide +kernel, rfl⟩

theorem witness_GovernorFollowsItsPins :
    (∃ (s : State) (pins : BitVec 8), s.blk.pg.counted s.env pins = true ∧ s.blk.pg.countedOr = false ∧ s.env.droopEn = true
      ∧ s.blk.pg.droopOff = false ∧ s.blk.pg.stretch = false) ∧
    (∃ (s : State) (pins : BitVec 8), s.blk.pg.counted s.env pins = false ∧ s.blk.pg.stretch = true) :=
  ⟨⟨tB { pg := { level := 0 } }, 0x80, by decide +kernel⟩,
   ⟨tB { pg := { stretch := true } }, 0, by decide +kernel⟩⟩

theorem witness_ControlEdgeFollowsTheSample :
    (∃ (v : Env) (b : Blk), v.pgEn = true ∧ b.pg.metering = true) ∧
    (∃ (v : Env) (b : Blk), v.pgEn = true ∧ b.pg.metering = false) ∧
    (∃ (v : Env), v.cfg.frozen = false) ∧
    (∃ (v : Env) (b : Blk) (mg : Nat), v.cfg.frozen = true ∧ (b.pgEdge v mg).pg.shed ≤ 5) ∧
    (∃ (v : Env) (b : Blk) (mg : Nat), v.cfg.frozen = true ∧ (b.pgEdge v mg).pg.shed ≤ 5 ∧ v.pgEn = false) ∧
    (∃ (v : Env) (b : Blk) (mg : Nat), v.cfg.frozen = true ∧ (b.pgEdge v mg).pg.shed ≤ 5 ∧ v.pgEn = true) ∧
    (∃ (s : State), s.blk.controlDue s.env = true) ∧
    (∃ (s : State), s.blk.pg.calDue = true) :=
  ⟨⟨{ aon := tOn.aon, cfg := { frozen := true, active := [(0xA00000, 1)] } }, (tB { pg := { metering := true } }).blk,
      by decide +kernel⟩,
   ⟨{ aon := tOn.aon, cfg := { frozen := true, active := [(0xA00000, 1)] } }, tOn.blk, by decide +kernel⟩,
   ⟨tOn.env, by decide +kernel⟩,
   ⟨{ aon := tOn.aon, cfg := { frozen := true, active := [(0xA00000, 0)] } }, tOn.blk, 0, by decide +kernel⟩,
   ⟨{ aon := tOn.aon, cfg := { frozen := true, active := [(0xA00000, 0)] } }, tOn.blk, 0, by decide +kernel⟩,
   ⟨{ aon := tOn.aon, cfg := { frozen := true, active := [(0xA00000, 1)] } }, tOn.blk, 0, by decide +kernel⟩,
   ⟨{ tB { pg := { metering := true } } with aon := { tOn.aon with pulse := 2048 } }, by decide +kernel⟩,
   ⟨tB { pg := { calDue := true } }, by decide +kernel⟩⟩

theorem witness_RequestsAndUnitsMoveOn :
    (∃ (s : State) (r c : Nat) (x : Ctx), r < s.aon.grade.reaches ∧ s.blk.frozen = false ∧ s.blk.ctx? c = some x) ∧
    (∃ (s : State) (r : Nat), r < s.aon.grade.reaches ∧ s.blk.frozen = false) ∧
    (∃ (s : State) (dst : Nat), dst < s.aon.grade.reaches ∧ s.blk.frozen = false) ∧
    (∃ (s : State) (dst r : Nat) (u : XUnit) (q : List XUnit), dst < s.aon.grade.reaches ∧ r < s.aon.grade.reaches ∧
      s.blk.frozen = false ∧ tgetD [] (s.blk.reach r).outbox dst = u :: q ∧ tgetD 0 (s.blk.reach r).sentCount dst < 16 ∧
      u.span = 0 ∧ (s.blk.reach dst).admitCount ≤ 2048) ∧
    (∃ (s : State) (dst r : Nat) (u : XUnit) (q : List XUnit), dst < s.aon.grade.reaches ∧ r < s.aon.grade.reaches ∧
      s.blk.frozen = false ∧ tgetD [] (s.blk.reach r).outbox dst = u :: q ∧ tgetD 0 (s.blk.reach r).sentCount dst < 16 ∧ r =
      s.aon.pulse % 16 ∧ (s.blk.reach dst).admitCount + u.span ≤ 2048) :=
  ⟨⟨tA {}, 15, 1, tCtx, by decide +kernel⟩,
   ⟨tOn, 15, by decide +kernel⟩,
   ⟨tOn, 15, by decide +kernel⟩,
   ⟨tR { outbox := [(0, [tUnit])] }, 0, 0, tUnit, [], by decide +kernel⟩,
   ⟨tR { outbox := [(0, [{ tUnit with kind := .group 3 }])] }, 0, 0, { tUnit with kind := .group 3 }, [],
      by decide +kernel⟩⟩

theorem witness_UnitsActOnTheirTarget :
    (∃ (s : State) (dst : Nat) (u : XUnit) (x : Task), dst < s.aon.grade.reaches ∧ OnlyUnit s dst u ∧ u.target.reach = dst ∧
      (u.kind = .plain ∨ u.kind = .skip) ∧ s.blk.torn u.target.ctx = false ∧ s.blk.task? u.target = some x ∧ x.state =
      .waiting ∧ x.depcnt ≠ 0) ∧
    (∃ (s : State) (dst : Nat) (u : XUnit) (x : Task), dst < s.aon.grade.reaches ∧ OnlyUnit s dst u ∧ u.target.reach = dst ∧
      (u.kind = .plain ∨ u.kind = .skip) ∧ s.blk.inBackwater u.target.ctx = false ∧ s.blk.torn u.target.ctx = false ∧
      s.blk.task? u.target = some x ∧ x.state ≠ .waiting ∧ x.state ≠ .idle ∧ x.state ≠ .faulted ∧ x.loop = true ∧ x.depcnt ≠
      0xFFFF) ∧
    (∃ (s : State) (dst : Nat) (u : XUnit) (x : Task), dst < s.aon.grade.reaches ∧ OnlyUnit s dst u ∧ u.target.reach = dst ∧
      (u.kind = .plain ∨ u.kind = .skip) ∧ s.blk.inBackwater u.target.ctx = false ∧ s.blk.torn u.target.ctx = false ∧
      s.blk.task? u.target = some x ∧ x.state ≠ .faulted ∧ (x.state = .waiting ∧ x.depcnt = 0 ∨ x.state = .idle ∧
      s.blk.launchAborted u.target.ctx = false ∨ x.state ≠ .waiting ∧ x.state ≠ .idle ∧ (x.loop = false ∨ x.depcnt =
      0xFFFF))) ∧
    (∃ (s : State) (dst : Nat) (u : XUnit) (x : Task), dst < s.aon.grade.reaches ∧ OnlyUnit s dst u ∧ u.target.reach = dst ∧
      (u.kind = .plain ∨ u.kind = .skip ∨ ∃ rf, u.kind = .rearm rf) ∧ s.blk.inBackwater u.target.ctx = false ∧ s.blk.torn
      u.target.ctx = false ∧ s.blk.task? u.target = some x ∧ x.state = .faulted) ∧
    (∃ (s : State) (dst len : Nat) (u : XUnit) (i : Nat) (x : Task), dst < s.aon.grade.reaches ∧ OnlyUnit s dst u ∧
      u.target.reach = dst ∧ u.kind = .group len ∧ s.blk.torn u.target.ctx = false ∧ u.target.entry + len < 256 ∧ i ≤ len ∧
      s.blk.task? (u.target.plus i) = some x ∧ x.state = .waiting ∧ x.depcnt ≠ 0) ∧
    (∃ (s : State) (dst : Nat) (u : XUnit) (rf : Bool) (x : Task), dst < s.aon.grade.reaches ∧ OnlyUnit s dst u ∧
      u.target.reach = dst ∧ u.kind = .rearm rf ∧ s.blk.torn u.target.ctx = false ∧ s.blk.task? u.target = some x ∧ x.kind ≠
      .gang ∧ x.state ≠ .faulted) ∧
    (∃ (s : State) (dst : Nat) (u : XUnit), dst < s.aon.grade.reaches ∧ OnlyUnit s dst u ∧ u.target.reach = dst ∧ (u.kind =
      .plain ∨ u.kind = .skip) ∧ s.blk.inBackwater u.target.ctx = false ∧ s.blk.torn u.target.ctx = false ∧
      s.blk.launchAborted u.target.ctx = false ∧ (s.blk.reach dst).find u.target.ctx u.target.seg u.target.vblock = none ∧
      (s.blk.reach dst).ledger.length < 4096 ∧ (∀ l ∈ (s.blk.reach dst).ledger, l.ref ≠ u.target)) ∧
    (∃ (s : State) (dst : Nat) (u : XUnit) (rf : Bool), dst < s.aon.grade.reaches ∧ OnlyUnit s dst u ∧ u.target.reach = dst
      ∧ u.kind = .rearm rf ∧ s.blk.torn u.target.ctx = false ∧ (s.blk.reach dst).find u.target.ctx u.target.seg
      u.target.vblock = none) ∧
    (∃ (s : State) (dst : Nat) (u : XUnit), dst < s.aon.grade.reaches ∧ OnlyUnit s dst u ∧ u.target.reach = dst ∧ u.kind ≠
      .notice ∧ s.blk.torn u.target.ctx = true) :=
  ⟨⟨tUnits (tTask) (tUnit), 0, tUnit, tTask, by decide +kernel, onlyUnit_of ⟨rfl, rfl, rfl, rfl, rfl⟩, by decide +kernel⟩,
   ⟨tUnits ({ tTask with state := .done, loop := true }) (tUnit), 0, tUnit, { tTask with state := .done, loop := true },
      by decide +kernel, onlyUnit_of ⟨rfl, rfl, rfl, rfl, rfl⟩, by decide +kernel⟩,
   ⟨tUnits ({ tTask with depcnt := 0 }) (tUnit), 0, tUnit, { tTask with depcnt := 0 }, by decide +kernel, onlyUnit_of ⟨rfl,
      rfl, rfl, rfl, rfl⟩, by decide +kernel⟩,
   ⟨tUnits ({ tTask with state := .faulted }) (tUnit), 0, tUnit, { tTask with state := .faulted }, by decide +kernel,
      onlyUnit_of ⟨rfl, rfl, rfl, rfl, rfl⟩, by decide +kernel, .inl (by decide +kernel), by decide +kernel⟩,
   ⟨tUnits (tTask) ({ tUnit with kind := .group 0 }), 0, 0, { tUnit with kind := .group 0 }, 0, tTask, by decide +kernel,
      onlyUnit_of ⟨rfl, rfl, rfl, rfl, rfl⟩, by decide +kernel⟩,
   ⟨tUnits (tTask) ({ tUnit with kind := .rearm false }), 0, { tUnit with kind := .rearm false }, false, tTask,
      by decide +kernel, onlyUnit_of ⟨rfl, rfl, rfl, rfl, rfl⟩, by decide +kernel⟩,
   ⟨tR { arrivals := [tUnit] }, 0, tUnit, by decide +kernel, onlyUnit_of ⟨rfl, rfl, rfl, rfl, rfl⟩, by decide +kernel⟩,
   ⟨tR { arrivals := [{ tUnit with kind := .rearm false }] }, 0, { tUnit with kind := .rearm false }, false,
      by decide +kernel, onlyUnit_of ⟨rfl, rfl, rfl, rfl, rfl⟩, by decide +kernel⟩,
   ⟨tB { reaches := [(0, { arrivals := [tUnit] })], fe := tFe { tCtx with faulted := true } }, 0, tUnit, by decide +kernel,
      onlyUnit_of ⟨rfl, rfl, rfl, rfl, rfl⟩, by decide +kernel⟩⟩

theorem witness_SpillMovesBlocks :
    (∃ (s : State) (r : Nat) (p : PageIn), r < s.aon.grade.reaches ∧ (s.blk.reach r).pagingIn = some p ∧ p.read = false ∧
      (s.blk.reach r).spillHalted = false ∧ s.blk.rel.phase = 0) ∧
    (∃ (s : State) (r k : Nat) (x : Block) (rest : List (Nat × Block)), r < s.aon.grade.reaches ∧ (s.blk.reach r).pagingOut
      = (k, x) :: rest ∧ (s.blk.reach r).spillHalted = false ∧ s.blk.rel.phase = 0) ∧
    (∃ (s : State) (r : Nat) (u : XUnit) (rest : List XUnit), r < s.aon.grade.reaches ∧ (s.blk.reach r).rmw = u :: rest ∧
      (s.blk.reach r).spillHalted = false ∧ s.blk.frozen = false ∧ s.blk.torn u.target.ctx = true) ∧
    (∃ (s : State) (r : Nat) (u : XUnit) (rest : List XUnit) (f : Frame) (x : Task), r < s.aon.grade.reaches ∧ (s.blk.reach
      r).rmw = u :: rest ∧ u.kind ≠ .notice ∧ (s.blk.reach r).spillHalted = false ∧ s.blk.frozen = false ∧ s.blk.torn
      u.target.ctx = false ∧ (s.blk.reach r).find u.target.ctx u.target.seg u.target.vblock = none ∧ (s.blk.reach
      r).pagingOut = [] ∧ ((s.blk.ctx? u.target.ctx).bind fun k => k.frame r u.target.seg u.target.vblock) = some f ∧ tget
      (f.pageEntries (s.blk.epoch u.target.ctx)) u.target.entry = some x ∧ x.state = .waiting ∧ x.depcnt ≠ 0) ∧
    (∃ (s : State) (r c : Nat) (x : Ctx) (f : Frame) (p : Nat × Block), r < s.aon.grade.reaches ∧ s.blk.ctx? c = some x ∧
      x.backwater = true ∧ x.faulted = false ∧ x.launchQueue.isSome = true ∧ (s.blk.reach r).pagingIn = none ∧ (s.blk.reach
      r).spillHalted = false ∧ x.image.frames.find? (fun g => g.reach == r && !g.loaded) = some f ∧ s.blk.frozen = false ∧
      (s.blk.reach r).blocks.find? (fun q => q.2.ctx == c && q.2.isRetired) = some p) :=
  ⟨⟨tR { pagingIn := some tPageIn }, 0, tPageIn, by decide +kernel⟩,
   ⟨tR { pagingOut := [(0, tBlock tTask)] }, 0, 0, tBlock tTask, [], by decide +kernel⟩,
   ⟨tB { tOn.blk with reaches := [(0, { rmw := [tUnit] })] }, 0, tUnit, [], by decide +kernel⟩,
   ⟨tB { reaches := [(0, { rmw := [tUnit] })], fe := tFe { tCtx with image := { frames := [tFrame] } } }, 0, tUnit, [],
      tFrame, tTask, by decide +kernel⟩,
   ⟨tB { reaches := [(0, { blocks := [(0, { tBlock { state := .idle } with entries := []})] })], fe := tFe { tCtx with backwater := true, image := { frames := [{ tFrame with vblock := 1 }] } } },
      0, 1, { tCtx with backwater := true, image := { frames := [{ tFrame with vblock := 1 }] } },
      { tFrame with vblock := 1 }, (0, { tBlock { state := .idle } with entries := []}), by decide +kernel⟩⟩

theorem witness_DispatchWordQueuesOrReturns :
    (∃ (s : State) (e : Nat) (d : DWord) (rest : List DWord), e < s.aon.grade.engines ∧ (s.blk.agent e).inWords = d :: rest
      ∧ (s.blk.agent e).joined = true ∧ (s.blk.agent e).pwrGood = true ∧ (s.blk.agent e).fenced = false ∧ (s.blk.agent
      e).queue.length < 4 ∧ (d.preempting = false ∨ (s.blk.agent e).pre ≠ none ∨ (s.blk.agent e).preemptible = false)) ∧
    (∃ (s : State) (e : Nat) (d : DWord) (rest : List DWord) (r : Run), e < s.aon.grade.engines ∧ (s.blk.agent e).inWords =
      d :: rest ∧ (s.blk.agent e).joined = true ∧ (s.blk.agent e).pwrGood = true ∧ (s.blk.agent e).fenced = false ∧
      d.preempting = true ∧ (s.blk.agent e).pre = none ∧ (s.blk.agent e).preemptible = true ∧ (s.blk.agent e).run = some r ∧
      (s.blk.agent e).abort = none) ∧
    (∃ (s : State) (e : Nat) (d : DWord) (rest : List DWord), e < s.aon.grade.engines ∧ (s.blk.agent e).inWords = d :: rest
      ∧ ((s.blk.agent e).joined = false ∨ (s.blk.agent e).pwrGood = false ∨ (s.blk.agent e).fenced = true ∨ 4 ≤ (s.blk.agent
      e).queue.length ∧ (d.preempting = false ∨ (s.blk.agent e).pre ≠ none ∨ (s.blk.agent e).preemptible = false))) :=
  ⟨⟨tA { tUp with inWords := [tWord] }, 0, tWord, [], by decide +kernel⟩,
   ⟨tA { tUp with inWords := [{ tWord with preempting := true }], run := some { tRun with dw := { tWord with word := 24 } } },
      0, { tWord with preempting := true }, [], { tRun with dw := { tWord with word := 24 } }, by decide +kernel⟩,
   ⟨tA { tUp with inWords := [tWord], queue := [tWord, tWord, tWord, tWord] }, 0, tWord, [], by decide +kernel⟩⟩

theorem witness_PresentedWordBecomesRun :
    (∃ (s : State) (e : Nat) (d : DWord), e < s.aon.grade.engines ∧ s.blk.frozen = false ∧ (s.blk.agent e).offer = some d) ∧
    (∃ (s : State) (e : Nat) (d : DWord), e < s.aon.grade.engines ∧ (s.blk.agent e).present = some d ∧ (d.kind ≠ .list ∨
      d.shadow = true)) ∧
    (∃ (s : State) (e : Nat) (d : DWord), e < s.aon.grade.engines ∧ (s.blk.agent e).present = some d ∧ d.kind = .list ∧
      d.shadow = false) :=
  ⟨⟨tB { agents := [(0, { tUp with queue := [tWord] })], fe := tFe tCtx }, 0, tWord, by decide +kernel⟩,
   ⟨tA { tUp with present := some tWord }, 0, tWord, by decide +kernel⟩,
   ⟨tA { tUp with present := some { tWord with word := 1 } }, 0, { tWord with word := 1 }, by decide +kernel⟩⟩

theorem witness_CompletionReachesItsReach :
    (∃ (s : State) (e : Nat) (r : Run), RunsAt s e r ∧ r.parks = false ∧ (s.blk.agent e).abort = none ∧ (s.blk.agent
      e).listWord = none ∧ (s.blk.agent e).lateReplies = []) ∧
    (∃ (s : State) (e : Nat) (c : Cpl) (rest : List Cpl), e < s.aon.grade.engines ∧ s.blk.frozen = false ∧ (s.blk.agent
      e).outCpl = c :: rest ∧ s.blk.torn (s.blk.headOf c.ref).ctx = false ∧ s.blk.isLate (s.blk.headOf c.ref).ctx (cplEpoch
      c.word) = false) ∧
    (∃ (s : State) (e : Nat) (c : Cpl) (rest : List Cpl), e < s.aon.grade.engines ∧ s.blk.frozen = false ∧ (s.blk.agent
      e).outCpl = c :: rest ∧ s.blk.torn (s.blk.headOf c.ref).ctx = false ∧ s.blk.isLate (s.blk.headOf c.ref).ctx (cplEpoch
      c.word) = true) :=
  ⟨⟨tEng tRun, 0, tRun, runsAt_of (by decide +kernel), by decide +kernel⟩,
   ⟨tA { tUp with outCpl := [{ ref := tRef, engine := 0, word := 0 }] }, 0, { ref := tRef, engine := 0, word := 0 }, [],
      by decide +kernel⟩,
   ⟨tA { tUp with outCpl := [{ ref := tRef, engine := 0, word := 1 <<< 42 }] }, 0,
      { ref := tRef, engine := 0, word := 1 <<< 42 }, [], by decide +kernel⟩⟩

theorem witness_AbortRestoresLocals :
    ∃ (s : State) (e : Nat) (r : Run), e < s.aon.grade.engines ∧ (s.blk.agent e).run = some r ∧ (s.blk.agent e).abort = some
      .request ∧ (s.blk.agent e).wait = none ∧ (s.blk.agent e).listWord = none ∧ (s.blk.agent e).lateReplies = [] ∧
      (s.blk.agent e).pre = none ∧ (s.blk.agent e).present = none :=
  ⟨tA { tUp with run := some tRun, abort := some .request }, 0, tRun, by decide +kernel⟩

theorem witness_AbortMessagesLand :
    (∃ (s : State) (e : Nat) (x : Return) (rest : List Return), e < s.aon.grade.engines ∧ s.blk.frozen = false ∧
      (s.blk.agent e).outReturns = x :: rest ∧ s.blk.torn (s.blk.headOf x.ref).ctx = false ∧ s.blk.isLate (s.blk.headOf
      x.ref).ctx x.epoch = true) ∧
    (∃ (s : State) (e : Nat) (x : Return) (rest : List Return), e < s.aon.grade.engines ∧ s.blk.frozen = false ∧
      (s.blk.agent e).outReturns = x :: rest ∧ s.blk.torn (s.blk.headOf x.ref).ctx = false ∧ s.blk.isLate (s.blk.headOf
      x.ref).ctx x.epoch = false) ∧
    (∃ (s : State) (e : Nat) (k : TaskRef) (why : AbortWhy) (rest : List (TaskRef × AbortWhy)), e < s.aon.grade.engines ∧
      s.blk.frozen = false ∧ (s.blk.agent e).inAborts = (k, why) :: rest ∧ (s.blk.agent e).run = none ∧ (s.blk.agent
      e).present = none ∧ (s.blk.agent e).listWord = none ∧ (s.blk.agent e).committed = []) ∧
    (∃ (s : State) (e : Nat) (k : TaskRef) (rest : List (TaskRef × AbortWhy)) (r : Run), e < s.aon.grade.engines ∧
      s.blk.frozen = false ∧ (s.blk.agent e).inAborts = (k, .teardown) :: rest ∧ (s.blk.agent e).run = some r ∧ s.blk.headOf
      r.ref = k ∧ (s.blk.agent e).abort = none) ∧
    (∃ (s : State) (e : Nat) (k : TaskRef) (rest : List TaskRef), e < s.aon.grade.engines ∧ s.blk.frozen = false ∧
      (s.blk.agent e).outReplies = k :: rest) :=
  ⟨⟨tA { tUp with outReturns := [{ ref := tRef, engine := 0, refused := false, tiles := [], shadow := false, epoch := 1 }] },
      0, { ref := tRef, engine := 0, refused := false, tiles := [], shadow := false, epoch := 1 }, [], by decide +kernel⟩,
   ⟨tA { tUp with outReturns := [{ ref := tRef, engine := 0, refused := false, tiles := [], shadow := false }] }, 0,
      { ref := tRef, engine := 0, refused := false, tiles := [], shadow := false }, [], by decide +kernel⟩,
   ⟨tA { tUp with inAborts := [(tRef, .teardown)] }, 0, tRef, .teardown, [], by decide +kernel⟩,
   ⟨tA { tUp with run := some tRun, inAborts := [(tRef, .teardown)] }, 0, tRef, [], tRun, by decide +kernel⟩,
   ⟨tA { tUp with outReplies := [tRef] }, 0, tRef, [], by decide +kernel⟩⟩

theorem witness_TilePullGivesTheNextTile :
    (∃ (s : State) (e k : Nat) (d : DWord) (x : Task) (rc : Reach), e < s.aon.grade.engines ∧ (s.blk.agent e).listWord =
      some d ∧ (s.blk.agent e).advance = none ∧ (s.blk.agent e).pullEmpty = false ∧ (s.blk.agent e).abort = none ∧
      s.blk.frozen = false ∧ s.blk.coreHalted = false ∧ s.blk.torn d.ref.ctx = false ∧ s.blk.isLate d.ref.ctx d.epoch =
      false ∧ s.blk.task? d.ref = some x ∧ (x.state = .ready ∨ x.state = .dispatched) ∧ s.blk.dspEn = true ∧ (x.be = true →
      s.blk.beEn = true) ∧ s.blk.chargeOk d.ref.reach (if (s.blk.agent e).fedFirst then energyPj x.energy else 0) = true ∧
      (s.blk.reach d.ref.reach).takeTile d.ref x.tiles.toNat = some (k, rc) ∧ (s.blk.agent e).pull = .none) ∧
    (∃ (s : State) (e k : Nat) (d : DWord) (x : Task) (rc : Reach), e < s.aon.grade.engines ∧ (s.blk.agent e).listWord =
      some d ∧ (s.blk.agent e).advance = none ∧ (s.blk.agent e).pullEmpty = false ∧ (s.blk.agent e).abort = none ∧
      s.blk.frozen = false ∧ s.blk.coreHalted = false ∧ s.blk.torn d.ref.ctx = false ∧ s.blk.isLate d.ref.ctx d.epoch =
      false ∧ s.blk.task? d.ref = some x ∧ (x.state = .ready ∨ x.state = .dispatched) ∧ s.blk.dspEn = true ∧ (x.be = true →
      s.blk.beEn = true) ∧ s.blk.chargeOk d.ref.reach (if (s.blk.agent e).fedFirst then energyPj x.energy else 0) = true ∧
      (s.blk.reach d.ref.reach).takeTile d.ref x.tiles.toNat = some (k, rc) ∧ (s.blk.agent e).pull = .tile) :=
  ⟨⟨tList .none, 0, 0, tWord, { tTask with kind := .list, state := .ready, tiles := 3 }, _,
      seven (by decide +kernel) (seven (by decide +kernel) ⟨rfl, by decide +kernel⟩)⟩,
   ⟨tList .tile, 0, 0, tWord, { tTask with kind := .list, state := .ready, tiles := 3 }, _,
      seven (by decide +kernel) (seven (by decide +kernel) ⟨rfl, by decide +kernel⟩)⟩⟩

theorem witness_SelectionFollowsItsOrder :
    (∃ (b : Blk) (r : Nat), b.coreHalted = false ∧ (b.reach r).gangs = []) ∧
    (∃ (v : Env) (b : Blk) (r c : Nat) (x : Task), ∃ e, b.chooseEngine v r c x = some (e, false)) ∧
    (∃ (v : Env) (b : Blk) (r c : Nat) (x : Task), ∃ e, b.chooseEngine v r c x = some (e, true)) ∧
    (∃ (b : Blk) (p : SelectFrom) (k : TaskRef) (x : Task), b.task? k = some x ∧ b.torn k.ctx = false ∧ b.launchAborted
      k.ctx = false ∧ p ≠ .shadow ∧ x.state = .ready ∧ x.kind ≠ .list ∧ x.kind = .expert ∧ x.released = false) ∧
    (∃ (b : Blk) (p : SelectFrom) (k : TaskRef) (x : Task), b.task? k = some x ∧ b.torn k.ctx = false ∧ b.launchAborted
      k.ctx = false ∧ p ≠ .shadow ∧ x.state = .ready ∧ x.kind ≠ .list ∧ (x.kind = .expert → x.released = true) ∧ b.permits k
      x p = false) ∧
    (∃ (v : Env) (b : Blk) (p : SelectFrom) (k : TaskRef) (x : Task), b.task? k = some x ∧ b.torn k.ctx = false ∧
      b.launchAborted k.ctx = false ∧ p ≠ .shadow ∧ x.state = .ready ∧ x.kind ≠ .list ∧ (x.kind = .plain ∨ (x.kind = .expert
      ∧ x.released = true)) ∧ b.permits k x p = true ∧ b.chooseEngine v k.reach k.ctx x = none) ∧
    (∃ (v : Env) (b : Blk) (p : SelectFrom) (k : TaskRef) (x : Task), ∃ e pre, b.task? k = some x ∧ b.torn k.ctx = false ∧
      b.launchAborted k.ctx = false ∧ p ≠ .shadow ∧ x.state = .ready ∧ x.kind ≠ .list ∧ (x.kind = .plain ∨ (x.kind = .expert
      ∧ x.released = true)) ∧ b.permits k x p = true ∧ b.chooseEngine v k.reach k.ctx x = some (e, pre)) ∧
    (∃ (v : Env) (b : Blk) (k : TaskRef) (x : Task) (e : Nat), b.task? k = some x ∧ b.torn k.ctx = false ∧ b.launchAborted
      k.ctx = false ∧ x.kind = .plain ∧ b.shadowCandidate v k x = true ∧ x.state = .waiting ∧ (b.reach k.reach).shadowOk v
      k.reach k = true ∧ b.permits k x .shadow = true ∧ b.chooseShadow v k.reach k.ctx x = some e ∧ (∀ q ∈ (b.reach
      k.reach).shadowRecs, q.ref ≠ k)) ∧
    (∃ (s : State), s.blk.fe.cycStandby.arm = true ∧ s.blk.fe.cycStandby.dueAt ≤ s.aon.pulse + 1) ∧
    (∃ (s : State), (s.blk.fe.cycStandby.arm = false ∨ s.aon.pulse + 1 < s.blk.fe.cycStandby.dueAt)) :=
  ⟨⟨tOn.blk, 15, by decide +kernel⟩,
   ⟨{ tOn.env with cfg := { active := [(0x110000, 32), (0x200040, 4)] } },
      tSel { tTask with state := .ready, depcnt := 0, home := 5, last := 2048 } { tUp with bcast := { free := true } }, 0,
      1, { tTask with state := .ready, depcnt := 0, home := 5, last := 2048 }, 5, by decide +kernel⟩,
   ⟨{ tOn.env with cfg := { active := [(0x110000, 32), (0x200040, 4)] } },
      tSel { tTask with state := .ready, depcnt := 0, home := 5, last := 2048 } { tUp with bcast := { running := true, be := true, preempt := true } },
      0, 1, { tTask with state := .ready, depcnt := 0, home := 5, last := 2048 }, 5, by decide +kernel⟩,
   ⟨tSel { tTask with state := .ready, depcnt := 0, kind := .expert } { tUp with bcast := { free := true } }, .plain, tRef,
      { tTask with state := .ready, depcnt := 0, kind := .expert }, by decide +kernel⟩,
   ⟨{ tSel { tTask with state := .ready, depcnt := 0, home := 5, last := 2048 } { tUp with bcast := { free := true } } with pg := {} },
      .plain, tRef, { tTask with state := .ready, depcnt := 0, home := 5, last := 2048 }, by decide +kernel⟩,
   ⟨tOn.env, tSel { tTask with state := .ready, depcnt := 0, home := 5, last := 2048 } tUp, .plain, tRef,
      { tTask with state := .ready, depcnt := 0, home := 5, last := 2048 }, by decide +kernel⟩,
   ⟨{ tOn.env with cfg := { active := [(0x110000, 32), (0x200040, 4)] } },
      tSel { tTask with state := .ready, depcnt := 0, home := 5, last := 2048 } { tUp with bcast := { free := true } },
      .plain, tRef, { tTask with state := .ready, depcnt := 0, home := 5, last := 2048 }, 5, false, by decide +kernel⟩,
   ⟨{ tOn.env with cfg := { active := [(0x110000, 32), (0x200040, 4)] } },
      tSel { tTask with depcnt := 0, pred := 1, home := 5, last := 2048, shadowOk := true } { tUp with bcast := { free := true } },
      tRef, { tTask with depcnt := 0, pred := 1, home := 5, last := 2048, shadowOk := true }, 5, by decide +kernel⟩,
   ⟨tB { fe := { cycB := { arm := true, switchEdge := 2001 } } }, by decide +kernel⟩,
   ⟨tB { fe := { cycB := { arm := true, switchEdge := 2002 } } }, by decide +kernel⟩⟩

theorem witness_HeldItemsFollowTheirTask :
    (∃ (s : State) (e : Nat) (r : Run) (i : HoldItem), RunsAt s e r ∧ r.shadow = true ∧ itemOk i = true ∧ (s.blk.agent
      e).committed = [] ∧ (s.blk.agent e).held + itemBytes i ≤ 65536) ∧
    (∃ (s : State) (e : Nat) (r : Run) (i : HoldItem), RunsAt s e r ∧ r.shadow = true ∧ itemOk i = true ∧ (s.blk.agent
      e).committed = [] ∧ 65536 < (s.blk.agent e).held + itemBytes i) ∧
    (∃ (s : State) (e : Nat) (k : TaskRef) (rest : List TaskRef) (a : BitVec 64) (d : List Byte) (more : List (TaskRef ×
      HoldItem)), e < s.aon.grade.engines ∧ s.blk.frozen = false ∧ (s.blk.agent e).inCommits = k :: rest ∧ (s.blk.agent
      e).items = (k, .memWrite a d) :: more ∧ (s.blk.agent e).committed = [] ∧ (s.blk.agent e).ackDue = none ∧ (s.blk.agent
      e).stalled = none) ∧
    (∃ (s : State) (e : Nat) (k : TaskRef), e < s.aon.grade.engines ∧ s.blk.frozen = false ∧ (s.blk.agent e).ackDue = some k
      ∧ (s.blk.agent e).stalled = none ∧ (s.blk.agent e).items.find? (fun i => (s.blk.agent e).committed.contains i.1) =
      none) ∧
    (∃ (s : State) (e : Nat) (k : TaskRef) (rest : List TaskRef), e < s.aon.grade.engines ∧ s.blk.frozen = false ∧
      (s.blk.agent e).inSquashes = k :: rest ∧ (s.blk.agent e).run = none ∧ (s.blk.agent e).present = none) ∧
    (∃ (s : State) (e : Nat) (k : TaskRef) (rest : List TaskRef) (r : Run), e < s.aon.grade.engines ∧ s.blk.frozen = false ∧
      (s.blk.agent e).inSquashes = k :: rest ∧ (s.blk.agent e).run = some r ∧ r.ref = k ∧ (s.blk.agent e).abort = none) :=
  ⟨⟨tEng tShadow, 0, tShadow, .memWrite 0 [1], runsAt_of (by decide +kernel), by decide +kernel⟩,
   ⟨tA { tUp with run := some tShadow, items := [(tRef, .chanSend 0 (List.replicate 8188 0))] }, 0, tShadow,
      .memWrite 0 [1], runsAt_of (by decide +kernel), by decide +kernel⟩,
   ⟨tA { tUp with inCommits := [tRef], items := [(tRef, .memWrite 0 [1])] }, 0, tRef, [], 0, [1], [], by decide +kernel⟩,
   ⟨tA { tUp with ackDue := some tRef }, 0, tRef, by decide +kernel⟩,
   ⟨tA { tUp with inSquashes := [tRef] }, 0, tRef, [], by decide +kernel⟩,
   ⟨tA { tUp with inSquashes := [tRef], run := some tShadow }, 0, tRef, [], tShadow, by decide +kernel⟩⟩

theorem witness_SyncOperationsAct :
    (∃ (s : State) (e : Nat) (r : Run) (id : BitVec 32) (l : SyncLoc), RunsAt s e r ∧ s.blk.syncLoc s.env e r.ref.ctx id =
      some l ∧ s.blk.waitsOn l = []) ∧
    (∃ (s : State) (e : Nat) (r : Run) (id : BitVec 32) (l : SyncLoc), RunsAt s e r ∧ r.parks = false ∧ s.blk.syncLoc s.env
      e r.ref.ctx id = some l ∧ s.blk.waitsOn l = []) ∧
    (∃ (s : State) (e : Nat) (r : Run) (id x : BitVec 32) (l : SyncLoc), RunsAt s e r ∧ s.blk.syncLoc s.env e r.ref.ctx id =
      some l ∧ s.blk.waitsOn l = [] ∧ (∀ k i, l = .ofAgent k i → k = e) ∧ x.toNat ≤ (s.blk.syncObj l).value.toNat) ∧
    (∃ (s : State) (e : Nat) (r : Run) (id x : BitVec 32) (l : SyncLoc), RunsAt s e r ∧ s.blk.syncLoc s.env e r.ref.ctx id =
      some l ∧ s.blk.waitsOn l = [] ∧ (∀ k i, l = .ofAgent k i → k = e) ∧ x = (s.blk.syncObj l).value) :=
  ⟨⟨tA { tUp with run := some tRun, locals := [(3, { value := 7 })] }, 0, tRun, 3, .ofAgent 0 3,
      runsAt_of (by decide +kernel), by decide +kernel⟩,
   ⟨tA { tUp with run := some tRun, locals := [(3, { value := 7 })] }, 0, tRun, 0x40000003, .ofAgent 0 3,
      runsAt_of (by decide +kernel), by decide +kernel⟩,
   ⟨tA { tUp with run := some tRun, locals := [(3, { value := 7 })] }, 0, tRun, 3, 7, .ofAgent 0 3,
      runsAt_of (by decide +kernel), by decide +kernel, by decide +kernel, by
        intro k i h; cases h; rfl, by decide +kernel⟩,
   ⟨tA { tUp with run := some tRun, locals := [(3, { value := 7 })] }, 0, tRun, 3, 7, .ofAgent 0 3,
      runsAt_of (by decide +kernel), by decide +kernel, by decide +kernel, by
        intro k i h; cases h; rfl, by decide +kernel⟩⟩

theorem witness_WaitsGateTheirEngine :
    (∃ (s : State) (e : Nat) (r : Run) (id x : BitVec 32) (l : SyncLoc), RunsAt s e r ∧ s.blk.syncLoc s.env e r.ref.ctx id =
      some l ∧ (∀ k i, l = .ofAgent k i → k = e) ∧ (s.blk.syncObj l).value.toNat < x.toNat) ∧
    (∃ (s : State) (e : Nat) (r : Run) (id x : BitVec 32) (l : SyncLoc), RunsAt s e r ∧ s.blk.syncLoc s.env e r.ref.ctx id =
      some l ∧ (∀ k i, l = .ofAgent k i → k = e) ∧ (s.blk.syncObj l).value ≠ x) ∧
    (∃ (s : State) (e : Nat) (r : Run) (id delta : BitVec 32) (i : Nat) (w : Wait), RunsAt s e r ∧ r.parks = false ∧
      s.blk.syncLoc s.env e r.ref.ctx id = some (.ofHub i) ∧ s.blk.waitsOn (.ofHub i) = [w] ∧ 0 ≤ (s.blk.syncObj (.ofHub
      i)).value.toNat + delta.toInt ∧ (s.blk.syncObj (.ofHub i)).value.toNat + delta.toInt < 2 ^ 32 ∧ w.holds
      ((s.blk.syncObj (.ofHub i)).value + delta) = true) ∧
    (∃ (s : State) (e : Nat) (r : Run), RunsAt s e r) ∧
    (∃ (s : State) (e : Nat) (r : Run), ∃ x, RunsAt s e r ∧ rsigOk x = false) ∧
    (∃ (s : State) (e : Nat) (r : Run), ∃ id, RunsAt s e r ∧ s.blk.syncLoc s.env e r.ref.ctx id = none) ∧
    (∃ (s : State) (e : Nat) (r : Run), ∃ id k i, RunsAt s e r ∧ s.blk.syncLoc s.env e r.ref.ctx id = some (.ofAgent k i) ∧
      k ≠ e) :=
  ⟨⟨tHub { gsync := [(4097, { value := 7 })] } { tUp with run := some tRun }, 0, tRun, 0x80000001, 8, .ofHub 4097,
      runsAt_of (by decide +kernel), by decide +kernel, (fun _ _ h => nomatch h), by decide +kernel⟩,
   ⟨tHub { gsync := [(4097, { value := 7 })] } { tUp with run := some tRun }, 0, tRun, 0x80000001, 8, .ofHub 4097,
      runsAt_of (by decide +kernel), by decide +kernel, (fun _ _ h => nomatch h), by decide +kernel⟩,
   ⟨tHub { gsync := [(4097, { value := 7 })], gwaits := [(4097, [{ engine := 1, op := .ge, operand := 9 }])] } { tUp with run := some tRun },
      0, tRun, 0x80000001, 2, 4097, { engine := 1, op := .ge, operand := 9 }, runsAt_of (by decide +kernel),
      by decide +kernel⟩,
   ⟨tEng tRun, 0, tRun, runsAt_of (by decide +kernel)⟩,
   ⟨tEng tRun, 0, tRun, { dstNode := 0, stream := 3, kind := 3, ctx := 1, target := 0, value := 0, n := 0 },
      runsAt_of (by decide +kernel), by decide +kernel⟩,
   ⟨tEng tRun, 0, tRun, 0xC0000000, runsAt_of (by decide +kernel), by decide +kernel⟩,
   ⟨tEng tRun, 0, tRun, 0x40010000, 1, 0, runsAt_of (by decide +kernel), by decide +kernel⟩⟩

theorem witness_RunsKeepTheirSignals :
    (∃ (s : State) (e : Nat) (r : Run) (x : RsigBlk), RunsAt s e r ∧ r.parks = false ∧ r.rsig.length < 16 ∧ rsigOk x = true
      ∧ ((tgetD {} s.blk.hb.streams x.stream.toNat).owner = none ∨ (tgetD {} s.blk.hb.streams x.stream.toNat).owner = some
      r.ref.ctx)) ∧
    (∃ (s : State) (e : Nat) (r : Run) (x : RsigBlk), RunsAt s e r ∧ r.parks = false ∧ (16 ≤ r.rsig.length ∨ ∃ c, (tgetD {}
      s.blk.hb.streams x.stream.toNat).owner = some c ∧ c ≠ r.ref.ctx)) ∧
    (∃ (s : State) (e : Nat) (r : Run) (id delta : BitVec 32) (l : SyncLoc), RunsAt s e r ∧ r.parks = false ∧ s.blk.syncLoc
      s.env e r.ref.ctx id = some l ∧ s.blk.waitsOn l = [] ∧ 0 ≤ (s.blk.syncObj l).value.toNat + delta.toInt ∧
      (s.blk.syncObj l).value.toNat + delta.toInt < 2 ^ 32) ∧
    (∃ (s : State) (e : Nat) (r : Run) (id : BitVec 32) (l : SyncLoc), RunsAt s e r ∧ r.parks = true ∧ (s.blk.agent e).held
      + 32 ≤ 65536 ∧ s.blk.syncLoc s.env e r.ref.ctx id = some l) ∧
    (∃ (s : State) (e : Nat) (r : Run) (id : BitVec 32) (x : RsigBlk) (l : SyncLoc), RunsAt s e r ∧ r.parks = true ∧
      (s.blk.agent e).held + 32 ≤ 65536 ∧ s.blk.syncLoc s.env e r.ref.ctx id = some l ∧ rsigOk x = true) :=
  ⟨⟨tEng tRun, 0, tRun, { dstNode := 0, stream := 3, kind := 1, ctx := 1, target := 0, value := 0, n := 0 },
      runsAt_of (by decide +kernel), by decide +kernel⟩,
   ⟨tEng { tRun with rsig := List.replicate 16 { dstNode := 0, stream := 3, kind := 1, ctx := 1, target := 0, value := 0, n := 0 } },
      0,
      { tRun with rsig := List.replicate 16 { dstNode := 0, stream := 3, kind := 1, ctx := 1, target := 0, value := 0, n := 0 } },
      { dstNode := 0, stream := 3, kind := 1, ctx := 1, target := 0, value := 0, n := 0 }, runsAt_of (by decide +kernel),
      by decide +kernel⟩,
   ⟨tA { tUp with run := some tRun, locals := [(3, { value := 7 })] }, 0, tRun, 3, 0xFFFFFFF9, .ofAgent 0 3,
      runsAt_of (by decide +kernel), by decide +kernel⟩,
   ⟨tA { tUp with run := some tShadow, items := [(tRef, .chanSend 0 (List.replicate 8186 0))] }, 0, tShadow, 3,
      .ofAgent 0 3, runsAt_of (by decide +kernel), by decide +kernel⟩,
   ⟨tA { tUp with run := some tShadow, items := [(tRef, .chanSend 0 (List.replicate 8186 0))] }, 0, tShadow, 3,
      { dstNode := 0, stream := 3, kind := 1, ctx := 1, target := 0, value := 0, n := 0 }, .ofAgent 0 3,
      runsAt_of (by decide +kernel), by decide +kernel⟩⟩

theorem witness_SignalsAreResentAndFreed :
    (∃ (s : State), s.blk.rel.jHalted = false) ∧
    (∃ (s : State), s.blk.rel.jHalted = true) ∧
    (∃ (s : State) (o : Outstanding) (p : Nat), s.blk.frozen = false ∧ s.blk.hb.outstanding = [o] ∧ o.sentAt = some p ∧ p +
      s.env.resend ≤ s.aon.pulse) ∧
    (∃ (s : State) (o : Outstanding) (p : Nat), s.blk.frozen = false ∧ s.blk.hb.outstanding = [o] ∧ o.sentAt = some p ∧
      s.aon.pulse < p + s.env.resend) ∧
    (∃ (s : State) (beat : FbBeat) (w : BitVec 256) (pkt : BitVec 128) (o : Outstanding), s.env.hubOn = true ∧ s.blk.frozen
      = false ∧ packetsOf beat = [w] ∧ bits w 128 128 = 0 ∧ w.setWidth 128 = pkt ∧ ackWellFormed pkt = true ∧
      s.blk.hb.outstanding = [o] ∧ o.matches pkt = true) ∧
    (∃ (s : State) (beat : FbBeat) (w : BitVec 256), s.env.hubOn = true ∧ packetsOf beat = [w] ∧ bits w 0 8 = 2 ∧ (bits w
      128 128 ≠ 0 ∨ ackWellFormed (w.setWidth 128) = false ∨ ∀ o ∈ s.blk.hb.outstanding, o.matches (w.setWidth 128) =
      false)) :=
  ⟨⟨tOn, by decide +kernel⟩,
   ⟨tB { rel := { jHalted := true } }, by decide +kernel⟩,
   ⟨{ tHub { outstanding := [tOut] } {} with cfg := { active := [(0x901000, 1000 * 65536)] } }, tOut, 1000,
      by decide +kernel⟩,
   ⟨{ tHub { outstanding := [tOut] } {} with cfg := { active := [(0x901000, 1001 * 65536)] } }, tOut, 1000,
      by decide +kernel⟩,
   ⟨tHub { outstanding := [tOut] } {}, tBeat tAck.toNat, tAck.setWidth 256, tAck, tOut, by decide +kernel⟩,
   ⟨tHub { outstanding := [tOut] } {}, tBeat 2, 2, by decide +kernel⟩⟩

theorem witness_SignalsWaitForTheirCount :
    (∃ (s : State) (beat : FbBeat) (pkt : BitVec 256), s.env.hubOn = true ∧ s.blk.frozen = false ∧ packetsOf beat = [pkt] ∧
      signalWellFormed pkt = true ∧ (signalOf pkt).dst = s.env.node ∧ s.env.rsAccept = true ∧ (s.blk.recv (signalOf
      pkt).stream).used = true ∧ (s.blk.recv (signalOf pkt).stream).src = (signalOf pkt).src ∧ (s.blk.recv (signalOf
      pkt).stream).epoch = (signalOf pkt).epoch ∧ s.blk.torn (signalOf pkt).ctx.toNat = false ∧ (s.blk.recv (signalOf
      pkt).stream).base = (signalOf pkt).seq ∧ (s.blk.recv (signalOf pkt).stream).done = 0 ∧ (s.blk.recv (signalOf
      pkt).stream).held = 0 ∧ s.blk.hb.held = [] ∧ 2 ^ 31 ≤ ((s.blk.recv (signalOf pkt).stream).count - (signalOf
      pkt).expect).toNat) ∧
    (∃ (s : State) (beat : FbBeat) (pkt : BitVec 256), s.env.hubOn = true ∧ s.blk.frozen = false ∧ packetsOf beat = [pkt] ∧
      signalWellFormed pkt = true ∧ (signalOf pkt).dst = s.env.node ∧ s.env.rsAccept = true ∧ (s.blk.recv (signalOf
      pkt).stream).used = true ∧ (s.blk.recv (signalOf pkt).stream).src = (signalOf pkt).src ∧ (s.blk.recv (signalOf
      pkt).stream).epoch = (signalOf pkt).epoch ∧ s.blk.torn (signalOf pkt).ctx.toNat = false ∧ (s.blk.recv (signalOf
      pkt).stream).base = (signalOf pkt).seq ∧ (s.blk.recv (signalOf pkt).stream).done = 0 ∧ (s.blk.recv (signalOf
      pkt).stream).held = 0 ∧ s.blk.hb.held = [] ∧ ((s.blk.recv (signalOf pkt).stream).count - (signalOf pkt).expect).toNat
      < 2 ^ 31) ∧
    (∃ (s : State) (beat : FbBeat) (pkt : BitVec 256), s.env.hubOn = true ∧ packetsOf beat = [pkt] ∧ bits pkt 0 8 ≠ 2 ∧
      (signalWellFormed pkt = false ∨ (signalOf pkt).dst ≠ s.env.node ∨ s.env.rsAccept = false)) ∧
    (∃ (s : State), s.env.hubOn = true ∧ s.blk.hb.held = []) :=
  ⟨⟨tRecv 0, tBeat tPkt.toNat, tPkt, by decide +kernel⟩,
   ⟨tRecv 1, tBeat tPkt.toNat, tPkt, by decide +kernel⟩,
   ⟨tRecv 0, tBeat 0, 0, by decide +kernel⟩,
   ⟨tOn, by decide +kernel⟩⟩

theorem witness_StopsAndTelemetryOfTheFabric :
    (∃ (s : State), s.env.hubOn = true ∧ s.blk.frozen = true) ∧
    (∃ (s : State), s.env.hubOn = true ∧ s.blk.frozen = true) ∧
    (∃ (s : State) (w : BitVec 64), s.env.debugOn = true ∧ bits w 8 4 < 4) ∧
    (∃ (s : State) (w : BitVec 64), s.env.debugOn = true ∧ 4 ≤ bits w 8 4) :=
  ⟨⟨tB { db := { stopped := true } }, by decide +kernel⟩,
   ⟨tB { db := { stopped := true } }, by decide +kernel⟩,
   ⟨tOn, 0x300, by decide +kernel⟩,
   ⟨tOn, 0x400, by decide +kernel⟩⟩

theorem witness_ReleasedSignalsTakeEffect :
    (∃ (s : State) (x : Signal) (k : Ctx), s.blk.frozen = false ∧ s.blk.hb.effects = [x] ∧ x.kind = 1 ∧ s.blk.ctx?
      x.ctx.toNat = some k ∧ k.faulted = false ∧ x.target.toNat < k.record.gsyncQ ∧ s.blk.waitsOn (.ofHub (gsyncKey
      x.ctx.toNat x.target.toNat)) = [] ∧ 0 ≤ (s.blk.syncObj (.ofHub (gsyncKey x.ctx.toNat x.target.toNat))).value.toNat +
      x.value.toInt ∧ (s.blk.syncObj (.ofHub (gsyncKey x.ctx.toNat x.target.toNat))).value.toNat + x.value.toInt < 2 ^ 32) ∧
    (∃ (s : State) (x : Signal) (k : TaskRef), s.blk.frozen = false ∧ s.blk.hb.effects = [x] ∧ x.kind = 0 ∧ k =
      { ctx := x.ctx.toNat, id := x.target } ∧ (s.blk.reach k.reach).hubSent < 16) ∧
    (∃ (s : State) (x : Signal), s.blk.frozen = false ∧ s.blk.hb.effects = [x] ∧ 2 ≤ x.kind.toNat ∧ s.blk.rt.heard.contains
      (x.ctx.toNat, x.target, x.stream, x.round) = false) ∧
    (∃ (s : State) (x : Signal), s.blk.frozen = false ∧ s.blk.hb.effects = [x] ∧ 2 ≤ x.kind.toNat ∧ s.blk.rt.heard.contains
      (x.ctx.toNat, x.target, x.stream, x.round) = true) ∧
    (∃ (s : State), s.blk.frozen = false ∧ s.blk.hb.effects = []) ∧
    (∃ (s : State) (e : Nat), e < s.aon.grade.engines) :=
  ⟨⟨tHub { effects := [{ tSig with value := 0xFFFFFFF9 }], gsync := [(4101, { value := 7 })] } {},
      { tSig with value := 0xFFFFFFF9 }, tCtx, by decide +kernel⟩,
   ⟨tHub { effects := [{ tSig with kind := 0 }] } {}, { tSig with kind := 0 }, { ctx := 1, id := 5 }, by decide +kernel⟩,
   ⟨tHub { effects := [{ tSig with kind := 2 }] } {}, { tSig with kind := 2 }, by decide +kernel⟩,
   ⟨tB { fe := tFe tCtx, hb := { effects := [{ tSig with kind := 2 }] }, rt := { heard := [(1, 5, 3, 0)] } },
      { tSig with kind := 2 }, by decide +kernel⟩,
   ⟨tOn, by decide +kernel⟩,
   ⟨tOn, 2047, by decide +kernel⟩⟩

theorem witness_ChannelsOpenInPairs :
    (∃ (s : State) (e : Nat) (r : Run) (index rlog a : Nat) (persist : Bool) (x : Channel), RunsAt s e r ∧ r.parks = false ∧
      index < s.blk.chanQ r.ref.ctx ∧ 4 ≤ rlog ∧ rlog ≤ 16 ∧ x = (s.blk.chan? (s.blk.headOf r.ref).ctx index).getD
      { ctx := (s.blk.headOf r.ref).ctx } ∧ x.state = .pending ∧ x.recvEnd = none ∧ x.fan = none ∧ (persist = true ∨ ∀ z,
      x.sendEnd = some z → z.ref = s.blk.headOf r.ref) ∧ s.blk.ringPlace (s.blk.headOf r.ref).ctx rlog = some a) ∧
    (∃ (s : State) (e : Nat) (r : Run) (index : Nat) (x : Channel), RunsAt s e r ∧ r.parks = false ∧ index < s.blk.chanQ
      r.ref.ctx ∧ x = (s.blk.chan? (s.blk.headOf r.ref).ctx index).getD { ctx := (s.blk.headOf r.ref).ctx } ∧ x.state =
      .pending ∧ x.sendEnd = none ∧ x.fan = none ∧ x.inScope (s.blk.headOf r.ref) = true) ∧
    (∃ (s : State) (e : Nat) (r : Run) (index rlog : Nat), RunsAt s e r ∧ r.parks = false ∧ index < s.blk.chanQ r.ref.ctx ∧
      4 ≤ rlog ∧ rlog ≤ 16 ∧ s.blk.chan? (s.blk.headOf r.ref).ctx index = none ∧ s.blk.ringPlace (s.blk.headOf r.ref).ctx
      rlog = none) ∧
    (∃ (s : State) (e : Nat) (r : Run) (index : Nat) (x : Channel), RunsAt s e r ∧ r.parks = false ∧ index < s.blk.chanQ
      r.ref.ctx ∧ s.blk.chan? (s.blk.headOf r.ref).ctx index = some x ∧ x.state ≠ .pending) ∧
    (∃ (s : State) (e : Nat) (r : Run) (index : Nat) (x : Channel), ∃ rlog, RunsAt s e r ∧ r.parks = false ∧ index <
      s.blk.chanQ r.ref.ctx ∧ s.blk.chan? (s.blk.headOf r.ref).ctx index = some x ∧ x.state ≠ .pending ∧ 4 ≤ rlog ∧ rlog ≤
      16) ∧
    (∃ (s : State) (e : Nat) (r : Run) (index : Nat) (ids : List (BitVec 32)) (is : List Nat), RunsAt s e r ∧ r.parks =
      false ∧ index < s.blk.chanQ r.ref.ctx ∧ s.blk.chan? (s.blk.headOf r.ref).ctx index = none ∧ ids ≠ [] ∧ ids.length ≤ 16
      ∧ ids.map (s.blk.chanIndex (s.blk.headOf r.ref).ctx 0) = is.map some ∧ (∀ i ∈ is, ∃ x, s.blk.chan? (s.blk.headOf
      r.ref).ctx i = some x ∧ (x.state = .pending ∨ x.state = .opened) ∧ x.sendEnd.isSome = true ∧ x.fan = none ∧ x.inScope
      (s.blk.headOf r.ref) = true)) :=
  ⟨⟨tEng tRun, 0, tRun, 15, 7, 0, false, { ctx := 1 }, runsAt_of (by decide +kernel),
      seven (by decide +kernel) ⟨by decide +kernel, .inr (fun _ h => nomatch h), by decide +kernel⟩⟩,
   ⟨tChs { tChan with state := .pending, sendEnd := none } tRun, 0, tRun, 0,
      { tChan with state := .pending, sendEnd := none }, runsAt_of (by decide +kernel), by decide +kernel⟩,
   ⟨tEng tRun, 0, tRun, 1, 16, runsAt_of (by decide +kernel), by decide +kernel⟩,
   ⟨tChs tChan tRun, 0, tRun, 0, tChan, runsAt_of (by decide +kernel), by decide +kernel⟩,
   ⟨tChs tChan tRun, 0, tRun, 0, tChan, 16, runsAt_of (by decide +kernel), by decide +kernel⟩,
   ⟨tChs tChan tRun, 0, tRun, 1, [0x00000000], [0], runsAt_of (by decide +kernel),
      four (by decide +kernel) ⟨by decide +kernel, by decide +kernel, by
        intro i h; cases List.mem_singleton.mp h
        exact ⟨tChan, by decide, by decide, by decide, by decide, by decide⟩⟩⟩⟩

theorem witness_SendStoresItsMessage :
    (∃ (s : State) (e : Nat) (r : Run) (id : BitVec 32) (payload : List (BitVec 64)) (i : Nat) (x : Channel) (z : ChEnd),
      RunsAt s e r ∧ r.parks = false ∧ s.blk.chanIndex (s.blk.headOf r.ref).ctx 0 id = some i ∧ s.blk.chan? (s.blk.headOf
      r.ref).ctx i = some x ∧ x.state = .opened ∧ x.sendEnd = some z ∧ z.closed = false ∧ endClosed x.recvEnd = false ∧
      x.fan = none ∧ x.inScope (s.blk.headOf r.ref) = true ∧ payload.length ≤ 2 ^ x.rlog - 2 ∧ (x.gapWords ++ chHeader 0
      payload.length x.seqNext :: payload).length ≤ (2 ^ x.rlog - x.wp % 2 ^ x.rlog) ∧ (x.gapWords ++ chHeader 0
      payload.length x.seqNext :: payload).length ≤ x.freeWords) ∧
    (∃ (s : State) (e : Nat) (r : Run) (id : BitVec 32) (payload : List (BitVec 64)) (i : Nat) (x : Channel) (z : ChEnd),
      RunsAt s e r ∧ r.parks = false ∧ s.blk.chanIndex (s.blk.headOf r.ref).ctx 0 id = some i ∧ s.blk.chan? (s.blk.headOf
      r.ref).ctx i = some x ∧ x.state = .opened ∧ x.sendEnd = some z ∧ z.closed = false ∧ endClosed x.recvEnd = false ∧
      x.fan = none ∧ x.inScope (s.blk.headOf r.ref) = true ∧ payload.length ≤ 2 ^ x.rlog - 2 ∧ (2 ^ x.rlog - x.wp % 2 ^
      x.rlog) < (x.gapWords ++ chHeader 0 payload.length x.seqNext :: payload).length ∧ (2 ^ x.rlog - x.wp % 2 ^ x.rlog) +
      (x.gapWords ++ chHeader 0 payload.length x.seqNext :: payload).length ≤ x.freeWords) ∧
    (∃ (s : State) (e : Nat) (r : Run) (id : BitVec 32) (payload : List (BitVec 64)) (i : Nat) (x : Channel) (z : ChEnd),
      RunsAt s e r ∧ r.parks = false ∧ s.blk.chanIndex (s.blk.headOf r.ref).ctx 0 id = some i ∧ s.blk.chan? (s.blk.headOf
      r.ref).ctx i = some x ∧ x.state = .opened ∧ x.sendEnd = some z ∧ z.closed = false ∧ endClosed x.recvEnd = false ∧
      x.fan = none ∧ x.inScope (s.blk.headOf r.ref) = true ∧ payload.length ≤ 2 ^ x.rlog - 2 ∧ x.freeWords < (if (x.gapWords
      ++ chHeader 0 payload.length x.seqNext :: payload).length ≤ (2 ^ x.rlog - x.wp % 2 ^ x.rlog) then (x.gapWords ++
      chHeader 0 payload.length x.seqNext :: payload).length else (2 ^ x.rlog - x.wp % 2 ^ x.rlog) + (x.gapWords ++ chHeader
      0 payload.length x.seqNext :: payload).length)) ∧
    (∃ (s : State) (e : Nat) (r : Run) (id : BitVec 32) (i : Nat) (x : Channel), RunsAt s e r ∧ r.parks = false ∧
      s.blk.chanIndex (s.blk.headOf r.ref).ctx 0 id = some i ∧ s.blk.chan? (s.blk.headOf r.ref).ctx i = some x ∧ x.fan =
      none ∧ x.inScope (s.blk.headOf r.ref) = true ∧ x.state = .pending ∧ endClosed x.sendEnd = false) ∧
    (∃ (s : State) (e : Nat) (r : Run) (id : BitVec 32) (i : Nat) (x : Channel), RunsAt s e r ∧ r.parks = false ∧
      s.blk.chanIndex (s.blk.headOf r.ref).ctx 0 id = some i ∧ s.blk.chan? (s.blk.headOf r.ref).ctx i = some x ∧ x.fan =
      none ∧ x.inScope (s.blk.headOf r.ref) = true ∧ x.state = .reset) ∧
    (∃ (s : State) (e : Nat) (r : Run) (id : BitVec 32) (payload : List (BitVec 64)) (i : Nat) (x : Channel), RunsAt s e r ∧
      r.parks = false ∧ s.blk.chanIndex (s.blk.headOf r.ref).ctx 0 id = some i ∧ s.blk.chan? (s.blk.headOf r.ref).ctx i =
      some x ∧ x.fan = none ∧ x.inScope (s.blk.headOf r.ref) = true ∧ x.state = .opened ∧ endClosed x.sendEnd = false ∧
      endClosed x.recvEnd = true ∧ payload.length ≤ 2 ^ x.rlog - 2) ∧
    (∃ (s u : State) (e : Nat) (r : Run) (id : BitVec 32) (payload : List (BitVec 64)) (i : Nat) (x : Channel) (ids : List
      (BitVec 32)) (ms : List Nat) (sts : List (BitVec 8)), RunsAt s e r ∧ r.parks = false ∧ s.blk.chanIndex (s.blk.headOf
      r.ref).ctx 0 id = none ∧ s.blk.chanIndex (s.blk.headOf r.ref).ctx 2 id = some i ∧ s.blk.chan? (s.blk.headOf r.ref).ctx
      i = some x ∧ x.fan = some ms ∧ ids.map (s.blk.chanIndex (s.blk.headOf r.ref).ctx 0) = ms.map some ∧ SendsEach e
      payload ids s u sts) ∧
    (∃ (s : State) (e : Nat) (r : Run) (id : BitVec 32) (payload : List (BitVec 64)), RunsAt s e r ∧ r.parks = true ∧
      (s.blk.agent e).held + itemBytes (.chanSend id payload) ≤ 65536) :=
  ⟨⟨tChs tChan tRun, 0, tRun, 0, List.replicate 14 0, 0, tChan, tEnd, runsAt_of (by decide +kernel), by decide +kernel⟩,
   ⟨tChs { tChan with wp := 10, rp := 10, rl := 10, mkp := 10 } tRun, 0, tRun, 0, List.replicate 7 0, 0,
      { tChan with wp := 10, rp := 10, rl := 10, mkp := 10 }, tEnd, runsAt_of (by decide +kernel), by decide +kernel⟩,
   ⟨tChs { tChan with wp := 2 } tRun, 0, tRun, 0, List.replicate 14 0, 0, { tChan with wp := 2 }, tEnd,
      runsAt_of (by decide +kernel), by decide +kernel⟩,
   ⟨tChs { tChan with state := .pending } tRun, 0, tRun, 0, 0, { tChan with state := .pending },
      runsAt_of (by decide +kernel), by decide +kernel⟩,
   ⟨tChs { tChan with state := .reset } tRun, 0, tRun, 0, 0, { tChan with state := .reset }, runsAt_of (by decide +kernel),
      by decide +kernel⟩,
   ⟨tChs { tChan with recvEnd := some { tEnd with closed := true } } tRun, 0, tRun, 0, [], 0,
      { tChan with recvEnd := some { tEnd with closed := true } }, runsAt_of (by decide +kernel), by decide +kernel⟩,
   ⟨tHub { channels := [(chKey 1 0, tChan), (chKey 1 1, { tChan with fan := some [0] })] } { tUp with run := some tRun },
      _, 0, tRun, 0x80000001, [], 1, { tChan with fan := some [0] }, [0], [0], [_], runsAt_of (by decide +kernel),
      four (by decide +kernel) ⟨by decide +kernel, by decide +kernel,
      .cons _ _ _ _ _ _ _ rfl rfl (by decide +kernel) (.nil _)⟩⟩,
   ⟨tA { tUp with run := some tShadow, items := [(tRef, .chanSend 0 (List.replicate 8188 0))] }, 0, tShadow, 0, [],
      runsAt_of (by decide +kernel), by decide +kernel⟩⟩

theorem witness_ReadsMoveThePointers :
    (∃ (s : State) (e : Nat) (r : Run) (id : BitVec 32) (i : Nat) (x : Channel), ∃ en, RunsAt s e r ∧ r.parks = false ∧
      s.blk.recvChan (s.blk.headOf r.ref) id = some (i, x) ∧ x.state ≠ .reset ∧ (endClosed x.sendEnd = false ∨ x.gapCount =
      0) ∧ s.blk.hb.nextEntry x x.rp = some en) ∧
    (∃ (s : State) (e : Nat) (r : Run) (id : BitVec 32) (i : Nat) (x : Channel), RunsAt s e r ∧ r.parks = false ∧
      s.blk.recvChan (s.blk.headOf r.ref) id = some (i, x) ∧ x.state ≠ .reset ∧ (endClosed x.sendEnd = false ∨ x.gapCount =
      0) ∧ s.blk.hb.nextEntry x x.rp = none) ∧
    (∃ (s : State) (e : Nat) (r : Run) (id : BitVec 32) (i : Nat) (x : Channel), ∃ en, ∃ (words : List (Nat × Ecc)), RunsAt
      s e r ∧ r.parks = false ∧ s.blk.recvChan (s.blk.headOf r.ref) id = some (i, x) ∧ x.state ≠ .reset ∧ (endClosed
      x.sendEnd = false ∨ x.gapCount = 0) ∧ s.blk.hb.nextEntry x x.rp = some en ∧ (∀ w ∈ words, (s.blk.hb.metWords x
      x.rp).contains w.1 = true ∧ eccOutcome (s.blk.pageValid 32 (x.addr (ptrAdd x.rlog x.rp w.1) / 2048)) w.2 =
      .corrected)) ∧
    (∃ (s : State) (e : Nat) (r : Run) (id : BitVec 32) (i : Nat) (x : Channel), RunsAt s e r ∧ r.parks = false ∧
      s.blk.recvChan (s.blk.headOf r.ref) id = some (i, x) ∧ x.state ≠ .reset ∧ (endClosed x.sendEnd = false ∨ x.gapCount =
      0)) ∧
    (∃ (s : State) (e : Nat) (r : Run) (id : BitVec 32) (i : Nat) (x : Channel), RunsAt s e r ∧ r.parks = false ∧
      s.blk.recvChan (s.blk.headOf r.ref) id = some (i, x) ∧ x.state ≠ .reset ∧ endClosed x.sendEnd = true ∧ x.gapCount ≠ 0
      ∧ 1 ≤ ({ x with rl := x.rp } : Channel).freeWords) ∧
    (∃ (s : State) (e : Nat) (r : Run) (id : BitVec 32) (i : Nat) (x : Channel) (ecc : Ecc) (en : Entry) (k : Nat), RunsAt s
      e r ∧ r.parks = false ∧ s.blk.recvChan (s.blk.headOf r.ref) id = some (i, x) ∧ x.state ≠ .reset ∧ s.blk.hb.nextEntry x
      x.rp = some en ∧ (s.blk.hb.metWords x x.rp).contains k = true ∧ eccOutcome (s.blk.pageValid 32 (x.addr (ptrAdd x.rlog
      x.rp k) / 2048)) ecc = .uncorrectable) ∧
    (∃ (s : State) (e : Nat) (r : Run) (id : BitVec 32) (i : Nat) (x : Channel), RunsAt s e r ∧ r.parks = false ∧
      s.blk.recvChan (s.blk.headOf r.ref) id = some (i, x) ∧ x.state = .reset) ∧
    (∃ (s : State) (e : Nat) (r : Run) (id : BitVec 32) (i : Nat) (x : Channel), RunsAt s e r ∧ r.parks = false ∧
      s.blk.recvChan (s.blk.headOf r.ref) id = some (i, x) ∧ x.state = .reset) ∧
    (∃ (s : State) (e : Nat) (r : Run) (id : BitVec 32) (i : Nat) (x : Channel) (z : ChEnd), RunsAt s e r ∧ r.parks = false
      ∧ s.blk.chan? (s.blk.headOf r.ref).ctx i = some x ∧ x.inScope (s.blk.headOf r.ref) = true ∧ x.fan = none ∧ x.gapCount
      = 0 ∧ s.blk.chanIndex (s.blk.headOf r.ref).ctx 0 id = some i ∧ x.sendEnd = some z) ∧
    (∃ (s : State) (e : Nat) (r : Run) (id : BitVec 32) (i : Nat) (x : Channel) (z : ChEnd), RunsAt s e r ∧ r.parks = false
      ∧ s.blk.chan? (s.blk.headOf r.ref).ctx i = some x ∧ x.inScope (s.blk.headOf r.ref) = true ∧ x.fan = none ∧ x.gapCount
      = 0 ∧ s.blk.chanIndex (s.blk.headOf r.ref).ctx 1 id = some i ∧ x.recvEnd = some z) :=
  ⟨⟨tChs { tChan with wp := 1 } tRun, 0, tRun, 0x40000000, 0, { tChan with wp := 1 }, _, runsAt_of (by decide +kernel),
      four (by decide +kernel) (rfl)⟩,
   ⟨tChs tChan tRun, 0, tRun, 0x40000000, 0, tChan, runsAt_of (by decide +kernel), by decide +kernel⟩,
   ⟨tChs { tChan with wp := 1 } tRun, 0, tRun, 0x40000000, 0, { tChan with wp := 1 }, _, [(0, .corrected)],
      runsAt_of (by decide +kernel), four (by decide +kernel) ⟨rfl, by decide +kernel⟩⟩,
   ⟨tChs tChan tRun, 0, tRun, 0x40000000, 0, tChan, runsAt_of (by decide +kernel), by decide +kernel⟩,
   ⟨tChs { tChan with sendEnd := some { tEnd with closed := true }, gapCount := 1 } tRun, 0, tRun, 0x40000000, 0,
      { tChan with sendEnd := some { tEnd with closed := true }, gapCount := 1 }, runsAt_of (by decide +kernel),
      by decide +kernel⟩,
   ⟨tChs { tChan with wp := 1 } tRun, 0, tRun, 0x40000000, 0, { tChan with wp := 1 }, .detected [], _, 0,
      runsAt_of (by decide +kernel), by decide +kernel, by decide +kernel, by decide +kernel, rfl, by decide +kernel⟩,
   ⟨tChs { tChan with state := .reset } tRun, 0, tRun, 0x40000000, 0, { tChan with state := .reset },
      runsAt_of (by decide +kernel), by decide +kernel⟩,
   ⟨tChs { tChan with state := .reset } tRun, 0, tRun, 0x40000000, 0, { tChan with state := .reset },
      runsAt_of (by decide +kernel), by decide +kernel⟩,
   ⟨tChs tChan tRun, 0, tRun, 0, 0, tChan, tEnd, runsAt_of (by decide +kernel), by decide +kernel⟩,
   ⟨tChs tChan tRun, 0, tRun, 0x40000000, 0, tChan, tEnd, runsAt_of (by decide +kernel), by decide +kernel⟩⟩

theorem witness_ChannelMemoryStaysCanonical :
    ∃ (s t : State), Memory.wf s.blk.hb.chanMem = true ∧ step s = .next t :=
  ⟨{ tChs tChan tRun with pending := [.send 0 0 [5]] }, _, by decide +kernel, rfl⟩

theorem witness_CombiningFollowsPositions :
    (∃ (s : State) (e : Nat) (r : Run) (d : BitVec 512), RunsAt s e r ∧ r.parks = false ∧ dField d 0 2 < s.blk.cqQ r.ref.ctx
      ∧ s.blk.cq? r.ref.ctx (dField d 0 2) = none ∧ combBlockOk d = true) ∧
    (∃ (s : State) (e : Nat) (r : Run) (argix : BitVec 32) (d : BitVec 512) (x : CombQ), RunsAt s e r ∧ r.parks = false ∧
      dField d 0 2 < s.blk.cqQ r.ref.ctx ∧ s.blk.cq? r.ref.ctx (dField d 0 2) = some x ∧ x.state ≠ .closing ∧ x.argix =
      argix ∧ x.launch = ((s.blk.ctx? r.ref.ctx).map Ctx.launchCount).getD 0) ∧
    (∃ (s : State) (c k : Nat) (q : CombQ) (src : Option (Nat × TaskRef)) (p : PutOp), c < s.aon.grade.contexts ∧
      s.blk.frozen = false ∧ s.blk.cq? c k = some q ∧ q.state = .opening ∧ q.held = [(src, p)] ∧ p.queue = k ∧ q.refuses p =
      false ∧ tget (tgetD {} q.slots p.slot).puts p.pos = none) ∧
    (∃ (s : State) (c k : Nat) (q : CombQ), c < s.aon.grade.contexts ∧ s.blk.frozen = false ∧ s.blk.cq? c k = some q ∧
      q.state = .opening ∧ q.held = []) ∧
    (∃ (s : State) (e : Nat) (r : Run) (p : PutOp) (q : CombQ), RunsAt s e r ∧ r.parks = false ∧ p.queue < s.blk.cqQ
      r.ref.ctx ∧ p.fmt.toNat < 6 ∧ p.cfl.toNat < 4 ∧ s.blk.cq? r.ref.ctx p.queue = some q ∧ q.state = .opened ∧ q.refuses p
      = false ∧ tget (tgetD {} q.slots p.slot).puts p.pos = none) ∧
    (∃ (s : State) (e : Nat) (r : Run) (p : PutOp) (q : CombQ), RunsAt s e r ∧ r.parks = false ∧ s.blk.cq? r.ref.ctx p.queue
      = some q ∧ q.state ≠ .closing ∧ (s.blk.cqQ r.ref.ctx ≤ p.queue ∨ 6 ≤ p.fmt.toNat ∨ 4 ≤ p.cfl.toNat ∨ q.refuses p =
      true)) ∧
    (∃ (s : State) (c k slot : Nat) (rows : List (List (BitVec 32))) (q : CombQ), c < s.aon.grade.contexts ∧ s.blk.frozen =
      false ∧ s.blk.cq? c k = some q ∧ q.ripe slot = true ∧ rows.length = (q.terms (tgetD {} q.slots slot)).length ∧ (∀ x ∈
      rows, x.length = q.elems)) ∧
    (∃ (s : State) (c k : Nat) (q : CombQ) (x : TaskRef), c < s.aon.grade.contexts ∧ s.blk.frozen = false ∧ s.blk.cq? c k =
      some q ∧ q.closer = some x ∧ q.state = .closing ∧ q.reported = false ∧ q.doneN = q.slotN) :=
  ⟨⟨tEng tRun, 0, tRun, (1 <<< 32) ||| (1 <<< 64) ||| (32 <<< 96) ||| (128 <<< 256), runsAt_of (by decide +kernel),
      by decide +kernel⟩,
   ⟨tCqs tCq, 0, tRun, 0, 0, tCq, runsAt_of (by decide +kernel), by decide +kernel⟩,
   ⟨tCqs { tCq with state := .opening, held := [(none, tPut)] }, 1, 0,
      { tCq with state := .opening, held := [(none, tPut)] }, none, tPut, by decide +kernel⟩,
   ⟨tCqs { tCq with state := .opening }, 1, 0, { tCq with state := .opening }, by decide +kernel⟩,
   ⟨tCqs tCq, 0, tRun, tPut, tCq, runsAt_of (by decide +kernel), by decide +kernel⟩,
   ⟨tCqs tCq, 0, tRun, { tPut with fmt := 6 }, tCq, runsAt_of (by decide +kernel), by decide +kernel⟩,
   ⟨tCqs { tCq with slots := [(0, { puts := [(0, tPut)] })] }, 1, 0, 0, [List.replicate 32 0],
      { tCq with slots := [(0, { puts := [(0, tPut)] })] }, by decide +kernel⟩,
   ⟨tCqs { tCq with state := .closing, closer := some tRef, slots := [(0, { done := true })] }, 1, 0,
      { tCq with state := .closing, closer := some tRef, slots := [(0, { done := true })] }, tRef, by decide +kernel⟩⟩

theorem witness_TokensAreRoutedInOrder :
    (∃ (s : State) (e : Nat) (r : Run) (hdr : BitVec 128) (beats : List (BitVec 512)) (k : Nat) (x : Session), RunsAt s e r
      ∧ s.aon.grade.hasRouter = true ∧ s.blk.torn (bits hdr 80 6) = false ∧ s.blk.rt.slotOf (bits hdr 80 6) (BitVec.ofNat 32
      (bits hdr 32 32)) (BitVec.ofNat 16 (bits hdr 64 16)) = some k ∧ s.blk.session? k = some x ∧ s.blk.rt.holds e = false ∧
      beats.length = x.rsd.beats) ∧
    (∃ (s : State) (e : Nat) (r : Run) (hdr : BitVec 128) (k : Nat) (x : Session), RunsAt s e r ∧ s.aon.grade.hasRouter =
      true ∧ s.blk.torn (bits hdr 80 6) = false ∧ s.blk.rt.slotOf (bits hdr 80 6) (BitVec.ofNat 32 (bits hdr 32 32))
      (BitVec.ofNat 16 (bits hdr 64 16)) = some k ∧ s.blk.session? k = some x ∧ s.blk.rt.holds e = true) ∧
    (∃ (s : State) (e : Nat) (r : Run) (hdr : BitVec 128) (beats : List (BitVec 512)) (k : Nat) (x : Session), RunsAt s e r
      ∧ s.aon.grade.hasRouter = true ∧ s.blk.torn (bits hdr 80 6) = false ∧ s.blk.rt.slotOf (bits hdr 80 6) (BitVec.ofNat 32
      (bits hdr 32 32)) (BitVec.ofNat 16 (bits hdr 64 16)) = some k ∧ s.blk.session? k = some x ∧ s.blk.rt.holds e = false ∧
      beats.length ≠ x.rsd.beats ∧ bits hdr 80 6 ≠ 0 ∧ s.blk.fe.teardownsIn = []) ∧
    (∃ (s : State) (e : Nat) (r : Run) (hdr : BitVec 128) (rsd : List Byte) (k : Nat) (x : Ctx), RunsAt s e r ∧
      s.aon.grade.hasRouter = true ∧ s.env.rtEn = true ∧ s.blk.ctx? (bits hdr 80 6) = some x ∧ x.faulted = false ∧
      s.blk.torn (bits hdr 80 6) = false ∧ s.blk.rt.holds e = false ∧ s.blk.rt.slotOf (bits hdr 80 6) (BitVec.ofNat 32 (bits
      hdr 32 32)) (BitVec.ofNat 16 (bits hdr 64 16)) = none ∧ (List.range 4).find? (fun k => (s.blk.session? k).isNone) =
      some k ∧ Rsd.ok x (bits hdr 80 6) rsd = true) ∧
    (∃ (s : State) (e : Nat) (r : Run), RunsAt s e r ∧ s.aon.grade.hasRouter = false) ∧
    (∃ (s : State) (x : Sys2Proof.Machine.Vector) (rest : List Sys2Proof.Machine.Vector) (k : Nat) (y : Session),
      s.blk.frozen = false ∧ s.blk.rt.unsent = [] ∧ s.blk.rt.intake = x :: rest ∧ s.blk.rt.slotOf x.ctx x.rsdIx x.round =
      some k ∧ s.blk.session? k = some y ∧ s.blk.torn y.ctx = false ∧ y.processed < y.rsd.tokenN ∧ y.rsd.quota = false ∧
      (y.admitAll x.token ((List.range (topK y.rsd.k (x.scores y.rsd)).length).zip ((topK y.rsd.k (x.scores y.rsd)).map
      (·.1)))).2.2 = none) ∧
    (∃ (s : State), (s.blk.frozen = true ∨ (s.blk.rt.unsent = [] ∧ s.blk.rt.intake = []))) :=
  ⟨⟨tB { agents := [(0, { tUp with run := some tRun })], fe := tFe tCtx, rt := { sessions := [(0, tSess)] } }, 0, tRun,
      1 <<< 80, [0], 0, tSess, runsAt_of (by decide +kernel), by decide +kernel⟩,
   ⟨tB { agents := [(0, { tUp with run := some tRun })], fe := tFe tCtx, rt := { sessions := [(0, tSess)], waiting := [(tVec, [])] } },
      0, tRun, 1 <<< 80, 0, tSess, runsAt_of (by decide +kernel), by decide +kernel⟩,
   ⟨tB { agents := [(0, { tUp with run := some tRun })], fe := tFe tCtx, rt := { sessions := [(0, tSess)] } }, 0, tRun,
      1 <<< 80, [], 0, tSess, runsAt_of (by decide +kernel), by decide +kernel⟩,
   ⟨{ tEng tRun with cfg := { active := [(0x800000, 1)] } }, 0, tRun, 1 <<< 80, tRsdBytes, 0, tCtx,
      runsAt_of (by decide +kernel), by decide +kernel⟩,
   ⟨{ tEng tRun with aon := { tOn.aon with grade := .o2 } }, 0, tRun, runsAt_of (by decide +kernel), by decide +kernel⟩,
   ⟨tB { fe := tFe tCtx, rt := { sessions := [(0, tSess)], intake := [tVec] } }, tVec, [], 0, tSess, by decide +kernel⟩,
   ⟨tOn, by decide +kernel⟩⟩

theorem witness_ChunksAreBoundAndClaimedOnce :
    (∃ (s : State) (k r : Nat) (x : Session), s.blk.session? k = some x ∧ x.wantChunk = some r ∧ s.blk.frozen = false ∧
      s.blk.db.rcHalted = false ∧ s.blk.torn x.ctx = false ∧ x.nextChunk < x.rsd.chunkN) ∧
    (∃ (s : State) (k c : Nat) (x : Session) (y : Chunk), s.blk.session? k = some x ∧ tget x.chunks c = some y ∧
      s.blk.frozen = false ∧ s.blk.db.rcHalted = false ∧ y.claimable = false ∧ y.count = x.rsd.tileT ∧ x.chunkSent c = true) ∧
    (∃ (s : State) (e c row tile : Nat) (r : Run) (x : Task) (k : Option Nat) (y : Session), RunsAt s e r ∧ r.dw.kind =
      .expert ∧ (s.blk.agent e).abort = none ∧ (s.blk.agent e).listWord = none ∧ s.blk.coreHalted = false ∧ s.blk.torn
      r.ref.ctx = false ∧ s.blk.isLate r.ref.ctx r.dw.epoch = false ∧ s.blk.task? r.ref = some x ∧ s.blk.dspEn = true ∧
      (x.be = true → s.blk.beEn = true) ∧ s.blk.rt.pullSession r.ref = some (k, y, row, tile) ∧ (y.phase = .closed ∨ ∀ z,
      y.rsd.rows[row]? = some z → tile + 1 ≠ z.tileN) ∧ y.freeChunk row = some c ∧ s.blk.chargeOk r.ref.reach (energyPj
      x.energy) = true ∧ (s.blk.agent e).pull = .none) ∧
    (∃ (s : State) (e c row tile : Nat) (r : Run) (x : Task) (k : Option Nat) (y : Session), RunsAt s e r ∧ r.dw.kind =
      .expert ∧ (s.blk.agent e).abort = none ∧ (s.blk.agent e).listWord = none ∧ s.blk.coreHalted = false ∧ s.blk.torn
      r.ref.ctx = false ∧ s.blk.isLate r.ref.ctx r.dw.epoch = false ∧ s.blk.task? r.ref = some x ∧ s.blk.dspEn = true ∧
      (x.be = true → s.blk.beEn = true) ∧ s.blk.rt.pullSession r.ref = some (k, y, row, tile) ∧ (y.phase = .closed ∨ ∀ z,
      y.rsd.rows[row]? = some z → tile + 1 ≠ z.tileN) ∧ y.freeChunk row = some c ∧ s.blk.chargeOk r.ref.reach (energyPj
      x.energy) = true ∧ (s.blk.agent e).pull = .chunk) :=
  ⟨⟨tRt { tSess with wantChunk := some 0 }, 0, 0, { tSess with wantChunk := some 0 }, by decide +kernel⟩,
   ⟨tRt { tSess with chunks := [(0, { row := some 0, count := 16 })], placed := List.replicate 16 { tPlaced with chunk := true } },
      0, 0,
      { tSess with chunks := [(0, { row := some 0, count := 16 })], placed := List.replicate 16 { tPlaced with chunk := true } },
      { row := some 0, count := 16 }, by decide +kernel⟩,
   ⟨tPull .none, 0, 0, 0, 0, { tRun with dw := { tWord with word := 3 } },
      { tTask with kind := .expert, state := .dispatched }, some 0,
      { tSess with chunks := [(0, { row := some 0, count := 16, claimable := true })] }, runsAt_of (by decide +kernel),
      seven (by decide +kernel) ⟨by decide +kernel, by decide +kernel, by decide +kernel, .inr (by
        intro z h; cases h; decide), by decide +kernel⟩⟩,
   ⟨tPull .chunk, 0, 0, 0, 0, { tRun with dw := { tWord with word := 3 } },
      { tTask with kind := .expert, state := .dispatched }, some 0,
      { tSess with chunks := [(0, { row := some 0, count := 16, claimable := true })] }, runsAt_of (by decide +kernel),
      seven (by decide +kernel) ⟨by decide +kernel, by decide +kernel, by decide +kernel, .inr (by
        intro z h; cases h; decide), by decide +kernel⟩⟩⟩

theorem witness_SendsReleaseTheirTiles :
    (∃ (s : State) (e : Nat) (id : BitVec 32) (w : SendWord) (x : Session), e < s.aon.grade.engines ∧ (s.blk.agent
      e).sends.find? (fun w => w.id == id) = some w ∧ s.blk.rt.unsent = [] ∧ s.blk.session? w.slot = some x) ∧
    (∃ (s : State) (k e : Nat) (x : Session) (y : RsdRow) (p : Placed), s.blk.session? k = some x ∧ s.blk.frozen = false ∧
      s.blk.torn x.ctx = false ∧ s.blk.sasEn = true ∧ s.blk.rt.unsent = [] ∧ x.placed = [p] ∧ p.sent = false ∧
      x.rsd.rows[p.row]? = some y ∧ x.rsd.sendEngine s.env p.row p.index = some e ∧ (s.blk.agent e).sends.length <
      s.env.sendCredit) ∧
    (∃ (s : State) (k row tile : Nat) (x : Session) (y : RsdRow), s.blk.session? k = some x ∧ x.rsd.rows[row]? = some y ∧
      s.blk.frozen = false ∧ s.blk.torn x.ctx = false ∧ x.phase ≠ .closing ∧ x.tileReady row tile = true) ∧
    (∃ (s : State) (r : Nat) (x : TaskRef) (release : Bool) (rest : List (TaskRef × Bool)), r < s.aon.grade.reaches ∧ tgetD
      [] s.blk.rt.notices r = (x, release) :: rest ∧ s.blk.frozen = false ∧ s.blk.torn x.ctx = false) :=
  ⟨⟨tB { agents := [(0, { tUp with sends := [tSend] })], fe := tFe tCtx, rt := { sessions := [(0, tSess)] } }, 0, 1, tSend,
      tSess, by decide +kernel⟩,
   ⟨tB { agents := [(0, tUp)], fe := tFe tCtx, rt := { sessions := [(0, { tSess with placed := [{ tPlaced with sent := false, done := false }] })] }, pg := { permit := 8 } },
      0, 0, { tSess with placed := [{ tPlaced with sent := false, done := false }] }, tRow,
      { tPlaced with sent := false, done := false }, by decide +kernel⟩,
   ⟨tRt { tSess with placed := List.replicate 16 tPlaced }, 0, 0, 0, { tSess with placed := List.replicate 16 tPlaced },
      tRow, by decide +kernel⟩,
   ⟨tB { fe := tFe tCtx, rt := { notices := [(0, [(tRef, true)])] } }, 0, tRef, true, [], by decide +kernel⟩⟩

theorem witness_SessionsCloseInSteps :
    (∃ (s : State) (k : Nat) (x : Session), s.blk.session? k = some x ∧ s.blk.frozen = false ∧ s.blk.torn x.ctx = false ∧
      x.phase = .routing ∧ x.processed = x.rsd.tokenN ∧ x.sendsOut = 0 ∧ (∀ u ∈ s.blk.rt.unsent, u.1 ≠ k) ∧ (∀ p ∈ x.placed,
      p.sent = true)) ∧
    (∃ (s : State) (k : Nat) (x : Session), s.blk.session? k = some x ∧ s.blk.frozen = false ∧ s.blk.db.rcHalted = false ∧
      s.blk.torn x.ctx = false ∧ x.phase = .closePoint ∧ x.sendsOut = 0 ∧ (∀ p ∈ x.placed, p.done = true) ∧ x.announcedAll =
      true) ∧
    (∃ (s : State) (k : Nat) (x : Session), s.blk.session? k = some x ∧ s.blk.frozen = false ∧ s.blk.db.rcHalted = false ∧
      s.blk.torn x.ctx = false ∧ x.phase = .closing ∧ s.blk.rt.waiting = []) ∧
    (∃ (s : State) (k : Nat) (x : Session), s.blk.session? k = some x ∧ s.blk.frozen = false ∧ s.blk.db.rcHalted = false ∧
      s.blk.torn x.ctx = false ∧ x.phase = .closing ∧ x.ctx ≠ 0 ∧ s.blk.fe.teardownsIn = []) ∧
    (∃ (s : State) (c k row : Nat) (ix : BitVec 32) (round stream : BitVec 16) (l : BitVec 32) (x : Session) (y : RsdRow),
      s.blk.frozen = false ∧ s.blk.rt.deliver = [(c, ix, round, stream, l)] ∧ s.blk.torn c = false ∧ s.blk.rt.sessions.find?
      (fun p => p.2.is c ix round) = some (k, x) ∧ ((List.range x.rsd.rows.length).zip x.rsd.rows).find? (fun p => p.2.type
      == 2 && p.2.stream == stream) = some (row, y) ∧ (x.row row).announced = false ∧ l.toNat ≤ y.cap) ∧
    (∃ (s : State) (c k row : Nat) (ix : BitVec 32) (round stream : BitVec 16) (l : BitVec 32) (x : Session) (y : RsdRow),
      s.blk.frozen = false ∧ s.blk.rt.deliver = [(c, ix, round, stream, l)] ∧ s.blk.torn c = false ∧ s.blk.rt.sessions.find?
      (fun p => p.2.is c ix round) = some (k, x) ∧ ((List.range x.rsd.rows.length).zip x.rsd.rows).find? (fun p => p.2.type
      == 2 && p.2.stream == stream) = some (row, y) ∧ (x.row row).announced = true) ∧
    (∃ (s : State), (s.blk.frozen = true ∨ s.blk.rt.deliver = [])) :=
  ⟨⟨tRt { tSess with processed := 1, placed := [tPlaced] }, 0, { tSess with processed := 1, placed := [tPlaced] },
      by decide +kernel⟩,
   ⟨tRt { tSess with phase := .closePoint, placed := [tPlaced] }, 0,
      { tSess with phase := .closePoint, placed := [tPlaced] }, by decide +kernel⟩,
   ⟨tRt { tSess with phase := .closing }, 0, { tSess with phase := .closing }, by decide +kernel⟩,
   ⟨tRt { tSess with phase := .closing }, 0, { tSess with phase := .closing }, by decide +kernel⟩,
   ⟨tB { fe := tFe tCtx, rt := { sessions := [(0, { tSess with rsd := { tRsd with rows := [{ tRow with type := 2 }] } })], deliver := [(1, 0, 0, 5, 16)] } },
      1, 0, 0, 0, 0, 5, 16, { tSess with rsd := { tRsd with rows := [{ tRow with type := 2 }] } }, { tRow with type := 2 },
      by decide +kernel⟩,
   ⟨tB { fe := tFe tCtx, rt := { sessions := [(0, { tSess with rsd := { tRsd with rows := [{ tRow with type := 2 }] }, rowSt := [(0, { announced := true })] })], deliver := [(1, 0, 0, 5, 16)] } },
      1, 0, 0, 0, 0, 5, 16,
      { tSess with rsd := { tRsd with rows := [{ tRow with type := 2 }] }, rowSt := [(0, { announced := true })] },
      { tRow with type := 2 }, by decide +kernel⟩,
   ⟨tOn, by decide +kernel⟩⟩

theorem witness_PollsBeginWhenDue :
    (∃ (s : State), s.blk.feRuns s.env = true ∧ s.blk.fe.poll.polledAt ≠ s.aon.pulse ∧ (s.env.pollTimer = true ∨ ∃ k ∈
      s.blk.fe.poll.hints, k < s.aon.pulse) ∧ s.blk.fe.poll.busy = false ∧ s.blk.fe.poll.endedAt ≠ some s.aon.pulse ∧ (∀ p ∈
      s.blk.fe.queues, p.2.look ≠ .again)) ∧
    (∃ (s : State), s.blk.feRuns s.env = true ∧ s.blk.fe.poll.polledAt ≠ s.aon.pulse ∧ (s.env.pollTimer = true ∨ ∃ k ∈
      s.blk.fe.poll.hints, k < s.aon.pulse) ∧ (s.blk.fe.poll.busy = true ∨ s.blk.fe.poll.endedAt = some s.aon.pulse)) ∧
    (∃ (s : State), s.blk.feRuns s.env = true ∧ s.blk.fe.poll.busy = false ∧ s.blk.fe.poll.polledAt ≠ s.aon.pulse ∧
      s.blk.fe.poll.endedAt ≠ some s.aon.pulse ∧ (s.blk.fe.poll.timerDue = true ∨ s.blk.fe.poll.hintDue = true) ∧ (∀ p ∈
      s.blk.fe.queues, p.2.look ≠ .again)) ∧
    (∃ (b : Blk) (p : HostReq → Bool) (tag : Nat) (r : HostReq) (pre post : List (Nat × HostReq)), b.fe.hostOut = pre ++
      (tag, r) :: post ∧ p r = true ∧ (∀ x ∈ pre, p x.2 = false) ∧ b.fe.hostWait = []) ∧
    (∃ (b : Blk) (p : HostReq → Bool) (tag : Nat) (r : HostReq) (pre post : List (Nat × HostReq)), ∃ w rest, b.fe.hostOut =
      pre ++ (tag, r) :: post ∧ p r = true ∧ (∀ x ∈ pre, p x.2 = false) ∧ b.fe.hostWait = w :: rest) :=
  ⟨⟨tPoll {}, by decide +kernel⟩,
   ⟨tPoll { busy := true }, by decide +kernel⟩,
   ⟨tPoll { hintDue := true }, by decide +kernel⟩,
   ⟨{ fe := { hostOut := [(0, .summaryRead 0)] } }, HostReq.isSummary, 0, .summaryRead 0, [], [], by decide +kernel⟩,
   ⟨{ fe := { hostOut := [(0, .summaryRead 0)], hostWait := [.fetch 1 0] } }, HostReq.isSummary, 0, .summaryRead 0, [], [],
      .fetch 1 0, [], by decide +kernel⟩⟩

theorem witness_BellsLeadToDescriptors :
    (∃ (s : State) (words : List (BitVec 64)) (q : Nat), ∃ u, s.blk.fe.poll.reading = true ∧ bellsOf words = [q] ∧ (∀ p ∈
      s.blk.fe.queues, p.2.readAgain = false) ∧ NoneLate s.blk HostReq.isSummary ∧ s.blk.queue? q = some u ∧ u.isOpen =
      true) ∧
    (∃ (s : State) (words : List (BitVec 64)) (q : Nat), ∃ u, s.blk.fe.poll.reading = true ∧ bellsOf words = [q] ∧ (∀ p ∈
      s.blk.fe.queues, p.2.readAgain = false) ∧ NoneLate s.blk HostReq.isSummary ∧ s.blk.queue? q = some u ∧ u.isOpen =
      false) ∧
    (∃ (s : State) (words : List (BitVec 64)) (q : Nat), s.blk.fe.poll.reading = true ∧ bellsOf words = [q] ∧ (∀ p ∈
      s.blk.fe.queues, p.2.readAgain = false) ∧ NoneLate s.blk HostReq.isSummary ∧ s.blk.queue? q = none) ∧
    (∃ (s : State) (q : Nat) (u : Queue) (rest : List AskedBy), q < 1024 ∧ s.blk.queue? q = some u ∧ u.isOpen = true ∧
      NoneLate s.blk (HostReq.isAnd q) ∧ u.ands = .bell :: rest ∧ s.blk.fe.poll.abandoned = false) ∧
    (∃ (s : State) (q : Nat) (u : Queue) (rest : List AskedBy), q < 1024 ∧ s.blk.queue? q = some u ∧ u.isOpen = true ∧
      NoneLate s.blk (HostReq.isAnd q) ∧ u.ands = .look :: rest) ∧
    (∃ (s : State) (q : Nat) (u : Queue) (rest : List AskedBy) (pi : BitVec 64), q < 1024 ∧ s.blk.queue? q = some u ∧
      u.isOpen = true ∧ NoneLate s.blk (HostReq.isPi q) ∧ u.piReads = .bell :: rest ∧ u.ci ≤ pi.toNat ∧ pi.toNat ≤ u.ci + 2
      ^ u.log2n) ∧
    (∃ (s : State) (q : Nat) (u : Queue) (rest : List AskedBy) (pi : BitVec 64), q < 1024 ∧ s.blk.queue? q = some u ∧
      u.isOpen = true ∧ NoneLate s.blk (HostReq.isPi q) ∧ u.piReads = .look :: rest ∧ u.ci ≤ pi.toNat ∧ pi.toNat ≤ u.ci + 2
      ^ u.log2n) ∧
    (∃ (s : State) (q : Nat) (u : Queue) (rest : List AskedBy) (pi : BitVec 64), q < 1024 ∧ s.blk.queue? q = some u ∧
      u.isOpen = true ∧ NoneLate s.blk (HostReq.isPi q) ∧ u.piReads = .bell :: rest ∧ (pi.toNat < u.ci ∨ u.ci + 2 ^ u.log2n
      < pi.toNat) ∧ u.ctx = 0) ∧
    (∃ (s : State) (q : Nat) (u : Queue) (rest : List AskedBy) (pi : BitVec 64), q < 1024 ∧ s.blk.queue? q = some u ∧
      u.isOpen = true ∧ NoneLate s.blk (HostReq.isPi q) ∧ u.piReads = .bell :: rest ∧ (pi.toNat < u.ci ∨ u.ci + 2 ^ u.log2n
      < pi.toNat) ∧ u.ctx ≠ 0 ∧ s.blk.torn u.ctx = false ∧ s.blk.fe.teardownsIn = []) ∧
    (∃ (s : State) (q : Nat) (u : Queue), q < 1024 ∧ s.blk.queue? q = some u ∧ u.fetchOut = true ∧ u.isOpen = true ∧ (∀ x ∈
      u.started, x.index < u.ci - u.fetched.length) ∧ NoneLate s.blk (HostReq.isFetch q)) ∧
    (∃ (s : State) (q : Nat) (u : Queue) (st : BitVec 8) (k : Nat) (rest : List (BitVec 8 × Nat)), q < 1024 ∧ s.blk.queue? q
      = some u ∧ u.resOut = (st, k) :: rest ∧ NoneLate s.blk (HostReq.isResult q)) ∧
    (∃ (s : State) (q : Nat), q < 1024 ∧ NoneLate s.blk (HostReq.isStatus q)) :=
  ⟨⟨{ tB { fe := { tFe tCtx with queues := [(1, tQ)], poll := { busy := true, reading := true } } } with cfg := tOnCfg },
      [2], 1, tQ, by decide +kernel, by decide +kernel, by decide +kernel, (fun _ h => nomatch h), by decide +kernel⟩,
   ⟨tB { fe := { tFe tCtx with queues := [(1, { tQ with qstate := .closing })], poll := { busy := true, reading := true } } },
      [2], 1, { tQ with qstate := .closing }, by decide +kernel, by decide +kernel, by decide +kernel,
      (fun _ h => nomatch h), by decide +kernel⟩,
   ⟨tB { fe := { poll := { busy := true, reading := true } } }, [2], 1, by decide +kernel, by decide +kernel,
      by decide +kernel, (fun _ h => nomatch h), by decide +kernel⟩,
   ⟨tQs [(1, { tQ with ands := [.bell] })], 1, { tQ with ands := [.bell] }, [], by decide +kernel, by decide +kernel,
      by decide +kernel, (fun _ h => nomatch h), by decide +kernel⟩,
   ⟨tQs [(1, { tQ with ands := [.look], look := .andOut })], 1, { tQ with ands := [.look], look := .andOut }, [],
      by decide +kernel, by decide +kernel, by decide +kernel, (fun _ h => nomatch h), by decide +kernel⟩,
   ⟨tQs [(1, { tQ with piReads := [.bell] })], 1, { tQ with piReads := [.bell] }, [], 65, by decide +kernel,
      by decide +kernel, by decide +kernel, (fun _ h => nomatch h), by decide +kernel⟩,
   ⟨tQs [(1, { tQ with piReads := [.look], look := .readOut })], 1, { tQ with piReads := [.look], look := .readOut }, [],
      65, by decide +kernel, by decide +kernel, by decide +kernel, (fun _ h => nomatch h), by decide +kernel⟩,
   ⟨tQs [(1, { tQ with piReads := [.bell], ctx := 0 })], 1, { tQ with piReads := [.bell], ctx := 0 }, [], 66,
      by decide +kernel, by decide +kernel, by decide +kernel, (fun _ h => nomatch h), by decide +kernel⟩,
   ⟨tQs [(1, { tQ with piReads := [.bell] })], 1, { tQ with piReads := [.bell] }, [], 66, by decide +kernel,
      by decide +kernel, by decide +kernel, (fun _ h => nomatch h), by decide +kernel⟩,
   ⟨tQs [(1, { tQ with fetchOut := true })], 1, { tQ with fetchOut := true }, four (by decide +kernel) ⟨by decide +kernel,
      (fun _ h => nomatch h)⟩⟩,
   ⟨tQs [(1, { tQ with resOut := [(0, 3)] })], 1, { tQ with resOut := [(0, 3)] }, 0, 3, [], by decide +kernel,
      by decide +kernel, by decide +kernel, (fun _ h => nomatch h)⟩,
   ⟨tOn, 1023, by decide +kernel, (fun _ h => nomatch h)⟩⟩

theorem witness_DescriptorsStartTheirWork :
    (∃ (s : State) (q : Nat) (u : Queue) (d : BitVec 512), Starts s q u d ∧ verdict s.env u d = none ∧ dOpcode d = 0x00) ∧
    (∃ (s : State) (q : Nat) (u : Queue) (d : BitVec 512), Starts s q u d ∧ verdict s.env u d = none ∧ dOpcode d = 0x06) ∧
    (∃ (s : State) (q : Nat) (u : Queue) (d : BitVec 512), Starts s q u d ∧ verdict s.env u d = none ∧ dOpcode d = 0x07) ∧
    (∃ (s : State) (q : Nat) (u : Queue) (d : BitVec 512), Starts s q u d ∧ verdict s.env u d = none ∧ dOpcode d = 0x09) ∧
    (∃ (s : State) (q : Nat) (u : Queue) (d : BitVec 512), Starts s q u d ∧ verdict s.env u d = none ∧ dOpcode d = 0x0A) ∧
    (∃ (s : State) (q : Nat) (u : Queue) (d : BitVec 512), Starts s q u d ∧ verdict s.env u d = none ∧ dOpcode d = 0x0B) ∧
    (∃ (s : State) (q : Nat) (u : Queue) (d : BitVec 512), Starts s q u d ∧ verdict s.env u d = none ∧ dOpcode d = 0x0C) ∧
    (∃ (s : State) (q : Nat) (u : Queue) (d : BitVec 512), Starts s q u d ∧ verdict s.env u d = none ∧ dOpcode d = 0x0D) ∧
    (∃ (s : State) (q : Nat) (u : Queue) (d : BitVec 512), Starts s q u d ∧ verdict s.env u d = none ∧ dOpcode d = 0x03 ∧
      ((if dOpcode d = 0x01 then launchArea d else if dOpcode d = 0x03 then patchArea d else stepArea d).1.getLsbD 63 = true
      → (if dOpcode d = 0x01 then launchArea d else if dOpcode d = 0x03 then patchArea d else stepArea d).2 ≠ 0 →
      s.blk.fe.freeTag ≠ none) ∧ dField d 0x10 1 = 0 ∧ u.ctx ≠ 0) ∧
    (∃ (s : State) (q : Nat) (u : Queue) (d : BitVec 512), Starts s q u d ∧ verdict s.env u d = none ∧ dOpcode d = 0x03 ∧
      ((if dOpcode d = 0x01 then launchArea d else if dOpcode d = 0x03 then patchArea d else stepArea d).1.getLsbD 63 = true
      → (if dOpcode d = 0x01 then launchArea d else if dOpcode d = 0x03 then patchArea d else stepArea d).2 ≠ 0 →
      s.blk.fe.freeTag ≠ none) ∧ dField d 0x10 1 = 1 ∧ u.ctx = 0) ∧
    (∃ (s : State) (q : Nat) (u : Queue) (d : BitVec 512), Starts s q u d ∧ verdict s.env u d = none ∧ dOpcode d = 0x03 ∧ (¬
      ((if dOpcode d = 0x01 then launchArea d else if dOpcode d = 0x03 then patchArea d else stepArea d).1.getLsbD 63 = true
      → (if dOpcode d = 0x01 then launchArea d else if dOpcode d = 0x03 then patchArea d else stepArea d).2 ≠ 0 →
      s.blk.fe.freeTag ≠ none))) ∧
    (∃ (s : State) (q : Nat) (u : Queue) (d : BitVec 512), Starts s q u d ∧ verdict s.env u d = none ∧ dOpcode d = 0x08 ∧ (¬
      ((if dOpcode d = 0x01 then launchArea d else if dOpcode d = 0x03 then patchArea d else stepArea d).1.getLsbD 63 = true
      → (if dOpcode d = 0x01 then launchArea d else if dOpcode d = 0x03 then patchArea d else stepArea d).2 ≠ 0 →
      s.blk.fe.freeTag ≠ none))) ∧
    (∃ (s : State) (q : Nat) (u : Queue) (d : BitVec 512), Starts s q u d ∧ verdict s.env u d = none ∧ dOpcode d = 0x01 ∧
      u.launchRead = none ∧ (¬ ((if dOpcode d = 0x01 then launchArea d else if dOpcode d = 0x03 then patchArea d else
      stepArea d).1.getLsbD 63 = true → (if dOpcode d = 0x01 then launchArea d else if dOpcode d = 0x03 then patchArea d
      else stepArea d).2 ≠ 0 → s.blk.fe.freeTag ≠ none))) ∧
    (∃ (s : State) (q : Nat) (u : Queue) (d : BitVec 512), Starts s q u d ∧ verdict s.env u d = none ∧ dOpcode d = 0x01 ∧
      u.launchRead = none ∧ ((if dOpcode d = 0x01 then launchArea d else if dOpcode d = 0x03 then patchArea d else stepArea
      d).1.getLsbD 63 = true → (if dOpcode d = 0x01 then launchArea d else if dOpcode d = 0x03 then patchArea d else
      stepArea d).2 ≠ 0 → s.blk.fe.freeTag ≠ none) ∧ s.blk.launchBusy s.env u.ctx = true) ∧
    (∃ (s : State) (q : Nat) (u : Queue) (d : BitVec 512), ∃ x, Starts s q u d ∧ verdict s.env u d = none ∧ dOpcode d = 0x01
      ∧ u.launchRead = none ∧ ((if dOpcode d = 0x01 then launchArea d else if dOpcode d = 0x03 then patchArea d else
      stepArea d).1.getLsbD 63 = true → (if dOpcode d = 0x01 then launchArea d else if dOpcode d = 0x03 then patchArea d
      else stepArea d).2 ≠ 0 → s.blk.fe.freeTag ≠ none) ∧ s.blk.launchBusy s.env u.ctx = false ∧ s.blk.ctx? u.ctx = some x) ∧
    (∃ (s : State) (q : Nat) (u : Queue) (d : BitVec 512), Starts s q u d ∧ verdict s.env u d = none ∧ dOpcode d = 0x02 ∧
      (s.blk.fe.loaderHalted = true ∨ s.blk.loadBusy s.env u.ctx = true)) ∧
    (∃ (s : State) (q : Nat) (u : Queue) (d : BitVec 512), Starts s q u d ∧ verdict s.env u d = none ∧ dOpcode d = 0x02 ∧
      s.blk.fe.loaderHalted = false ∧ s.blk.loadBusy s.env u.ctx = false) ∧
    (∃ (s : State) (q : Nat) (u : Queue) (d : BitVec 512), Starts s q u d ∧ verdict s.env u d = none ∧ dOpcode d = 0x04) ∧
    (∃ (s : State) (q : Nat) (u : Queue) (d : BitVec 512), Starts s q u d ∧ verdict s.env u d = none ∧ dOpcode d = 0x05) ∧
    (∃ (s : State) (q : Nat) (u : Queue) (d : BitVec 512), ∃ lists x, Starts s q u d ∧ verdict s.env u d = none ∧ dOpcode d
      = 0x08 ∧ ((if dOpcode d = 0x01 then launchArea d else if dOpcode d = 0x03 then patchArea d else stepArea d).1.getLsbD
      63 = true → (if dOpcode d = 0x01 then launchArea d else if dOpcode d = 0x03 then patchArea d else stepArea d).2 ≠ 0 →
      s.blk.fe.freeTag ≠ none) ∧ s.blk.ctx? u.ctx = some x ∧ x.pendingStep = none ∧ listsOk lists (dField d 0x12 2) (dField
      d 0x14 2) = true ∧ x.stepOk (leavesOf lists (dField d 0x12 2)) (joinsOf lists (dField d 0x12 2) (dField d 0x14 2)) =
      true) ∧
    (∃ (s : State) (q : Nat) (u : Queue) (d : BitVec 512) (st : BitVec 8) (bad : Bool), Starts s q u d ∧ verdict s.env u d =
      some (st, bad) ∧ 0x0E ≤ dOpcode d) ∧
    (∃ (s : State) (q : Nat) (u : Queue) (d : BitVec 512) (st : BitVec 8) (bad : Bool), Starts s q u d ∧ verdict s.env u d =
      some (st, bad) ∧ dOpcode d = 0x00) ∧
    (∃ (s : State) (q : Nat) (u : Queue) (d : BitVec 512) (st : BitVec 8) (bad : Bool), Starts s q u d ∧ verdict s.env u d =
      some (st, bad) ∧ dOpcode d = 0x01 ∧ u.launchRead = none ∧ ((launchArea d).1.getLsbD 63 = true → (launchArea d).2 ≠ 0 →
      s.blk.fe.freeTag ≠ none)) ∧
    (∃ (s : State) (q : Nat) (u : Queue) (d : BitVec 512) (st : BitVec 8) (bad : Bool), Starts s q u d ∧ verdict s.env u d =
      some (st, bad) ∧ dOpcode d = 0x0B) :=
  ⟨⟨tStart 1 (0), 1, tFetched 1 (0), 0, starts_of (by decide +kernel), by decide +kernel⟩,
   ⟨tStart 1 (6), 1, tFetched 1 (6), 6, starts_of (by decide +kernel), by decide +kernel⟩,
   ⟨tStart 1 (7), 1, tFetched 1 (7), 7, starts_of (by decide +kernel), by decide +kernel⟩,
   ⟨tStart 0 (9 ||| (1 <<< 128)), 1, tFetched 0 (9 ||| (1 <<< 128)), 9 ||| (1 <<< 128), starts_of (by decide +kernel),
      by decide +kernel⟩,
   ⟨tStart 0 (0x0A ||| (1 <<< 128)), 1, tFetched 0 (0x0A ||| (1 <<< 128)), 0x0A ||| (1 <<< 128),
      starts_of (by decide +kernel), by decide +kernel⟩,
   ⟨tStart 0 (0x0B ||| (1 <<< 128) ||| (6 <<< 168)), 1, tFetched 0 (0x0B ||| (1 <<< 128) ||| (6 <<< 168)),
      0x0B ||| (1 <<< 128) ||| (6 <<< 168), starts_of (by decide +kernel), by decide +kernel⟩,
   ⟨tStart 0 (0x0C), 1, tFetched 0 (0x0C), 0x0C, starts_of (by decide +kernel), by decide +kernel⟩,
   ⟨tStart 1 (0x0D), 1, tFetched 1 (0x0D), 0x0D, starts_of (by decide +kernel), by decide +kernel⟩,
   ⟨tStart 1 (3 ||| (1 <<< 160)), 1, tFetched 1 (3 ||| (1 <<< 160)), 3 ||| (1 <<< 160), starts_of (by decide +kernel),
      by decide +kernel⟩,
   ⟨tStart 0 (3 ||| (1 <<< 128) ||| (1 <<< 160)), 1, tFetched 0 (3 ||| (1 <<< 128) ||| (1 <<< 160)),
      3 ||| (1 <<< 128) ||| (1 <<< 160), starts_of (by decide +kernel), by decide +kernel⟩,
   ⟨tNoTag (3 ||| (1 <<< 160) ||| (1 <<< 255)), 1, tFetched 1 (3 ||| (1 <<< 160) ||| (1 <<< 255)),
      3 ||| (1 <<< 160) ||| (1 <<< 255), starts_of (by decide +kernel), by decide +kernel⟩,
   ⟨tNoTag (8 ||| (1 <<< 160) ||| (1 <<< 255)), 1, tFetched 1 (8 ||| (1 <<< 160) ||| (1 <<< 255)),
      8 ||| (1 <<< 160) ||| (1 <<< 255), starts_of (by decide +kernel), by decide +kernel⟩,
   ⟨tNoTag (1 ||| (1 <<< 192) ||| (1 <<< 319)), 1, tFetched 1 (1 ||| (1 <<< 192) ||| (1 <<< 319)),
      1 ||| (1 <<< 192) ||| (1 <<< 319), starts_of (by decide +kernel), by decide +kernel⟩,
   ⟨tQs [(1, tFetched 1 1), (2, tQAt 1 .arming)], 1, tFetched 1 1, 1, starts_of (by decide +kernel), by decide +kernel⟩,
   ⟨tStart 1 (1), 1, tFetched 1 (1), 1, tCtx, starts_of (by decide +kernel), by decide +kernel⟩,
   ⟨tQs2 true, 1, tFetched 1 2, 2, starts_of (by decide +kernel), by decide +kernel⟩,
   ⟨tStart 1 (2), 1, tFetched 1 (2), 2, starts_of (by decide +kernel), by decide +kernel⟩,
   ⟨tStart 1 (4 ||| (1 <<< 288)), 1, tFetched 1 (4 ||| (1 <<< 288)), 4 ||| (1 <<< 288), starts_of (by decide +kernel),
      by decide +kernel⟩,
   ⟨tStart 1 (5), 1, tFetched 1 (5), 5, starts_of (by decide +kernel), by decide +kernel⟩,
   ⟨tStart 1 (8), 1, tFetched 1 (8), 8, [], tCtx, starts_of (by decide +kernel), by decide +kernel⟩,
   ⟨tStart 1 (0x0E), 1, tFetched 1 (0x0E), 0x0E, stContextFault, true, starts_of (by decide +kernel), by decide +kernel⟩,
   ⟨tStart 1 (1 <<< 128), 1, tFetched 1 (1 <<< 128), 1 <<< 128, stContextFault, true, starts_of (by decide +kernel),
      by decide +kernel⟩,
   ⟨tStart 0 (1), 1, tFetched 0 (1), 1, stContextFault, false, starts_of (by decide +kernel), by decide +kernel⟩,
   ⟨tStart 1 (0x0B ||| (1 <<< 128) ||| (6 <<< 168)), 1, tFetched 1 (0x0B ||| (1 <<< 128) ||| (6 <<< 168)),
      0x0B ||| (1 <<< 128) ||| (6 <<< 168), stDenied, false, starts_of (by decide +kernel), by decide +kernel⟩⟩

theorem witness_DescriptorsFollowTheirAnswers :
    (∃ (s : State) (q : Nat) (u : Queue) (x : Started), s.blk.queue? q = some u ∧ s.blk.loading = some (q, u, x) ∧ x.phase =
      .imageReading ∧ NoneLate s.blk HostReq.isImage) ∧
    (∃ (s : State) (q : Nat) (u : Queue) (x : Started) (image : List Byte), s.blk.queue? q = some u ∧ s.blk.loading = some
      (q, u, x) ∧ parseImage image (dField x.desc 0x18 8) = none) ∧
    (∃ (s : State) (q : Nat) (u : Queue) (x : Started) (image : List Byte) (hs : List (BitVec 64)), ∃ m k, s.blk.queue? q =
      some u ∧ s.blk.loading = some (q, u, x) ∧ parseImage image (dField x.desc 0x18 8) = some m ∧ s.blk.ctx? u.ctx = some k
      ∧ m.ok s.env k image = true ∧ relocsOk k m.relocs hs = true ∧ s.blk.loadBusy s.env u.ctx = false) ∧
    (∃ (s : State) (q : Nat) (u : Queue) (x : Started) (ps : List (BitVec 128)) (k : Ctx), q < 1024 ∧ s.blk.queue? q = some
      u ∧ u.launchRead = some (x, ps) ∧ s.blk.feRuns s.env = true ∧ s.blk.launchBusy s.env u.ctx = false ∧ s.blk.ctx? u.ctx
      = some k) ∧
    (∃ (s : State) (q : Nat) (u : Queue) (x : Started), s.blk.loading = some (q, u, x) ∧ x.phase = .imageWriting ∧
      s.blk.queue? q = some u) ∧
    (∃ (s : State) (q : Nat) (u : Queue) (x : Started) (f : Option (BitVec 64)) (c : Bool) (n : Nat), q < 1024 ∧
      s.blk.queue? q = some u ∧ u.valueWait = some (x, f, c, n) ∧ s.blk.rel.phase = 0 ∧ n + dField x.desc 0x24 4 ≤
      s.aon.pulse) ∧
    (∃ (s : State) (q : Nat) (u : Queue) (x : Started) (f : Option (BitVec 64)) (c : Bool) (n : Nat), q < 1024 ∧
      s.blk.queue? q = some u ∧ u.valueWait = some (x, f, c, n) ∧ s.aon.pulse < n + dField x.desc 0x24 4) ∧
    (∃ (s : State) (q : Nat) (u : Queue) (x : Started) (f : Option (BitVec 64)) (c : Bool) (n : Nat), q < 1024 ∧
      s.blk.queue? q = some u ∧ u.valueWait = some (x, f, c, n) ∧ NoneLate s.blk (HostReq.isValueRead q)) ∧
    (∃ (s : State) (q : Nat) (f : FenceOut), ∃ u x, q < 1024 ∧ s.blk.fe.fences.find? (fun f => f.queue == q) = some f ∧
      NoneLate s.blk (HostReq.isValueWrite q) ∧ s.blk.queue? q = some u ∧ s.blk.fencing f = some x) ∧
    (∃ (s : State) (q : Nat) (f : FenceOut), q < 1024 ∧ s.blk.fe.fences.find? (fun f => f.queue == q) = some f ∧ NoneLate
      s.blk (HostReq.isValueWrite q) ∧ s.blk.fencing f = none) ∧
    (∃ (s : State) (q : Nat) (u : Queue), q < 1024 ∧ s.blk.queue? q = some u ∧ (u.timeoutOf s.env q = 0 ∨ u.timer <
      u.timeoutOf s.env q)) ∧
    (∃ (s : State) (q : Nat) (u : Queue), ∃ x rest, q < 1024 ∧ s.blk.queue? q = some u ∧ u.timeoutOf s.env q ≠ 0 ∧
      u.timeoutOf s.env q ≤ u.timer ∧ s.blk.frozen = false ∧ u.ctx = 0 ∧ u.started = x :: rest) ∧
    (∃ (s : State) (q : Nat) (u : Queue), q < 1024 ∧ s.blk.queue? q = some u ∧ u.timeoutOf s.env q ≠ 0 ∧ u.timeoutOf s.env q
      ≤ u.timer ∧ s.blk.frozen = false ∧ u.ctx ≠ 0 ∧ s.blk.hungRun s.env q u = true) ∧
    (∃ (s : State) (q : Nat) (u : Queue), q < 1024 ∧ s.blk.queue? q = some u ∧ u.timeoutOf s.env q ≠ 0 ∧ u.timeoutOf s.env q
      ≤ u.timer ∧ s.blk.frozen = false ∧ u.ctx ≠ 0 ∧ s.blk.hungRun s.env q u = false ∧ s.blk.torn u.ctx = false ∧
      s.blk.fe.teardownsIn = []) :=
  ⟨⟨tLoad tCtx (2) .imageReading, 1, tQAt (2) .imageReading, tBegun (2) .imageReading, by decide +kernel,
      by decide +kernel, by decide +kernel, (fun _ h => nomatch h)⟩,
   ⟨tLoad tCtx (2) .imageReading, 1, tQAt (2) .imageReading, tBegun (2) .imageReading, [], by decide +kernel⟩,
   ⟨tLoad tImgCtx (2 ||| (224 <<< 192)) .imageReading, 1, tQAt (2 ||| (224 <<< 192)) .imageReading,
      tBegun (2 ||| (224 <<< 192)) .imageReading, tImage, [],
      (parseImage tImage (dField (tBegun (2 ||| (224 <<< 192)) .imageReading).desc 0x18 8)).get (by decide +kernel),
      tImgCtx, by decide +kernel, by decide +kernel, (Option.some_get _).symm, by decide +kernel⟩,
   ⟨tAt 1 (.launchRead []), 1, tQAt 1 (.launchRead []), tBegun 1 (.launchRead []), [], tCtx, by decide +kernel⟩,
   ⟨tLoad tCtx (2) .imageWriting, 1, tQAt (2) .imageWriting, tBegun (2) .imageWriting, by decide +kernel⟩,
   ⟨tAt (4 ||| (1 <<< 288)) (.valueWait none false 1999), 1, tQAt (4 ||| (1 <<< 288)) (.valueWait none false 1999),
      tBegun (4 ||| (1 <<< 288)) (.valueWait none false 1999), none, false, 1999, by decide +kernel⟩,
   ⟨tAt (4 ||| (1 <<< 288)) (.valueWait none false 2000), 1, tQAt (4 ||| (1 <<< 288)) (.valueWait none false 2000),
      tBegun (4 ||| (1 <<< 288)) (.valueWait none false 2000), none, false, 2000, by decide +kernel⟩,
   ⟨tAt (4 ||| (1 <<< 288)) (.valueWait none false 2000), 1, tQAt (4 ||| (1 <<< 288)) (.valueWait none false 2000),
      tBegun (4 ||| (1 <<< 288)) (.valueWait none false 2000), none, false, 2000, by decide +kernel, by decide +kernel,
      by decide +kernel, (fun _ h => nomatch h)⟩,
   ⟨tFence (tQAt 5 .fenceWrite), 1, { queue := 1, ctx := 1, index := 0 }, tQAt 5 .fenceWrite, tBegun 5 .fenceWrite,
      by decide +kernel, by decide +kernel, (fun _ h => nomatch h), by decide +kernel⟩,
   ⟨tFence tQ, 1, { queue := 1, ctx := 1, index := 0 }, by decide +kernel, by decide +kernel, (fun _ h => nomatch h),
      by decide +kernel⟩,
   ⟨tAt 0 .arming, 1, tQAt 0 .arming, by decide +kernel⟩,
   ⟨tQs [(1, { tQAt 4 .arming with ctx := 0, timeout := 5, timer := 5 })], 1,
      { tQAt 4 .arming with ctx := 0, timeout := 5, timer := 5 }, tBegun 4 .arming, [], by decide +kernel⟩,
   ⟨tHung, 1, { tQAt 1 .arming with timeout := 5, timer := 5, timerLeft := 9 }, by decide +kernel⟩,
   ⟨tQs [(1, { tQAt 1 .arming with timeout := 5, timer := 5 })], 1, { tQAt 1 .arming with timeout := 5, timer := 5 },
      by decide +kernel⟩⟩

theorem witness_FirmwareRunsOrIsRejected :
    (∃ (s : State) (image : List Byte), s.blk.fe.fwState = .loading ∧ fwHeadOk image = true ∧ fwLengthsOk image (s.env.reg
      0x100108).toNat = true ∧ fwServes s.aon.grade image = true) ∧
    (∃ (s : State), s.blk.fe.fwState = .loading) ∧
    (∃ (s : State) (image : List Byte), s.blk.fe.fwState = .loading ∧ fwReason s.env image ≠ 0) ∧
    (∃ (s : State), s.blk.fe.fwState = .loading) ∧
    (∃ (s : State), s.blk.fe.fwState = .running) ∧
    (∃ (s : State), s.blk.fe.fwState = .running ∧ s.blk.db.cpHalted = false ∧ s.blk.db.rcHalted = false) ∧
    (∃ (s : State), (s.blk.db.cpHalted = true ∨ s.blk.db.rcHalted = true)) ∧
    (∃ (s : State), s.blk.fe.fwState ≠ .running) :=
  ⟨⟨{ tB { fe := { fwState := .loading } } with cfg := { active := [(0x100108, 160)] } }, tFw, by decide +kernel⟩,
   ⟨tB { fe := { fwState := .loading } }, by decide +kernel⟩,
   ⟨tB { fe := { fwState := .loading } }, [], by decide +kernel⟩,
   ⟨tB { fe := { fwState := .loading } }, by decide +kernel⟩,
   ⟨tB { fe := { fwState := .running } }, by decide +kernel⟩,
   ⟨tB { fe := { fwState := .running } }, by decide +kernel⟩,
   ⟨tB { db := { cpHalted := true } }, by decide +kernel⟩,
   ⟨tOn, by decide +kernel⟩⟩

theorem witness_BlockResetKeepsTheStores :
    (∃ (s : State) (l : List Met), s.blk.rel.phase = 1 ∧ s.blk.sweepBad l = false) ∧
    (∃ (s : State) (l : List Met), s.blk.rel.phase = 1 ∧ s.blk.sweepBad l = true) ∧
    (∃ (s : State), s.blk.rel.phase = 2 ∧ s.blk.rel.resetEdge + 896 ≤ s.aon.pulse) ∧
    (∃ (s : State), s.blk.rel.phase = 2 ∧ s.aon.pulse < s.blk.rel.resetEdge + 896) ∧
    (∃ (s : State), s.blk.rel.phase = 2 ∧ s.blk.drainOver s.env = true ∧ s.blk.fe.fwState = .running) ∧
    (∃ (s : State), (s.blk.rel.phase = 3 ∨ s.blk.rel.phase = 4)) ∧
    (∃ (s : State), s.blk.rel.phase = 5 ∧ s.blk.rel.pendingCause ≠ none) ∧
    (∃ (s : State), s.blk.rel.phase = 5 ∧ s.blk.rel.pendingCause = none) :=
  ⟨⟨tB { rel := { phase := 1 } }, [], by decide +kernel⟩,
   ⟨tB { rel := { phase := 1 } }, [⟨34, 0, 0, 0, false, .detected []⟩], by decide +kernel⟩,
   ⟨tB { rel := { phase := 2, resetEdge := 1104 } }, by decide +kernel⟩,
   ⟨tB { rel := { phase := 2, resetEdge := 1105 } }, by decide +kernel⟩,
   ⟨tB { rel := { phase := 2 }, fe := { fwState := .running } }, by decide +kernel⟩,
   ⟨tB { rel := { phase := 4 } }, by decide +kernel⟩,
   ⟨tB { rel := { phase := 5, pendingCause := some .pin } }, by decide +kernel⟩,
   ⟨tB { rel := { phase := 5 } }, by decide +kernel⟩⟩

theorem witness_StoredDataIsGuarded :
    (∃ (s : State), s.blk.frozen = false ∧ s.blk.rel.ckptActive = none ∧ s.blk.rel.ckptSince + 2 ^ s.env.ckptLog ≤
      s.blk.rel.slots) ∧
    (∃ (s : State), s.blk.frozen = false ∧ s.blk.rel.ckptActive = none ∧ s.blk.rel.slots < s.blk.rel.ckptSince + 2 ^
      s.env.ckptLog) ∧
    (∃ (s : State) (k : Ckpt), s.blk.frozen = false ∧ s.blk.rel.ckptActive = some k ∧ (∀ p ∈ s.blk.fe.ctxs, ∃ y ∈ k.copies,
      y.ctx = p.1)) ∧
    (∃ (s : State) (k : Ckpt), s.blk.frozen = false ∧ s.blk.rel.ckptActive = some k ∧ (∃ p ∈ s.blk.fe.ctxs, ∀ y ∈ k.copies,
      y.ctx ≠ p.1)) ∧
    (∃ (s : State) (c n : Nat), c < s.aon.grade.contexts ∧ tget s.blk.rel.teardowns c = some n ∧ s.blk.frozen = false ∧ n +
      594 ≤ s.aon.pulse + 1) ∧
    (∃ (s : State) (c n : Nat), c < s.aon.grade.contexts ∧ tget s.blk.rel.teardowns c = some n ∧ s.blk.frozen = false ∧
      s.aon.pulse + 1 < n + 594) ∧
    (∃ (s : State) (mem page : Nat), s.env.scrubEn = true ∧ s.blk.shEn = true ∧ mem ≤ 36 ∧ (mem, page) ∈
      s.blk.rel.validPages) ∧
    (∃ (s : State) (mem page : Nat) (l : List Nat), s.env.scrubEn = true ∧ s.blk.shEn = true ∧ mem ≤ 36 ∧ (mem, page) ∈
      s.blk.rel.validPages ∧ (∃ k, k < 16 ∧ 8 < (fun k => (l.eraseDups.filter fun i => i % 16 == k).length) k)) ∧
    (∃ (s : State) (mem page : Nat) (l : List Nat), s.env.scrubEn = true ∧ s.blk.shEn = true ∧ mem ≤ 36 ∧ (mem, page) ∈
      s.blk.rel.validPages ∧ l ≠ [] ∧ (∀ k, k < 16 → (fun k => (l.eraseDups.filter fun i => i % 16 == k).length) k ≤ 8)) ∧
    (∃ (s : State) (r : Nat), r < s.aon.grade.reaches ∧ (s.blk.reach r).testing = true) :=
  ⟨⟨tB { rel := { slots := 2 ^ 20 } }, by decide +kernel⟩,
   ⟨tB { rel := { slots := 2 ^ 20 - 1 } }, by decide +kernel⟩,
   ⟨tB { rel := { ckptActive := some { copies := [{ ctx := 0, edge := 0, image := {} }] } } },
      { copies := [{ ctx := 0, edge := 0, image := {} }] }, by decide +kernel, by decide +kernel, by
        intro p h; cases List.mem_singleton.mp h
        exact ⟨_, List.mem_singleton_self _, rfl⟩⟩,
   ⟨tB { rel := { ckptActive := some {} } }, {}, by decide +kernel, by decide +kernel, ⟨(0, {}), by decide, by decide⟩⟩,
   ⟨tB { fe := tFe { tCtx with faulted := true }, rel := { teardowns := [(1, 1407)] } }, 1, 1407, by decide +kernel⟩,
   ⟨tB { fe := tFe { tCtx with faulted := true }, rel := { teardowns := [(1, 1408)] } }, 1, 1408, by decide +kernel⟩,
   ⟨tScrub, 36, 0, by decide +kernel⟩,
   ⟨tScrub, 36, 0, (List.range 9).map (16 * ·), four (by decide +kernel) ⟨0, by decide +kernel, by decide +kernel⟩⟩,
   ⟨tScrub, 36, 0, List.range 128, by decide +kernel⟩,
   ⟨tB { reaches := [(0, { testing := true })] }, 0, by decide +kernel⟩⟩

theorem witness_DebugOperationsAct :
    (∃ (s : State) (e : Nat) (r : Run), RunsAt s e r) ∧
    (∃ (s : State) (e : Nat) (r : Run) (fmt : BitVec 8), RunsAt s e r ∧ 11 ≤ fmt.toNat) ∧
    (∃ (s : State) (e : Nat) (r : Run) (fmt : BitVec 8), RunsAt s e r ∧ fmt.toNat < 11 ∧ (s.blk.agent e).shadowRun = false) ∧
    (∃ (s : State) (e : Nat) (r : Run), RunsAt s e r ∧ (s.blk.agent e).shadowRun = false ∧ r.close = none) ∧
    (∃ (s : State) (e : Nat) (r : Run), RunsAt s e r ∧ (s.blk.agent e).shadowRun = false ∧ r.close ≠ none) ∧
    (∃ (s : State) (e : Nat) (r : Run), RunsAt s e r ∧ (s.blk.agent e).hitsPulse = 0) ∧
    (∃ (s : State) (e : Nat) (r : Run), RunsAt s e r ∧ 1 ≤ (s.blk.agent e).hitsPulse) :=
  ⟨⟨tEng tRun, 0, tRun, runsAt_of (by decide +kernel)⟩,
   ⟨tEng tRun, 0, tRun, 11, runsAt_of (by decide +kernel), by decide +kernel⟩,
   ⟨tEng tRun, 0, tRun, 10, runsAt_of (by decide +kernel), by decide +kernel⟩,
   ⟨tEng tRun, 0, tRun, runsAt_of (by decide +kernel), by decide +kernel⟩,
   ⟨tEng { tRun with close := some (0, 0, 0, 0) }, 0, { tRun with close := some (0, 0, 0, 0) },
      runsAt_of (by decide +kernel), by decide +kernel⟩,
   ⟨tEng tRun, 0, tRun, runsAt_of (by decide +kernel), by decide +kernel⟩,
   ⟨tA { tUp with run := some tRun, hitsPulse := 1 }, 0, tRun, runsAt_of (by decide +kernel), by decide +kernel⟩⟩

theorem witness_DebugUnitKeepsItsEdges :
    (∃ (s : State), s.aon.pulse % 1024 = 0 ∧ s.blk.db.timeAt ≠ s.aon.pulse) ∧
    (∃ (s : State), (s.aon.pulse % 1024 ≠ 0 ∨ s.blk.db.timeAt = s.aon.pulse)) ∧
    (∃ (s : State), s.aon.pulse % 2 ^ s.env.loadLog = 0 ∧ s.blk.db.loadAt ≠ s.aon.pulse) ∧
    (∃ (s : State) (k : Core) (i : Nat), i < 4 ∧ s.env.field (bpOff k i) 0 1 ≠ 0 ∧ s.blk.fe.fwState = .running ∧
      s.blk.db.halted k = false ∧ s.blk.rel.phase = 0) ∧
    (∃ (s : State) (d : Dump) (rest : List Dump), s.blk.db.dumps = d :: rest ∧ d.taken = true) ∧
    (∃ (s : State), s.blk.db.trcHalted = false ∧ s.blk.db.flushUpto = none) ∧
    (∃ (s : State), s.blk.db.trcHalted = true) ∧
    (∃ (s : State) (x : Snap), s.blk.db.snap = some x ∧ x.writing = true ∧ x.cause ≠ 2 ∧ s.blk.db.stopped = true ∧
      s.blk.mc.running = none) :=
  ⟨⟨{ tOn with aon := { tOn.aon with pulse := 2048 } }, by decide +kernel⟩,
   ⟨tOn, by decide⟩,
   ⟨{ tOn with aon := { tOn.aon with pulse := 2048 } }, by decide +kernel⟩,
   ⟨{ tB { fe := { fwState := .running } } with cfg := { active := [(0xB0007C, 1)] } }, .rc, 3, by decide +kernel⟩,
   ⟨tB { db := { dumps := [tDump] } }, tDump, [], by decide +kernel⟩,
   ⟨tOn, by decide +kernel⟩,
   ⟨tB { db := { trcHalted := true } }, by decide +kernel⟩,
   ⟨tB { db := { stopped := true, snap := some { cause := 0, edge := 0, writing := true, length := 0 } } },
      { cause := 0, edge := 0, writing := true, length := 0 }, by decide +kernel⟩⟩

theorem witness_OperationsAreAnsweredInTurn :
    (∃ (s : State) (x : McOp) (op : Nat), s.blk.mc.due op = some x ∧ x.asker = .port ∧ op = 0) ∧
    (∃ (s : State) (x : McOp) (op : Nat), s.blk.mc.due op = some x ∧ x.asker = .port ∧ op = 1) ∧
    (∃ (s : State) (x : McOp) (op : Nat), s.blk.mc.due op = some x ∧ x.asker = .port ∧ op = 2 ∧ (s.env.dbOff = true ∨
      s.blk.db.snapHalted = true)) ∧
    (∃ (s : State) (x : McOp) (op : Nat), s.blk.mc.due op = some x ∧ x.asker = .port ∧ op = 3 ∧ (s.env.dbOff = true ∨
      s.blk.db.snapHalted = true ∨ s.blk.db.snapBusy = true)) ∧
    (∃ (s : State) (x : McOp) (op : Nat), s.blk.mc.due op = some x ∧ x.asker = .port ∧ op = 5 ∧ (s.env.dbOff = true ∨
      s.blk.db.trcHalted = true)) ∧
    (∃ (s : State) (x : McOp) (op : Nat), s.blk.mc.due op = some x ∧ x.asker = .port ∧ op = 7 ∧ s.aon.makerEn = false) ∧
    (∃ (s : State) (x : McOp) (op : Nat), s.blk.mc.due op = some x ∧ x.asker = .port ∧ op = 7 ∧ s.aon.makerEn = true ∧
      s.blk.rel.mkTries < 3 ∧ (∀ p ∈ s.blk.fe.ctxs, p.1 = 0) ∧ x.args[0]? = some 0) ∧
    (∃ (s : State) (x : McOp) (op : Nat), ∃ c r, s.blk.mc.due op = some x ∧ x.asker = .port ∧ op = 7 ∧ s.aon.makerEn = true
      ∧ s.blk.rel.mkTries < 3 ∧ (∀ p ∈ s.blk.fe.ctxs, p.1 = 0) ∧ x.args[0]? = some 1 ∧ x.args[1]? = some r ∧
      s.blk.rel.mkPending = some c) ∧
    (∃ (s : State) (x : McOp) (op : Nat), s.blk.mc.due op = some x ∧ x.asker = .port ∧ 8 ≤ op) ∧
    (∃ (s : State) (x : McOp) (op : Nat), s.blk.mc.due op = some x ∧ op = 2 ∧ s.env.dbOff = false ∧ s.blk.db.snapHalted =
      false) ∧
    (∃ (s : State) (x : McOp) (op : Nat), s.blk.mc.due op = some x ∧ op = 3 ∧ s.env.dbOff = false ∧ s.blk.db.snapHalted =
      false ∧ s.blk.db.snapBusy = false) ∧
    (∃ (s : State) (x : McOp) (op : Nat), s.blk.mc.due op = some x ∧ op = 4 ∧ s.env.clkRun = false ∧ x.asker = .port) ∧
    (∃ (s : State) (x : McOp) (op : Nat), s.blk.mc.due op = some x ∧ op = 4 ∧ s.env.clkRun = true) ∧
    (∃ (s : State) (x : McOp) (op : Nat), s.blk.mc.due op = some x ∧ op = 5 ∧ s.env.dbOff = false ∧ s.blk.db.trcHalted =
      false) ∧
    (∃ (s : State) (x : McOp) (op : Nat), s.blk.mc.due op = some x ∧ op = 6) ∧
    (∃ (s : State) (x : McOp) (k : Nat) (tag : BitVec 8), s.blk.mc.due 0 = some x ∧ x.asker = .station k tag) ∧
    (∃ (s : State) (x : McOp), s.blk.mc.running = some x ∧ x.asker = .port ∧ x.started = true) ∧
    (∃ (s : State) (x : McOp), s.blk.mc.running = some x ∧ x.asker = .port ∧ x.started = false) ∧
    (∃ (s : State) (x : McOp), ∃ k, s.blk.mc.running = some x ∧ x.asker = .port ∧ s.blk.mc.waits 2 = true ∧ s.blk.db.csnap =
      some k ∧ s.blk.db.snapHalted = false) :=
  ⟨⟨tOpSt 0 false, tOp 0 false, 0, by decide +kernel⟩,
   ⟨tOpSt 1 false, tOp 1 false, 1, by decide +kernel⟩,
   ⟨{ tOpSt 2 false with blk := { (tOpSt 2 false).blk with db := { snapHalted := true, trcHalted := true } } },
      tOp 2 false, 2, by decide +kernel⟩,
   ⟨{ tOpSt 3 false with blk := { (tOpSt 3 false).blk with db := { snapHalted := true, trcHalted := true } } },
      tOp 3 false, 3, by decide +kernel⟩,
   ⟨{ tOpSt 5 false with blk := { (tOpSt 5 false).blk with db := { snapHalted := true, trcHalted := true } } },
      tOp 5 false, 5, by decide +kernel⟩,
   ⟨tOpSt 7 false, tOp 7 false, 7, by decide +kernel⟩,
   ⟨{ tOpSt 7 false with aon := { tOn.aon with makerEn := true } }, tOp 7 false, 7, by decide +kernel⟩,
   ⟨{ tB { mc := { running := some { tOp 7 false with args := [1, 0] } }, rel := { mkPending := some 5 } } with aon := { tOn.aon with makerEn := true } },
      { tOp 7 false with args := [1, 0] }, 7, 5, 0, by decide +kernel⟩,
   ⟨tOpSt 8 false, tOp 8 false, 8, by decide +kernel⟩,
   ⟨tOpSt 2 false, tOp 2 false, 2, by decide +kernel⟩,
   ⟨tOpSt 3 false, tOp 3 false, 3, by decide +kernel⟩,
   ⟨{ tOpSt 4 false with aon := { tOn.aon with since := 256 } }, tOp 4 false, 4, by decide +kernel⟩,
   ⟨tOpSt 4 false, tOp 4 false, 4, by decide +kernel⟩,
   ⟨tOpSt 5 false, tOp 5 false, 5, by decide +kernel⟩,
   ⟨tOpSt 6 false, tOp 6 false, 6, by decide +kernel⟩,
   ⟨tMc { running := some { tOp 0 false with asker := .station 3 9 } }, { tOp 0 false with asker := .station 3 9 }, 3, 9,
      by decide +kernel⟩,
   ⟨tOpSt 5 true, tOp 5 true, by decide +kernel⟩,
   ⟨tOpSt 5 false, tOp 5 false, by decide +kernel⟩,
   ⟨tB { mc := { running := some (tOp 2 true) }, db := { csnap := some (0, 0) } }, tOp 2 true, (0, 0), by decide +kernel⟩⟩

theorem witness_FramesAreReceivedOrCounted :
    (∃ (s : State) (frame : List Byte), s.blk.mc.attach ≠ .off ∧ hearFrame s.env frame (frame.length / 8) = .valid ∧ (fDst
      frame = s.aon.station.toNat ∨ fDst frame = 0xFF) ∧ fType frame = 1) ∧
    (∃ (s : State) (frame : List Byte), s.blk.mc.attach ≠ .off ∧ hearFrame s.env frame (frame.length / 8) = .valid ∧ (fDst
      frame = s.aon.station.toNat ∨ fDst frame = 0xFF) ∧ fType frame = 2) ∧
    (∃ (s : State) (frame : List Byte), s.blk.mc.attach ≠ .off ∧ hearFrame s.env frame (frame.length / 8) = .valid ∧ (fDst
      frame = s.aon.station.toNat ∨ fDst frame = 0xFF) ∧ fType frame = 3) ∧
    (∃ (s : State) (frame : List Byte), s.blk.mc.attach ≠ .off ∧ hearFrame s.env frame (frame.length / 8) = .valid ∧ (fDst
      frame = s.aon.station.toNat ∨ fDst frame = 0xFF) ∧ fType frame = 5) ∧
    (∃ (s : State) (frame : List Byte), s.blk.mc.attach ≠ .off ∧ hearFrame s.env frame (frame.length / 8) = .valid ∧ (fDst
      frame = s.aon.station.toNat ∨ fDst frame = 0xFF) ∧ fType frame = 6) ∧
    (∃ (s : State) (frame : List Byte), s.blk.mc.attach ≠ .off ∧ hearFrame s.env frame (frame.length / 8) = .valid ∧ (fDst
      frame = s.aon.station.toNat ∨ fDst frame = 0xFF) ∧ fType frame = 4 ∧ s.env.segCtl 3 1 = 0) ∧
    (∃ (s : State) (frame : List Byte), s.blk.mc.attach ≠ .off ∧ hearFrame s.env frame (frame.length / 8) = .valid ∧ (fDst
      frame = s.aon.station.toNat ∨ fDst frame = 0xFF) ∧ fType frame = 4 ∧ s.env.segCtl 3 1 ≠ 0 ∧ leAt frame 0x10 1 < 4 ∧
      s.blk.mc.running = none ∧ s.blk.mc.remoteWaiting < 4) ∧
    (∃ (s : State) (frame : List Byte) (words : Nat), s.blk.mc.attach ≠ .off ∧ hearFrame s.env frame words = .damaged) ∧
    (∃ (s : State) (frame : List Byte) (words : Nat), s.blk.mc.attach ≠ .off ∧ hearFrame s.env frame words = .reserved) ∧
    (∃ (s : State) (frame : List Byte) (words : Nat), s.blk.mc.attach ≠ .off ∧ hearFrame s.env frame words = .stranger) :=
  ⟨⟨tMc { attach := .listening }, tFrm 1 128 0xfbe08cd6, by decide +kernel⟩,
   ⟨tMc { attach := .listening }, tFrm 2 128 0xad7b48e5, by decide +kernel⟩,
   ⟨tMc { attach := .listening }, tFrm 3 64 0xac1fe833, by decide +kernel⟩,
   ⟨tMc { attach := .listening }, tFrm 5 64 0xa9c21d87, by decide +kernel⟩,
   ⟨tMc { attach := .listening }, tFrm 6 64 0xab2ce75d, by decide +kernel⟩,
   ⟨{ tMc { attach := .joined } with cfg := { stored := [(0xC00000, 1)] } }, tFrm 4 64 0xa867b431, by decide +kernel⟩,
   ⟨{ tMc { attach := .joined } with cfg := { stored := [(0xC00000, 9)] } }, tFrm 4 64 0xa867b431, by decide +kernel⟩,
   ⟨tMc { attach := .listening }, [], 0, by decide +kernel⟩,
   ⟨tMc { attach := .listening }, tFrm 7 64 0xaa894eeb, 8, by decide +kernel⟩,
   ⟨{ tMc { attach := .listening } with cfg := { stored := [(0xC00004, 1)] } }, tFrm 0 64 0xaef112e9, 8, by decide +kernel⟩⟩

theorem witness_StationsFollowOneLantern :
    (∃ (s : State) (frame : List Byte), hearFrame s.env frame (frame.length / 8) = .valid ∧ fType frame = 0 ∧ (fDst frame =
      s.aon.station.toNat ∨ fDst frame = 0xFF) ∧ (s.blk.mc.attach = .listening ∨ s.blk.mc.attach = .electing ∨
      s.blk.mc.attach = .joined ∨ (s.blk.mc.attach = .lantern ∧ fSrc frame < s.aon.station.toNat))) ∧
    (∃ (s : State) (frame : List Byte), hearFrame s.env frame (frame.length / 8) = .valid ∧ fType frame = 0 ∧ (fDst frame =
      s.aon.station.toNat ∨ fDst frame = 0xFF) ∧ s.blk.mc.attach = .lantern ∧ s.aon.station.toNat < fSrc frame) ∧
    (∃ (s : State), s.blk.mc.attach = .listening) ∧
    (∃ (s : State), s.blk.mc.attach = .electing ∧ eligible s.env = true ∧ s.blk.mc.onAir = [] ∧ s.blk.carrierLow s.env
      (carrierNeed (4 * s.aon.station.toNat)) = true) ∧
    (∃ (s : State), s.blk.mc.attach = .electing ∧ eligible s.env = true ∧ s.blk.mc.onAir = [] ∧ s.blk.carrierLow s.env
      (carrierNeed (4 * s.aon.station.toNat)) = false) ∧
    (∃ (s : State), s.blk.mc.attach = .lantern) ∧
    (∃ (s : State), s.blk.mc.attach = .joined) :=
  ⟨⟨{ tMc { attach := .lantern } with aon := { tOn.aon with station := 63 } }, tFrm 0 64 0xaef112e9, by decide +kernel⟩,
   ⟨tMc { attach := .lantern }, tFrm 0 64 0xaef112e9, by decide +kernel⟩,
   ⟨tMc { attach := .listening }, by decide +kernel⟩,
   ⟨{ tMc { attach := .electing } with aon := { tOn.aon with lanternOk := true } }, by decide +kernel⟩,
   ⟨{ tMc { attach := .electing, quiet := some 31 } with aon := { tOn.aon with lanternOk := true } }, by decide +kernel⟩,
   ⟨tMc { attach := .lantern }, by decide +kernel⟩,
   ⟨tMc { attach := .joined }, by decide +kernel⟩⟩

theorem witness_FramesAreSentInTheirWindow :
    (∃ (s : State), s.blk.mc.attach = .probing ∧ s.blk.mc.onAir = [] ∧ s.blk.mc.backoff = none ∧ (∀ f ∈ s.blk.mc.txQueue,
      f.type ≠ 6) ∧ s.blk.carrierLow s.env (carrierNeed 0) = true) ∧
    (∃ (s : State), s.blk.mc.attach = .probing ∧ s.blk.mc.onAir = [] ∧ s.blk.mc.backoff = none ∧ (∀ f ∈ s.blk.mc.txQueue,
      f.type ≠ 6) ∧ s.blk.carrierLow s.env (carrierNeed 0) = false) ∧
    (∃ (s : State) (star low : Nat) (f : TxFrame), (s.blk.mc.attach = .joined ∨ s.blk.mc.attach = .lantern) ∧ s.blk.mc.onAir
      = [] ∧ s.blk.mc.backoff = none ∧ s.blk.mc.txQueue = [f] ∧ 64 * (1 + s.blk.mc.alarmN) ≤ star ∧ (f.type = 1 →
      s.blk.mc.missed = 0 ∧ s.blk.mc.frozeAt = s.blk.mc.cycle) ∧ carrierNeed f.prio ≤ low ∧ star + s.blk.mc.echo + f.len / 8
      ≤ 24576) ∧
    (∃ (s : State) (star low : Nat) (f : TxFrame), (s.blk.mc.attach = .joined ∨ s.blk.mc.attach = .lantern) ∧ s.blk.mc.onAir
      = [] ∧ s.blk.mc.backoff = none ∧ s.blk.mc.txQueue = [f] ∧ 64 * (1 + s.blk.mc.alarmN) ≤ star ∧ (f.type = 1 →
      s.blk.mc.missed = 0 ∧ s.blk.mc.frozeAt = s.blk.mc.cycle) ∧ (low < carrierNeed f.prio ∨ 24576 < star + s.blk.mc.echo +
      f.len / 8)) ∧
    (∃ (s : State) (star : Nat) (f : TxFrame), (s.blk.mc.attach = .joined ∨ s.blk.mc.attach = .lantern) ∧ s.blk.mc.onAir =
      [] ∧ s.blk.mc.backoff = none ∧ s.blk.mc.txQueue = [f] ∧ 64 * (1 + s.blk.mc.alarmN) ≤ star ∧ (¬ (f.type = 1 →
      s.blk.mc.missed = 0 ∧ s.blk.mc.frozeAt = s.blk.mc.cycle)) ∧ s.blk.mc.logQueue = []) ∧
    (∃ (s : State) (f : TxFrame) (received : List (BitVec 64)), s.blk.mc.onAir = [f] ∧ received.take f.sent.length = f.sent) ∧
    (∃ (s : State) (f : TxFrame) (received : List (BitVec 64)), s.blk.mc.onAir = [f] ∧ received.take f.sent.length ≠ f.sent
      ∧ f.slotted = false) ∧
    (∃ (s : State), (s.blk.mc.attach = .joined ∨ s.blk.mc.attach = .lantern) ∧ s.blk.mc.missed = 0 ∧ s.blk.mc.frozeAt ≠
      s.blk.mc.cycle ∧ (∀ f ∈ s.blk.mc.onAir, f.type ≠ 1)) ∧
    (∃ (s : State), (s.blk.mc.attach = .joined ∨ s.blk.mc.attach = .lantern) ∧ s.blk.mc.missed = 0 ∧ s.blk.mc.frozeAt ≠
      s.blk.mc.cycle ∧ (∃ f ∈ s.blk.mc.onAir, f.type = 1)) ∧
    (∃ (s : State), (s.blk.mc.attach = .joined ∨ s.blk.mc.attach = .lantern) ∧ s.blk.mc.telAt ≠ s.blk.mc.cycle ∧
      s.blk.mc.cycleNo % 2 ^ (s.env.segCtl 8 4 + s.blk.mc.telD) = 0 ∧ ((s.blk.mc.txQueue ++ s.blk.mc.onAir).filter fun f =>
      f.type == 2).length < 4) :=
  ⟨⟨tMc { attach := .probing }, by decide +kernel⟩,
   ⟨tMc { attach := .probing, quiet := some 31 }, by decide +kernel⟩,
   ⟨tMc { attach := .joined, txQueue := [tTx] }, 64, 852, tTx, by decide +kernel⟩,
   ⟨tMc { attach := .joined, txQueue := [tTx] }, 64, 851, tTx, by decide +kernel⟩,
   ⟨tMc { attach := .joined, cycle := some 3, txQueue := [{ tTx with type := 1 }] }, 64, { tTx with type := 1 },
      by decide +kernel⟩,
   ⟨tMc { attach := .joined, onAir := [{ tTx with sent := [startWord] }] }, { tTx with sent := [startWord] },
      [startWord, 1], by decide +kernel⟩,
   ⟨tMc { attach := .joined, onAir := [{ tTx with sent := [startWord] }] }, { tTx with sent := [startWord] }, [1],
      by decide +kernel⟩,
   ⟨tMc { attach := .joined, cycle := some 3 }, by decide +kernel⟩,
   ⟨tMc { attach := .joined, cycle := some 3, onAir := [{ tTx with type := 1 }] }, by decide +kernel⟩,
   ⟨tMc { attach := .joined, cycle := some 1024 }, by decide +kernel⟩⟩

end Sys2Proof.Tests
end

section
/-! Packets of the fabric in a stop (R341) and the fabric's telemetry (R332): settles O37. -/

namespace Sys2Proof

/-- The second of two writes of one entry stands. -/
@[simp] theorem tput_tput_same {ν : Type} (t : Tbl ν) (k : Nat) (v w : ν) : tput (tput t k v) k w = tput t k w := by
  fun_induction tput t k v with
  | case1 => simp [tput]
  | case2 k' v' r h => simp [tput, h]
  | case3 v' r h => simp [tput]
  | case4 k' v' r h h' ih => simp [tput, h, h', ih]

end Sys2Proof

namespace Sys2Proof.Machine

/-- What holds of the state with the new block holds after a command that changes the block to it. -/
theorem Does.of_blk {c : Instr} {s : State} {P : State → Prop} {b : Blk} (e : exec c s = .next { s with blk := b })
    (h : P { s with blk := b }) : Does c s P := ⟨_, e, h⟩

/-! ### Counters -/

@[simp] theorem Blk.bump_zero (b : Blk) (c : Ctr) (i : Nat) : b.bump c i 0 = b := rfl

/-- Raising a counter twice raises it by the sum. -/
theorem Blk.bump_bump (b : Blk) (c : Ctr) (i m n : Nat) : (b.bump c i m).bump c i n = b.bump c i (m + n) := by
  by_cases hm : m = 0
  · simp [hm]
  by_cases hn : n = 0
  · simp [hn]
  simp [Blk.bump, hm, hn, tmod, Nat.add_assoc]

/-- Raising a counter leaves everything but the counters. -/
theorem Blk.bump_frame (b : Blk) (c : Ctr) (i n : Nat) :
    b.bump c i n = { b with counters := (b.bump c i n).counters } := by
  unfold Blk.bump; split <;> rfl

@[simp] theorem Blk.frozen_bump (b : Blk) (c : Ctr) (i n : Nat) : (b.bump c i n).frozen = b.frozen := by
  simp [Blk.frozen]

/-! ### Packets in a stop (R341) -/

theorem Blk.receivePacket_frozen {b : Blk} (v : Env) (w : BitVec 256) (h : b.frozen = true) :
    b.receivePacket v w = b.bump .rsDiscard := by simp [Blk.receivePacket, h]

/-- In a stop the packets of a list raise the count of discarded packets by their number, and do nothing else. -/
theorem Blk.forEach_receivePacket_frozen (v : Env) (ws : List (BitVec 256)) {b : Blk} (h : b.frozen = true) :
    (b.forEach ws fun w b => b.receivePacket v w) = b.bump .rsDiscard 0 ws.length := by
  induction ws generalizing b with
  | nil => rfl
  | cons w ws ih =>
    calc (b.forEach (w :: ws) fun w b => b.receivePacket v w)
        = (b.bump .rsDiscard).forEach ws fun w b => b.receivePacket v w := by
          rw [← Blk.receivePacket_frozen v w h]; rfl
      _ = (b.bump .rsDiscard).bump .rsDiscard 0 ws.length := ih (by simpa using h)
      _ = b.bump .rsDiscard 0 (w :: ws).length := by rw [Blk.bump_bump, List.length_cons, Nat.add_comm]

theorem Blk.receiveBeat_frozen {v : Env} {b : Blk} (x : FbBeat) (on : v.hubOn = true) (h : b.frozen = true) :
    b.receiveBeat v x = b.bump .rsDiscard 0 (packetsOf x).length := by
  simp [Blk.receiveBeat, on, Blk.forEach_receivePacket_frozen v _ h]

/-- A command that receives a beat discards and counts its packets in a stop. -/
theorem does_receiveBeat_frozen {c : Instr} {s : State} {beat : FbBeat}
    (e : exec c s = onBlk s fun v b => b.receiveBeat v beat) (on : s.env.hubOn = true) (h : s.blk.frozen = true) :
    Does c s fun t => OnlyBlk s t ∧ t.blk.ctr .rsDiscard = s.blk.ctr .rsDiscard + (packetsOf beat).length ∧
      t.blk.hb = s.blk.hb ∧ t.blk.out = s.blk.out ∧ t.blk = { s.blk with counters := t.blk.counters } := by
  refine .of_blk (b := s.blk.bump .rsDiscard 0 (packetsOf beat).length) ?_ ?_
  · rw [e, onBlk, Blk.receiveBeat_frozen beat on h]
  · exact ⟨⟨rfl, rfl, rfl⟩, Blk.ctr_bump_same .., Blk.bump_hb .., Blk.bump_out .., Blk.bump_frame ..⟩

/-! ### Count pushes in a stop (R341) -/

@[simp] theorem Blk.recv_putRecv_same (b : Blk) (stream : BitVec 16) (r : RecvRec) :
    (b.putRecv stream r).recv stream = r := by simp [Blk.recv, Blk.putRecv]

@[simp] theorem Blk.frozen_putRecv (b : Blk) (stream : BitVec 16) (r : RecvRec) :
    (b.putRecv stream r).frozen = b.frozen := rfl

/-- The block after a count push that releases nothing: the count of the record's epoch or of the next one is noted. -/
def Blk.recordCount (stream : BitVec 16) (epoch : BitVec 8) (count : BitVec 32) (b : Blk) : Blk :=
  if epoch = (b.recv stream).epoch then b.putRecv stream { b.recv stream with count := count }
  else if epoch = (b.recv stream).epoch + 1 then b.putRecv stream { b.recv stream with countN := count }
  else b

theorem Blk.count_recordCount {b : Blk} {stream : BitVec 16} {epoch : BitVec 8} (count : BitVec 32)
    (current : epoch = (b.recv stream).epoch) : ((b.recordCount stream epoch count).recv stream).count = count := by
  simp [Blk.recordCount, current]

theorem Blk.countN_recordCount {b : Blk} {stream : BitVec 16} {epoch : BitVec 8} (count : BitVec 32)
    (next : epoch = (b.recv stream).epoch + 1) :
    ((b.recordCount stream epoch count).recv stream).countN = count := by
  simp [Blk.recordCount, next]

/-- Recording a count leaves everything but the receive records. -/
theorem Blk.recordCount_frame (b : Blk) (stream : BitVec 16) (epoch : BitVec 8) (count : BitVec 32) :
    b.recordCount stream epoch count =
      { b with hb := { b.hb with recvs := (b.recordCount stream epoch count).hb.recvs } } := by
  unfold Blk.recordCount
  split
  · rfl
  · split <;> rfl

theorem exec_fabricCountPush_frozen {s : State} (push : BitVec 56) (on : s.env.hubOn = true)
    (h : s.blk.frozen = true) :
    exec (.fabricCountPush push) s = .next { s with
      blk := s.blk.recordCount (BitVec.ofNat 16 (bits push 0 16)) (BitVec.ofNat 8 (bits push 16 8))
        (BitVec.ofNat 32 (bits push 24 32)) } := by
  change execFabricCountPush push s = _
  simp [execFabricCountPush, onBlk, on, h, Blk.recordCount]

/-- In a stop a count push is recorded for its stream's epoch or the next one, and nothing is released. -/
theorem does_fabricCountPush_frozen {s : State} (push : BitVec 56) (on : s.env.hubOn = true)
    (h : s.blk.frozen = true) :
    Does (.fabricCountPush push) s fun t => OnlyBlk s t ∧
      (BitVec.ofNat 8 (bits push 16 8) = (s.blk.recv (BitVec.ofNat 16 (bits push 0 16))).epoch →
        (t.blk.recv (BitVec.ofNat 16 (bits push 0 16))).count = BitVec.ofNat 32 (bits push 24 32)) ∧
      (BitVec.ofNat 8 (bits push 16 8) = (s.blk.recv (BitVec.ofNat 16 (bits push 0 16))).epoch + 1 →
        (t.blk.recv (BitVec.ofNat 16 (bits push 0 16))).countN = BitVec.ofNat 32 (bits push 24 32)) ∧
      t.blk.hb.held = s.blk.hb.held ∧ t.blk = { s.blk with hb := { s.blk.hb with recvs := t.blk.hb.recvs } } := by
  refine .of_blk (exec_fabricCountPush_frozen push on h) ⟨⟨rfl, rfl, rfl⟩, Blk.count_recordCount _,
    Blk.countN_recordCount _, ?_, Blk.recordCount_frame ..⟩
  rw [Blk.recordCount_frame]

/-! ### Fabric telemetry (R332) -/

theorem exec_fabricTelemetry {s : State} {w : BitVec 64} (on : s.env.debugOn = true) :
    exec (.fabricTelemetry w) s = .next { s with
      blk :=
        if bits w 8 4 < 4 then
          s.blk.modDb fun d => { d with
            fabTel := tput d.fabTel (bits w 0 8 * 4 + bits w 8 4) (BitVec.ofNat 52 (bits w 12 52)) }
        else s.blk.bump .telemetryDiscard } := by
  change execFabricTelemetry w s = _
  simp [execFabricTelemetry, onBlk, on]

theorem does_fabricTelemetry_kept {s : State} {w : BitVec 64} (on : s.env.debugOn = true) (h : bits w 8 4 < 4) :
    Does (.fabricTelemetry w) s fun t => OnlyBlk s t ∧
      tget t.blk.db.fabTel (bits w 0 8 * 4 + bits w 8 4) = some (BitVec.ofNat 52 (bits w 12 52)) ∧
      (∀ k, k ≠ bits w 0 8 * 4 + bits w 8 4 → tget t.blk.db.fabTel k = tget s.blk.db.fabTel k) ∧
      t.blk = { s.blk with db := { s.blk.db with fabTel := t.blk.db.fabTel } } := by
  refine .of_blk (exec_fabricTelemetry on) ?_
  rw [if_pos h]
  exact ⟨⟨rfl, rfl, rfl⟩, tget_tput_same .., fun _ other => tget_tput_other _ _ other, rfl⟩

theorem does_fabricTelemetry_discarded {s : State} {w : BitVec 64} (on : s.env.debugOn = true) (h : 4 ≤ bits w 8 4) :
    Does (.fabricTelemetry w) s fun t => OnlyBlk s t ∧
      t.blk.ctr .telemetryDiscard = s.blk.ctr .telemetryDiscard + 1 ∧
      t.blk = { s.blk with counters := t.blk.counters } := by
  refine .of_blk (exec_fabricTelemetry on) ?_
  rw [if_neg (Nat.not_lt.mpr h)]
  exact ⟨⟨rfl, rfl, rfl⟩, Blk.ctr_bump_same .., s.blk.bump_frame .telemetryDiscard 0 1⟩

/-- Settles O37: in a stop the receipt of a packet only counts and a count push only writes its stream's record, and a
telemetry report writes one entry of its table or is counted. -/
theorem stopsAndTelemetryOfTheFabric : Obligations.StopsAndTelemetryOfTheFabric :=
  ⟨fun _ _ on h => ⟨does_receiveBeat_frozen rfl on h, does_receiveBeat_frozen rfl on h⟩,
   fun _ push on h => does_fabricCountPush_frozen push on h,
   fun _ _ on h => does_fabricTelemetry_kept on h,
   fun _ _ on h => does_fabricTelemetry_discarded on h⟩

end Sys2Proof.Machine
end

section
/-! The freeze of Table 16.4 (R377): settles O5. -/

namespace Sys2Proof.Machine

open Sys2Proof.Config

/-! ### Commands keep the freeze and the frozen registers -/

/-- The grade is the same, a freeze that is upon `s` is upon `t`, and then the RWL registers of Table 16.4 hold in `t`
what they hold in `s` (R377). -/
structure KeepsFreeze (s t : State) : Prop where
  grade  : t.aon.grade = s.aon.grade
  frozen : s.cfg.frozen = true → t.cfg.frozen = true
  stored : s.cfg.frozen = true → ∀ off r, frozenByEn off = true → regAt s.aon.grade off = some r →
    r.access = .rwl → t.cfg.storedAt s.aon.grade off = s.cfg.storedAt s.aon.grade off

/-- A command that leaves the register file's values keeps the freeze. -/
theorem KeepsFreeze.of_stored_eq {s t : State} (grade : t.aon.grade = s.aon.grade)
    (frozen : t.cfg.frozen = s.cfg.frozen) (stored : t.cfg.stored = s.cfg.stored) : KeepsFreeze s t :=
  ⟨grade, fun h => frozen.trans h, fun _ _ _ _ _ _ => by simp [RegFile.storedAt, stored]⟩

theorem KeepsFreeze.of_onlyBlk {s t : State} (h : OnlyBlk s t) : KeepsFreeze s t := by
  obtain ⟨aon, cfg, -⟩ := h
  exact .of_stored_eq (by rw [aon]) (by rw [cfg]) (by rw [cfg])

/-! ### The register port -/

theorem RegFile.storedAt_store_other (g : Grade) (f : RegFile) {addr off : Nat} (mask data : Word32) (h : off ≠ addr) :
    (f.store g addr mask data).storedAt g off = f.storedAt g off := by
  simp [RegFile.storedAt, RegFile.store, tget_tput_other _ _ h]

/-- The write of an RWL register of Table 16.4 that is frozen is a locked write (R12, R377). -/
theorem State.writeReg_frozen {s : State} {addr : Nat} {r : Reg} (data : Word32) (retire : List (BitVec 64))
    (rwl : r.access = .rwl) (freeze : s.cfg.frozen = true) (named : frozenByEn addr = true) :
    s.writeReg addr r data retire = { s with cfg := s.cfg.lockedWrite addr } := by
  simp [State.writeReg, rwl, freeze, named]

/-- A write that the port stores keeps the freeze, unless the register is a frozen one. -/
theorem State.store_keepsFreeze {s : State} {addr : Nat} {r : Reg} (data : Word32) (blk : Blk)
    (found : regAt s.aon.grade addr = some r)
    (served : ¬ (r.access = .rwl ∧ s.cfg.frozen = true ∧ frozenByEn addr = true)) :
    KeepsFreeze s { s with cfg := s.cfg.store s.aon.grade addr r.mask data, blk := blk } where
  grade := rfl
  frozen := id
  stored freeze off q named there rwl := by
    refine RegFile.storedAt_store_other _ _ _ _ fun same => ?_
    subst same
    cases found.symm.trans there
    exact served ⟨rwl, freeze, named⟩

theorem State.setLock_keepsFreeze (s : State) (data : Word32) : KeepsFreeze s (s.setLock data) := by
  unfold State.setLock
  split
  · exact .of_stored_eq rfl rfl rfl
  · split <;> exact .of_stored_eq rfl rfl rfl

theorem State.writeReg_keepsFreeze {s : State} {addr : Nat} {r : Reg} (data : Word32) (retire : List (BitVec 64))
    (found : regAt s.aon.grade addr = some r) : KeepsFreeze s (s.writeReg addr r data retire) := by
  unfold State.writeReg
  split
  case h_1 | h_2 | h_4 => exact .of_stored_eq rfl rfl rfl
  case h_3 => exact s.setLock_keepsFreeze data
  case h_5 => split <;> exact .of_stored_eq rfl rfl rfl
  case h_6 rw =>
    split
    · exact .of_stored_eq rfl rfl rfl
    · exact State.store_keepsFreeze data _ found (by simp [rw])
  case h_7 =>
    split
    · exact .of_stored_eq rfl rfl rfl
    case isFalse free =>
      exact State.store_keepsFreeze data _ found fun ⟨_, freeze, named⟩ => free (by simp [freeze, named])

theorem State.takeWrite_keepsFreeze (s : State) (addr : Nat) (data : Word32) (be : BitVec 4)
    (retire : List (BitVec 64)) : KeepsFreeze s (s.takeWrite addr data be retire) := by
  unfold State.takeWrite
  split
  · exact .of_stored_eq rfl rfl rfl
  · split
    · split <;> exact .of_stored_eq rfl rfl rfl
    case h_2 r found =>
      split
      · exact .of_stored_eq rfl rfl rfl
      · exact State.writeReg_keepsFreeze data retire found

theorem State.portWrite_keepsFreeze (s : State) (addr : Nat) (data : Word32) (be : BitVec 4)
    (retire : List (BitVec 64)) : KeepsFreeze s (s.portWrite addr data be retire) := by
  obtain ⟨grade, frozen, stored⟩ := s.takeWrite_keepsFreeze addr data be retire
  exact ⟨grade, frozen, stored⟩

theorem State.portRead_keepsFreeze (s : State) (addr : Nat) (be : BitVec 4) : KeepsFreeze s (s.portRead addr be) := by
  unfold State.portRead
  split <;> exact .of_stored_eq rfl rfl rfl

theorem KeepsFreeze.of_portWrite {s t : State} {addr : Nat} {data : Word32} {be : BitVec 4} {retire : List (BitVec 64)}
    (h : (.next (s.portWrite addr data be retire) : Host.Outcome State Fault Refusal) = .next t) : KeepsFreeze s t := by
  cases h; exact s.portWrite_keepsFreeze addr data be retire

theorem KeepsFreeze.of_portRead {s t : State} {addr : Nat} {be : BitVec 4}
    (h : (.next (s.portRead addr be) : Host.Outcome State Fault Refusal) = .next t) : KeepsFreeze s t := by
  cases h; exact s.portRead_keepsFreeze addr be

theorem KeepsFreeze.of_testRow {s t : State} {r : Nat} {value : Word32} (h : testRow r value s = .next t) :
    KeepsFreeze s t := by
  unfold testRow at h
  split at h
  · exact .of_portWrite h
  · cases h; exact .of_stored_eq rfl rfl rfl

/-- The port takes an aligned word for a register that it serves. -/
theorem State.takeWrite_open {s : State} {addr : Nat} {r : Reg} (data : Word32) (retire : List (BitVec 64))
    (found : regAt s.aon.grade addr = some r) (serves : PortOpen s addr) :
    s.takeWrite addr data 0xF retire = s.writeReg addr r data retire := by
  obtain ⟨powered, running⟩ := serves
  have aligned : addr % 4 = 0 := Decidable.byContradiction fun odd => by
    rw [regAt, if_pos odd] at found
    cases found
  simp [State.takeWrite, aligned, found, powered, running]

/-! ### Power, resets and time -/

@[simp] theorem State.requestPower_cfg (s : State) (d : Nat) : (s.requestPower d).cfg = s.cfg := by
  unfold State.requestPower; split <;> rfl

@[simp] theorem State.requestPower_grade (s : State) (d : Nat) : (s.requestPower d).aon.grade = s.aon.grade := by
  unfold State.requestPower; split <;> rfl

theorem execDomainPowerAck_keepsFreeze {s t : State} {d : Nat} {level : Bool}
    (h : execDomainPowerAck d level s = .next t) : KeepsFreeze s t := by
  simp only [execDomainPowerAck] at h
  repeat' split at h
  all_goals cases h
  all_goals exact .of_stored_eq (by simp) (by simp) (by simp)

theorem execMcOperationTimeout_keepsFreeze {s t : State} (h : execMcOperationTimeout s = .next t) :
    KeepsFreeze s t := by
  unfold execMcOperationTimeout at h
  split at h
  · cases h; exact .of_stored_eq rfl rfl rfl
  · rw [onBlk_next h]
    refine .of_stored_eq ?_ rfl rfl
    dsimp only; split <;> rfl

theorem execBlockReset_keepsFreeze {s t : State} {sweep : List Met} (h : execBlockReset sweep s = .next t) :
    KeepsFreeze s t := by
  simp only [execBlockReset] at h
  repeat' split at h
  all_goals cases h; exact .of_stored_eq rfl rfl rfl

theorem execResetResume_keepsFreeze {s t : State} (h : execResetResume s = .next t) : KeepsFreeze s t := by
  unfold execResetResume at h
  split at h
  all_goals cases h; exact .of_stored_eq rfl rfl rfl

theorem Env.feEn_eq (v : Env) : v.feEn = (v.reg 0x100000).getLsbD 0 := by
  simp only [Env.feEn, Env.field, bits, BitVec.getLsbD, Nat.testBit_zero, Nat.shiftRight_zero, Nat.pow_one]
  rfl

/-- At a pulse edge the block takes over what the port holds, and EN of FE_CTL brings the freeze (R374, R377). -/
theorem execPulseEdge_next {p : PulseIn} {s t : State} (h : execPulseEdge p s = .next t) :
    t.aon.grade = s.aon.grade ∧ t.cfg = { s.cfg with
      active := s.cfg.stored
      frozen := s.cfg.frozen || (s.cfg.storedAt s.aon.grade 0x100000).getLsbD 0 } := by
  cases h
  exact ⟨rfl, by rw [Env.feEn_eq]; rfl⟩

theorem execPulseEdge_keepsFreeze {p : PulseIn} {s t : State} (h : execPulseEdge p s = .next t) : KeepsFreeze s t := by
  obtain ⟨grade, cfg⟩ := execPulseEdge_next h
  exact ⟨grade, fun freeze => by simp [cfg, freeze], fun _ _ _ _ _ _ => by rw [cfg]; rfl⟩

/-- No command but a cold reset lifts the freeze or changes a register that is frozen (R377). -/
theorem exec_keepsFreeze {c : Instr} {s t : State} (h : exec c s = .next t)
    (warm : ∀ die st lantern maker, c ≠ .powerOnReset die st lantern maker) : KeepsFreeze s t := by
  cases leaves : Instr.leavesBlk c
  case false => exact .of_onlyBlk (exec_onlyBlk leaves h)
  cases c with
  | powerOnReset => exact (warm _ _ _ _ rfl).elim
  | domainPowerAck => exact execDomainPowerAck_keepsFreeze h
  | pulseEdge => exact execPulseEdge_keepsFreeze h
  | mcOperationTimeout => exact execMcOperationTimeout_keepsFreeze h
  | blockReset => exact execBlockReset_keepsFreeze h
  | resetResume => exact execResetResume_keepsFreeze h
  | rchTestFence | rchTestStart => exact .of_testRow h
  | feFwCtlGo | pgCtlEn | dbSnapResumeGo | dbBpResume | mcReqGo | mcSegCtlEn | mcAlarmRaise | mcRxPop | feCtlEn
  | glbLock | registerWrite => exact .of_portWrite h
  | registerReadCapture | registerAccessError => exact .of_portRead h
  | _ => cases leaves

/-- The write of a frozen register leaves every register, sets LOCKED_WR and is answered (R274, R377). -/
theorem does_registerWrite_frozen {s : State} {addr : BitVec 24} (data : BitVec 32) {r : Reg}
    (freeze : s.cfg.frozen = true) (named : frozenByEn addr.toNat = true)
    (found : regAt s.aon.grade addr.toNat = some r) (rwl : r.access = .rwl) (serves : PortOpen s addr.toNat) :
    Does (.registerWrite addr data 0xF) s fun t =>
      t.cfg.stored = s.cfg.stored ∧ t.cfg.active = s.cfg.active ∧ t.cfg.lockedWr = true ∧ t.aon = s.aon ∧
      t.blk = s.blk.emit (.regWritten addr) := by
  have answered : exec (.registerWrite addr data 0xF) s = .next { s with
      cfg := s.cfg.lockedWrite addr.toNat, blk := s.blk.emit (.regWritten addr) } := by
    change Host.Outcome.next (s.portWrite addr.toNat data 0xF []) = _
    rw [State.portWrite, State.takeWrite_open data [] found serves, State.writeReg_frozen data [] rwl freeze named,
      BitVec.ofNat_toNat, BitVec.setWidth_eq]
  exact ⟨_, answered, rfl, rfl, rfl, rfl, rfl⟩

/-- Settles O5: the edge takes EN of FE_CTL into the freeze, every command but a cold reset keeps the freeze and what it
covers, and a write that meets it is a locked write. -/
theorem enableFreezesTable16_4 : Obligations.EnableFreezesTable16_4 := by
  refine ⟨fun p s t h en => ?_, fun c s t h freeze warm => ?_,
    fun _ _ data _ freeze named found rwl serves => does_registerWrite_frozen data freeze named found rwl serves⟩
  · rw [(execPulseEdge_next h).2]
    simp [en]
  · obtain ⟨grade, frozen, stored⟩ := exec_keepsFreeze h warm
    exact ⟨frozen freeze, grade ▸ stored freeze⟩

end Sys2Proof.Machine
end

section
/-! The register port (R11-R14, R371-R379), the set-up lock, time and the register file's invariant: settles O1, O2, O3,
O4, O6, O7, O8 and O11. -/

namespace Sys2Proof.Machine

open Sys2Proof.Config

/-! ### What an access of the register port may change -/

/-- An access of the register port at an offset: time and the queue stand, what the block acts on stands, one RW or RWL
register may be stored, and the lock is not cleared. -/
structure PortStep (s t : State) : Prop where
  aon     : t.aon = s.aon
  pending : t.pending = s.pending
  active  : t.cfg.active = s.cfg.active
  lock    : s.cfg.lock = true → t.cfg.lock = true
  saved   : t.cfg.lockSaved = s.cfg.lockSaved
  stored  : t.cfg.stored = s.cfg.stored ∨ ∃ addr r data, regAt s.aon.grade addr = some r ∧
    (r.access = .rw ∨ r.access = .rwl) ∧ t.cfg.stored = (s.cfg.store s.aon.grade addr r.mask data).stored

theorem State.setLock_portStep (s : State) (data : Word32) : PortStep s (s.setLock data) := by
  unfold State.setLock
  split
  · exact ⟨rfl, rfl, rfl, id, rfl, .inl rfl⟩
  · split
    · exact ⟨rfl, rfl, rfl, fun _ => rfl, rfl, .inl rfl⟩
    · exact ⟨rfl, rfl, rfl, id, rfl, .inl rfl⟩

theorem State.writeReg_portStep {s : State} {addr : Nat} {r : Reg} (data : Word32) (retire : List (BitVec 64))
    (found : regAt s.aon.grade addr = some r) : PortStep s (s.writeReg addr r data retire) := by
  unfold State.writeReg
  split
  case h_1 | h_2 | h_4 => exact ⟨rfl, rfl, rfl, id, rfl, .inl rfl⟩
  case h_3 => exact s.setLock_portStep data
  case h_5 => split <;> exact ⟨rfl, rfl, rfl, id, rfl, .inl rfl⟩
  case h_6 rw =>
    split
    · exact ⟨rfl, rfl, rfl, id, rfl, .inl rfl⟩
    · exact ⟨rfl, rfl, rfl, id, rfl, .inr ⟨addr, r, data, found, .inl rw, rfl⟩⟩
  case h_7 rwl =>
    split
    · exact ⟨rfl, rfl, rfl, id, rfl, .inl rfl⟩
    · exact ⟨rfl, rfl, rfl, id, rfl, .inr ⟨addr, r, data, found, .inr rwl, rfl⟩⟩

theorem State.takeWrite_portStep (s : State) (addr : Nat) (data : Word32) (be : BitVec 4)
    (retire : List (BitVec 64)) : PortStep s (s.takeWrite addr data be retire) := by
  unfold State.takeWrite
  split
  · exact ⟨rfl, rfl, rfl, id, rfl, .inl rfl⟩
  split
  · split <;> exact ⟨rfl, rfl, rfl, id, rfl, .inl rfl⟩
  case h_2 r found =>
    split
    · exact ⟨rfl, rfl, rfl, id, rfl, .inl rfl⟩
    · exact State.writeReg_portStep data retire found

theorem State.portWrite_portStep (s : State) (addr : Nat) (data : Word32) (be : BitVec 4)
    (retire : List (BitVec 64)) : PortStep s (s.portWrite addr data be retire) := by
  obtain ⟨aon, pending, active, lock, saved, stored⟩ := s.takeWrite_portStep addr data be retire
  exact ⟨aon, pending, active, lock, saved, stored⟩

theorem State.portRead_portStep (s : State) (addr : Nat) (be : BitVec 4) : PortStep s (s.portRead addr be) := by
  unfold State.portRead
  split <;> exact ⟨rfl, rfl, rfl, id, rfl, .inl rfl⟩

theorem PortStep.of_portWrite {s t : State} {addr : Nat} {data : Word32} {be : BitVec 4} {retire : List (BitVec 64)}
    (h : (.next (s.portWrite addr data be retire) : Host.Outcome State Fault Refusal) = .next t) : PortStep s t := by
  cases h; exact s.portWrite_portStep addr data be retire

theorem PortStep.of_portRead {s t : State} {addr : Nat} {be : BitVec 4}
    (h : (.next (s.portRead addr be) : Host.Outcome State Fault Refusal) = .next t) : PortStep s t := by
  cases h; exact s.portRead_portStep addr be

theorem PortStep.of_testRow {s t : State} {r : Nat} {value : Word32} (h : testRow r value s = .next t) :
    PortStep s t := by
  unfold testRow at h
  split at h
  · exact .of_portWrite h
  · cases h; exact ⟨rfl, rfl, rfl, id, rfl, .inl rfl⟩

theorem PortStep.of_onlyBlk {s t : State} (h : OnlyBlk s t) : PortStep s t := by
  obtain ⟨aon, cfg, pending⟩ := h
  exact ⟨aon, pending, by rw [cfg], by rw [cfg]; exact id, by rw [cfg], .inl (by rw [cfg])⟩

/-- The commands that change the time, a pin of power or the registers otherwise than by the register port. -/
def Instr.leavesPort : Instr → Bool
  | .powerOnReset .. | .domainPowerAck .. | .pulseEdge .. | .mcOperationTimeout | .blockReset .. | .resetResume => true
  | _ => false

/-- Every other command is an access of the port, or changes the block alone. -/
theorem exec_portStep {c : Instr} {s t : State} (stays : Instr.leavesPort c = false) (h : exec c s = .next t) :
    PortStep s t := by
  cases leaves : Instr.leavesBlk c
  case false => exact .of_onlyBlk (exec_onlyBlk leaves h)
  cases c with
  | powerOnReset | domainPowerAck | pulseEdge | mcOperationTimeout | blockReset | resetResume => cases stays
  | rchTestFence | rchTestStart => exact .of_testRow h
  | feFwCtlGo | pgCtlEn | dbSnapResumeGo | dbBpResume | mcReqGo | mcSegCtlEn | mcAlarmRaise | mcRxPop | feCtlEn
  | glbLock | registerWrite => exact .of_portWrite h
  | registerReadCapture | registerAccessError => exact .of_portRead h
  | _ => cases leaves

/-! ### Power, resets and time -/

@[simp] theorem State.requestPower_pending (s : State) (d : Nat) : (s.requestPower d).pending = s.pending := by
  unfold State.requestPower; split <;> rfl

/-- A power request changes the always-on domain in the power requests alone. -/
theorem State.requestPower_aon (s : State) (d : Nat) :
    (s.requestPower d).aon = { s.aon with pdReq := (s.requestPower d).aon.pdReq } := by
  unfold State.requestPower; split <;> rfl

/-- An acknowledgement of power leaves the registers and the queue, and everything of the always-on domain but the power
words. -/
theorem execDomainPowerAck_next {s t : State} {d : Nat} {level : Bool} (h : execDomainPowerAck d level s = .next t) :
    t.cfg = s.cfg ∧ t.pending = s.pending ∧ t.aon = { s.aon with pdReq := t.aon.pdReq, pdAck := t.aon.pdAck } := by
  simp only [execDomainPowerAck] at h
  repeat' split at h
  all_goals cases h
  all_goals refine ⟨by simp, by simp, ?_⟩
  all_goals first
    | rfl
    | rw [State.requestPower_aon]

theorem execMcOperationTimeout_next {s t : State} (h : execMcOperationTimeout s = .next t) :
    t.cfg = s.cfg ∧ t.pending = s.pending ∧ t.aon = { s.aon with since := t.aon.since } ∧ s.aon.since ≤ t.aon.since := by
  unfold execMcOperationTimeout at h
  split at h
  · cases h; exact ⟨rfl, rfl, rfl, Nat.le_refl _⟩
  · rw [onBlk_next h]
    refine ⟨rfl, rfl, ?_⟩
    dsimp only
    split
    · exact ⟨rfl, Nat.le_max_left ..⟩
    · exact ⟨rfl, Nat.le_refl _⟩

/-- The first phase of a block reset notes the lock, and may take the front end's power request back (R12, R315). -/
theorem execBlockReset_next {s t : State} {sweep : List Met} (h : execBlockReset sweep s = .next t) :
    t.pending = s.pending ∧ t.aon = { s.aon with pdReq := t.aon.pdReq, pdAck := t.aon.pdAck } ∧
    t.cfg.stored = s.cfg.stored ∧ t.cfg.active = s.cfg.active ∧
    ((s.cfg.lock || s.cfg.lockSaved) = true → (t.cfg.lock || t.cfg.lockSaved) = true) := by
  simp only [execBlockReset] at h
  repeat' split at h
  all_goals cases h; exact ⟨rfl, rfl, rfl, rfl, fun lock => by simpa [Bool.or_comm] using lock⟩

theorem execResetResume_next {s t : State} (h : execResetResume s = .next t) :
    t.pending = s.pending ∧ t.aon = s.aon ∧ t.cfg.stored = s.cfg.stored ∧ t.cfg.active = s.cfg.active ∧
    ((s.cfg.lock || s.cfg.lockSaved) = true → t.cfg.lock = true ∨ t = s) ∧ (s.cfg.lock = true → t.cfg.lock = true) := by
  unfold execResetResume at h
  split at h
  all_goals cases h
  · exact ⟨rfl, rfl, rfl, rfl, fun _ => .inr rfl, id⟩
  · exact ⟨rfl, rfl, rfl, rfl, .inl, fun lock => by simp [lock]⟩

/-- Settles O1: `step` by its two cases; on an empty queue by `State.tick`. -/
theorem stepRunsTheFrontCommand : Obligations.StepRunsTheFrontCommand := by
  refine ⟨fun s c rest h => by simp [step, h], fun s h => ⟨s.tick, by simp [step, h], ?_⟩⟩
  unfold State.tick
  dsimp only
  split
  case isTrue due =>
    refine ⟨h, rfl, rfl, fun free => (free due).elim, fun _ _ x running port => ?_⟩
    obtain ⟨-, waits⟩ := due
    have op : x.op = 4 := by simp [Mc.waits, running] at waits; exact waits.1
    simp [PortAnswered, Blk.mcExpire, Blk.mcAnswer, running, port, Blk.modMc, op]
  case isFalse idle =>
    exact ⟨h, rfl, rfl, fun _ => rfl, fun now waits => (idle ⟨now, waits⟩).elim⟩

/-- Settles O2: by the commands that leave the block, and by `PortStep` for all others. -/
theorem timeMovesOnlyAtEdges : Obligations.TimeMovesOnlyAtEdges := by
  intro c s t h
  cases leaves : Instr.leavesPort c
  case false =>
    obtain ⟨aon, pending, -⟩ := exec_portStep leaves h
    refine ⟨pending, by rw [aon], ?_⟩
    cases c with
    | powerOnReset | domainPowerAck | pulseEdge | mcOperationTimeout | blockReset => cases leaves
    | _ => exact aon
  cases c with
  | powerOnReset => cases h; exact ⟨rfl, rfl, rfl, rfl, rfl, rfl, rfl⟩
  | domainPowerAck d level =>
    obtain ⟨-, pending, aon⟩ := execDomainPowerAck_next h
    exact ⟨pending, by rw [aon], aon⟩
  | pulseEdge => cases h; exact ⟨rfl, rfl, rfl⟩
  | mcOperationTimeout =>
    obtain ⟨-, pending, aon, since⟩ := execMcOperationTimeout_next h
    exact ⟨pending, by rw [aon], aon, since⟩
  | blockReset =>
    obtain ⟨pending, aon, -⟩ := execBlockReset_next h
    exact ⟨pending, by rw [aon], aon⟩
  | resetResume =>
    obtain ⟨pending, aon, -⟩ := execResetResume_next h
    exact ⟨pending, by rw [aon], aon⟩
  | _ => cases leaves

/-! ### The register file stays sound -/

theorem soundRegs_nil (g : Grade) : soundRegs g [] := by simp [soundRegs]

/-- The value that a sound file holds at a register has the reserved bits of the Reset column. -/
theorem RegFile.storedAt_reserved {g : Grade} {f : RegFile} {off : Nat} {r : Reg} (sound : soundRegs g f.stored)
    (found : regAt g off = some r) : f.storedAt g off &&& ~~~r.mask = r.reset &&& ~~~r.mask := by
  unfold RegFile.storedAt
  cases held : tget f.stored off with
  | none => simp [found]
  | some w =>
    obtain ⟨q, there, -, reserved⟩ := sound off w held
    cases found.symm.trans there
    exact reserved

/-- Merging a write into a word leaves the bits outside the mask. -/
theorem merge_reserved (old data mask : Word32) : ((old &&& ~~~mask) ||| (data &&& mask)) &&& ~~~mask = old &&& ~~~mask := by
  ext i
  simp only [BitVec.getElem_and, BitVec.getElem_or, BitVec.getElem_not]
  cases mask[i] <;> simp

theorem RegFile.store_sound {g : Grade} {f : RegFile} {addr : Nat} {r : Reg} (data : Word32)
    (sound : soundRegs g f.stored) (found : regAt g addr = some r) (access : r.access = .rw ∨ r.access = .rwl) :
    soundRegs g (f.store g addr r.mask data).stored := by
  intro off w held
  rw [RegFile.store, tget_tput] at held
  split at held
  case isTrue same =>
    subst same
    cases held
    exact ⟨r, found, access, by rw [merge_reserved, RegFile.storedAt_reserved sound found]⟩
  case isFalse => exact sound off w held

theorem PortStep.regInv {s t : State} (h : PortStep s t) (inv : RegInv s) : RegInv t := by
  obtain ⟨stored, active⟩ := inv
  refine ⟨?_, by rw [h.aon, h.active]; exact active⟩
  rw [h.aon]
  rcases h.stored with same | ⟨addr, r, data, found, access, new⟩
  · rwa [same]
  · rw [new]; exact RegFile.store_sound data stored found access

/-- Every command keeps the register file sound. -/
theorem exec_regInv {c : Instr} {s t : State} (inv : RegInv s) (h : exec c s = .next t) : RegInv t := by
  cases leaves : Instr.leavesPort c
  case false => exact (exec_portStep leaves h).regInv inv
  obtain ⟨stored, active⟩ := inv
  cases c with
  | powerOnReset => cases h; exact ⟨soundRegs_nil _, soundRegs_nil _⟩
  | domainPowerAck =>
    obtain ⟨cfg, -, aon⟩ := execDomainPowerAck_next h
    rw [RegInv, cfg, aon]; exact ⟨stored, active⟩
  | pulseEdge => cases h; exact ⟨stored, stored⟩
  | mcOperationTimeout =>
    obtain ⟨cfg, -, aon, -⟩ := execMcOperationTimeout_next h
    rw [RegInv, cfg, aon]; exact ⟨stored, active⟩
  | blockReset =>
    obtain ⟨-, aon, stored', active', -⟩ := execBlockReset_next h
    rw [RegInv, aon, stored', active']; exact ⟨stored, active⟩
  | resetResume =>
    obtain ⟨-, aon, stored', active', -⟩ := execResetResume_next h
    rw [RegInv, aon, stored', active']; exact ⟨stored, active⟩
  | _ => cases leaves

theorem State.tick_cfg (s : State) : s.tick.cfg = s.cfg := by
  unfold State.tick; dsimp only; split <;> rfl

theorem State.tick_grade (s : State) : s.tick.aon.grade = s.aon.grade := by
  unfold State.tick; dsimp only; split <;> rfl

/-- Settles O3: on an empty queue no register moves; a command keeps the invariant by `exec_regInv`. -/
theorem registerFileStaysSound : Obligations.RegisterFileStaysSound := by
  intro s t inv h
  unfold step at h
  split at h
  · cases h
    rw [RegInv, State.tick_cfg, State.tick_grade]
    exact inv
  case h_2 rest _ => exact exec_regInv (s := { s with pending := rest }) inv h

/-- Settles O4: at reset both tables of registers and channel memory are empty. -/
theorem invariantsHoldAtReset : Obligations.InvariantsHoldAtReset :=
  ⟨⟨soundRegs_nil _, soundRegs_nil _⟩, reset_memory_wf⟩

/-- Settles O11: a cold reset is State.reset with the grade, the pins and the queue put in. -/
theorem coldResetClearsEverything : Obligations.ColdResetClearsEverything :=
  fun _ _ _ _ _ => ⟨_, rfl, rfl, rfl, rfl, rfl⟩

end Sys2Proof.Machine
end

section
/-! Which parts of the block an operation may change: a lemma for each operation that several meanings share. -/

namespace Sys2Proof.Machine

/-- The parts of the block: its fields, and two parts of fields that few operations change: the task blocks of the
reaches, and channel memory. -/
inductive Part where
  | reaches | preds | history | predOps | predNext | agents | fe | rt | hb | pg | rel | db | mc | counters | out | fresh
  | blocks | chanMem
deriving DecidableEq

/-- A part is the same in both blocks. -/
def Part.Same (b b' : Blk) : Part → Prop
  | .reaches => b'.reaches = b.reaches
  | .preds => b'.preds = b.preds
  | .history => b'.history = b.history
  | .predOps => b'.predOps = b.predOps
  | .predNext => b'.predNext = b.predNext
  | .agents => b'.agents = b.agents
  | .fe => b'.fe = b.fe
  | .rt => b'.rt = b.rt
  | .hb => b'.hb = b.hb
  | .pg => b'.pg = b.pg
  | .rel => b'.rel = b.rel
  | .db => b'.db = b.db
  | .mc => b'.mc = b.mc
  | .counters => b'.counters = b.counters
  | .out => b'.out = b.out
  | .fresh => b'.fresh = b.fresh
  | .blocks => ∀ r, (b'.reach r).blocks = (b.reach r).blocks
  | .chanMem => b'.hb.chanMem = b.hb.chanMem

theorem Part.Same.refl (b : Blk) (p : Part) : p.Same b b := by
  cases p <;> first | rfl | exact fun _ => rfl

theorem Part.Same.trans {b c d : Blk} {p : Part} (h : p.Same b c) (k : p.Same c d) : p.Same b d := by
  cases p
  case blocks => exact fun r => (k r).trans (h r)
  all_goals exact Eq.trans k h

theorem Part.Same.symm {b c : Blk} {p : Part} (h : p.Same b c) : p.Same c b := by
  cases p
  case blocks => exact fun r => (h r).symm
  all_goals exact Eq.symm h

/-- A part of a part is the same where the whole is. -/
theorem Part.Same.blocks {b b' : Blk} (h : Part.reaches.Same b b') : Part.blocks.Same b b' := fun r => by
  unfold Blk.reach; rw [show b'.reaches = b.reaches from h]

theorem Part.Same.chanMem {b b' : Blk} (h : Part.hb.Same b b') : Part.chanMem.Same b b' :=
  congrArg Hb.chanMem h

/-- Blocks with the same parts are the same. -/
theorem Blk.eq_of_same {b b' : Blk} (h : ∀ p : Part, p ≠ .blocks → p ≠ .chanMem → p.Same b b') : b' = b := by
  have same (p : Part) (whole : p ≠ .blocks ∧ p ≠ .chanMem) : p.Same b b' := h p whole.1 whole.2
  cases b; cases b'
  congr
  · exact same .reaches (by simp)
  · exact same .preds (by simp)
  · exact same .history (by simp)
  · exact same .predOps (by simp)
  · exact same .predNext (by simp)
  · exact same .agents (by simp)
  · exact same .fe (by simp)
  · exact same .rt (by simp)
  · exact same .hb (by simp)
  · exact same .pg (by simp)
  · exact same .rel (by simp)
  · exact same .db (by simp)
  · exact same .mc (by simp)
  · exact same .counters (by simp)
  · exact same .out (by simp)
  · exact same .fresh (by simp)

/-- Nothing changed from `b` to `b'` but parts of the list. -/
def Blk.Within (l : List Part) (b b' : Blk) : Prop := ∀ p, p ∉ l → p.Same b b'

/-- The block `b` with the parts of the list taken from `b'`. -/
def Blk.patched (l : List Part) (b b' : Blk) : Blk where
  reaches  := if .reaches ∈ l then b'.reaches else b.reaches
  preds    := if .preds ∈ l then b'.preds else b.preds
  history  := if .history ∈ l then b'.history else b.history
  predOps  := if .predOps ∈ l then b'.predOps else b.predOps
  predNext := if .predNext ∈ l then b'.predNext else b.predNext
  agents   := if .agents ∈ l then b'.agents else b.agents
  fe       := if .fe ∈ l then b'.fe else b.fe
  rt       := if .rt ∈ l then b'.rt else b.rt
  hb       := if .hb ∈ l then b'.hb else b.hb
  pg       := if .pg ∈ l then b'.pg else b.pg
  rel      := if .rel ∈ l then b'.rel else b.rel
  db       := if .db ∈ l then b'.db else b.db
  mc       := if .mc ∈ l then b'.mc else b.mc
  counters := if .counters ∈ l then b'.counters else b.counters
  out      := if .out ∈ l then b'.out else b.out
  fresh    := if .fresh ∈ l then b'.fresh else b.fresh

namespace Blk.Within

variable {l k : List Part} {b c d : Blk}

@[simp] theorem refl (l : List Part) (b : Blk) : Within l b b := fun p _ => Part.Same.refl b p

theorem trans (h : Within l b c) (k : Within l c d) : Within l b d := fun p out => (h p out).trans (k p out)

theorem mono (h : Within k b c) (sub : k ⊆ l) : Within l b c := fun p out => h p fun inside => out (sub inside)

/-- A block that differs within the list is the old one with those parts new. -/
theorem eq (h : Within l b c) : c = b.patched l c := by
  refine Blk.eq_of_same fun p notBlocks notMem => ?_
  by_cases inside : p ∈ l
  · cases p
    case blocks => exact absurd rfl notBlocks
    case chanMem => exact absurd rfl notMem
    all_goals exact (if_pos inside).symm
  · have same := h p inside
    cases p
    case blocks => exact absurd rfl notBlocks
    case chanMem => exact absurd rfl notMem
    all_goals exact Eq.trans same (if_neg inside).symm

/-- A change within the list at the end makes no difference. -/
theorem iff_of (h : Within k c d) (sub : k ⊆ l) : Within l b d ↔ Within l b c :=
  ⟨fun whole p out => (whole p out).trans (h.mono sub p out).symm, fun first => first.trans (h.mono sub)⟩

theorem forEach {α : Type} {f : α → Blk → Blk} (xs : List α) (h : ∀ x c, Within l c (f x c)) (b : Blk) :
    Within l b (b.forEach xs f) := by
  induction xs generalizing b with
  | nil => exact refl l b
  | cons x xs ih => exact (h x b).trans (ih (f x b))

end Blk.Within

/-! ### The updates of one part -/

section
variable {l : List Part} {b c : Blk}

@[simp] theorem Blk.within_ite {p : Prop} [Decidable p] {d : Blk} :
    Within l b (if p then c else d) ↔ (p → Within l b c) ∧ (¬p → Within l b d) := by
  split <;> simp [*]

@[simp] theorem Blk.within_emit (o : Out) (sub : [.out] ⊆ l) : Within l b (c.emit o) ↔ Within l b c :=
  Within.iff_of (k := [.out]) (fun p out => by cases p <;> first | rfl | exact fun _ => rfl | simp at out) sub

@[simp] theorem Blk.within_modReach (r : Nat) (f : Reach → Reach) (sub : [.reaches, .blocks] ⊆ l) :
    Within l b (c.modReach r f) ↔ Within l b c :=
  Within.iff_of (k := [.reaches, .blocks]) (fun p out => by cases p <;> first | rfl | exact fun _ => rfl | simp at out) sub

/-- An update of a reach that leaves its task blocks. -/
@[simp] theorem Blk.within_modReach_blocks (r : Nat) (f : Reach → Reach) (keep : ∀ x, (f x).blocks = x.blocks)
    (sub : [.reaches] ⊆ l) : Within l b (c.modReach r f) ↔ Within l b c := by
  refine Within.iff_of (k := [.reaches]) (fun p out => ?_) sub
  cases p
  case reaches => simp at out
  case blocks =>
    intro k
    rcases Decidable.em (k = r) with rfl | other
    · rw [reach_modReach_same, keep]
    · rw [reach_modReach_other _ _ other]
  all_goals rfl

@[simp] theorem Blk.within_modAgent (e : Nat) (f : Agent → Agent) (sub : [.agents] ⊆ l) :
    Within l b (c.modAgent e f) ↔ Within l b c :=
  Within.iff_of (k := [.agents]) (fun p out => by cases p <;> first | rfl | exact fun _ => rfl | simp at out) sub

@[simp] theorem Blk.within_modFe (f : Fe → Fe) (sub : [.fe] ⊆ l) : Within l b (c.modFe f) ↔ Within l b c :=
  Within.iff_of (k := [.fe]) (fun p out => by cases p <;> first | rfl | exact fun _ => rfl | simp at out) sub

@[simp] theorem Blk.within_modRt (f : Rt → Rt) (sub : [.rt] ⊆ l) : Within l b (c.modRt f) ↔ Within l b c :=
  Within.iff_of (k := [.rt]) (fun p out => by cases p <;> first | rfl | exact fun _ => rfl | simp at out) sub

@[simp] theorem Blk.within_modHb (f : Hb → Hb) (sub : [.hb, .chanMem] ⊆ l) :
    Within l b (c.modHb f) ↔ Within l b c :=
  Within.iff_of (k := [.hb, .chanMem]) (fun p out => by cases p <;> first | rfl | exact fun _ => rfl | simp at out) sub

/-- An update of the hub that leaves channel memory. -/
@[simp] theorem Blk.within_modHb_chanMem (f : Hb → Hb) (keep : ∀ h, (f h).chanMem = h.chanMem)
    (sub : [.hb] ⊆ l) : Within l b (c.modHb f) ↔ Within l b c := by
  refine Within.iff_of (k := [.hb]) (fun p out => ?_) sub
  cases p
  case hb => simp at out
  case chanMem => exact keep _
  all_goals first | rfl | exact fun _ => rfl

@[simp] theorem Blk.within_modPg (f : Pg → Pg) (sub : [.pg] ⊆ l) : Within l b (c.modPg f) ↔ Within l b c :=
  Within.iff_of (k := [.pg]) (fun p out => by cases p <;> first | rfl | exact fun _ => rfl | simp at out) sub

@[simp] theorem Blk.within_modRel (f : Rel → Rel) (sub : [.rel] ⊆ l) : Within l b (c.modRel f) ↔ Within l b c :=
  Within.iff_of (k := [.rel]) (fun p out => by cases p <;> first | rfl | exact fun _ => rfl | simp at out) sub

@[simp] theorem Blk.within_modDb (f : Db → Db) (sub : [.db] ⊆ l) : Within l b (c.modDb f) ↔ Within l b c :=
  Within.iff_of (k := [.db]) (fun p out => by cases p <;> first | rfl | exact fun _ => rfl | simp at out) sub

@[simp] theorem Blk.within_modMc (f : Mc → Mc) (sub : [.mc] ⊆ l) : Within l b (c.modMc f) ↔ Within l b c :=
  Within.iff_of (k := [.mc]) (fun p out => by cases p <;> first | rfl | exact fun _ => rfl | simp at out) sub

@[simp] theorem Blk.within_spend (sub : [.fresh] ⊆ l) : Within l b c.spend ↔ Within l b c :=
  Within.iff_of (k := [.fresh]) (fun p out => by cases p <;> first | rfl | exact fun _ => rfl | simp at out) sub

@[simp] theorem Blk.within_bump (k : Ctr) (i n : Nat) (sub : [.counters] ⊆ l) :
    Within l b (c.bump k i n) ↔ Within l b c :=
  Within.iff_of (k := [.counters])
    (fun p out => by rw [Blk.bump_frame]; cases p <;> first | rfl | exact fun _ => rfl | simp at out) sub

@[simp] theorem Blk.within_modQueue (q : Nat) (f : Queue → Queue) (sub : [.fe] ⊆ l) :
    Within l b (c.modQueue q f) ↔ Within l b c :=
  Within.iff_of (k := [.fe]) (by unfold Blk.modQueue; split <;> simp) sub

@[simp] theorem Blk.within_modCtx (x : Nat) (f : Ctx → Ctx) (sub : [.fe] ⊆ l) :
    Within l b (c.modCtx x f) ↔ Within l b c :=
  Within.iff_of (k := [.fe]) (by unfold Blk.modCtx; split <;> simp) sub

@[simp] theorem Blk.within_ctxBump (x off n : Nat) (sub : [.db] ⊆ l) :
    Within l b (c.ctxBump x off n) ↔ Within l b c :=
  Within.iff_of (k := [.db]) (by unfold Blk.ctxBump; split <;> simp) sub

@[simp] theorem Blk.within_modTask (t : TaskRef) (f : Task → Task) (sub : [.reaches, .blocks] ⊆ l) :
    Within l b (c.modTask t f) ↔ Within l b c :=
  Within.iff_of (k := [.reaches, .blocks]) (by unfold Blk.modTask; split <;> simp) sub

@[simp] theorem Blk.within_setState (t : TaskRef) (st : TState) (sub : [.reaches, .blocks] ⊆ l) :
    Within l b (c.setState t st) ↔ Within l b c := by
  refine Within.iff_of (k := [.reaches, .blocks]) ?_ sub
  unfold Blk.setState
  split
  · simp
  · dsimp only
    split
    · exact .trans (by simp) (.forEach _ (by simp) _)
    · simp

@[simp] theorem Blk.within_alarm (k : Nat) (sub : [.mc] ⊆ l) : Within l b (c.alarm k) ↔ Within l b c :=
  within_modMc _ sub

@[simp] theorem Blk.within_opReply (e : Nat) (st : BitVec 8) (x : BitVec 32) (ws : List (BitVec 64))
    (sub : [.out] ⊆ l) : Within l b (c.opReply e st x ws) ↔ Within l b c := within_emit _ sub

@[simp] theorem Blk.within_runFault (e : Nat) (st : BitVec 8) (sub : [.agents] ⊆ l) :
    Within l b (c.runFault e st) ↔ Within l b c := within_modAgent _ _ sub

@[simp] theorem Blk.within_tearDown (x : Nat) (cause : BitVec 8) (d : Option (Nat × Nat)) (sub : [.fe] ⊆ l) :
    Within l b (c.tearDown x cause d) ↔ Within l b c :=
  Within.iff_of (k := [.fe]) (by unfold Blk.tearDown; split <;> simp) sub

@[simp] theorem Blk.within_askReset (cause : Cause) (sub : [.rel] ⊆ l) :
    Within l b (c.askReset cause) ↔ Within l b c :=
  Within.iff_of (k := [.rel]) (by unfold Blk.askReset; split <;> simp) sub

@[simp] theorem Blk.within_askStop (cause : Nat) (sub : [.db] ⊆ l) : Within l b (c.askStop cause) ↔ Within l b c :=
  Within.iff_of (k := [.db]) (by unfold Blk.askStop; split <;> simp) sub

@[simp] theorem Blk.within_trace (v : Env) (task : Bool) (r : TraceRec) (sub : [.db, .counters] ⊆ l) :
    Within l b (c.trace v task r) ↔ Within l b c := by
  refine Within.iff_of (k := [.db, .counters]) ?_ sub
  unfold Blk.trace
  simp

@[simp] theorem Blk.within_traceTask (v : Env) (type sub' : Nat) (t : TaskRef) (e : Nat) (st : BitVec 8)
    (aux : BitVec 64) (sh : Bool) (sub : [.db, .counters] ⊆ l) :
    Within l b (c.traceTask v type sub' t e st aux sh) ↔ Within l b c := within_trace v _ _ sub

@[simp] theorem Blk.within_stage (place : Nat) (r : JRec) (sub : [.rel] ⊆ l) :
    Within l b (c.stage place r) ↔ Within l b c := within_modRel _ sub

@[simp] theorem Blk.within_stageDesc (ty : JType) (x q i : Nat) (st : BitVec 8) (aux : Nat)
    (second : Option (BitVec 128)) (d : BitVec 512) (sub : [.rel] ⊆ l) :
    Within l b (c.stageDesc ty x q i st aux second d) ↔ Within l b c := within_stage _ _ sub

@[simp] theorem Blk.within_ask (r : HostReq) (sub : [.fe, .out] ⊆ l) : Within l b (c.ask r) ↔ Within l b c := by
  refine Within.iff_of (k := [.fe, .out]) (fun p out => ?_) sub
  unfold Blk.ask
  split <;> cases p <;> first | rfl | exact fun _ => rfl | simp at out

@[simp] theorem Blk.within_withFe (f : Fe) (sub : [.fe] ⊆ l) : Within l b { c with fe := f } ↔ Within l b c :=
  within_modFe (fun _ => f) sub

@[simp] theorem Blk.within_answered (q : HostReq → Bool) (sub : [.fe, .out] ⊆ l) :
    Within l b (c.answered q) ↔ Within l b c := by
  refine Within.iff_of (k := [.fe, .out]) ?_ sub
  unfold Blk.answered
  split
  · dsimp only
    split <;> simp
  · simp

@[simp] theorem Blk.within_askFor (gone : Option Nat) (r : HostReq) (sub : [.fe, .out] ⊆ l) :
    Within l b (c.askFor gone r) ↔ Within l b c :=
  Within.iff_of (k := [.fe, .out]) (by unfold Blk.askFor; split <;> simp) sub

@[simp] theorem Blk.within_readNow (q : Nat) (a : BitVec 64) (n : Nat) (sub : [.out] ⊆ l) :
    Within l b (c.readNow q a n) ↔ Within l b c := by
  refine Within.iff_of (k := [.out]) ?_ sub
  unfold Blk.readNow
  repeat' split
  all_goals simp

@[simp] theorem Blk.within_hostErr (sub : [.counters] ⊆ l) : Within l b c.hostErr ↔ Within l b c :=
  within_bump _ _ _ sub

@[simp] theorem Blk.within_hostRsp (q : HostReq → Bool) (err : Bool) (sub : [.fe, .counters, .out] ⊆ l) :
    Within l b (c.hostRsp q err) ↔ Within l b c :=
  Within.iff_of (k := [.fe, .counters, .out]) (by unfold Blk.hostRsp; split <;> simp) sub

@[simp] theorem Blk.within_lateRsp (q : HostReq → Bool) (err : Bool) (x : LateReq)
    (sub : [.fe, .counters, .out] ⊆ l) : Within l b (c.lateRsp q err x) ↔ Within l b c :=
  Within.iff_of (k := [.fe, .counters, .out]) (by unfold Blk.lateRsp; dsimp only; split <;> simp) sub

@[simp] theorem Blk.within_issue (v : Env) (t : Option Nat) (x : Effect) (sub : [.fe, .out] ⊆ l) :
    Within l b (c.issue v t x) ↔ Within l b c := by
  refine Within.iff_of (k := [.fe, .out]) ?_ sub
  unfold Blk.issue
  dsimp only
  repeat' split
  all_goals simp

theorem Blk.within_foldl_fst {α β : Type} {g : Blk × β → α → Blk × β}
    (h : ∀ p x, Within l p.1 (g p x).1) (xs : List α) (p : Blk × β) : Within l p.1 (xs.foldl g p).1 := by
  induction xs generalizing p with
  | nil => exact .refl l _
  | cons x xs ih => exact (h p x).trans (ih _)

@[simp] theorem Blk.within_releaseEffects (v : Env) (sub : [.fe, .rel, .out] ⊆ l) :
    Within l b (c.releaseEffects v) ↔ Within l b c := by
  refine Within.iff_of (k := [.fe, .rel, .out]) ?_ sub
  unfold Blk.releaseEffects
  simp only [within_modRel, List.cons_subset, List.mem_cons, List.nil_subset, or_true, and_true, true_or]
  refine within_foldl_fst (fun p x => ?_) _ (c, [])
  split <;> simp

@[simp] theorem Blk.within_putStatus (v : Env) (q : Nat) (u : Queue) (gone : Option Nat)
    (sub : [.fe, .rel, .out] ⊆ l) : Within l b (c.putStatus v q u gone) ↔ Within l b c :=
  Within.iff_of (k := [.fe, .rel, .out]) (by simp [Blk.putStatus]) sub

@[simp] theorem Blk.within_writeStatus (v : Env) (q : Nat) (cause : Option Nat) (sub : [.fe, .rel, .out] ⊆ l) :
    Within l b (c.writeStatus v q cause) ↔ Within l b c := by
  refine Within.iff_of (k := [.fe, .rel, .out]) ?_ sub
  unfold Blk.writeStatus
  dsimp only
  split <;> split <;> simp

@[simp] theorem Blk.within_touchBlock (v : Env) (t : TaskRef) (sub : [.reaches, .blocks] ⊆ l) :
    Within l b (c.touchBlock v t) ↔ Within l b c := within_modReach _ _ sub

/-! ### Stored data -/

@[simp] theorem Blk.within_queueLog (v : Env) (r : ELogRec) (sub : [.mc, .counters, .fresh] ⊆ l) :
    Within l b (c.queueLog v r) ↔ Within l b c := by
  refine Within.iff_of (k := [.mc, .counters, .fresh]) ?_ sub
  unfold Blk.queueLog
  dsimp only
  repeat' split
  all_goals simp

@[simp] theorem Blk.within_writeLog (v : Env) (r : ELogRec) (sub : [.rel, .out] ⊆ l) :
    Within l b (c.writeLog v r) ↔ Within l b c :=
  Within.iff_of (k := [.rel, .out]) (by simp [Blk.writeLog]) sub

@[simp] theorem Blk.within_elogReturn (v : Env) (sub : [.rel, .out, .fresh] ⊆ l) :
    Within l b (c.elogReturn v) ↔ Within l b c :=
  Within.iff_of (k := [.rel, .out, .fresh]) (by unfold Blk.elogReturn; split <;> simp) sub

@[simp] theorem Blk.within_logError (v : Env) (r : ELogRec) (sub : [.rel, .mc, .counters, .out, .fresh] ⊆ l) :
    Within l b (c.logError v r) ↔ Within l b c :=
  Within.iff_of (k := [.rel, .mc, .counters, .out, .fresh]) (by unfold Blk.logError; dsimp only; split <;> simp) sub

@[simp] theorem Blk.within_elogSeen (v : Env) (ci : Nat) (sub : [.rel, .out, .fresh] ⊆ l) :
    Within l b (c.elogSeen v ci) ↔ Within l b c :=
  Within.iff_of (k := [.rel, .out, .fresh]) (by simp [Blk.elogSeen]) sub

@[simp] theorem Blk.within_storedRead (v : Env) (p : Place) (source : Nat) (ecc : Ecc)
    (sub : [.rel, .mc, .counters, .out, .fresh] ⊆ l) : Within l b (c.storedRead v p source ecc) ↔ Within l b c := by
  refine Within.iff_of (k := [.rel, .mc, .counters, .out, .fresh]) ?_ sub
  unfold Blk.storedRead
  dsimp only
  repeat' split
  all_goals simp

@[simp] theorem Blk.within_deviceError (v : Env) (ctx : Option Nat) (sub : [.rel, .mc, .counters, .out, .fresh] ⊆ l) :
    Within l b (c.deviceError v ctx) ↔ Within l b c :=
  Within.iff_of (k := [.rel, .mc, .counters, .out, .fresh]) (by simp [Blk.deviceError]) sub

@[simp] theorem Blk.within_countHalt (sub : [.mc, .counters] ⊆ l) : Within l b c.countHalt ↔ Within l b c :=
  Within.iff_of (k := [.mc, .counters]) (by simp [Blk.countHalt]) sub

@[simp] theorem Blk.within_haltChannel (v : Env) (ctx : Option Nat) (sub : [.rel, .mc, .counters, .out, .fresh] ⊆ l) :
    Within l b (c.haltChannel v ctx) ↔ Within l b c :=
  Within.iff_of (k := [.rel, .mc, .counters, .out, .fresh]) (by simp [Blk.haltChannel]) sub

@[simp] theorem Blk.within_validate (mem lo n : Nat) (sub : [.rel] ⊆ l) :
    Within l b (c.validate mem lo n) ↔ Within l b c :=
  Within.iff_of (k := [.rel]) (by unfold Blk.validate; split <;> simp) sub

@[simp] theorem Blk.within_invalidate (mem : Nat) (sub : [.rel] ⊆ l) :
    Within l b (c.invalidate mem) ↔ Within l b c := within_modRel _ sub

@[simp] theorem Blk.within_meetUncorrectable (x : Met) (sub : [.fe, .rel] ⊆ l) :
    Within l b (c.meetUncorrectable x) ↔ Within l b c := by
  refine Within.iff_of (k := [.fe, .rel]) ?_ sub
  unfold Blk.meetUncorrectable
  repeat' split
  all_goals simp

@[simp] theorem Blk.within_meet (v : Env) (x : Met) (sub : [.fe, .rel, .mc, .counters, .out, .fresh] ⊆ l) :
    Within l b (c.meet v x) ↔ Within l b c := by
  refine Within.iff_of (k := [.fe, .rel, .mc, .counters, .out, .fresh]) ?_ sub
  unfold Blk.meet
  dsimp only
  repeat' split
  all_goals simp

@[simp] theorem Blk.within_traceInsn (v : Env) (core : Core) (s pc : Nat) (sub : [.db, .counters, .fresh] ⊆ l) :
    Within l b (c.traceInsn v core s pc) ↔ Within l b c :=
  Within.iff_of (k := [.db, .counters, .fresh]) (by simp [Blk.traceInsn]) sub

end

end Sys2Proof.Machine
end

section
/-! Accesses of the register port one by one: the set-up lock (O6), stored writes (O7), discarded accesses and reads (O8),
registers that start something (O9) and write-only registers (O10). -/

namespace Sys2Proof.Machine

open Sys2Proof.Config

/-! ### Writes that the port takes -/

/-- A write of a whole aligned word to a register that the port serves. -/
theorem State.portWrite_open {s : State} {addr : Nat} {r : Reg} (data : Word32) (retire : List (BitVec 64))
    (found : regAt s.aon.grade addr = some r) (serves : PortOpen s addr) :
    s.portWrite addr data 0xF retire = { s.writeReg addr r data retire with
      blk := (s.writeReg addr r data retire).blk.emit (.regWritten (BitVec.ofNat 24 addr)) } := by
  rw [State.portWrite, State.takeWrite_open data retire found serves]

theorem State.writeReg_locked {s : State} {addr : Nat} {r : Reg} (data : Word32) (retire : List (BitVec 64))
    (rwl : r.access = .rwl) (lock : s.cfg.lock = true) :
    s.writeReg addr r data retire = { s with cfg := s.cfg.lockedWrite addr } := by
  simp [State.writeReg, rwl, lock]

theorem State.writeReg_rw {s : State} {addr : Nat} {r : Reg} (data : Word32) (retire : List (BitVec 64))
    (rw_ : r.access = .rw) (plain : testReach addr = none) :
    s.writeReg addr r data retire = { s with
      cfg := s.cfg.store s.aon.grade addr r.mask data, blk := s.blk.wrote addr data retire } := by
  simp [State.writeReg, rw_, plain]

theorem State.writeReg_rwl {s : State} {addr : Nat} {r : Reg} (data : Word32) (retire : List (BitVec 64))
    (rwl : r.access = .rwl) (lock : s.cfg.lock = false) (free : s.cfg.frozen = false ∨ frozenByEn addr = false) :
    s.writeReg addr r data retire = { s with
      cfg := s.cfg.store s.aon.grade addr r.mask data, blk := s.blk.wrote addr data retire } := by
  have open_ : ¬ (s.cfg.lock || s.cfg.frozen && frozenByEn addr) = true := by
    rcases free with h | h <;> simp [lock, h]
  simp only [State.writeReg, rwl]
  rw [if_neg open_]

theorem State.writeReg_test {s : State} {addr k : Nat} {r : Reg} (data : Word32) (retire : List (BitVec 64))
    (rw_ : r.access = .rw) (test : testReach addr = some k) :
    s.writeReg addr r data retire = { s with blk := s.blk.testWrite k data } := by
  simp [State.writeReg, rw_, test]

theorem State.writeReg_wo {s : State} {addr : Nat} {r : Reg} (data : Word32) (retire : List (BitVec 64))
    (wo : r.access = .wo) (serves : ¬ (addr = 0xC00050 ∧ bits data 0 8 < 128)) :
    s.writeReg addr r data retire = { s with blk := s.blk.act s.env addr data } := by
  simp only [State.writeReg, wo]
  rw [if_neg serves]

theorem RegFile.storedAt_store_same (g : Grade) (f : RegFile) (addr : Nat) (mask data : Word32) :
    (f.store g addr mask data).storedAt g addr = (f.storedAt g addr &&& ~~~mask) ||| (data &&& mask) := by
  conv => lhs; rw [RegFile.storedAt]
  simp [RegFile.store]

theorem Blk.wrote_other {b : Blk} {addr : Nat} (data : Word32) (retire : List (BitVec 64)) (fe : addr ≠ 0x100000)
    (mc : addr ≠ 0xC00000) : b.wrote addr data retire = b := by simp [Blk.wrote, fe, mc]

/-! ### The lock (R12, R376) -/

theorem does_registerWrite_locked {s : State} {addr : BitVec 24} (data : BitVec 32) {r : Reg}
    (lock : s.cfg.lock = true) (found : regAt s.aon.grade addr.toNat = some r) (rwl : r.access = .rwl)
    (serves : PortOpen s addr.toNat) :
    Does (.registerWrite addr data 0xF) s fun t =>
      t.cfg.stored = s.cfg.stored ∧ t.cfg.lockedWr = true ∧ t.aon = s.aon ∧ t.blk = s.blk.emit (.regWritten addr) := by
  refine ⟨s.portWrite addr.toNat data 0xF [], rfl, ?_⟩
  rw [State.portWrite_open data [] found serves, State.writeReg_locked data [] rwl lock]
  simp [RegFile.lockedWrite]

/-- Only a cold reset clears both the lock and the note of it (R12, R376). -/
theorem exec_lock_noted {c : Instr} {s t : State} (h : exec c s = .next t)
    (lock : (s.cfg.lock || s.cfg.lockSaved) = true)
    (warm : ∀ die st lantern maker, c ≠ .powerOnReset die st lantern maker) :
    (t.cfg.lock || t.cfg.lockSaved) = true := by
  cases leaves : Instr.leavesPort c
  case false =>
    have step := exec_portStep leaves h
    rw [step.saved]
    simp only [Bool.or_eq_true] at lock ⊢
    exact lock.imp_left step.lock
  cases c with
  | powerOnReset => exact (warm _ _ _ _ rfl).elim
  | domainPowerAck => rw [(execDomainPowerAck_next h).1]; exact lock
  | pulseEdge => cases h; exact lock
  | mcOperationTimeout => rw [(execMcOperationTimeout_next h).1]; exact lock
  | blockReset =>
    obtain ⟨-, -, -, -, noted⟩ := execBlockReset_next h
    exact noted lock
  | resetResume =>
    obtain ⟨-, -, -, -, again, -⟩ := execResetResume_next h
    rcases again lock with set | rfl
    · simp [set]
    · exact lock
  | _ => cases leaves

/-- Only a reset clears the lock (R12). -/
theorem exec_keeps_lock {c : Instr} {s t : State} (h : exec c s = .next t) (lock : s.cfg.lock = true)
    (warm : ∀ die st lantern maker, c ≠ .powerOnReset die st lantern maker) (running : ∀ b, c ≠ .blockReset b) :
    t.cfg.lock = true := by
  cases leaves : Instr.leavesPort c
  case false => exact (exec_portStep leaves h).lock lock
  cases c with
  | powerOnReset => exact (warm _ _ _ _ rfl).elim
  | domainPowerAck => rw [(execDomainPowerAck_next h).1]; exact lock
  | pulseEdge => cases h; exact lock
  | mcOperationTimeout => rw [(execMcOperationTimeout_next h).1]; exact lock
  | blockReset => exact (running _ rfl).elim
  | resetResume =>
    obtain ⟨-, -, -, -, -, kept⟩ := execResetResume_next h
    exact kept lock
  | _ => cases leaves

theorem does_resetResume_relock {s : State} (phase : s.blk.rel.phase = 5) (quiet : s.blk.rel.pendingCause = none)
    (saved : s.cfg.lockSaved = true) :
    Does .resetResume s fun t => t.cfg.lock = true ∧ t.cfg.lockSaved = false := by
  have resumes : exec .resetResume s = execResetResume s := rfl
  rw [Does, resumes, execResetResume, if_neg (by simp [phase, quiet])]
  exact ⟨_, rfl, by simp [saved], rfl⟩

theorem regAt_glbLock (g : Grade) : regAt g 4 = some ⟨.w1s, 0, 1⟩ := rfl

theorem State.setLock_one {s : State} {data : Word32} (one : data.getLsbD 0 = true) :
    s.setLock data = if s.env.feEn && s.blk.fe.fwState == .running then { s with cfg := { s.cfg with lock := true } }
      else s.badWrite 4 := by rw [State.setLock, one]; rfl

/-- GLB_LOCK sets the lock while FE_CTL.EN is 1 and the firmware runs, and is an access error otherwise (R376). -/
theorem does_glbLock {s : State} {value : BitVec 32} (one : value.getLsbD 0 = true) (idle : s.blk.resetting = false) :
    Does (.glbLock value) s fun t =>
      t.cfg.lock = (s.cfg.lock || (s.env.feEn && s.blk.fe.fwState == .running)) ∧
      t.cfg.accErr = (s.cfg.accErr || !(s.env.feEn && s.blk.fe.fwState == .running)) ∧
      t.cfg.stored = s.cfg.stored ∧ t.cfg.active = s.cfg.active ∧ t.cfg.frozen = s.cfg.frozen ∧
      t.aon = s.aon ∧ t.blk = s.blk.emit (.regWritten 4) := by
  refine ⟨s.portWrite 4 value 0xF [], rfl, ?_⟩
  rw [State.portWrite_open value [] (regAt_glbLock _) ⟨rfl, idle⟩, State.writeReg, State.setLock_one one]
  cases s.env.feEn && s.blk.fe.fwState == .running <;> simp [State.badWrite, RegFile.accessError]

/-- Settles O6. -/
theorem lockHoldsRegisters : Obligations.LockHoldsRegisters :=
  ⟨fun _ _ data _ lock found rwl serves => does_registerWrite_locked data lock found rwl serves,
   fun _ _ _ h lock warm => exec_lock_noted h lock warm,
   fun _ _ _ h lock warm running => exec_keeps_lock h lock warm running,
   fun _ phase quiet saved => does_resetResume_relock phase quiet saved,
   fun _ _ one idle => does_glbLock one idle⟩

/-! ### Stored writes (R11, R13, R374) -/

/-- Settles O7: the two access types that are stored come to the same store. -/
theorem registerWriteStores : Obligations.RegisterWriteStores := by
  intro s addr data r found access serves fe mc plain
  have fe' : addr.toNat ≠ 0x100000 := fun h => fe (BitVec.eq_of_toNat_eq h)
  have mc' : addr.toNat ≠ 0xC00000 := fun h => mc (BitVec.eq_of_toNat_eq h)
  have written : s.writeReg addr.toNat r data [] =
      { s with cfg := s.cfg.store s.aon.grade addr.toNat r.mask data } := by
    rcases access with rw_ | ⟨rwl, lock, free⟩
    · rw [State.writeReg_rw data [] rw_ plain, Blk.wrote_other data [] fe' mc']
    · rw [State.writeReg_rwl data [] rwl lock free, Blk.wrote_other data [] fe' mc']
  refine ⟨s.portWrite addr.toNat data 0xF [], rfl, ?_⟩
  rw [State.portWrite_open data [] found serves, written]
  refine ⟨RegFile.storedAt_store_same .., fun off other => RegFile.storedAt_store_other _ _ _ _ other, rfl, rfl, rfl,
    rfl, by simp⟩

/-! ### Discarded accesses, and reads (R13, R14, R274, R371, R373) -/

theorem RegFile.accessError_eq (write : Bool) (addr : BitVec 24) (f : RegFile) :
    f.accessError write addr.toNat =
      { f with accErr := true, errAddr := BitVec.ofNat 32 (addr.toNat + fieldAt 31 (b2n write)) } := by
  have small : addr.toNat % 2 ^ 24 = addr.toNat := Nat.mod_eq_of_lt addr.isLt
  rw [RegFile.accessError, small]

theorem regAt_aligned {g : Grade} {off : Nat} {r : Reg} (found : regAt g off = some r) : off % 4 = 0 :=
  Decidable.byContradiction fun odd => by rw [regAt, if_pos odd] at found; cases found

/-- A read of a whole aligned word whose domain has power. -/
theorem State.portRead_whole {s : State} {addr : Nat} (aligned : addr % 4 = 0)
    (powered : (regAt s.aon.grade addr).isSome → s.env.powered addr = true) :
    s.portRead addr 0xF = { s with
      cfg := { s.cfg with capture := (s.readReg addr).2 }
      blk := s.blk.emit (.regRead (BitVec.ofNat 24 addr) (s.readReg addr).1) } := by
  rw [State.portRead, if_neg]
  rintro (odd | odd | ⟨there, off⟩)
  · exact odd rfl
  · exact odd aligned
  · simp [powered there] at off

theorem State.readReg_pair {s : State} {addr : Nat} {r : Reg} {x : BitVec 64}
    (found : regAt s.aon.grade addr = some r) (ro : r.access = .ro) (powered : s.env.powered addr = true)
    (pair : s.blk.roPair s.env addr = some x) :
    s.readReg addr = (x.setWidth 32, tput s.cfg.capture addr (BitVec.ofNat 32 (bits x 32 32))) := by
  have found' : regAt s.env.aon.grade addr = some r := found
  simp [State.readReg, pair, Blk.regNow, powered, found', ro]

theorem State.readReg_captured {s : State} {addr : Nat} {u : Word32} (above : 4 ≤ addr)
    (single : s.blk.roPair s.env addr = none) (captured : tget s.cfg.capture (addr - 4) = some u) :
    s.readReg addr = (u, tdel s.cfg.capture (addr - 4)) := by simp [State.readReg, single, captured, above]

theorem State.readReg_absent {s : State} {addr : Nat} (absent : regAt s.aon.grade addr = none)
    (single : s.blk.roPair s.env addr = none) (uncaptured : tget s.cfg.capture (addr - 4) = none) :
    s.readReg addr = (0, s.cfg.capture) := by
  have absent' : regAt s.env.aon.grade addr = none := absent
  simp [State.readReg, single, uncaptured, Blk.regNow, absent']

theorem does_registerWrite_narrow {s : State} {addr : BitVec 24} (data : BitVec 32) {be : BitVec 4}
    (bad : be ≠ 0xF ∨ addr.toNat % 4 ≠ 0) :
    Does (.registerWrite addr data be) s fun t =>
      t.cfg = { s.cfg with accErr := true, errAddr := BitVec.ofNat 32 (2 ^ 31 + addr.toNat) } ∧ t.aon = s.aon ∧
      t.pending = s.pending ∧ t.blk = s.blk.emit (.regWritten addr) := by
  refine ⟨s.portWrite addr.toNat data be [], rfl, ?_⟩
  rw [State.portWrite, State.takeWrite, if_pos bad, State.badWrite, RegFile.accessError_eq]
  simp [fieldAt, b2n, Nat.add_comm]

theorem does_registerAccessError_bad {s : State} {addr : BitVec 24} {be : BitVec 4}
    (bad : be ≠ 0xF ∨ addr.toNat % 4 ≠ 0 ∨ (regAt s.aon.grade addr.toNat).isSome ∧ s.env.powered addr.toNat = false) :
    Does (.registerAccessError addr be) s fun t =>
      t.blk = s.blk.emit (.regRead addr 0) ∧
      t.cfg = { s.cfg with accErr := true, errAddr := BitVec.ofNat 32 addr.toNat } ∧ t.aon = s.aon ∧
      t.pending = s.pending := by
  refine ⟨s.portRead addr.toNat be, rfl, ?_⟩
  rw [State.portRead, if_pos (by simpa using bad), RegFile.accessError_eq]
  simp [fieldAt, b2n]

/-- In a block reset a write to an offset with no register is an access error (log 147). -/
theorem does_registerWrite_absent_resetting {s : State} {addr : BitVec 24} (data : BitVec 32)
    (absent : regAt s.aon.grade addr.toNat = none) (aligned : addr.toNat % 4 = 0) (busy : s.blk.resetting = true) :
    Does (.registerWrite addr data 0xF) s fun t =>
      t.cfg = { s.cfg with accErr := true, errAddr := BitVec.ofNat 32 (2 ^ 31 + addr.toNat) } ∧ t.aon = s.aon ∧
      t.pending = s.pending ∧ t.blk = s.blk.emit (.regWritten addr) := by
  have discarded : s.takeWrite addr.toNat data 0xF [] = s.badWrite addr.toNat := by
    simp [State.takeWrite, aligned, absent, busy]
  refine ⟨s.portWrite addr.toNat data 0xF [], rfl, ?_⟩
  rw [State.portWrite, discarded, State.badWrite, RegFile.accessError_eq]
  simp [fieldAt, b2n, Nat.add_comm]

theorem does_access_absent {s : State} {addr : BitVec 24} (data : BitVec 32)
    (absent : regAt s.aon.grade addr.toNat = none) (aligned : addr.toNat % 4 = 0) (idle : s.blk.resetting = false)
    (uncaptured : tget s.cfg.capture (addr.toNat - 4) = none) (single : s.blk.roPair s.env addr.toNat = none) :
    Does (.registerWrite addr data 0xF) s (fun t => t = { s with blk := s.blk.emit (.regWritten addr) }) ∧
    Does (.registerReadCapture addr) s fun t => t = { s with blk := s.blk.emit (.regRead addr 0) } := by
  have discarded : s.takeWrite addr.toNat data 0xF [] = s := by simp [State.takeWrite, aligned, absent, idle]
  refine ⟨⟨s.portWrite addr.toNat data 0xF [], rfl, ?_⟩, ⟨s.portRead addr.toNat 0xF, rfl, ?_⟩⟩
  · rw [State.portWrite, discarded]; simp
  · rw [State.portRead_whole aligned (by simp [absent]), State.readReg_absent absent single uncaptured]; simp

theorem does_registerReadCapture_pair {s : State} {addr : BitVec 24} {r : Reg} {x : BitVec 64}
    (found : regAt s.aon.grade addr.toNat = some r) (ro : r.access = .ro)
    (powered : s.env.powered addr.toNat = true) (pair : s.blk.roPair s.env addr.toNat = some x) :
    Does (.registerReadCapture addr) s fun t =>
      t.blk = s.blk.emit (.regRead addr (x.setWidth 32)) ∧
      tget t.cfg.capture addr.toNat = some (BitVec.ofNat 32 (bits x 32 32)) ∧
      t.cfg = { s.cfg with capture := t.cfg.capture } ∧ t.aon = s.aon := by
  refine ⟨s.portRead addr.toNat 0xF, rfl, ?_⟩
  rw [State.portRead_whole (regAt_aligned found) (fun _ => powered), State.readReg_pair found ro powered pair]
  simp

theorem does_registerReadCapture_upper {s : State} {addr : BitVec 24} {u : Word32} (above : 4 ≤ addr.toNat)
    (aligned : addr.toNat % 4 = 0) (powered : (regAt s.aon.grade addr.toNat).isSome → s.env.powered addr.toNat = true)
    (single : s.blk.roPair s.env addr.toNat = none) (captured : tget s.cfg.capture (addr.toNat - 4) = some u) :
    Does (.registerReadCapture addr) s fun t =>
      t.blk = s.blk.emit (.regRead addr u) ∧ tget t.cfg.capture (addr.toNat - 4) = none ∧
      t.cfg = { s.cfg with capture := t.cfg.capture } ∧ t.aon = s.aon := by
  refine ⟨s.portRead addr.toNat 0xF, rfl, ?_⟩
  rw [State.portRead_whole aligned powered, State.readReg_captured above single captured]
  simp

/-- Settles O8. -/
theorem otherAccessesChangeNothing : Obligations.OtherAccessesChangeNothing :=
  ⟨fun _ _ data _ bad => does_registerWrite_narrow data bad,
   fun _ _ _ bad => does_registerAccessError_bad bad,
   fun s addr _ _ => ⟨s.portRead addr.toNat 0xF, rfl, rfl⟩,
   fun _ _ data absent aligned busy => does_registerWrite_absent_resetting data absent aligned busy,
   fun _ _ data absent aligned idle uncaptured single => does_access_absent data absent aligned idle uncaptured single,
   fun _ _ _ _ found ro powered pair => does_registerReadCapture_pair found ro powered pair,
   fun _ _ _ above aligned powered single captured =>
     does_registerReadCapture_upper above aligned powered single captured⟩

end Sys2Proof.Machine
end

section
/-! Registers that start something (O9) and write-only registers (O10). -/

namespace Sys2Proof.Machine

open Sys2Proof.Config

/-! ### Registers by offset -/

theorem regAt_feCtl (g : Grade) : regAt g 0x100000 = some ⟨.rwl, 0, 3⟩ := rfl
theorem regAt_feFwCtl (g : Grade) : regAt g 0x10010C = some ⟨.wo, 0, 1⟩ := rfl
theorem regAt_pgCtl (g : Grade) : regAt g 0xA00000 = some ⟨.rwl, 0x230, 0xFFF9⟩ := rfl
theorem regAt_snapResume (g : Grade) : regAt g 0xB00030 = some ⟨.wo, 0, 1⟩ := rfl
theorem regAt_bpResume (g : Grade) : regAt g 0xB00054 = some ⟨.wo, 0, 3⟩ := rfl
theorem regAt_segCtl (g : Grade) : regAt g 0xC00000 = some ⟨.rwl, 0x406, 0xF1F⟩ := rfl
theorem regAt_reqGo (g : Grade) : regAt g 0xC00024 = some ⟨.wo, 0, 1⟩ := rfl
theorem regAt_alarmRaise (g : Grade) : regAt g 0xC00050 = some ⟨.wo, 0, 0xFF⟩ := rfl
theorem regAt_rxPop (g : Grade) : regAt g 0xC00058 = some ⟨.wo, 0, 1⟩ := rfl

/-- RCH_TEST_n stands at its offset in every reach of the grade (Table 16.8). -/
theorem regAt_test {g : Grade} {r : Nat} (h : r < g.reaches) :
    regAt g (0x200044 + 0x1000 * r) = some ⟨.rw, 0, 3⟩ := by
  have small : r < 16 := Nat.lt_of_lt_of_le h (by cases g <;> decide)
  have aligned : (0x200044 + 0x1000 * r) % 4 = 0 := by omega
  have window : (0x200044 + 0x1000 * r) / 0x100000 = 2 := by omega
  have offset : (0x200044 + 0x1000 * r) % 0x100000 = 0x44 + 0x1000 * r := by omega
  have reach : (0x44 + 0x1000 * r) / 0x1000 = r := by omega
  have low : (0x44 + 0x1000 * r) % 0x1000 = 0x44 := by omega
  simp only [regAt, aligned, window, offset, reach, low, h, ↓reduceIte, ne_eq, not_true_eq_false]
  rfl

theorem testReach_test {r : Nat} (h : r < 16) : testReach (0x200044 + 0x1000 * r) = some r := by
  rw [testReach, if_pos (by omega)]
  congr 1
  omega

/-! ### Registers that start something -/

theorem does_feCtlEn {s : State} {value : BitVec 32} {retire : List (BitVec 64)} (lock : s.cfg.lock = false)
    (serves : PortOpen s 0x100000) :
    Does (.feCtlEn value retire) s fun t =>
      t.cfg.storedAt s.aon.grade 0x100000 = (s.cfg.storedAt s.aon.grade 0x100000 &&& ~~~3) ||| (value &&& 3) ∧
      t.cfg.active = s.cfg.active ∧ t.cfg.frozen = s.cfg.frozen ∧ t.aon = s.aon ∧
      t.blk = { s.blk with
        fe := { s.blk.fe with retireIn := retire }, out := s.blk.out ++ [.regWritten 0x100000] } := by
  refine ⟨s.portWrite 0x100000 value 0xF retire, rfl, ?_⟩
  rw [State.portWrite_open value retire (regAt_feCtl _) serves,
    State.writeReg_rwl value retire rfl lock (.inr (by decide))]
  exact ⟨RegFile.storedAt_store_same .., rfl, rfl, rfl, rfl⟩

theorem does_pgCtlEn {s : State} {value : BitVec 32} (lock : s.cfg.lock = false) (idle : s.blk.resetting = false) :
    Does (.pgCtlEn value) s fun t =>
      t.cfg.storedAt s.aon.grade 0xA00000 = (s.cfg.storedAt s.aon.grade 0xA00000 &&& ~~~0xFFF9) ||| (value &&& 0xFFF9) ∧
      t.cfg.active = s.cfg.active ∧ t.aon = s.aon ∧ t.blk = s.blk.emit (.regWritten 0xA00000) := by
  refine ⟨s.portWrite 0xA00000 value 0xF [], rfl, ?_⟩
  rw [State.portWrite_open value [] (regAt_pgCtl _) ⟨rfl, idle⟩,
    State.writeReg_rwl value [] rfl lock (.inr (by decide))]
  exact ⟨RegFile.storedAt_store_same .., rfl, rfl, rfl⟩

theorem Blk.within_setSegEn (on : Bool) (b : Blk) : Within [.mc] b (b.setSegEn on) := by
  unfold Blk.setSegEn
  simp

theorem Blk.setSegEn_attach (on : Bool) (b : Blk) :
    (b.setSegEn on).mc.attach = if on then (if b.mc.attach = .off then .probing else b.mc.attach) else .off := by
  cases on <;> by_cases off : b.mc.attach = .off <;> simp [Blk.setSegEn, Blk.modMc, off]

theorem does_mcSegCtlEn {s : State} {value : BitVec 32} (lock : s.cfg.lock = false) (idle : s.blk.resetting = false) :
    Does (.mcSegCtlEn value) s fun t =>
      t.cfg.storedAt s.aon.grade 0xC00000 = (s.cfg.storedAt s.aon.grade 0xC00000 &&& ~~~0xF1F) ||| (value &&& 0xF1F) ∧
      t.cfg.active = s.cfg.active ∧ t.aon = s.aon ∧
      t.blk = { s.blk with mc := t.blk.mc, out := s.blk.out ++ [.regWritten 0xC00000] } ∧
      (value.getLsbD 0 = false → t.blk.mc.attach = .off) ∧
      (value.getLsbD 0 = true → t.blk.mc.attach = if s.blk.mc.attach = .off then .probing else s.blk.mc.attach) := by
  refine ⟨s.portWrite 0xC00000 value 0xF [], rfl, ?_⟩
  rw [State.portWrite_open value [] (regAt_segCtl _) ⟨rfl, idle⟩,
    State.writeReg_rwl value [] rfl lock (.inr (by decide))]
  have attach := s.blk.setSegEn_attach (value.getLsbD 0)
  have wrote : s.blk.wrote 0xC00000 value [] = s.blk.setSegEn (value.getLsbD 0) := rfl
  rw [wrote]
  refine ⟨RegFile.storedAt_store_same .., rfl, rfl, ?_, fun zero => ?_, fun one => ?_⟩
  · exact congrArg (Blk.emit · _) (Blk.within_setSegEn (value.getLsbD 0) s.blk).eq
  · rw [zero] at attach ⊢; exact attach
  · rw [one] at attach ⊢; exact attach

/-! ### RCH_TEST_n (R320) -/

theorem Blk.modReach_modReach_same (b : Blk) (r : Nat) (f g : Reach → Reach) :
    (b.modReach r f).modReach r g = b.modReach r fun rc => g (f rc) := by
  simp [Blk.modReach, tmod]

theorem Blk.modReach_congr {b : Blk} {r : Nat} {f g : Reach → Reach} (h : f (b.reach r) = g (b.reach r)) :
    b.modReach r f = b.modReach r g := by
  change { b with reaches := tput b.reaches r (f (b.reach r)) } = _
  rw [h]
  rfl

/-- A reach whose RCH_TEST_n is written. -/
def Reach.testWritten (x : BitVec 32) (rc : Reach) : Reach :=
  if !x.getLsbD 1 then { rc with fenceIn := some (x.getLsbD 0) }
  else if !rc.fence then { rc with fenceIn := some (x.getLsbD 0), testResult := stBusy }
  else { rc with
    fenceIn := some (x.getLsbD 0), testing := true, testDone := false, testFail := 0, testResult := stOk }

/-- A write of RCH_TEST_n changes its reach alone. -/
theorem Blk.testWrite_eq (r : Nat) (x : BitVec 32) (b : Blk) : b.testWrite r x = b.modReach r (Reach.testWritten x) := by
  unfold Blk.testWrite
  dsimp only
  rw [Blk.reach_modReach_same, Blk.modReach_modReach_same, Blk.modReach_modReach_same]
  cases start : x.getLsbD 1 <;> cases fence : (b.reach r).fence <;>
    exact Blk.modReach_congr (by simp only [Reach.testWritten, start, fence]; rfl)

/-- A row of RCH_TEST_n writes its register. -/
theorem testRow_open {s : State} {r : Nat} (value : Word32) (h : r < s.aon.grade.reaches)
    (serves : PortOpen s (0x200044 + 0x1000 * r)) :
    testRow r value s = .next { s with
      blk := (s.blk.testWrite r value).emit (.regWritten (BitVec.ofNat 24 (0x200044 + 0x1000 * r))) } := by
  have small : r < 16 := Nat.lt_of_lt_of_le h (by cases s.aon.grade <;> decide)
  rw [testRow, if_pos small, State.portWrite_open value [] (regAt_test h) serves,
    State.writeReg_test value [] rfl (testReach_test small)]

theorem does_rchTestFence {s : State} {r : Nat} (h : r < s.aon.grade.reaches)
    (serves : PortOpen s (0x200044 + 0x1000 * r)) :
    Does (.rchTestFence r) s fun t => OnlyBlk s t ∧
      t.blk.reach r = { s.blk.reach r with fenceIn := some true } ∧
      (∀ k, k ≠ r → t.blk.reach k = s.blk.reach k) ∧ t.blk = { s.blk with
        reaches := t.blk.reaches, out := s.blk.out ++ [.regWritten (BitVec.ofNat 24 (0x200044 + 0x1000 * r))] } := by
  refine ⟨_, testRow_open 1 h serves, ⟨rfl, rfl, rfl⟩, ?_⟩
  rw [Blk.testWrite_eq]
  exact ⟨Blk.reach_modReach_same s.blk r (Reach.testWritten 1), fun k other => Blk.reach_modReach_other _ _ other, rfl⟩

theorem testStart_bits (fence : Bool) :
    (BitVec.ofNat 32 (2 + b2n fence)).getLsbD 0 = fence ∧ (BitVec.ofNat 32 (2 + b2n fence)).getLsbD 1 = true := by
  cases fence <;> decide

theorem does_rchTestStart {s : State} {r : Nat} (h : r < s.aon.grade.reaches)
    (serves : PortOpen s (0x200044 + 0x1000 * r)) :
    Does (.rchTestStart r) s fun t => OnlyBlk s t ∧
      t.blk.reach r = (if (s.blk.reach r).fence
        then { s.blk.reach r with
          fenceIn := some ((s.blk.reach r).fenceIn.getD true), testing := true, testDone := false, testFail := 0
          testResult := stOk }
        else { s.blk.reach r with fenceIn := some ((s.blk.reach r).fenceIn.getD false), testResult := stBusy }) ∧
      (∀ k, k ≠ r → t.blk.reach k = s.blk.reach k) ∧ t.blk = { s.blk with
        reaches := t.blk.reaches, out := s.blk.out ++ [.regWritten (BitVec.ofNat 24 (0x200044 + 0x1000 * r))] } := by
  refine ⟨_, testRow_open _ h serves, ⟨rfl, rfl, rfl⟩, ?_⟩
  obtain ⟨fence, start⟩ := testStart_bits ((s.blk.reach r).fenceIn.getD (s.blk.reach r).fence)
  rw [Blk.testWrite_eq]
  refine ⟨(Blk.reach_modReach_same s.blk r _).trans ?_, fun k other => Blk.reach_modReach_other _ _ other, rfl⟩
  rw [Reach.testWritten, fence, start]
  cases held : (s.blk.reach r).fence <;> simp [held]

/-- A reach whose FENCE acts at the edge; `free`: no context has blocks or granules in it. -/
def Reach.fenceActs (want free : Bool) (rc : Reach) : Reach :=
  if want && !rc.fence && !free then { rc with fenceIn := none, testResult := stBusy }
  else { rc with fenceIn := none, fence := want }

/-- FENCE of a reach acts at the edge on its reach alone. -/
theorem Blk.fenceEdge_eq {b : Blk} {r : Nat} {want : Bool} (h : (b.reach r).fenceIn = some want) :
    b.fenceEdge r = b.modReach r (Reach.fenceActs want (b.fe.reachFree r)) := by
  unfold Blk.fenceEdge
  simp only [h]
  rw [Blk.reach_modReach_same, Blk.modReach_modReach_same, Blk.modReach_modReach_same, Blk.modReach_fe]
  split
  case isTrue busy => exact Blk.modReach_congr (by rw [Reach.fenceActs, if_pos busy])
  case isFalse free => exact Blk.modReach_congr (by rw [Reach.fenceActs, if_neg free])

theorem Blk.fenceEdge_none {b : Blk} {r : Nat} (h : (b.reach r).fenceIn = none) : b.fenceEdge r = b := by
  simp [Blk.fenceEdge, h]

theorem Blk.fenceEdge_set {b : Blk} {r : Nat} (h : (b.reach r).fenceIn = some true) :
    (((b.reach r).fence = true ∨ b.fe.reachFree r = true) →
      (b.fenceEdge r).reach r = { b.reach r with fenceIn := none, fence := true }) ∧
    ((b.reach r).fence = false → b.fe.reachFree r = false →
      (b.fenceEdge r).reach r = { b.reach r with fenceIn := none, testResult := stBusy }) ∧
    (∀ k, k ≠ r → (b.fenceEdge r).reach k = b.reach k) ∧ b.fenceEdge r = { b with reaches := (b.fenceEdge r).reaches } := by
  rw [Blk.fenceEdge_eq h, Blk.reach_modReach_same]
  refine ⟨fun may => ?_, fun unset busy => ?_, fun k other => Blk.reach_modReach_other _ _ other, rfl⟩
  · rw [Reach.fenceActs, if_neg (by rcases may with set | free <;> simp [*])]
  · rw [Reach.fenceActs, if_pos (by simp [unset, busy])]

theorem Blk.fenceEdge_cleared {b : Blk} {r : Nat} (h : (b.reach r).fenceIn = some false) :
    (b.fenceEdge r).reach r = { b.reach r with fenceIn := none, fence := false } ∧
    (∀ k, k ≠ r → (b.fenceEdge r).reach k = b.reach k) ∧ b.fenceEdge r = { b with reaches := (b.fenceEdge r).reaches } := by
  rw [Blk.fenceEdge_eq h, Blk.reach_modReach_same]
  exact ⟨rfl, fun k other => Blk.reach_modReach_other _ _ other, rfl⟩

/-! ### The retirement table (R319) -/

theorem mem_run {lo n k : Nat} : k ∈ run lo n ↔ lo ≤ k ∧ k < lo + n := by
  simp only [run, List.mem_map, List.mem_range]
  exact ⟨fun ⟨i, small, same⟩ => by omega, fun ⟨low, high⟩ => ⟨k - lo, by omega, by omega⟩⟩

/-- A list behind which those of another stand that it lacks. -/
theorem mem_append_new (l m : List Nat) (k : Nat) : k ∈ l ++ m.filter (fun i => !l.contains i) ↔ k ∈ l ∨ k ∈ m := by
  rw [List.mem_append, List.mem_filter, Bool.not_eq_true', List.contains_eq_mem, decide_eq_false_iff_not]
  exact ⟨fun h => h.imp_right And.left,
    fun h => (Decidable.em (k ∈ l)).elim .inl fun new => h.imp_right fun mem => ⟨mem, new⟩⟩

theorem Reach.mem_retire_blocks (rc : Reach) (bs gs : List Nat) (k : Nat) :
    k ∈ (rc.retire bs gs).retiredBlocks ↔ k ∈ rc.retiredBlocks ∨ k ∈ bs :=
  mem_append_new ..

theorem Reach.mem_retire_granules (rc : Reach) (bs gs : List Nat) (k : Nat) :
    k ∈ (rc.retire bs gs).retiredGranules ↔ k ∈ rc.retiredGranules ∨ k ∈ gs :=
  mem_append_new ..

/-- The effect of one word of the retirement table. -/
def Blk.retireWord (v : Env) (w : BitVec 64) (b : Blk) : Blk :=
  match retiredOf v w with
  | .ignored => b.logIgnored v w
  | .blocks r lo n => b.modReach r fun rc => rc.retire (run lo n) []
  | .granules r lo n => b.modReach r fun rc => rc.retire [] (run lo n)
  | .bank r k => b.modReach r fun rc => rc.retire (run (32 * k) 32) (run (512 * k) 512)
  | .chanPage => b

@[simp] theorem Blk.within_logIgnored {l : List Part} {b c : Blk} (v : Env) (w : BitVec 64)
    (sub : [.rel, .mc, .counters, .out, .fresh] ⊆ l) : Within l b (c.logIgnored v w) ↔ Within l b c :=
  Within.iff_of (k := [.rel, .mc, .counters, .out, .fresh]) (by simp [Blk.logIgnored]) sub

theorem Blk.logIgnored_reach (v : Env) (w : BitVec 64) (b : Blk) (r : Nat) :
    (b.logIgnored v w).reach r = b.reach r :=
  Blk.reach_congr ((within_logIgnored (l := [.rel, .mc, .counters, .out, .fresh]) v w (by simp)).mpr
    (.refl _ _) .reaches (by decide)) r

/-- What a word adds to the retired blocks of a reach. -/
def wordRetiresBlock (v : Env) (w : BitVec 64) (r k : Nat) : Prop :=
  retiredOf v w = .bank r (k / 32) ∨ ∃ lo n, retiredOf v w = .blocks r lo n ∧ lo ≤ k ∧ k < lo + n

/-- What a word adds to the retired granules of a reach. -/
def wordRetiresGranule (v : Env) (w : BitVec 64) (r k : Nat) : Prop :=
  retiredOf v w = .bank r (k / 512) ∨ ∃ lo n, retiredOf v w = .granules r lo n ∧ lo ≤ k ∧ k < lo + n

theorem Blk.mem_retireWord_blocks (v : Env) (w : BitVec 64) (b : Blk) (r k : Nat) :
    k ∈ ((b.retireWord v w).reach r).retiredBlocks ↔ k ∈ (b.reach r).retiredBlocks ∨ wordRetiresBlock v w r k := by
  unfold Blk.retireWord wordRetiresBlock
  split <;> rename_i kind <;> rw [kind]
  case h_1 => simp [Blk.logIgnored_reach]
  case h_5 => simp
  case h_2 q lo n =>
    by_cases same : r = q
    · subst same
      rw [Blk.reach_modReach_same, Reach.mem_retire_blocks, mem_run]
      exact or_congr_right ⟨fun inside => .inr ⟨lo, n, rfl, inside⟩, fun
        | .inr ⟨_, _, rfl, inside⟩ => inside⟩
    · simp [Blk.reach_modReach_other _ _ same, Ne.symm same]
  case h_3 q lo n =>
    by_cases same : r = q
    · subst same
      simp [Reach.mem_retire_blocks]
    · simp [Blk.reach_modReach_other _ _ same]
  case h_4 q i =>
    by_cases same : r = q
    · subst same
      have bank : 32 * i ≤ k ∧ k < 32 * i + 32 ↔ i = k / 32 := by omega
      simp [Reach.mem_retire_blocks, mem_run, bank]
    · simp [Blk.reach_modReach_other _ _ same, Ne.symm same]

theorem Blk.mem_retireWord_granules (v : Env) (w : BitVec 64) (b : Blk) (r k : Nat) :
    k ∈ ((b.retireWord v w).reach r).retiredGranules ↔
      k ∈ (b.reach r).retiredGranules ∨ wordRetiresGranule v w r k := by
  unfold Blk.retireWord wordRetiresGranule
  split <;> rename_i kind <;> rw [kind]
  case h_1 => simp [Blk.logIgnored_reach]
  case h_5 => simp
  case h_2 q lo n =>
    by_cases same : r = q
    · subst same
      simp [Reach.mem_retire_granules]
    · simp [Blk.reach_modReach_other _ _ same]
  case h_3 q lo n =>
    by_cases same : r = q
    · subst same
      rw [Blk.reach_modReach_same, Reach.mem_retire_granules, mem_run]
      exact or_congr_right ⟨fun inside => .inr ⟨lo, n, rfl, inside⟩, fun
        | .inr ⟨_, _, rfl, inside⟩ => inside⟩
    · simp [Blk.reach_modReach_other _ _ same, Ne.symm same]
  case h_4 q i =>
    by_cases same : r = q
    · subst same
      have bank : 512 * i ≤ k ∧ k < 512 * i + 512 ↔ i = k / 512 := by omega
      simp [Reach.mem_retire_granules, mem_run, bank]
    · simp [Blk.reach_modReach_other _ _ same, Ne.symm same]

/-- What a list of members adds, where each one adds what `P` says. -/
theorem Blk.mem_forEach {α : Type} {f : α → Blk → Blk} {g : Blk → List Nat} {P : α → Prop} {k : Nat}
    (h : ∀ x b, k ∈ g (f x b) ↔ k ∈ g b ∨ P x) (xs : List α) (b : Blk) :
    k ∈ g (b.forEach xs f) ↔ k ∈ g b ∨ ∃ x ∈ xs, P x := by
  induction xs generalizing b with
  | nil => simp [Blk.forEach]
  | cons x xs ih =>
    have step := ih (f x b)
    rw [h] at step
    simp only [List.mem_cons, exists_eq_or_imp]
    rw [← or_assoc]
    exact step

/-- A change of each reach of a list, at a reach of the list that it occurs in once. -/
theorem Blk.reach_forEach_modReach {rs : List Nat} (f : Reach → Reach) (b : Blk) {r : Nat} (nodup : rs.Nodup) :
    (b.forEach rs fun r b => b.modReach r f).reach r = if r ∈ rs then f (b.reach r) else b.reach r := by
  induction rs generalizing b with
  | nil => rfl
  | cons q rs ih =>
    obtain ⟨fresh, nodup⟩ := List.nodup_cons.mp nodup
    have rest := ih (b.modReach q f) nodup
    rw [Blk.forEach, List.foldl_cons]
    refine rest.trans ?_
    by_cases same : r = q
    · subst same; simp [fresh]
    · simp [same, Blk.reach_modReach_other _ _ same]

/-- The table is cleared in every reach of the grade, and then read word by word. -/
theorem Blk.readRetirement_eq (v : Env) (ws : List (BitVec 64)) (b : Blk) :
    b.readRetirement v ws = (((b.modFe fun fe => { fe with retirement := ws.take (v.reg 0x128).toNat }).forEach
      (List.range v.reaches) fun r b => b.modReach r fun rc =>
        { rc with retiredBlocks := [], retiredGranules := [] })).forEach (ws.take (v.reg 0x128).toNat)
          (Blk.retireWord v) := rfl

theorem Blk.readRetirement_blocks {v : Env} {ws : List (BitVec 64)} {b : Blk} {r : Nat} (h : r < v.reaches) (k : Nat) :
    ((b.readRetirement v ws).reach r).retiredBlocks.contains k = true ↔
      ∃ w ∈ ws.take (v.reg 0x128).toNat, wordRetiresBlock v w r k := by
  rw [Blk.readRetirement_eq, List.contains_iff_mem,
    Blk.mem_forEach (g := fun b => (b.reach r).retiredBlocks) (P := (wordRetiresBlock v · r k))
      (fun w b => b.mem_retireWord_blocks v w r k),
    Blk.reach_forEach_modReach _ _ List.nodup_range]
  simp [h]

theorem Blk.readRetirement_granules {v : Env} {ws : List (BitVec 64)} {b : Blk} {r : Nat} (h : r < v.reaches)
    (k : Nat) : ((b.readRetirement v ws).reach r).retiredGranules.contains k = true ↔
      ∃ w ∈ ws.take (v.reg 0x128).toNat, wordRetiresGranule v w r k := by
  rw [Blk.readRetirement_eq, List.contains_iff_mem,
    Blk.mem_forEach (g := fun b => (b.reach r).retiredGranules) (P := (wordRetiresGranule v · r k))
      (fun w b => b.mem_retireWord_granules v w r k),
    Blk.reach_forEach_modReach _ _ List.nodup_range]
  simp [h]

theorem Blk.forEach_id {α : Type} {f : α → Blk → Blk} {b : Blk} (xs : List α) (h : ∀ x ∈ xs, f x b = b) :
    b.forEach xs f = b := by
  induction xs with
  | nil => rfl
  | cons x xs ih =>
    rw [Blk.forEach, List.foldl_cons, h x (by simp)]
    exact ih fun y there => h y (by simp [there])

/-- With no fence written in the pulse, the writes act by the retirement table alone. -/
theorem Blk.writesAct_unfenced {v : Env} {b : Blk} (first : Bool) (h : ∀ k, k < v.reaches → (b.reach k).fenceIn = none) :
    b.writesAct v first = if first then b.readRetirement v b.fe.retireIn else b := by
  unfold Blk.writesAct
  rw [Blk.forEach_id _ fun r there => Blk.fenceEdge_none (h r (List.mem_range.mp there))]

/-- Settles O9. -/
theorem enablesStoreAndStart : Obligations.EnablesStoreAndStart :=
  ⟨fun _ _ _ lock serves => does_feCtlEn lock serves,
   fun _ _ _ _ reach _ => ⟨Blk.readRetirement_blocks reach, Blk.readRetirement_granules reach,
     fun unfenced => Blk.writesAct_unfenced false unfenced,
     fun read unfenced => by rw [Blk.writesAct_unfenced true unfenced, read]; rfl⟩,
   fun _ _ lock idle => does_pgCtlEn lock idle,
   fun _ _ lock idle => does_mcSegCtlEn lock idle,
   fun _ _ reach serves => does_rchTestFence reach serves,
   fun _ _ reach serves => does_rchTestStart reach serves,
   fun _ _ h => Blk.fenceEdge_set h,
   fun _ _ h => Blk.fenceEdge_cleared h⟩

/-! ### Write-only registers -/

/-- A write of a write-only register that the port serves acts on the block alone. -/
theorem does_writeOnly {c : Instr} {s : State} {addr : Nat} {r : Reg} {value : BitVec 32} {P : State → Prop}
    (row : exec c s = .next (s.portWrite addr value 0xF [])) (found : regAt s.aon.grade addr = some r)
    (wo : r.access = .wo) (serves : PortOpen s addr) (kind : ¬ (addr = 0xC00050 ∧ bits value 0 8 < 128))
    (h : P { s with blk := (s.blk.act s.env addr value).emit (.regWritten (BitVec.ofNat 24 addr)) }) : Does c s P := by
  refine ⟨_, row, ?_⟩
  rw [State.portWrite_open value [] found serves, State.writeReg_wo value [] wo kind]
  exact h

theorem does_feFwCtlGo {s : State} {value : BitVec 32} (go : value.getLsbD 0 = true) (serves : PortOpen s 0x10010C)
    (waits : s.blk.fe.fwState = .bootWait) :
    Does (.feFwCtlGo value) s fun t => OnlyBlk s t ∧
      t.blk = (Blk.ask (.firmwareRead ((s.env.pair 0x100100).setWidth 63) (s.env.reg 0x100108).toNat)
        { s.blk with fe := { s.blk.fe with
            fwState := .loading, fwAttempts := min 0xFFFF (s.blk.fe.fwAttempts + 1) } }).emit (.regWritten 0x10010C) := by
  have acts : s.blk.act s.env 0x10010C value = if value.getLsbD 0 then s.blk.fwGo s.env else s.blk := rfl
  refine does_writeOnly rfl (regAt_feFwCtl _) rfl serves (by simp) ⟨⟨rfl, rfl, rfl⟩, ?_⟩
  rw [acts, go, if_pos rfl, Blk.fwGo, if_neg (by simp [waits])]
  rfl

theorem does_dbSnapResumeGo {s : State} {value : BitVec 32} {x : Snap} (go : value.getLsbD 0 = true)
    (serves : PortOpen s 0xB00030) (snap : s.blk.db.snap = some x) (written : x.writing = false)
    (stopped : s.blk.db.stopped = true) :
    Does (.dbSnapResumeGo value) s fun t => OnlyBlk s t ∧
      t.blk = { s.blk with db := { s.blk.db with resumeReq := true }, out := s.blk.out ++ [.regWritten 0xB00030] } := by
  have acts : s.blk.act s.env 0xB00030 value = if value.getLsbD 0 then s.blk.snapResume else s.blk := rfl
  refine does_writeOnly rfl (regAt_snapResume _) rfl serves (by simp) ⟨⟨rfl, rfl, rfl⟩, ?_⟩
  rw [acts, go, if_pos rfl, Blk.snapResume, snap]
  dsimp only
  rw [if_pos (by simp [stopped, written])]
  rfl

/-- A trace record is not wanted, is lost and counted, or enters the buffer (R336). -/
inductive Blk.Traced (r : TraceRec) (b : Blk) : Blk → Prop
  | off : Traced r b b
  | lost : Traced r b ((b.modDb fun d => { d with trcLoss := d.trcLoss + 1 }).bump .traceLost)
  | kept (loss : List TraceRec) :
      Traced r b (b.modDb fun d => { d with trcBuf := d.trcBuf ++ loss ++ [r], trcLoss := 0 })

theorem Blk.trace_cases (v : Env) (task : Bool) (r : TraceRec) (b : Blk) : Traced r b (b.trace v task r) :=
  iteInduction (motive := Traced r b) (fun _ => .off) fun _ =>
    iteInduction (motive := Traced r b) (fun _ => .lost) fun _ => .kept _

/-- Of the debug unit a trace record changes the trace buffer alone. -/
theorem Blk.trace_db (v : Env) (task : Bool) (r : TraceRec) (b : Blk) :
    (b.trace v task r).db = { b.db with
      trcBuf := (b.trace v task r).db.trcBuf, trcLoss := (b.trace v task r).db.trcLoss } := by
  have cases_ := b.trace_cases v task r
  generalize b.trace v task r = c at cases_ ⊢
  cases cases_
  case lost => rw [Blk.bump_db]; rfl
  all_goals rfl

theorem Blk.trace_halted (v : Env) (task : Bool) (r : TraceRec) (b : Blk) (core : Core) :
    (b.trace v task r).db.halted core = b.db.halted core := by
  rw [Blk.trace_db]
  cases core <;> rfl

@[simp] theorem Blk.traceHalt_halted (v : Env) (c : Core) (i pc insn sub : Nat) (b : Blk) (core : Core) :
    (b.traceHalt v c i pc insn sub).db.halted core = b.db.halted core := by
  rw [Blk.traceHalt, Blk.trace_halted, Blk.traceInsn, Blk.trace_halted]
  rfl

@[simp] theorem Blk.within_traceHalt {l : List Part} {b d : Blk} (v : Env) (c : Core) (i pc insn k : Nat)
    (sub : [.db, .counters, .fresh] ⊆ l) : Within l b (d.traceHalt v c i pc insn k) ↔ Within l b d :=
  Within.iff_of (k := [.db, .counters, .fresh]) (by simp [Blk.traceHalt]) sub

@[simp] theorem Blk.within_bpResume {l : List Part} {b d : Blk} (v : Env) (c : Core)
    (sub : [.db, .counters, .fresh] ⊆ l) : Within l b (d.bpResume v c) ↔ Within l b d :=
  Within.iff_of (k := [.db, .counters, .fresh]) (by simp [Blk.bpResume]) sub

theorem Db.halted_setHalt (d : Db) (c core : Core) (on : Bool) :
    (d.setHalt c on).halted core = if core = c then on else d.halted core := by
  cases c <;> cases core <;> rfl

/-- A resume lets its core run, and no other. -/
theorem Blk.bpResume_halted (v : Env) (c : Core) (b : Blk) (core : Core) :
    (b.bpResume v c).db.halted core = if core = c then false else b.db.halted core := by
  unfold Blk.bpResume
  split
  case isTrue runs =>
    split
    case isTrue same => subst same; simpa using runs
    case isFalse => rfl
  case isFalse =>
    rw [Blk.traceHalt_halted]
    exact Db.halted_setHalt ..

/-- What a write of DB_BP_RESUME does to the halts. -/
theorem Blk.act_bpResume_halted (v : Env) (value : Word32) (b : Blk) (core : Core) :
    (b.act v 0xB00054 value).db.halted core =
      (b.db.halted core && !(match core with | .cp => value.getLsbD 0 | .rc => value.getLsbD 1)) := by
  have acts : b.act v 0xB00054 value =
      (let b := if value.getLsbD 0 then b.bpResume v .cp else b
       if value.getLsbD 1 then b.bpResume v .rc else b) := rfl
  rw [acts]
  cases value.getLsbD 0 <;> cases value.getLsbD 1 <;> cases core <;> simp [Blk.bpResume_halted]

theorem does_dbBpResume {s : State} {value : BitVec 32} (serves : PortOpen s 0xB00054) :
    Does (.dbBpResume value) s fun t => OnlyBlk s t ∧
      t.blk.db.cpHalted = (s.blk.db.cpHalted && !value.getLsbD 0) ∧
      t.blk.db.rcHalted = (s.blk.db.rcHalted && !value.getLsbD 1) ∧
      t.blk = { s.blk with
        db := t.blk.db, counters := t.blk.counters, fresh := t.blk.fresh, out := s.blk.out ++ [.regWritten 0xB00054] } := by
  have within : Blk.Within [.db, .counters, .fresh] s.blk (s.blk.act s.env 0xB00054 value) := by
    simp [Blk.act]
  refine does_writeOnly rfl (regAt_bpResume _) rfl serves (by simp) ⟨⟨rfl, rfl, rfl⟩,
    s.blk.act_bpResume_halted s.env value .cp, s.blk.act_bpResume_halted s.env value .rc, ?_⟩
  exact congrArg (Blk.emit · _) within.eq

theorem does_mcReqGo {s : State} {value : BitVec 32} (go : value.getLsbD 0 = true) (idle : s.blk.resetting = false)
    (free : s.blk.mc.portBusy = false) :
    Does (.mcReqGo value) s fun t => OnlyBlk s t ∧
      t.blk.mc.portBusy = true ∧ t.blk.mc.rspDone = false ∧ t.blk.ctr .mcReq = s.blk.ctr .mcReq + 1 ∧
      (s.blk.mc.running = none → (t.blk.mc.running.map McOp.op) = some (bits (s.env.stored 0xC00010) 0 4)) ∧
      (s.blk.mc.running ≠ none → t.blk.mc.running = s.blk.mc.running) ∧
      t.blk = { s.blk with mc := t.blk.mc, counters := t.blk.counters, out := s.blk.out ++ [.regWritten 0xC00024] } := by
  have acts : s.blk.act s.env 0xC00024 value = (s.blk.modMc fun m => { m with rspDone := false }).mcAsk
      { op := bits (s.env.stored 0xC00010) 0 4
        args := (List.range 4).map fun i => s.env.stored (0xC00014 + 4 * i), asker := .port } := by
    change s.blk.reqGo s.env value = _
    rw [Blk.reqGo, go, if_neg (by decide), if_neg (by simp [free])]
  refine does_writeOnly rfl (regAt_reqGo _) rfl ⟨rfl, idle⟩ (by simp) ⟨⟨rfl, rfl, rfl⟩, ?_⟩
  rw [acts, Blk.mcAsk]
  have count (b : Blk) : ((b.bump .mcReq).emit (.regWritten 0xC00024)).ctr .mcReq = b.ctr .mcReq + 1 :=
    Blk.ctr_bump_same ..
  have within : Blk.Within [.mc, .counters] s.blk (s.blk.act s.env 0xC00024 value) := by
    rw [acts, Blk.mcAsk]; simp
  rw [acts, Blk.mcAsk] at within
  refine ⟨?_, ?_, count _, fun none_ => ?_, fun some_ => ?_, congrArg (Blk.emit · _) within.eq⟩
  · cases run : s.blk.mc.running <;> simp [Blk.modMc, run, Mc.portBusy]
  · cases run : s.blk.mc.running <;> simp [Blk.modMc, run]
  · simp [Blk.modMc, none_]
  · obtain ⟨x, run⟩ := Option.ne_none_iff_exists'.mp some_
    simp [Blk.modMc, run]

theorem does_mcReqGo_overlap {s : State} {value : BitVec 32} (go : value.getLsbD 0 = true)
    (idle : s.blk.resetting = false) (busy : s.blk.mc.portBusy = true) :
    Does (.mcReqGo value) s fun t => OnlyBlk s t ∧
      t.blk = (s.blk.bump .mcReqOverlap).emit (.regWritten 0xC00024) := by
  have acts : s.blk.act s.env 0xC00024 value = s.blk.bump .mcReqOverlap := by
    change s.blk.reqGo s.env value = _
    rw [Blk.reqGo, go, if_neg (by decide), if_pos busy]
  refine does_writeOnly rfl (regAt_reqGo _) rfl ⟨rfl, idle⟩ (by simp) ⟨⟨rfl, rfl, rfl⟩, ?_⟩
  rw [acts]
  rfl

theorem does_mcAlarmRaise {s : State} {value : BitVec 32} (kind : 128 ≤ bits value 0 8)
    (idle : s.blk.resetting = false) :
    Does (.mcAlarmRaise value) s fun t => OnlyBlk s t ∧
      tgetD 0 t.blk.mc.alarms (bits value 0 8) = min 0xFFFF (tgetD 0 s.blk.mc.alarms (bits value 0 8) + 1) ∧
      (∀ k, k ≠ bits value 0 8 → tgetD 0 t.blk.mc.alarms k = tgetD 0 s.blk.mc.alarms k) ∧
      t.blk = { s.blk with
        mc := { s.blk.mc with alarms := t.blk.mc.alarms }, out := s.blk.out ++ [.regWritten 0xC00050] } := by
  have acts : s.blk.act s.env 0xC00050 value = s.blk.alarm (bits value 0 8) := by
    change s.blk.raiseAlarm value = _
    rw [Blk.raiseAlarm, if_neg (by omega)]
  refine does_writeOnly rfl (regAt_alarmRaise _) rfl ⟨rfl, idle⟩ (by omega) ⟨⟨rfl, rfl, rfl⟩, ?_⟩
  rw [acts]
  refine ⟨?_, fun k other => ?_, rfl⟩
  · exact tgetD_tmod_same 0 s.blk.mc.alarms _ fun c => min 0xFFFF (c + 1)
  · exact tgetD_tmod_other 0 0 s.blk.mc.alarms (fun c => min 0xFFFF (c + 1)) other

theorem does_mcRxPop {s : State} {value : BitVec 32} (pop : value.getLsbD 0 = true) (idle : s.blk.resetting = false) :
    Does (.mcRxPop value) s fun t => OnlyBlk s t ∧
      t.blk = { s.blk with
        mc := { s.blk.mc with rxQueue := s.blk.mc.rxQueue.drop 1 }, out := s.blk.out ++ [.regWritten 0xC00058] } := by
  have acts : s.blk.act s.env 0xC00058 value = s.blk.modMc fun m => { m with rxQueue := m.rxQueue.drop 1 } := by
    change s.blk.popRx value = _
    rw [Blk.popRx, if_pos pop]
  refine does_writeOnly rfl (regAt_rxPop _) rfl ⟨rfl, idle⟩ (by simp) ⟨⟨rfl, rfl, rfl⟩, ?_⟩
  rw [acts]
  rfl

/-- Settles O10. -/
theorem writeOnlyRegistersAct : Obligations.WriteOnlyRegistersAct :=
  ⟨fun _ _ go serves waits => does_feFwCtlGo go serves waits,
   fun _ _ _ go serves snap written stopped => does_dbSnapResumeGo go serves snap written stopped,
   fun _ _ serves => does_dbBpResume serves,
   fun _ _ go idle free => does_mcReqGo go idle free,
   fun _ _ go idle busy => does_mcReqGo_overlap go idle busy,
   fun _ _ kind idle => does_mcAlarmRaise kind idle,
   fun _ _ pop idle => does_mcRxPop pop idle⟩

end Sys2Proof.Machine
end

section
/-! Which parts of the block the operations of the units may change. -/

namespace Sys2Proof.Machine

namespace Blk

variable {parts : List Part} {b₀ b₁ : Blk}

@[simp] theorem within_forEach {α : Type} (xs : List α) (f : α → Blk → Blk) (h : ∀ x b, Within parts b (f x b)) :
    Within parts b₀ (b₁.forEach xs f) ↔ Within parts b₀ b₁ :=
  Within.iff_of (Within.forEach xs h b₁) (List.Subset.refl parts)

@[simp] theorem within_predOps (x : List PredMsg) (sub : [.predOps] ⊆ parts) :
    Within parts b₀ { b₁ with predOps := x } ↔ Within parts b₀ b₁ :=
  Within.iff_of (k := [.predOps]) (fun p out => by cases p <;> first | rfl | exact fun _ => rfl | simp at out) sub

@[simp] theorem within_predNext (x : List PredMsg) (sub : [.predNext] ⊆ parts) :
    Within parts b₀ { b₁ with predNext := x } ↔ Within parts b₀ b₁ :=
  Within.iff_of (k := [.predNext]) (fun p out => by cases p <;> first | rfl | exact fun _ => rfl | simp at out) sub

@[simp] theorem within_preds (x : Tbl (Option Bool)) (sub : [.preds] ⊆ parts) :
    Within parts b₀ { b₁ with preds := x } ↔ Within parts b₀ b₁ :=
  Within.iff_of (k := [.preds]) (fun p out => by cases p <;> first | rfl | exact fun _ => rfl | simp at out) sub

@[simp] theorem within_history (x : Tbl Hist) (sub : [.history] ⊆ parts) :
    Within parts b₀ { b₁ with history := x } ↔ Within parts b₀ b₁ :=
  Within.iff_of (k := [.history]) (fun p out => by cases p <;> first | rfl | exact fun _ => rfl | simp at out) sub

@[simp] theorem within_preds_history (x : Tbl (Option Bool)) (y : Tbl Hist) (sub : [.preds, .history] ⊆ parts) :
    Within parts b₀ { b₁ with preds := x, history := y } ↔ Within parts b₀ b₁ :=
  Within.iff_of (k := [.preds, .history]) (fun p out => by cases p <;> first | rfl | exact fun _ => rfl | simp at out) sub

@[simp] theorem within_withPg (x : Pg) (sub : [.pg] ⊆ parts) :
    Within parts b₀ { b₁ with pg := x } ↔ Within parts b₀ b₁ := within_modPg (fun _ => x) sub

@[simp] theorem within_withCounters (x : Tbl Nat) (sub : [.counters] ⊆ parts) :
    Within parts b₀ { b₁ with counters := x } ↔ Within parts b₀ b₁ :=
  Within.iff_of (k := [.counters]) (fun p out => by cases p <;> first | rfl | exact fun _ => rfl | simp at out) sub

@[simp] theorem within_freeChannels (p : Nat → Channel → Bool) (sub : [.hb] ⊆ parts) :
    Within parts b₀ (b₁.modHb fun h => h.freeChannels p) ↔ Within parts b₀ b₁ :=
  within_modHb_chanMem _ (fun _ => rfl) sub

@[simp] theorem lowerHold_blocks (rc : Reach) (t : TaskRef) : (rc.lowerHold t).blocks = rc.blocks := (rfl)

@[simp] theorem addTiles_blocks (rc : Reach) (t : TaskRef) (l : List Nat) : (rc.addTiles t l).blocks = rc.blocks := (rfl)

@[simp] theorem unlist_blocks (rc : Reach) (t : TaskRef) : (rc.unlist t).blocks = rc.blocks := (rfl)

@[simp] theorem retire_blocks (rc : Reach) (bs gs : List Nat) : (rc.retire bs gs).blocks = rc.blocks := (rfl)

@[simp] theorem within_withAgents (x : Tbl Agent) (sub : [.agents] ⊆ parts) :
    Within parts b₀ { b₁ with agents := x } ↔ Within parts b₀ b₁ :=
  Within.iff_of (k := [.agents]) (fun p out => by cases p <;> first | rfl | exact fun _ => rfl | simp at out) sub

@[simp] theorem within_faultRun (rank : BitVec 8 → Nat) (e : Nat) (status : BitVec 8) (sub : [.agents] ⊆ parts) :
    Within parts b₀ (Blk.faultRun rank b₁ e status) ↔ Within parts b₀ b₁ :=
  Within.iff_of (k := [.agents]) (by simp [Blk.faultRun]) sub

@[simp] theorem within_fePowerUp (sub : [.fe, .rel] ⊆ parts) :
    Within parts b₀ (Blk.fePowerUp b₁) ↔ Within parts b₀ b₁ :=
  Within.iff_of (k := [.fe, .rel]) (by simp [Blk.fePowerUp]) sub

@[simp] theorem within_modFrame (c r seg vb : Nat) (f : Frame → Frame) (sub : [.fe] ⊆ parts) :
    Within parts b₀ (Blk.modFrame b₁ c r seg vb f) ↔ Within parts b₀ b₁ :=
  Within.iff_of (k := [.fe]) (by simp [Blk.modFrame]) sub

@[simp] theorem within_modAway (t : TaskRef) (f : Task → Task) (sub : [.reaches, .fe] ⊆ parts) :
    Within parts b₀ (Blk.modAway b₁ t f) ↔ Within parts b₀ b₁ :=
  Within.iff_of (k := [.reaches, .fe]) (by simp [Blk.modAway]) sub

@[simp] theorem within_modAny (t : TaskRef) (f : Task → Task) (sub : [.reaches, .blocks, .fe] ⊆ parts) :
    Within parts b₀ (Blk.modAny b₁ t f) ↔ Within parts b₀ b₁ :=
  Within.iff_of (k := [.reaches, .blocks, .fe]) (by simp [Blk.modAny]) sub

@[simp] theorem within_awaitFault (t : TaskRef) (sub : [.reaches] ⊆ parts) :
    Within parts b₀ (Blk.awaitFault b₁ t) ↔ Within parts b₀ b₁ :=
  Within.iff_of (k := [.reaches]) (by simp [Blk.awaitFault]) sub

@[simp] theorem within_setFlag (t : TaskRef) (sub : [.reaches, .blocks] ⊆ parts) :
    Within parts b₀ (Blk.setFlag b₁ t) ↔ Within parts b₀ b₁ :=
  Within.iff_of (k := [.reaches, .blocks]) (by simp [Blk.setFlag]) sub

@[simp] theorem within_countFlag (t : TaskRef) (sub : [.reaches, .blocks, .counters] ⊆ parts) :
    Within parts b₀ (Blk.countFlag b₁ t) ↔ Within parts b₀ b₁ :=
  Within.iff_of (k := [.reaches, .blocks, .counters]) (by simp [Blk.countFlag]) sub

@[simp] theorem within_discard (r : Nat) (sub : [.counters] ⊆ parts) :
    Within parts b₀ (Blk.discard b₁ r) ↔ Within parts b₀ b₁ :=
  Within.iff_of (k := [.counters]) (by simp [Blk.discard]) sub

@[simp] theorem within_requestPage (r c seg vb : Nat) (sub : [.reaches] ⊆ parts) :
    Within parts b₀ (Blk.requestPage b₁ r c seg vb) ↔ Within parts b₀ b₁ := by
  refine Within.iff_of (k := [.reaches]) ?_ sub
  exact (within_modReach_blocks r _ (fun x => by split <;> rfl) (by simp)).mpr (.refl _ _)

@[simp] theorem within_ledgerAdd (t : TaskRef) (u : UnitKind) (sub : [.reaches, .fe] ⊆ parts) :
    Within parts b₀ (Blk.ledgerAdd b₁ t u) ↔ Within parts b₀ b₁ :=
  Within.iff_of (k := [.reaches, .fe]) (by simp [Blk.ledgerAdd]) sub

@[simp] theorem within_decrementAt (t : TaskRef) (x : Task) (skip : Bool) (sub : [.reaches, .blocks, .counters] ⊆ parts) :
    Within parts b₀ (Blk.decrementAt b₁ t x skip).1 ↔ Within parts b₀ b₁ := by
  refine Within.iff_of (k := [.reaches, .blocks, .counters]) ?_ sub
  unfold Blk.decrementAt
  repeat' split
  all_goals simp

@[simp] theorem within_decrement (v : Env) (t : TaskRef) (skip : Bool) (sub : [.reaches, .blocks, .fe, .counters] ⊆ parts) :
    Within parts b₀ (Blk.decrement v t skip b₁).1 ↔ Within parts b₀ b₁ := by
  refine Within.iff_of (k := [.reaches, .blocks, .fe, .counters]) ?_ sub
  unfold Blk.decrement
  repeat' split
  all_goals simp

@[simp] theorem within_rearm (t : TaskRef) (rf : Bool) (sub : [.reaches, .blocks] ⊆ parts) :
    Within parts b₀ (Blk.rearm b₁ t rf) ↔ Within parts b₀ b₁ := by
  refine Within.iff_of (k := [.reaches, .blocks]) ?_ sub
  unfold Blk.rearm
  repeat' split
  all_goals simp

@[simp] theorem within_applyRearm (t : TaskRef) (rf : Bool) (sub : [.reaches, .blocks, .fe, .counters] ⊆ parts) :
    Within parts b₀ (Blk.applyRearm t rf b₁).1 ↔ Within parts b₀ b₁ := by
  refine Within.iff_of (k := [.reaches, .blocks, .fe, .counters]) ?_ sub
  unfold Blk.applyRearm
  repeat' split
  all_goals simp

@[simp] theorem within_applyNotice (t : TaskRef) (sub : [.reaches, .blocks] ⊆ parts) :
    Within parts b₀ (Blk.applyNotice b₁ t) ↔ Within parts b₀ b₁ :=
  Within.iff_of (k := [.reaches, .blocks]) (by simp [Blk.applyNotice]) sub

@[simp] theorem within_decrementRun (v : Env) (t : TaskRef) (len : Nat) (sub : [.reaches, .blocks, .fe, .counters] ⊆ parts) :
    Within parts b₀ (Blk.decrementRun v t len b₁).1 ↔ Within parts b₀ b₁ := by
  refine Within.iff_of (k := [.reaches, .blocks, .fe, .counters]) ?_ sub
  exact within_foldl_fst (fun a i => by simp) _ (b₁, 0)

@[simp] theorem within_unitEffect (v : Env) (u : XUnit) (sub : [.reaches, .blocks, .fe, .counters] ⊆ parts) :
    Within parts b₀ (Blk.unitEffect v u b₁).1 ↔ Within parts b₀ b₁ := by
  refine Within.iff_of (k := [.reaches, .blocks, .fe, .counters]) ?_ sub
  unfold Blk.unitEffect
  dsimp only
  repeat' split
  all_goals simp

@[simp] theorem within_applyUnit (v : Env) (u : XUnit) (sub : [.reaches, .blocks, .fe, .counters] ⊆ parts) :
    Within parts b₀ (Blk.applyUnit v u b₁) ↔ Within parts b₀ b₁ := by
  refine Within.iff_of (k := [.reaches, .blocks, .fe, .counters]) ?_ sub
  unfold Blk.applyUnit
  dsimp only
  repeat' split
  all_goals simp

@[simp] theorem within_edgeDecrement (v : Env) (t : TaskRef) (sub : [.reaches, .blocks, .fe, .counters] ⊆ parts) :
    Within parts b₀ (Blk.edgeDecrement v t b₁) ↔ Within parts b₀ b₁ :=
  Within.iff_of (k := [.reaches, .blocks, .fe, .counters]) (by simp [Blk.edgeDecrement]) sub

@[simp] theorem within_hubDecrement (t : TaskRef) (sub : [.reaches] ⊆ parts) :
    Within parts b₀ (Blk.hubDecrement t b₁) ↔ Within parts b₀ b₁ :=
  Within.iff_of (k := [.reaches]) (by simp [Blk.hubDecrement]) sub

@[simp] theorem within_freeRunChannels (t : TaskRef) (sub : [.hb] ⊆ parts) :
    Within parts b₀ (Blk.freeRunChannels b₁ t) ↔ Within parts b₀ b₁ := by
  refine Within.iff_of (k := [.hb]) ?_ sub
  exact (within_freeChannels _ (by simp)).mpr (.refl _ _)

@[simp] theorem within_noteLaunch (t : TaskRef) (ending : Bool) (sub : [.fe] ⊆ parts) :
    Within parts b₀ (Blk.noteLaunch b₁ t ending) ↔ Within parts b₀ b₁ := by
  refine Within.iff_of (k := [.fe]) ?_ sub
  unfold Blk.noteLaunch
  dsimp only
  repeat' split
  all_goals simp

@[simp] theorem within_finishTask (v : Env) (t : TaskRef) (skipped : Bool) (aux : Nat) (engine : Nat := 0xFFFF) (sub : [.reaches, .blocks, .fe, .hb, .rel, .db, .counters] ⊆ parts) :
    Within parts b₀ (Blk.finishTask v t skipped aux b₁ engine) ↔ Within parts b₀ b₁ := by
  refine Within.iff_of (k := [.reaches, .blocks, .fe, .hb, .rel, .db, .counters]) ?_ sub
  unfold Blk.finishTask
  dsimp only
  repeat' split
  all_goals simp

@[simp] theorem within_faultRecord (v : Env) (t : TaskRef) (gang : Bool) (status : BitVec 8) (aux engine : Nat) (sub : [.reaches, .fe, .hb, .rel, .db, .counters] ⊆ parts) :
    Within parts b₀ (Blk.faultRecord v t gang status aux engine b₁) ↔ Within parts b₀ b₁ := by
  refine Within.iff_of (k := [.reaches, .fe, .hb, .rel, .db, .counters]) ?_ sub
  simp [Blk.faultRecord]

@[simp] theorem within_faultState (t : TaskRef) (x : Task) (sub : [.reaches, .blocks, .fe] ⊆ parts) :
    Within parts b₀ (Blk.faultState t x b₁) ↔ Within parts b₀ b₁ :=
  Within.iff_of (k := [.reaches, .blocks, .fe]) (by simp [Blk.faultState]) sub

@[simp] theorem within_faultTask (v : Env) (t : TaskRef) (status : BitVec 8) (aux : Nat) (engine : Nat := 0xFFFF) (sub : [.reaches, .blocks, .fe, .hb, .rel, .db, .counters] ⊆ parts) :
    Within parts b₀ (Blk.faultTask v t status aux b₁ engine) ↔ Within parts b₀ b₁ := by
  refine Within.iff_of (k := [.reaches, .blocks, .fe, .hb, .rel, .db, .counters]) ?_ sub
  unfold Blk.faultTask
  repeat' split
  all_goals simp

@[simp] theorem within_faultFlagged (v : Env) (t : TaskRef) (sub : [.reaches, .blocks, .fe, .hb, .rel, .db, .counters] ⊆ parts) :
    Within parts b₀ (Blk.faultFlagged v t b₁) ↔ Within parts b₀ b₁ :=
  Within.iff_of (k := [.reaches, .blocks, .fe, .hb, .rel, .db, .counters]) (by simp [Blk.faultFlagged]) sub

@[simp] theorem within_countBytes (c : Nat) (w : BitVec 128) (sub : [.db, .counters] ⊆ parts) :
    Within parts b₀ (Blk.countBytes b₁ c w) ↔ Within parts b₀ b₁ :=
  Within.iff_of (k := [.db, .counters]) (by simp [Blk.countBytes]) sub

@[simp] theorem within_sendSignal (v : Env) (place ctx : Nat) (s : RsigBlk) (round : BitVec 16) (sub : [.hb, .rel] ⊆ parts) :
    Within parts b₀ (Blk.sendSignal v place ctx s round b₁) ↔ Within parts b₀ b₁ :=
  Within.iff_of (k := [.hb, .rel]) (by simp [Blk.sendSignal]) sub

@[simp] theorem within_addCensus (c : Nat) (l : List (Nat × (Nat × Nat × Nat × Nat))) (sub : [.db] ⊆ parts) :
    Within parts b₀ (Blk.addCensus b₁ c l) ↔ Within parts b₀ b₁ :=
  Within.iff_of (k := [.db]) (by simp [Blk.addCensus]) sub

@[simp] theorem within_closeCensus (v : Env) (c : Nat) (p : BitVec 12 × BitVec 16 × BitVec 3 × BitVec 64) (sub : [.predNext, .db, .counters, .out] ⊆ parts) :
    Within parts b₀ (Blk.closeCensus v c p b₁) ↔ Within parts b₀ b₁ := by
  refine Within.iff_of (k := [.predNext, .db, .counters, .out]) ?_ sub
  unfold Blk.closeCensus
  dsimp only
  split <;> split <;> simp

@[simp] theorem within_runEffects (v : Env) (t : TaskRef) (c : Cpl) (sub : [.predNext, .hb, .rel, .db, .counters, .out] ⊆ parts) :
    Within parts b₀ (Blk.runEffects v t c b₁) ↔ Within parts b₀ b₁ := by
  refine Within.iff_of (k := [.predNext, .hb, .rel, .db, .counters, .out]) ?_ sub
  unfold Blk.runEffects
  dsimp only
  repeat' split
  all_goals simp

@[simp] theorem within_wordPred (c : Nat) (w : BitVec 128) (record : Bool) (sub : [.predOps] ⊆ parts) :
    Within parts b₀ (Blk.wordPred b₁ c w record) ↔ Within parts b₀ b₁ := by
  refine Within.iff_of (k := [.predOps]) ?_ sub
  unfold Blk.wordPred
  split <;> simp

theorem fst_ite_eq_some {α β : Type} {p : Prop} [Decidable p] {x y : Option α × β} {d : α}
    (h : (if p then x else y).1 = some d) : (p ∧ x.1 = some d) ∨ (¬p ∧ y.1 = some d) := by
  split at h
  · exact .inl ⟨‹_›, h⟩
  · exact .inr ⟨‹_›, h⟩

theorem within_applyWord {d : Blk} {v : Env} {c : Cpl} (applied : (b₁.applyWord v c).1 = some d) :
    Within [.reaches, .blocks, .predOps, .predNext, .fe, .hb, .rel, .db, .counters, .out] b₁ d := by
  simp only [Blk.applyWord] at applied
  split at applied
  · cases applied; simp
  rcases fst_ite_eq_some applied with ⟨-, h⟩ | ⟨-, h⟩
  · cases h; simp
  rcases fst_ite_eq_some h with ⟨-, h⟩ | ⟨-, h⟩
  · cases h
  rcases fst_ite_eq_some h with ⟨-, h⟩ | ⟨-, h⟩
  all_goals
    rw [← Option.some.inj h]
    simp

theorem within_applySkipNote {d : Blk} {v : Env} {t : TaskRef} (applied : (b₁.applySkipNote v t).1 = some d) :
    Within [.reaches, .blocks, .fe, .hb, .rel, .db, .counters] b₁ d := by
  unfold Blk.applySkipNote at applied
  dsimp only at applied
  repeat' split at applied
  all_goals cases applied
  all_goals simp

theorem within_applySelf {d : Blk} {v : Env} {t : TaskRef} (applied : (b₁.applySelf v t).1 = some d) :
    Within [.reaches, .blocks, .fe, .hb, .rel, .db, .counters] b₁ d := by
  unfold Blk.applySelf at applied
  dsimp only at applied
  repeat' split at applied
  all_goals cases applied
  all_goals simp

theorem within_applyFlagged {d : Blk} {v : Env} {t : TaskRef} (applied : (b₁.applyFlagged v t).1 = some d) :
    Within [.reaches, .blocks, .fe, .hb, .rel, .db, .counters] b₁ d := by
  unfold Blk.applyFlagged at applied
  split at applied
  all_goals cases applied
  simp

theorem within_applyArrival {d : Blk} {v : Env} {x : Arrival} (applied : (b₁.applyArrival v x).1 = some d) :
    Within [.reaches, .blocks, .predOps, .predNext, .fe, .hb, .rel, .db, .counters, .out] b₁ d := by
  cases x with
  | word c => exact within_applyWord applied
  | skip t => exact (within_applySkipNote applied).mono (by simp)
  | own t => exact (within_applySelf applied).mono (by simp)
  | flagged t => exact (within_applyFlagged applied).mono (by simp)

@[simp] theorem within_countHeld (r : Nat) (why : List Ctr) (sub : [.counters] ⊆ parts) :
    Within parts b₀ (Blk.countHeld r why b₁) ↔ Within parts b₀ b₁ := by
  refine Within.iff_of (k := [.counters]) ?_ sub
  unfold Blk.countHeld
  exact List.foldlRecOn why _ (.refl _ _) fun b within c _ => within.trans (by simp)

theorem within_applyInOrder (v : Env) (r : Nat) (xs : List Arrival) (b : Blk) :
    Within [.reaches, .blocks, .predOps, .predNext, .fe, .hb, .rel, .db, .counters, .out] b (Blk.applyInOrder v r xs b).1 := by
  induction xs generalizing b with
  | nil => exact .refl _ _
  | cons x xs ih =>
    unfold Blk.applyInOrder
    split
    case h_1 c _ h => exact (within_applyArrival (congrArg Prod.fst h)).trans (ih c)
    case h_2 => simp

@[simp] theorem within_applyCompletions (v : Env) (r : Nat) (sub : [.reaches, .blocks, .predOps, .predNext, .fe, .hb, .rel, .db, .counters, .out] ⊆ parts) :
    Within parts b₀ (Blk.applyCompletions v b₁ r).1 ↔ Within parts b₀ b₁ := by
  refine Within.iff_of (k := [.reaches, .blocks, .predOps, .predNext, .fe, .hb, .rel, .db, .counters, .out]) ?_ sub
  exact .trans (by simp) (within_applyInOrder v r _ _)

@[simp] theorem within_commit (v : Env) (t : TaskRef) (sub : [.reaches, .blocks, .agents, .db, .counters] ⊆ parts) :
    Within parts b₀ (Blk.commit v t b₁) ↔ Within parts b₀ b₁ := by
  refine Within.iff_of (k := [.reaches, .blocks, .agents, .db, .counters]) ?_ sub
  unfold Blk.commit
  dsimp only
  repeat' split
  all_goals simp

@[simp] theorem within_squash (v : Env) (t : TaskRef) (sub : [.reaches, .blocks, .agents, .db, .counters] ⊆ parts) :
    Within parts b₀ (Blk.squash v t b₁) ↔ Within parts b₀ b₁ :=
  Within.iff_of (k := [.reaches, .blocks, .agents, .db, .counters]) (by simp [Blk.squash]) sub

@[simp] theorem within_resolve (v : Env) (c slot : Nat) (value : Bool) (sub : [.reaches, .blocks, .preds, .history, .agents, .db, .counters] ⊆ parts) :
    Within parts b₀ (Blk.resolve v c slot value b₁) ↔ Within parts b₀ b₁ := by
  refine Within.iff_of (k := [.reaches, .blocks, .preds, .history, .agents, .db, .counters]) ?_ sub
  unfold Blk.resolve
  simp

@[simp] theorem within_applyPred (v : Env) (m : PredMsg) (sub : [.reaches, .blocks, .preds, .history, .agents, .fe, .rel, .db, .counters] ⊆ parts) :
    Within parts b₀ (Blk.applyPred v m b₁) ↔ Within parts b₀ b₁ := by
  refine Within.iff_of (k := [.reaches, .blocks, .preds, .history, .agents, .fe, .rel, .db, .counters]) ?_ sub
  unfold Blk.applyPred
  dsimp only
  repeat' split
  all_goals simp

@[simp] theorem within_predStage (v : Env) (sub : [.reaches, .blocks, .preds, .history, .predOps, .agents, .fe, .rel, .db, .counters] ⊆ parts) :
    Within parts b₀ (Blk.predStage v b₁) ↔ Within parts b₀ b₁ := by
  refine Within.iff_of (k := [.reaches, .blocks, .preds, .history, .predOps, .agents, .fe, .rel, .db, .counters]) ?_ sub
  simp [Blk.predStage]

@[simp] theorem within_armContext (v : Env) (c : Nat) (sub : [.reaches, .blocks, .fe] ⊆ parts) :
    Within parts b₀ (Blk.armContext v c b₁) ↔ Within parts b₀ b₁ :=
  Within.iff_of (k := [.reaches, .blocks, .fe]) (by simp [Blk.armContext]) sub

@[simp] theorem within_toIdle (t : TaskRef) (sub : [.reaches, .blocks, .hb, .fresh] ⊆ parts) :
    Within parts b₀ (Blk.toIdle b₁ t) ↔ Within parts b₀ b₁ :=
  Within.iff_of (k := [.reaches, .blocks, .hb, .fresh]) (by simp [Blk.toIdle]) sub

@[simp] theorem within_abortAgents (v : Env) (t : TaskRef) (why : AbortWhy) (sub : [.reaches, .agents] ⊆ parts) :
    Within parts b₀ (Blk.abortAgents v t why b₁) ↔ Within parts b₀ b₁ := by
  refine Within.iff_of (k := [.reaches, .agents]) ?_ sub
  unfold Blk.abortAgents
  exact (within_modReach_blocks t.reach _ (fun x => by split <;> rfl) (by simp)).mpr (by simp)

@[simp] theorem within_runAborted (t : TaskRef) (sub : [.reaches] ⊆ parts) :
    Within parts b₀ (Blk.runAborted t b₁) ↔ Within parts b₀ b₁ :=
  Within.iff_of (k := [.reaches]) (by simp [Blk.runAborted]) sub

@[simp] theorem within_applyAbort (v : Env) (t : TaskRef) (why : AbortWhy) (sub : [.reaches, .blocks, .agents, .hb, .db, .counters, .fresh] ⊆ parts) :
    Within parts b₀ (Blk.applyAbort v t why b₁) ↔ Within parts b₀ b₁ := by
  refine Within.iff_of (k := [.reaches, .blocks, .agents, .hb, .db, .counters, .fresh]) ?_ sub
  unfold Blk.applyAbort
  repeat' split
  all_goals simp

@[simp] theorem within_reportAborts (v : Env) (r : Nat) (sub : [.reaches, .blocks, .fe, .hb, .db, .counters, .fresh] ⊆ parts) :
    Within parts b₀ (Blk.reportAborts v r b₁) ↔ Within parts b₀ b₁ := by
  refine Within.iff_of (k := [.reaches, .blocks, .fe, .hb, .db, .counters, .fresh]) ?_ sub
  unfold Blk.reportAborts
  refine .trans ?_ (.forEach _ (fun a b => ?_) _)
  · simp
  · repeat' split
    all_goals simp

@[simp] theorem within_returnHead (v : Env) (t : TaskRef) (sub : [.reaches, .blocks] ⊆ parts) :
    Within parts b₀ (Blk.returnHead v t b₁) ↔ Within parts b₀ b₁ :=
  Within.iff_of (k := [.reaches, .blocks]) (by simp [Blk.returnHead]) sub

@[simp] theorem within_countPreempt (v : Env) (t : TaskRef) (x : Return) (sub : [.db, .counters] ⊆ parts) :
    Within parts b₀ (Blk.countPreempt v t x b₁) ↔ Within parts b₀ b₁ :=
  Within.iff_of (k := [.db, .counters]) (by simp [Blk.countPreempt]) sub

@[simp] theorem within_returnShadow (t : TaskRef) (x : Return) (sub : [.reaches, .blocks] ⊆ parts) :
    Within parts b₀ (Blk.returnShadow t x b₁) ↔ Within parts b₀ b₁ :=
  Within.iff_of (k := [.reaches, .blocks]) (by simp [Blk.returnShadow]) sub

@[simp] theorem within_applyReturn (v : Env) (x : Return) (sub : [.reaches, .blocks, .db, .counters] ⊆ parts) :
    Within parts b₀ (Blk.applyReturn v x b₁) ↔ Within parts b₀ b₁ := by
  refine Within.iff_of (k := [.reaches, .blocks, .db, .counters]) ?_ sub
  unfold Blk.applyReturn
  dsimp only
  repeat' split
  all_goals simp

@[simp] theorem within_abortStage (v : Env) (r : Nat) (sub : [.reaches, .blocks, .agents, .fe, .hb, .db, .counters, .fresh] ⊆ parts) :
    Within parts b₀ (Blk.abortStage v b₁ r) ↔ Within parts b₀ b₁ :=
  Within.iff_of (k := [.reaches, .blocks, .agents, .fe, .hb, .db, .counters, .fresh]) (by simp [Blk.abortStage]) sub

@[simp] theorem within_taskFault (e : Nat) (t : TaskRef) (status : BitVec 8) (sub : [.agents] ⊆ parts) :
    Within parts b₀ (Blk.taskFault b₁ e t status) ↔ Within parts b₀ b₁ :=
  Within.iff_of (k := [.agents]) (by simp [Blk.taskFault]) sub

@[simp] theorem within_opFault (e : Nat) (t : TaskRef) (status : BitVec 8 := stContextFault) (sub : [.agents, .out] ⊆ parts) :
    Within parts b₀ (Blk.opFault b₁ e t status) ↔ Within parts b₀ b₁ :=
  Within.iff_of (k := [.agents, .out]) (by simp [Blk.opFault]) sub

@[simp] theorem within_syncSet (v : Env) (l : SyncLoc) (src : SyncSrc) (value : BitVec 32) (clamped : Bool) (sub : [.agents, .hb, .counters] ⊆ parts) :
    Within parts b₀ (Blk.syncSet v l src value clamped b₁) ↔ Within parts b₀ b₁ := by
  refine Within.iff_of (k := [.agents, .hb, .counters]) ?_ sub
  unfold Blk.syncSet
  dsimp only
  repeat' split
  all_goals simp

@[simp] theorem within_endWait (l : SyncLoc) (w : Wait) (sub : [.agents, .hb, .out] ⊆ parts) :
    Within parts b₀ (Blk.endWait l w b₁) ↔ Within parts b₀ b₁ := by
  refine Within.iff_of (k := [.agents, .hb, .out]) ?_ sub
  unfold Blk.endWait
  dsimp only
  split <;> simp

@[simp] theorem within_wake (l : SyncLoc) (w : Wait) (sub : [.agents, .hb, .out] ⊆ parts) :
    Within parts b₀ (Blk.wake l w b₁) ↔ Within parts b₀ b₁ :=
  Within.iff_of (k := [.agents, .hb, .out]) (by simp [Blk.wake]) sub

@[simp] theorem within_satisfy (v : Env) (l : SyncLoc) (x : BitVec 32) (w : Wait) (sub : [.agents, .hb, .counters, .out] ⊆ parts) :
    Within parts b₀ (Blk.satisfy v l x w b₁) ↔ Within parts b₀ b₁ :=
  Within.iff_of (k := [.agents, .hb, .counters, .out]) (by simp [Blk.satisfy]) sub

@[simp] theorem within_testWaits (v : Env) (l : SyncLoc) (n : Nat) (sub : [.agents, .hb, .counters, .out] ⊆ parts) :
    Within parts b₀ (Blk.testWaits v l n b₁) ↔ Within parts b₀ b₁ := by
  refine Within.iff_of (k := [.agents, .hb, .counters, .out]) ?_ sub
  induction n generalizing b₁ with
  | zero => exact .refl _ _
  | succ n ih =>
    unfold Blk.testWaits
    dsimp only
    split
    · simp
    · exact .trans (by simp) ih

@[simp] theorem within_syncApply (v : Env) (l : SyncLoc) (src : SyncSrc) (value : BitVec 32) (clamped : Bool) (sub : [.agents, .hb, .counters, .out] ⊆ parts) :
    Within parts b₀ (Blk.syncApply v l src value clamped b₁) ↔ Within parts b₀ b₁ :=
  Within.iff_of (k := [.agents, .hb, .counters, .out]) (by simp [Blk.syncApply]) sub

@[simp] theorem within_syncAddAt (v : Env) (l : SyncLoc) (src : SyncSrc) (delta : BitVec 32) (sub : [.agents, .hb, .counters, .out] ⊆ parts) :
    Within parts b₀ (Blk.syncAddAt v l src delta b₁).1 ↔ Within parts b₀ b₁ :=
  Within.iff_of (k := [.agents, .hb, .counters, .out]) (by simp [Blk.syncAddAt]) sub

@[simp] theorem within_runAdd (v : Env) (e : Nat) (t : TaskRef) (l : SyncLoc) (src : SyncSrc) (delta : BitVec 32) (sub : [.agents, .hb, .counters, .out] ⊆ parts) :
    Within parts b₀ (Blk.runAdd v e t l src delta b₁) ↔ Within parts b₀ b₁ :=
  Within.iff_of (k := [.agents, .hb, .counters, .out]) (by simp [Blk.runAdd]) sub

@[simp] theorem within_park (e : Nat) (t : TaskRef) (i : HoldItem) (sub : [.agents, .out] ⊆ parts) :
    Within parts b₀ (Blk.park e t i b₁) ↔ Within parts b₀ b₁ :=
  Within.iff_of (k := [.agents, .out]) (by simp [Blk.park]) sub

@[simp] theorem within_touchObj (l : SyncLoc) (sub : [.agents] ⊆ parts) :
    Within parts b₀ (Blk.touchObj l b₁) ↔ Within parts b₀ b₁ := by
  refine Within.iff_of (k := [.agents]) ?_ sub
  unfold Blk.touchObj
  repeat' split
  all_goals simp

@[simp] theorem within_beginWait (v : Env) (e : Nat) (t : TaskRef) (id : BitVec 32) (w : Wait) (sub : [.agents, .hb, .counters, .out] ⊆ parts) :
    Within parts b₀ (Blk.beginWait v e t id w b₁) ↔ Within parts b₀ b₁ := by
  refine Within.iff_of (k := [.agents, .hb, .counters, .out]) ?_ sub
  unfold Blk.beginWait
  cases loc : Blk.syncLoc v b₁ e t.ctx id with
  | none => simp
  | some l => cases l <;> simp

theorem within_bindStream {d : Blk} {c : Nat} {stream : BitVec 16} (bound : b₁.bindStream c stream = some d) :
    Within [.hb] b₁ d := by
  unfold Blk.bindStream at bound
  dsimp only at bound
  repeat' split at bound
  all_goals cases bound
  all_goals simp

theorem within_pendSignal (e : Nat) (t : TaskRef) (pend : List RsigBlk) (x : RsigBlk)
    {keep : List RsigBlk → Blk → Blk} (keeps : ∀ l d, Within [.agents, .hb] d (keep l d)) (b : Blk) :
    Within [.agents, .hb] b (b.pendSignal e t pend keep x) := by
  unfold Blk.pendSignal
  split
  · simp
  · split
    · simp
    · next h => exact ((within_bindStream h).mono (by simp)).trans (keeps _ _)

@[simp] theorem within_putChan (c i : Nat) (x : Channel) (sub : [.hb] ⊆ parts) :
    Within parts b₀ (Blk.putChan b₁ c i x) ↔ Within parts b₀ b₁ :=
  Within.iff_of (k := [.hb]) (by simp [Blk.putChan]) sub

@[simp] theorem within_writeEnd (c : Channel) (own other : Option ChEnd) (sub : [.out] ⊆ parts) :
    Within parts b₀ (Blk.writeEnd c own other b₁) ↔ Within parts b₀ b₁ := by
  refine Within.iff_of (k := [.out]) ?_ sub
  unfold Blk.writeEnd
  dsimp only
  repeat' split
  all_goals simp

@[simp] theorem within_update (c i : Nat) (old new : Channel) (toSend toRecv : Bool) (sub : [.hb, .out] ⊆ parts) :
    Within parts b₀ (Blk.update c i old new toSend toRecv b₁) ↔ Within parts b₀ b₁ :=
  Within.iff_of (k := [.hb, .out]) (by simp [Blk.update]) sub

@[simp] theorem within_flushGap (c i : Nat) (sub : [.hb, .chanMem, .out] ⊆ parts) :
    Within parts b₀ (Blk.flushGap c i b₁) ↔ Within parts b₀ b₁ := by
  refine Within.iff_of (k := [.hb, .chanMem, .out]) ?_ sub
  unfold Blk.flushGap
  split
  · simp
  · dsimp only
    split <;> simp

@[simp] theorem within_offer (c i : Nat) (x : Channel) (payload : List (BitVec 64)) (sub : [.hb, .chanMem, .counters, .out] ⊆ parts) :
    Within parts b₀ (Blk.offer c i x payload b₁).1 ↔ Within parts b₀ b₁ := by
  refine Within.iff_of (k := [.hb, .chanMem, .counters, .out]) ?_ sub
  unfold Blk.offer
  dsimp only
  repeat' split
  all_goals simp

@[simp] theorem within_sendChan (e c i : Nat) (t : TaskRef) (payload : List (BitVec 64)) (sub : [.hb, .chanMem, .counters, .out] ⊆ parts) :
    Within parts b₀ (Blk.sendChan e c i t payload b₁).1 ↔ Within parts b₀ b₁ := by
  refine Within.iff_of (k := [.hb, .chanMem, .counters, .out]) ?_ sub
  unfold Blk.sendChan
  dsimp only
  repeat' split
  all_goals simp

@[simp] theorem within_sendOn (e : Nat) (t : TaskRef) (id : BitVec 32) (payload : List (BitVec 64)) (sub : [.hb, .chanMem, .counters, .out] ⊆ parts) :
    Within parts b₀ (Blk.sendOn e t id payload b₁).1 ↔ Within parts b₀ b₁ := by
  refine Within.iff_of (k := [.hb, .chanMem, .counters, .out]) ?_ sub
  unfold Blk.sendOn
  split
  · simp
  split
  · simp
  split
  · simp
  · exact within_foldl_fst (fun a m => by simp) _ (b₁, some stOk)

@[simp] theorem within_readMove (c i : Nat) (x : Channel) (sub : [.hb, .chanMem, .counters, .out] ⊆ parts) :
    Within parts b₀ (Blk.readMove c i x b₁).1 ↔ Within parts b₀ b₁ := by
  refine Within.iff_of (k := [.hb, .chanMem, .counters, .out]) ?_ sub
  unfold Blk.readMove
  split <;> simp

@[simp] theorem within_resetChan (c i : Nat) (x : Channel) (sub : [.hb, .out] ⊆ parts) :
    Within parts b₀ (Blk.resetChan c i x b₁) ↔ Within parts b₀ b₁ :=
  Within.iff_of (k := [.hb, .out]) (by simp [Blk.resetChan]) sub

theorem within_checkWords (v : Env) (c i p : Nat) (ws : List (Nat × Ecc)) (x : Channel) (b : Blk) :
    Within [.hb, .rel, .mc, .counters, .out, .fresh] b (Blk.checkWords v c i p ws x b).1 := by
  induction ws generalizing x b with
  | nil => exact .refl _ _
  | cons w ws ih =>
    unfold Blk.checkWords
    dsimp only
    split
    · exact .trans (by simp) (ih x _)
    · exact .trans (by simp) (ih _ _)
    · exact .trans (by simp) (ih _ _)
    · simp

@[simp] theorem within_readCheck (v : Env) (c i p : Nat) (x : Channel) (ecc : List (Nat × Ecc)) (sub : [.hb, .rel, .mc, .counters, .out, .fresh] ⊆ parts) :
    Within parts b₀ (Blk.readCheck v c i p x ecc b₁).1 ↔ Within parts b₀ b₁ := by
  refine Within.iff_of (k := [.hb, .rel, .mc, .counters, .out, .fresh]) ?_ sub
  exact within_checkWords v c i p _ x b₁

@[simp] theorem within_moveOn (e : Nat) (t : TaskRef) (id : BitVec 32) (m : ReadMove) (sub : [.hb, .chanMem, .counters, .out] ⊆ parts) :
    Within parts b₀ (Blk.moveOn e t id m b₁).1 ↔ Within parts b₀ b₁ := by
  refine Within.iff_of (k := [.hb, .chanMem, .counters, .out]) ?_ sub
  unfold Blk.moveOn
  split
  · simp
  split
  · simp
  dsimp only
  split
  case h_3 => split <;> simp
  all_goals simp

@[simp] theorem within_openIfBoth (c i : Nat) (old new : Channel) (sub : [.hb, .counters, .out] ⊆ parts) :
    Within parts b₀ (Blk.openIfBoth c i old new b₁) ↔ Within parts b₀ b₁ :=
  Within.iff_of (k := [.hb, .counters, .out]) (by simp [Blk.openIfBoth]) sub

@[simp] theorem within_answer (e : Nat) (t : TaskRef) (p : Blk × Option (BitVec 8)) (sub : [.agents, .out] ⊆ parts) :
    Within parts b₀ (Blk.answer e t p) ↔ Within parts b₀ p.1 :=
  Within.iff_of (k := [.agents, .out]) (by unfold Blk.answer; split <;> simp) sub

@[simp] theorem within_shadowRead (v : Env) (e : Nat) (r : Run) (id : BitVec 32) (i : Nat) (x : Channel) (ecc : List (Nat × Ecc)) (sub : [.agents, .hb, .rel, .mc, .counters, .out, .fresh] ⊆ parts) :
    Within parts b₀ (Blk.shadowRead v e r id i x ecc b₁) ↔ Within parts b₀ b₁ := by
  refine Within.iff_of (k := [.agents, .hb, .rel, .mc, .counters, .out, .fresh]) ?_ sub
  unfold Blk.shadowRead
  dsimp only
  repeat' split
  all_goals simp

@[simp] theorem within_runMove (e : Nat) (r : Run) (id : BitVec 32) (m : ReadMove) (sub : [.agents, .hb, .chanMem, .counters, .out] ⊆ parts) :
    Within parts b₀ (Blk.runMove e r id m b₁) ↔ Within parts b₀ b₁ :=
  Within.iff_of (k := [.agents, .hb, .chanMem, .counters, .out]) (by simp [Blk.runMove]) sub

@[simp] theorem within_freeChan (c i : Nat) (sub : [.hb] ⊆ parts) :
    Within parts b₀ (Blk.freeChan c i b₁) ↔ Within parts b₀ b₁ := by
  refine Within.iff_of (k := [.hb]) ?_ sub
  exact (within_freeChannels _ (by simp)).mpr (.refl _ _)

@[simp] theorem within_closeEnd (e : Nat) (t : TaskRef) (send : Bool) (i : Nat) (sub : [.hb, .chanMem, .out] ⊆ parts) :
    Within parts b₀ (Blk.closeEnd e t send i b₁).1 ↔ Within parts b₀ b₁ := by
  refine Within.iff_of (k := [.hb, .chanMem, .out]) ?_ sub
  unfold Blk.closeEnd
  dsimp only
  repeat' split
  all_goals simp

@[simp] theorem within_tide (c : Nat) (sub : [.hb, .counters, .out] ⊆ parts) :
    Within parts b₀ (Blk.tide c b₁) ↔ Within parts b₀ b₁ :=
  Within.iff_of (k := [.hb, .counters, .out]) (by simp [Blk.tide]) sub

@[simp] theorem within_freeContextChannels (c : Nat) (sub : [.hb] ⊆ parts) :
    Within parts b₀ (Blk.freeContextChannels c b₁) ↔ Within parts b₀ b₁ := by
  refine Within.iff_of (k := [.hb]) ?_ sub
  exact (within_freeChannels _ (by simp)).mpr (.refl _ _)

@[simp] theorem within_resetChannels (sub : [.hb, .out] ⊆ parts) :
    Within parts b₀ (Blk.resetChannels b₁) ↔ Within parts b₀ b₁ := by
  refine Within.iff_of (k := [.hb, .out]) ?_ sub
  unfold Blk.resetChannels
  exact .trans ((within_freeChannels _ (by simp)).mpr (.refl _ _)) (.forEach _ (fun p b => by simp) _)

@[simp] theorem within_putCq (c q : Nat) (x : CombQ) (sub : [.hb] ⊆ parts) :
    Within parts b₀ (Blk.putCq b₁ c q x) ↔ Within parts b₀ b₁ :=
  Within.iff_of (k := [.hb]) (by simp [Blk.putCq]) sub

@[simp] theorem within_combOpen (c : Nat) (argix : BitVec 32) (d : BitVec 512) (sub : [.hb, .out] ⊆ parts) :
    Within parts b₀ (Blk.combOpen c argix d b₁).1 ↔ Within parts b₀ b₁ := by
  refine Within.iff_of (k := [.hb, .out]) ?_ sub
  unfold Blk.combOpen
  dsimp only
  repeat' split
  all_goals simp

@[simp] theorem within_answerFault (e : Nat) (t : TaskRef) (p : Blk × Bool) (sub : [.agents, .out] ⊆ parts) :
    Within parts b₀ (Blk.answerFault e t p) ↔ Within parts b₀ p.1 :=
  Within.iff_of (k := [.agents, .out]) (by unfold Blk.answerFault; split <;> simp) sub

@[simp] theorem within_record (c : Nat) (p : PutOp) (sub : [.fe, .hb, .counters, .out] ⊆ parts) :
    Within parts b₀ (Blk.record c p b₁).1 ↔ Within parts b₀ b₁ := by
  refine Within.iff_of (k := [.fe, .hb, .counters, .out]) ?_ sub
  unfold Blk.record
  dsimp only
  repeat' split
  all_goals simp

@[simp] theorem within_contribute (c : Nat) (src : Option (Nat × TaskRef)) (p : PutOp) (sub : [.fe, .hb, .counters, .out] ⊆ parts) :
    Within parts b₀ (Blk.contribute c src p b₁).1 ↔ Within parts b₀ b₁ := by
  refine Within.iff_of (k := [.fe, .hb, .counters, .out]) ?_ sub
  unfold Blk.contribute
  repeat' split
  all_goals simp

@[simp] theorem within_putFault (c : Nat) (src : Option (Nat × TaskRef)) (p : Blk × Bool) (sub : [.agents, .fe] ⊆ parts) :
    Within parts b₀ (Blk.putFault c src p) ↔ Within parts b₀ p.1 := by
  refine Within.iff_of (k := [.agents, .fe]) ?_ sub
  unfold Blk.putFault
  repeat' split
  all_goals simp

@[simp] theorem within_combineIssue (t : TaskRef) (argPtr : BitVec 32) (sub : [.fe, .hb, .counters] ⊆ parts) :
    Within parts b₀ (Blk.combineIssue t argPtr b₁) ↔ Within parts b₀ b₁ := by
  refine Within.iff_of (k := [.fe, .hb, .counters]) ?_ sub
  unfold Blk.combineIssue
  dsimp only
  repeat' split
  all_goals simp

@[simp] theorem within_dropSets (c : Nat) (sub : [.hb] ⊆ parts) :
    Within parts b₀ (Blk.dropSets c b₁) ↔ Within parts b₀ b₁ :=
  Within.iff_of (k := [.hb]) (by simp [Blk.dropSets]) sub

@[simp] theorem within_dropLaunchSets (c : Nat) (sub : [.hb] ⊆ parts) :
    Within parts b₀ (Blk.dropLaunchSets c b₁) ↔ Within parts b₀ b₁ :=
  Within.iff_of (k := [.hb]) (by simp [Blk.dropLaunchSets]) sub

@[simp] theorem within_transmitSignals (v : Env) (sub : [.hb, .counters, .out] ⊆ parts) :
    Within parts b₀ (Blk.transmitSignals v b₁) ↔ Within parts b₀ b₁ :=
  Within.iff_of (k := [.hb, .counters, .out]) (by simp [Blk.transmitSignals]) sub

@[simp] theorem within_ackSignal (v : Env) (s : Signal) (status : BitVec 8) (sub : [.counters, .out] ⊆ parts) :
    Within parts b₀ (Blk.ackSignal v s status b₁) ↔ Within parts b₀ b₁ :=
  Within.iff_of (k := [.counters, .out]) (by simp [Blk.ackSignal]) sub

@[simp] theorem within_ackReleased (v : Env) (sub : [.hb, .counters, .out] ⊆ parts) :
    Within parts b₀ (Blk.ackReleased v b₁) ↔ Within parts b₀ b₁ :=
  Within.iff_of (k := [.hb, .counters, .out]) (by simp [Blk.ackReleased]) sub

@[simp] theorem within_fenceWrite (q c index : Nat) (d : BitVec 512) (sub : [.fe, .out] ⊆ parts) :
    Within parts b₀ (Blk.fenceWrite q c index d b₁) ↔ Within parts b₀ b₁ :=
  Within.iff_of (k := [.fe, .out]) (by simp [Blk.fenceWrite]) sub

@[simp] theorem within_startFences (sub : [.fe, .out] ⊆ parts) :
    Within parts b₀ (Blk.startFences b₁) ↔ Within parts b₀ b₁ := by
  refine Within.iff_of (k := [.fe, .out]) ?_ sub
  unfold Blk.startFences
  refine .forEach _ (fun p b => .forEach _ (fun x b => ?_) _) _
  repeat' split
  all_goals simp

@[simp] theorem within_afterAck (v : Env) (sub : [.fe, .hb, .rel, .counters, .out] ⊆ parts) :
    Within parts b₀ (Blk.afterAck v b₁) ↔ Within parts b₀ b₁ :=
  Within.iff_of (k := [.fe, .hb, .rel, .counters, .out]) (by simp [Blk.afterAck]) sub

@[simp] theorem within_receiveAck (pkt : BitVec 128) (sub : [.hb, .counters] ⊆ parts) :
    Within parts b₀ (Blk.receiveAck pkt b₁) ↔ Within parts b₀ b₁ :=
  Within.iff_of (k := [.hb, .counters]) (by simp [Blk.receiveAck]) sub

@[simp] theorem within_putRecv (stream : BitVec 16) (r : RecvRec) (sub : [.hb] ⊆ parts) :
    Within parts b₀ (Blk.putRecv b₁ stream r) ↔ Within parts b₀ b₁ :=
  Within.iff_of (k := [.hb]) (by simp [Blk.putRecv]) sub

@[simp] theorem within_releaseStream (stream : BitVec 16) (n : Nat) (sub : [.hb, .counters] ⊆ parts) :
    Within parts b₀ (Blk.releaseStream stream n b₁) ↔ Within parts b₀ b₁ := by
  refine Within.iff_of (k := [.hb, .counters]) ?_ sub
  induction n generalizing b₁ with
  | zero => exact .refl _ _
  | succ n ih =>
    unfold Blk.releaseStream
    dsimp only
    split
    · simp
    split
    · exact .trans (by simp) ih
    · simp

@[simp] theorem within_releaseHeld (sub : [.hb, .counters] ⊆ parts) :
    Within parts b₀ (Blk.releaseHeld b₁) ↔ Within parts b₀ b₁ :=
  Within.iff_of (k := [.hb, .counters]) (by simp [Blk.releaseHeld]) sub

@[simp] theorem within_ackAgain (v : Env) (s : Signal) (sub : [.counters, .out] ⊆ parts) :
    Within parts b₀ (Blk.ackAgain v s b₁) ↔ Within parts b₀ b₁ :=
  Within.iff_of (k := [.counters, .out]) (by simp [Blk.ackAgain]) sub

@[simp] theorem within_acceptSignal (v : Env) (s : Signal) (sub : [.hb, .counters, .out] ⊆ parts) :
    Within parts b₀ (Blk.acceptSignal v s b₁) ↔ Within parts b₀ b₁ :=
  Within.iff_of (k := [.hb, .counters, .out]) (by simp [Blk.acceptSignal]) sub

@[simp] theorem within_receiveSignal (v : Env) (w : BitVec 256) (sub : [.hb, .counters, .out] ⊆ parts) :
    Within parts b₀ (Blk.receiveSignal v w b₁) ↔ Within parts b₀ b₁ :=
  Within.iff_of (k := [.hb, .counters, .out]) (by simp [Blk.receiveSignal]) sub

@[simp] theorem within_receivePacket (v : Env) (w : BitVec 256) (sub : [.hb, .counters, .out] ⊆ parts) :
    Within parts b₀ (Blk.receivePacket v w b₁) ↔ Within parts b₀ b₁ :=
  Within.iff_of (k := [.hb, .counters, .out]) (by simp [Blk.receivePacket]) sub

@[simp] theorem within_receiveBeat (v : Env) (x : FbBeat) (sub : [.hb, .counters, .out] ⊆ parts) :
    Within parts b₀ (Blk.receiveBeat v x b₁) ↔ Within parts b₀ b₁ :=
  Within.iff_of (k := [.hb, .counters, .out]) (by simp [Blk.receiveBeat]) sub

@[simp] theorem within_announced (c : Nat) (s : Signal) (sub : [.rt, .counters] ⊆ parts) :
    Within parts b₀ (Blk.announced c s b₁) ↔ Within parts b₀ b₁ :=
  Within.iff_of (k := [.rt, .counters]) (by simp [Blk.announced]) sub

@[simp] theorem within_syncSignal (v : Env) (s : Signal) (sub : [.agents, .fe, .hb, .counters, .out] ⊆ parts) :
    Within parts b₀ (Blk.syncSignal v s b₁) ↔ Within parts b₀ b₁ := by
  refine Within.iff_of (k := [.agents, .fe, .hb, .counters, .out]) ?_ sub
  unfold Blk.syncSignal
  dsimp only
  repeat' split
  all_goals simp

theorem within_signalEffect {d : Blk} {v : Env} {s : Signal} (effect : b₁.signalEffect v s = some d) :
    Within [.reaches, .agents, .fe, .rt, .hb, .counters, .out] b₁ d := by
  unfold Blk.signalEffect at effect
  dsimp only at effect
  repeat' split at effect
  all_goals cases effect
  all_goals simp

@[simp] theorem within_signalEffects (v : Env) (sub : [.reaches, .agents, .fe, .rt, .hb, .counters, .out] ⊆ parts) :
    Within parts b₀ (Blk.signalEffects v b₁) ↔ Within parts b₀ b₁ := by
  refine Within.iff_of (k := [.reaches, .agents, .fe, .rt, .hb, .counters, .out]) ?_ sub
  unfold Blk.signalEffects
  refine .trans ?_ (.forEach _ (fun s b => ?_) _)
  · simp
  · split
    · next h => exact within_signalEffect h
    · simp

@[simp] theorem within_stageReleases (v : Env) (sub : [.hb, .rel, .counters] ⊆ parts) :
    Within parts b₀ (Blk.stageReleases v b₁) ↔ Within parts b₀ b₁ :=
  Within.iff_of (k := [.hb, .rel, .counters]) (by simp [Blk.stageReleases]) sub

@[simp] theorem within_dropSignals (v : Env) (c : Nat) (sub : [.hb, .counters, .out] ⊆ parts) :
    Within parts b₀ (Blk.dropSignals v c b₁) ↔ Within parts b₀ b₁ :=
  Within.iff_of (k := [.hb, .counters, .out]) (by simp [Blk.dropSignals]) sub

@[simp] theorem within_unbindStreams (c : Nat) (sub : [.hb] ⊆ parts) :
    Within parts b₀ (Blk.unbindStreams c b₁) ↔ Within parts b₀ b₁ :=
  Within.iff_of (k := [.hb]) (by simp [Blk.unbindStreams]) sub

@[simp] theorem within_openFault (e : Nat) (t : TaskRef) (p : Blk × Bool) (sub : [.agents] ⊆ parts) :
    Within parts b₀ (Blk.openFault e t p) ↔ Within parts b₀ p.1 :=
  Within.iff_of (k := [.agents]) (by unfold Blk.openFault; split <;> simp) sub

@[simp] theorem within_sendCompletion (e : Nat) (r : Run) (word : BitVec 128) (sub : [.agents] ⊆ parts) :
    Within parts b₀ (Blk.sendCompletion e r word b₁) ↔ Within parts b₀ b₁ :=
  Within.iff_of (k := [.agents]) (by simp [Blk.sendCompletion]) sub

@[simp] theorem within_releaseItem (v : Env) (e : Nat) (t : TaskRef) (i : HoldItem) (sub : [.agents, .fe, .hb, .chanMem, .counters, .out] ⊆ parts) :
    Within parts b₀ (Blk.releaseItem v e t i b₁) ↔ Within parts b₀ b₁ := by
  refine Within.iff_of (k := [.agents, .fe, .hb, .chanMem, .counters, .out]) ?_ sub
  unfold Blk.releaseItem
  split
  case h_8 =>
    exact (within_pendSignal e t _ _ (fun l d => by simp) b₁).mono (by simp)
  all_goals repeat' split
  all_goals simp

@[simp] theorem within_takeItem (e : Nat) (x : TaskRef × HoldItem) (sub : [.agents, .counters] ⊆ parts) :
    Within parts b₀ (Blk.takeItem e x b₁) ↔ Within parts b₀ b₁ :=
  Within.iff_of (k := [.agents, .counters]) (by simp [Blk.takeItem]) sub

@[simp] theorem within_unstall (e : Nat) (sub : [.agents] ⊆ parts) :
    Within parts b₀ (Blk.unstall e b₁) ↔ Within parts b₀ b₁ := by
  refine Within.iff_of (k := [.agents]) ?_ sub
  unfold Blk.unstall
  dsimp only
  repeat' split
  all_goals simp

@[simp] theorem within_pump (v : Env) (e n : Nat) (sub : [.agents, .fe, .hb, .chanMem, .counters, .out] ⊆ parts) :
    Within parts b₀ (Blk.pump v e n b₁) ↔ Within parts b₀ b₁ := by
  refine Within.iff_of (k := [.agents, .fe, .hb, .chanMem, .counters, .out]) ?_ sub
  induction n generalizing b₁ with
  | zero => exact .refl _ _
  | succ n ih =>
    unfold Blk.pump
    dsimp only
    split
    · simp
    split
    · simp
    · exact .trans (by simp) ih

@[simp] theorem within_release (v : Env) (e : Nat) (sub : [.agents, .fe, .hb, .chanMem, .counters, .out] ⊆ parts) :
    Within parts b₀ (Blk.release v e b₁) ↔ Within parts b₀ b₁ := by
  refine Within.iff_of (k := [.agents, .fe, .hb, .chanMem, .counters, .out]) ?_ sub
  unfold Blk.release
  split <;> simp

@[simp] theorem within_discardItems (e : Nat) (t : TaskRef) (squash : Bool) (sub : [.agents, .counters] ⊆ parts) :
    Within parts b₀ (Blk.discardItems e t squash b₁) ↔ Within parts b₀ b₁ :=
  Within.iff_of (k := [.agents, .counters]) (by simp [Blk.discardItems]) sub

@[simp] theorem within_commitAt (v : Env) (e : Nat) (t : TaskRef) (sub : [.agents, .fe, .hb, .chanMem, .counters, .out] ⊆ parts) :
    Within parts b₀ (Blk.commitAt v e t b₁) ↔ Within parts b₀ b₁ :=
  Within.iff_of (k := [.agents, .fe, .hb, .chanMem, .counters, .out]) (by simp [Blk.commitAt]) sub

@[simp] theorem within_squashAt (e : Nat) (t : TaskRef) (sub : [.agents, .counters, .out] ⊆ parts) :
    Within parts b₀ (Blk.squashAt e t b₁) ↔ Within parts b₀ b₁ :=
  Within.iff_of (k := [.agents, .counters, .out]) (by simp [Blk.squashAt]) sub

@[simp] theorem within_charge (r k amount : Nat) (sub : [.reaches] ⊆ parts) :
    Within parts b₀ (Blk.charge r k amount b₁) ↔ Within parts b₀ b₁ :=
  Within.iff_of (k := [.reaches]) (by simp [Blk.charge]) sub

@[simp] theorem within_refuse (e : Nat) (d : DWord) (sub : [.reaches, .counters] ⊆ parts) :
    Within parts b₀ (Blk.refuse e d b₁) ↔ Within parts b₀ b₁ := by
  refine Within.iff_of (k := [.reaches, .counters]) ?_ sub
  unfold Blk.refuse
  dsimp only
  repeat' split
  all_goals simp

@[simp] theorem within_endListHold (e : Nat) (sub : [.reaches, .agents, .out] ⊆ parts) :
    Within parts b₀ (Blk.endListHold e b₁) ↔ Within parts b₀ b₁ := by
  refine Within.iff_of (k := [.reaches, .agents, .out]) ?_ sub
  unfold Blk.endListHold
  dsimp only
  split
  · simp
  · simp [apply_ite Reach.blocks]

@[simp] theorem within_presentAt (v : Env) (e : Nat) (sub : [.agents, .out] ⊆ parts) :
    Within parts b₀ (Blk.presentAt v e b₁) ↔ Within parts b₀ b₁ := by
  refine Within.iff_of (k := [.agents, .out]) ?_ sub
  unfold Blk.presentAt
  repeat' split
  all_goals simp

@[simp] theorem within_assertAbort (e : Nat) (cause : AbortCause) (sub : [.agents, .out] ⊆ parts) :
    Within parts b₀ (Blk.assertAbort e cause b₁) ↔ Within parts b₀ b₁ :=
  Within.iff_of (k := [.agents, .out]) (by simp [Blk.assertAbort]) sub

@[simp] theorem within_enqueue (e : Nat) (d : DWord) (sub : [.reaches, .agents, .counters] ⊆ parts) :
    Within parts b₀ (Blk.enqueue e d b₁) ↔ Within parts b₀ b₁ :=
  Within.iff_of (k := [.reaches, .agents, .counters]) (by simp [Blk.enqueue]) sub

@[simp] theorem within_wordArrive (v : Env) (e : Nat) (d : DWord) (sub : [.reaches, .agents, .counters, .out] ⊆ parts) :
    Within parts b₀ (Blk.wordArrive v e d b₁) ↔ Within parts b₀ b₁ :=
  Within.iff_of (k := [.reaches, .agents, .counters, .out]) (by simp [Blk.wordArrive]) sub

@[simp] theorem within_startRun (v : Env) (since e tile : Nat) (d : DWord) (sub : [.agents] ⊆ parts) :
    Within parts b₀ (Blk.startRun v since e tile d b₁) ↔ Within parts b₀ b₁ :=
  Within.iff_of (k := [.agents]) (by simp [Blk.startRun]) sub

@[simp] theorem within_cancelWait (e : Nat) (sub : [.agents, .hb, .out] ⊆ parts) :
    Within parts b₀ (Blk.cancelWait e b₁) ↔ Within parts b₀ b₁ := by
  refine Within.iff_of (k := [.agents, .hb, .out]) ?_ sub
  unfold Blk.cancelWait
  repeat' split
  all_goals simp

@[simp] theorem within_dropRun (e : Nat) (squash : Bool) (sub : [.agents, .hb, .counters, .out] ⊆ parts) :
    Within parts b₀ (Blk.dropRun e squash b₁) ↔ Within parts b₀ b₁ := by
  refine Within.iff_of (k := [.agents, .hb, .counters, .out]) ?_ sub
  unfold Blk.dropRun
  dsimp only
  repeat' split
  all_goals simp

@[simp] theorem within_nextTile (v : Env) (e : Nat) (sub : [.reaches, .agents, .out] ⊆ parts) :
    Within parts b₀ (Blk.nextTile v e b₁) ↔ Within parts b₀ b₁ := by
  refine Within.iff_of (k := [.reaches, .agents, .out]) ?_ sub
  unfold Blk.nextTile
  dsimp only
  repeat' split
  all_goals simp

@[simp] theorem within_flushLate (e : Nat) (sub : [.agents] ⊆ parts) :
    Within parts b₀ (Blk.flushLate e b₁) ↔ Within parts b₀ b₁ :=
  Within.iff_of (k := [.agents]) (by simp [Blk.flushLate]) sub

@[simp] theorem within_finishRun (v : Env) (e : Nat) (r : Run) (word : BitVec 128) (sub : [.agents, .fe, .hb, .chanMem, .counters, .out] ⊆ parts) :
    Within parts b₀ (Blk.finishRun v e r word b₁) ↔ Within parts b₀ b₁ := by
  refine Within.iff_of (k := [.agents, .fe, .hb, .chanMem, .counters, .out]) ?_ sub
  unfold Blk.finishRun
  dsimp only
  repeat' split
  all_goals simp

@[simp] theorem within_engineCompletes (v : Env) (e : Nat) (r : Run) (word : BitVec 128) (sub : [.reaches, .agents, .fe, .hb, .chanMem, .counters, .out] ⊆ parts) :
    Within parts b₀ (Blk.engineCompletes v e r word b₁) ↔ Within parts b₀ b₁ := by
  refine Within.iff_of (k := [.reaches, .agents, .fe, .hb, .chanMem, .counters, .out]) ?_ sub
  unfold Blk.engineCompletes
  dsimp only
  repeat' split
  all_goals simp

@[simp] theorem within_landWord (c : Cpl) (sub : [.reaches, .counters] ⊆ parts) :
    Within parts b₀ (Blk.landWord c b₁) ↔ Within parts b₀ b₁ :=
  Within.iff_of (k := [.reaches, .counters]) (by simp [Blk.landWord]) sub

@[simp] theorem within_landAll (e : Nat) (sub : [.reaches, .agents, .counters] ⊆ parts) :
    Within parts b₀ (Blk.landAll e b₁) ↔ Within parts b₀ b₁ :=
  Within.iff_of (k := [.reaches, .agents, .counters]) (by simp [Blk.landAll]) sub

@[simp] theorem within_landNext (e : Nat) (sub : [.reaches, .agents, .counters] ⊆ parts) :
    Within parts b₀ (Blk.landNext e b₁) ↔ Within parts b₀ b₁ := by
  refine Within.iff_of (k := [.reaches, .agents, .counters]) ?_ sub
  unfold Blk.landNext
  repeat' split
  all_goals simp

@[simp] theorem within_landHeld (e : Nat) (sub : [.reaches, .agents, .counters] ⊆ parts) :
    Within parts b₀ (Blk.landHeld e b₁) ↔ Within parts b₀ b₁ :=
  Within.iff_of (k := [.reaches, .agents, .counters]) (by simp [Blk.landHeld]) sub

@[simp] theorem within_preemptNotice (e : Nat) (r : Run) (sub : [.agents, .hb, .counters, .out] ⊆ parts) :
    Within parts b₀ (Blk.preemptNotice e r b₁) ↔ Within parts b₀ b₁ :=
  Within.iff_of (k := [.agents, .hb, .counters, .out]) (by simp [Blk.preemptNotice]) sub

@[simp] theorem within_abortAcked (e : Nat) (cause : AbortCause) (sub : [.reaches, .agents, .hb, .counters, .out] ⊆ parts) :
    Within parts b₀ (Blk.abortAcked e cause b₁) ↔ Within parts b₀ b₁ := by
  refine Within.iff_of (k := [.reaches, .agents, .hb, .counters, .out]) ?_ sub
  unfold Blk.abortAcked
  dsimp only
  repeat' split
  all_goals simp

@[simp] theorem within_abortAt (e : Nat) (t : TaskRef) (why : AbortWhy) (sub : [.reaches, .agents, .counters, .out] ⊆ parts) :
    Within parts b₀ (Blk.abortAt e t why b₁) ↔ Within parts b₀ b₁ := by
  refine Within.iff_of (k := [.reaches, .agents, .counters, .out]) ?_ sub
  unfold Blk.abortAt
  dsimp only
  split
  · split <;> simp
  · simp

@[simp] theorem within_emptyPull (e : Nat) (sub : [.reaches, .agents, .out] ⊆ parts) :
    Within parts b₀ (Blk.emptyPull e b₁) ↔ Within parts b₀ b₁ := by
  refine Within.iff_of (k := [.reaches, .agents, .out]) ?_ sub
  unfold Blk.emptyPull
  dsimp only
  split
  · simp
  split
  · simp
  · simp

@[simp] theorem within_giveTile (v : Env) (e k : Nat) (d : DWord) (sub : [.agents, .out] ⊆ parts) :
    Within parts b₀ (Blk.giveTile v e k d b₁) ↔ Within parts b₀ b₁ :=
  Within.iff_of (k := [.agents, .out]) (by simp [Blk.giveTile]) sub

@[simp] theorem within_setLast (t : TaskRef) (e : Nat) (sub : [.reaches, .blocks] ⊆ parts) :
    Within parts b₀ (Blk.setLast t e b₁) ↔ Within parts b₀ b₁ :=
  Within.iff_of (k := [.reaches, .blocks]) (by simp [Blk.setLast]) sub

@[simp] theorem within_answerPull (v : Env) (e : Nat) (sub : [.reaches, .blocks, .agents, .counters, .out] ⊆ parts) :
    Within parts b₀ (Blk.answerPull v e b₁) ↔ Within parts b₀ b₁ := by
  refine Within.iff_of (k := [.reaches, .blocks, .agents, .counters, .out]) ?_ sub
  unfold Blk.answerPull
  dsimp only
  repeat' split
  all_goals simp

@[simp] theorem within_fwGo (v : Env) (sub : [.fe, .out] ⊆ parts) :
    Within parts b₀ (Blk.fwGo v b₁) ↔ Within parts b₀ b₁ :=
  Within.iff_of (k := [.fe, .out]) (by simp [Blk.fwGo]) sub

@[simp] theorem within_fwReject (reason : Nat) (sub : [.fe, .mc, .counters] ⊆ parts) :
    Within parts b₀ (Blk.fwReject reason b₁) ↔ Within parts b₀ b₁ :=
  Within.iff_of (k := [.fe, .mc, .counters]) (by simp [Blk.fwReject]) sub

@[simp] theorem within_fwSections (v : Env) (image : List Byte) (sub : [.fe, .rel] ⊆ parts) :
    Within parts b₀ (Blk.fwSections v image b₁) ↔ Within parts b₀ b₁ :=
  Within.iff_of (k := [.fe, .rel]) (by simp [Blk.fwSections]) sub

@[simp] theorem within_debit (v : Env) (sub : [.pg, .counters] ⊆ parts) :
    Within parts b₀ (Blk.debit v b₁) ↔ Within parts b₀ b₁ :=
  Within.iff_of (k := [.pg, .counters]) (by simp [Blk.debit]) sub

@[simp] theorem within_setBoost (on : Bool) (sub : [.pg, .out] ⊆ parts) :
    Within parts b₀ (Blk.setBoost b₁ on) ↔ Within parts b₀ b₁ :=
  Within.iff_of (k := [.pg, .out]) (by simp [Blk.setBoost]) sub

@[simp] theorem within_droopRise (v : Env) (sub : [.pg, .counters, .out] ⊆ parts) :
    Within parts b₀ (Blk.droopRise v b₁) ↔ Within parts b₀ b₁ :=
  Within.iff_of (k := [.pg, .counters, .out]) (by simp [Blk.droopRise]) sub

@[simp] theorem within_pgEdge (v : Env) (mg : Nat) (sub : [.pg, .mc, .counters, .out] ⊆ parts) :
    Within parts b₀ (Blk.pgEdge v mg b₁) ↔ Within parts b₀ b₁ :=
  Within.iff_of (k := [.pg, .mc, .counters, .out]) (by simp [Blk.pgEdge]) sub

@[simp] theorem within_boostControl (v : Env) (sub : [.pg, .out] ⊆ parts) :
    Within parts b₀ (Blk.boostControl v b₁) ↔ Within parts b₀ b₁ :=
  Within.iff_of (k := [.pg, .out]) (by simp [Blk.boostControl]) sub

@[simp] theorem within_controlEdge (v : Env) (sub : [.pg, .mc, .counters, .out] ⊆ parts) :
    Within parts b₀ (Blk.controlEdge v b₁) ↔ Within parts b₀ b₁ :=
  Within.iff_of (k := [.pg, .mc, .counters, .out]) (by simp [Blk.controlEdge]) sub

@[simp] theorem within_droopPins (v : Env) (pins : BitVec 8) (sub : [.pg, .counters, .out] ⊆ parts) :
    Within parts b₀ (Blk.droopPins v pins b₁) ↔ Within parts b₀ b₁ := by
  refine Within.iff_of (k := [.pg, .counters, .out]) ?_ sub
  unfold Blk.droopPins
  refine (within_droopRise v (by simp)).mpr ?_
  exact List.foldlRecOn _ _ (by simp) fun b within c _ => within.trans (by simp)

theorem readEntry_blocks {rc rc' : Reach} (h : rc.readEntry = some rc') : rc'.blocks = rc.blocks := by
  unfold Reach.readEntry at h
  dsimp only at h
  split at h
  · cases h
  split at h
  · cases h; rfl
  split at h
  · cases h
  split at h
  · cases h
  split at h <;> cases h <;> rfl

theorem readEdges_blocks (n : Nat) (rc : Reach) : (rc.readEdges n).blocks = rc.blocks := by
  induction n generalizing rc with
  | zero => rfl
  | succ n ih =>
    unfold Reach.readEdges
    split
    · next h => exact (ih _).trans (readEntry_blocks h)
    · rfl

@[simp] theorem within_edgeRead (r : Nat) (sub : [.reaches] ⊆ parts) :
    Within parts b₀ (b₁.edgeRead r) ↔ Within parts b₀ b₁ :=
  within_modReach_blocks r _ (fun rc => readEdges_blocks _ rc) sub

@[simp] theorem within_sendFrom (dst r : Nat) (sub : [.reaches, .counters] ⊆ parts) :
    Within parts b₀ (Blk.sendFrom dst r b₁) ↔ Within parts b₀ b₁ :=
  Within.iff_of (k := [.reaches, .counters]) (by simp [Blk.sendFrom]) sub

@[simp] theorem within_outboxSend (v : Env) (dst : Nat) (sub : [.reaches, .counters] ⊆ parts) :
    Within parts b₀ (Blk.outboxSend v b₁ dst) ↔ Within parts b₀ b₁ :=
  Within.iff_of (k := [.reaches, .counters]) (by simp [Blk.outboxSend]) sub

@[simp] theorem within_readAll (v : Env) (sub : [.reaches] ⊆ parts) :
    Within parts b₀ (Blk.readAll v b₁) ↔ Within parts b₀ b₁ :=
  Within.iff_of (k := [.reaches]) (by simp [Blk.readAll]) sub

@[simp] theorem within_transport (v : Env) (n : Nat) (sub : [.reaches, .counters] ⊆ parts) :
    Within parts b₀ (b₁.transport v n) ↔ Within parts b₀ b₁ := by
  refine Within.iff_of (k := [.reaches, .counters]) ?_ sub
  induction n generalizing b₁ with
  | zero => exact .refl _ _
  | succ n ih =>
    unfold Blk.transport
    dsimp only
    split
    · simp
    · exact .trans (by simp) ih

@[simp] theorem within_applyArrivals (v : Env) (dst : Nat) (sub : [.reaches, .blocks, .fe, .counters] ⊆ parts) :
    Within parts b₀ (Blk.applyArrivals v b₁ dst) ↔ Within parts b₀ b₁ :=
  Within.iff_of (k := [.reaches, .blocks, .fe, .counters]) (by simp [Blk.applyArrivals]) sub

@[simp] theorem within_pulseTransport (v : Env) (sub : [.reaches, .counters] ⊆ parts) :
    Within parts b₀ (Blk.pulseTransport v b₁) ↔ Within parts b₀ b₁ := by
  refine Within.iff_of (k := [.reaches, .counters]) ?_ sub
  simp [Blk.pulseTransport]

@[simp] theorem within_endTransport (r : Nat) (sub : [.reaches, .counters] ⊆ parts) :
    Within parts b₀ (Blk.endTransport b₁ r) ↔ Within parts b₀ b₁ :=
  Within.iff_of (k := [.reaches, .counters]) (by simp [Blk.endTransport]) sub

@[simp] theorem within_finishTransport (v : Env) (sub : [.reaches, .blocks, .fe, .counters] ⊆ parts) :
    Within parts b₀ (Blk.finishTransport v b₁) ↔ Within parts b₀ b₁ :=
  Within.iff_of (k := [.reaches, .blocks, .fe, .counters]) (by simp [Blk.finishTransport]) sub

@[simp] theorem within_writeTable (c : Nat) (f : Frame) (sub : [.out] ⊆ parts) :
    Within parts b₀ (Blk.writeTable c f b₁) ↔ Within parts b₀ b₁ := by
  refine Within.iff_of (k := [.out]) ?_ sub
  unfold Blk.writeTable
  repeat' split
  all_goals simp

@[simp] theorem within_saveLive (c r seg vb : Nat) (es : Tbl Task) (epoch : Nat) (sub : [.fe, .out] ⊆ parts) :
    Within parts b₀ (Blk.saveLive c r seg vb es epoch b₁) ↔ Within parts b₀ b₁ := by
  refine Within.iff_of (k := [.fe, .out]) ?_ sub
  unfold Blk.saveLive
  dsimp only
  repeat' split
  all_goals simp

@[simp] theorem within_install (r c : Nat) (f : Frame) (phys base : Nat) (entries : Tbl Task) (sub : [.reaches, .blocks, .fe] ⊆ parts) :
    Within parts b₀ (Blk.install r c f phys base entries b₁) ↔ Within parts b₀ b₁ :=
  Within.iff_of (k := [.reaches, .blocks, .fe]) (by simp [Blk.install]) sub

@[simp] theorem within_placeImage (c : Nat) (reaches : List Nat) (sub : [.reaches, .blocks, .fe, .rel] ⊆ parts) :
    Within parts b₀ (Blk.placeImage c reaches b₁) ↔ Within parts b₀ b₁ := by
  refine Within.iff_of (k := [.reaches, .blocks, .fe, .rel]) ?_ sub
  unfold Blk.placeImage
  refine .forEach _ (fun r b => within_foldl_fst (fun a f => ?_) _ (b, false)) _
  repeat' split
  all_goals simp

@[simp] theorem within_unplace (v : Env) (c : Nat) (sub : [.reaches, .blocks, .fe] ⊆ parts) :
    Within parts b₀ (Blk.unplace v c b₁) ↔ Within parts b₀ b₁ :=
  Within.iff_of (k := [.reaches, .blocks, .fe]) (by simp [Blk.unplace]) sub

@[simp] theorem within_beginPageIn (r c : Nat) (f : Frame) (live : Bool) (phys base : Nat) (sub : [.reaches, .out] ⊆ parts) :
    Within parts b₀ (Blk.beginPageIn r c f live phys base b₁) ↔ Within parts b₀ b₁ :=
  Within.iff_of (k := [.reaches, .out]) (by simp [Blk.beginPageIn]) sub

@[simp] theorem within_applyLedger (v : Env) (r c seg vb : Nat) (sub : [.reaches, .blocks, .fe, .counters] ⊆ parts) :
    Within parts b₀ (Blk.applyLedger v r c seg vb b₁) ↔ Within parts b₀ b₁ := by
  refine Within.iff_of (k := [.reaches, .blocks, .fe, .counters]) ?_ sub
  unfold Blk.applyLedger
  refine .trans (by simp) (.forEach _ (fun l b => ?_) _)
  simp

@[simp] theorem within_pageInStage (v : Env) (r : Nat) (sub : [.reaches, .blocks, .fe, .rel, .db, .counters] ⊆ parts) :
    Within parts b₀ (Blk.pageInStage v b₁ r) ↔ Within parts b₀ b₁ := by
  refine Within.iff_of (k := [.reaches, .blocks, .fe, .rel, .db, .counters]) ?_ sub
  unfold Blk.pageInStage
  dsimp only
  repeat' split
  all_goals simp

@[simp] theorem within_spillHalt (v : Env) (r : Nat) (sub : [.reaches, .fe, .rel, .mc, .counters, .out, .fresh] ⊆ parts) :
    Within parts b₀ (Blk.spillHalt v b₁ r) ↔ Within parts b₀ b₁ :=
  Within.iff_of (k := [.reaches, .fe, .rel, .mc, .counters, .out, .fresh]) (by simp [Blk.spillHalt]) sub

@[simp] theorem within_pageServe (r : Nat) (sub : [.reaches, .blocks, .counters, .out] ⊆ parts) :
    Within parts b₀ (Blk.pageServe b₁ r) ↔ Within parts b₀ b₁ := by
  refine Within.iff_of (k := [.reaches, .blocks, .counters, .out]) ?_ sub
  unfold Blk.pageServe
  dsimp only
  repeat' split
  all_goals simp

@[simp] theorem within_unitLive (t : TaskRef) (es : Tbl Task) (u : UnitKind) (sub : [.reaches, .fe, .counters] ⊆ parts) :
    Within parts b₀ (b₁.unitLive t es u).2 ↔ Within parts b₀ b₁ := by
  refine Within.iff_of (k := [.reaches, .fe, .counters]) ?_ sub
  unfold Blk.unitLive
  repeat' split
  all_goals simp

@[simp] theorem within_ledgerRmw (v : Env) (r : Nat) (u : XUnit) (sub : [.reaches, .blocks, .fe, .counters, .out] ⊆ parts) :
    Within parts b₀ (Blk.ledgerRmw v r u b₁) ↔ Within parts b₀ b₁ := by
  refine Within.iff_of (k := [.reaches, .blocks, .fe, .counters, .out]) ?_ sub
  unfold Blk.ledgerRmw
  dsimp only
  repeat' split
  all_goals simp

@[simp] theorem within_writeCopy (v : Env) (k : Ckpt) (y : CtxCopy) (sub : [.out] ⊆ parts) :
    Within parts b₀ (Blk.writeCopy v k y b₁) ↔ Within parts b₀ b₁ :=
  Within.iff_of (k := [.out]) (by simp [Blk.writeCopy]) sub

@[simp] theorem within_recopy (v : Env) (c : Nat) (sub : [.rel, .out] ⊆ parts) :
    Within parts b₀ (Blk.recopy v c b₁) ↔ Within parts b₀ b₁ := by
  refine Within.iff_of (k := [.rel, .out]) ?_ sub
  unfold Blk.recopy
  dsimp only
  repeat' split
  all_goals simp

@[simp] theorem within_uncopy (c : Nat) (sub : [.rel] ⊆ parts) :
    Within parts b₀ (Blk.uncopy c b₁) ↔ Within parts b₀ b₁ :=
  Within.iff_of (k := [.rel]) (by simp [Blk.uncopy]) sub

@[simp] theorem within_relocate (c : Ctx) (rs : List (Nat × Nat × BitVec 64)) (handles : List (BitVec 64)) (sub : [.out] ⊆ parts) :
    Within parts b₀ (Blk.relocate c rs handles b₁) ↔ Within parts b₀ b₁ :=
  Within.iff_of (k := [.out]) (by simp [Blk.relocate]) sub

@[simp] theorem within_writeFrame (c : Nat) (f : Frame) (sub : [.out] ⊆ parts) :
    Within parts b₀ (Blk.writeFrame c f b₁) ↔ Within parts b₀ b₁ :=
  Within.iff_of (k := [.out]) (by simp [Blk.writeFrame]) sub

@[simp] theorem within_loadImage (v : Env) (c : Nat) (m : Img) (handles : List (BitVec 64)) (sub : [.reaches, .blocks, .fe, .rel, .out] ⊆ parts) :
    Within parts b₀ (Blk.loadImage v c m handles b₁) ↔ Within parts b₀ b₁ := by
  refine Within.iff_of (k := [.reaches, .blocks, .fe, .rel, .out]) ?_ sub
  unfold Blk.loadImage
  dsimp only
  repeat' split
  all_goals simp

@[simp] theorem within_countSelect (v : Env) (p : SelectFrom) (t : TaskRef) (readyEdge e tile : Nat) (sub : [.db, .counters] ⊆ parts) :
    Within parts b₀ (Blk.countSelect v p t readyEdge e tile b₁) ↔ Within parts b₀ b₁ := by
  refine Within.iff_of (k := [.db, .counters]) ?_ sub
  unfold Blk.countSelect
  dsimp only
  repeat' split
  all_goals simp

@[simp] theorem within_useClk (r : Nat) (sub : [.reaches] ⊆ parts) :
    Within parts b₀ (Blk.useClk b₁ r) ↔ Within parts b₀ b₁ :=
  Within.iff_of (k := [.reaches]) (by simp [Blk.useClk]) sub

@[simp] theorem within_sendWord (r e : Nat) (t : TaskRef) (x : Task) (a : DispatchArgs) (tile gang : Option Nat) (sub : [.reaches, .agents] ⊆ parts) :
    Within parts b₀ (Blk.sendWord r e t x a tile gang b₁) ↔ Within parts b₀ b₁ :=
  Within.iff_of (k := [.reaches, .agents]) (by simp [Blk.sendWord]) sub

@[simp] theorem within_choose (r e : Nat) (sub : [.reaches] ⊆ parts) :
    Within parts b₀ (Blk.choose r e b₁) ↔ Within parts b₀ b₁ :=
  Within.iff_of (k := [.reaches]) (by simp [Blk.choose]) sub

@[simp] theorem within_takeTask (t : TaskRef) (sub : [.reaches, .blocks] ⊆ parts) :
    Within parts b₀ (Blk.takeTask t b₁) ↔ Within parts b₀ b₁ :=
  Within.iff_of (k := [.reaches, .blocks]) (by simp [Blk.takeTask]) sub

@[simp] theorem within_selectShadow (v : Env) (t : TaskRef) (x : Task) (e : Nat) (sub : [.reaches, .blocks, .agents, .db, .counters] ⊆ parts) :
    Within parts b₀ (Blk.selectShadow v t x e b₁) ↔ Within parts b₀ b₁ := by
  refine Within.iff_of (k := [.reaches, .blocks, .agents, .db, .counters]) ?_ sub
  unfold Blk.selectShadow
  dsimp only
  repeat' split
  all_goals simp

@[simp] theorem within_selectOn (v : Env) (p : SelectFrom) (t : TaskRef) (x : Task) (e : Nat) (preempting : Bool) (sub : [.reaches, .blocks, .agents, .db, .counters] ⊆ parts) :
    Within parts b₀ (Blk.selectOn v p t x e preempting b₁) ↔ Within parts b₀ b₁ :=
  Within.iff_of (k := [.reaches, .blocks, .agents, .db, .counters]) (by simp [Blk.selectOn]) sub

@[simp] theorem within_selectBare (v : Env) (p : SelectFrom) (t : TaskRef) (x : Task) (sub : [.reaches, .blocks, .fe, .hb, .db, .counters] ⊆ parts) :
    Within parts b₀ (Blk.selectBare v p t x b₁) ↔ Within parts b₀ b₁ := by
  refine Within.iff_of (k := [.reaches, .blocks, .fe, .hb, .db, .counters]) ?_ sub
  unfold Blk.selectBare
  dsimp only
  repeat' split
  all_goals simp

@[simp] theorem within_sendMember (g : GangSend) (m e : Nat) (sub : [.reaches, .agents] ⊆ parts) :
    Within parts b₀ (Blk.sendMember g m e b₁) ↔ Within parts b₀ b₁ := by
  refine Within.iff_of (k := [.reaches, .agents]) ?_ sub
  unfold Blk.sendMember
  dsimp only
  repeat' split
  all_goals simp

@[simp] theorem within_sendGang (g : GangSend) (pairs : List (Nat × Nat)) (sub : [.reaches, .agents] ⊆ parts) :
    Within parts b₀ (Blk.sendGang g pairs b₁) ↔ Within parts b₀ b₁ := by
  refine Within.iff_of (k := [.reaches, .agents]) ?_ sub
  induction pairs generalizing b₁ with
  | nil => simp [Blk.sendGang]
  | cons p rest ih =>
    unfold Blk.sendGang
    split
    · simp
    · exact .trans (by simp) ih

@[simp] theorem within_selectGang (v : Env) (p : SelectFrom) (t : TaskRef) (x : Task) (es : List Nat) (sub : [.reaches, .blocks, .agents, .db, .counters] ⊆ parts) :
    Within parts b₀ (Blk.selectGang v p t x es b₁) ↔ Within parts b₀ b₁ := by
  refine Within.iff_of (k := [.reaches, .blocks, .agents, .db, .counters]) ?_ sub
  simp [Blk.selectGang]

@[simp] theorem within_trySelect (v : Env) (p : SelectFrom) (t : TaskRef) (sub : [.reaches, .blocks, .agents, .fe, .hb, .db, .counters] ⊆ parts) :
    Within parts b₀ (Blk.trySelect v p t b₁).1 ↔ Within parts b₀ b₁ := by
  refine Within.iff_of (k := [.reaches, .blocks, .agents, .fe, .hb, .db, .counters]) ?_ sub
  unfold Blk.trySelect
  dsimp only
  repeat' split
  all_goals simp

@[simp] theorem within_examine (v : Env) (p : SelectFrom) (t : TaskRef) (n : Nat)
    (sub : [.reaches, .blocks, .agents, .fe, .hb, .db, .counters] ⊆ parts) :
    Within parts b₀ (Blk.examine v p t n b₁) ↔ Within parts b₀ b₁ := by
  refine Within.iff_of (k := [.reaches, .blocks, .agents, .fe, .hb, .db, .counters]) ?_ sub
  induction n generalizing b₁ with
  | zero => exact .refl _ _
  | succ n ih =>
    unfold Blk.examine
    dsimp only
    split
    · simp
    split
    · exact .trans (by simp) ih
    · simp

@[simp] theorem within_select (v : Env) (r : Nat) (sub : [.reaches, .blocks, .agents, .fe, .hb, .db, .counters] ⊆ parts) :
    Within parts b₀ (Blk.select v b₁ r) ↔ Within parts b₀ b₁ := by
  refine Within.iff_of (k := [.reaches, .blocks, .agents, .fe, .hb, .db, .counters]) ?_ sub
  unfold Blk.select
  dsimp only
  split <;> simp

@[simp] theorem within_selectAll (v : Env) (sub : [.reaches, .blocks, .agents, .fe, .hb, .db, .counters] ⊆ parts) :
    Within parts b₀ (Blk.selectAll v b₁) ↔ Within parts b₀ b₁ :=
  Within.iff_of (k := [.reaches, .blocks, .agents, .fe, .hb, .db, .counters]) (by simp [Blk.selectAll]) sub

@[simp] theorem within_setQState (v : Env) (q : Nat) (st : QState) (cause : Option Nat := none) (sub : [.fe, .rel, .out] ⊆ parts) :
    Within parts b₀ (Blk.setQState v q st b₁ cause) ↔ Within parts b₀ b₁ := by
  refine Within.iff_of (k := [.fe, .rel, .out]) ?_ sub
  unfold Blk.setQState
  repeat' split
  all_goals simp

@[simp] theorem within_askAnd (v : Env) (who : AskedBy) (q : Nat) (sub : [.fe, .out] ⊆ parts) :
    Within parts b₀ (Blk.askAnd v who q b₁) ↔ Within parts b₀ b₁ :=
  Within.iff_of (k := [.fe, .out]) (by simp [Blk.askAnd]) sub

@[simp] theorem within_askPi (v : Env) (who : AskedBy) (q : Nat) (sub : [.fe, .out] ⊆ parts) :
    Within parts b₀ (Blk.askPi v who q b₁) ↔ Within parts b₀ b₁ :=
  Within.iff_of (k := [.fe, .out]) (by simp [Blk.askPi]) sub

@[simp] theorem within_lastLook (v : Env) (q : Nat) (sub : [.fe, .counters, .out] ⊆ parts) :
    Within parts b₀ (Blk.lastLook v q b₁) ↔ Within parts b₀ b₁ :=
  Within.iff_of (k := [.fe, .counters, .out]) (by simp [Blk.lastLook]) sub

@[simp] theorem within_fetchNext (v : Env) (q : Nat) (sub : [.fe, .out] ⊆ parts) :
    Within parts b₀ (Blk.fetchNext v q b₁) ↔ Within parts b₀ b₁ := by
  refine Within.iff_of (k := [.fe, .out]) ?_ sub
  unfold Blk.fetchNext
  repeat' split
  all_goals simp

@[simp] theorem within_fetchAll (v : Env) (sub : [.fe, .out] ⊆ parts) :
    Within parts b₀ (Blk.fetchAll v b₁) ↔ Within parts b₀ b₁ :=
  Within.iff_of (k := [.fe, .out]) (by simp [Blk.fetchAll]) sub

@[simp] theorem within_startPoll (v : Env) (alone : Bool) (sub : [.fe, .counters, .out] ⊆ parts) :
    Within parts b₀ (Blk.startPoll v alone b₁) ↔ Within parts b₀ b₁ :=
  Within.iff_of (k := [.fe, .counters, .out]) (by simp [Blk.startPoll]) sub

@[simp] theorem within_endPoll (v : Env) (sub : [.fe] ⊆ parts) :
    Within parts b₀ (Blk.endPoll v b₁) ↔ Within parts b₀ b₁ :=
  Within.iff_of (k := [.fe]) (by simp [Blk.endPoll]) sub

@[simp] theorem within_bellFound (v : Env) (q : Nat) (sub : [.fe, .counters, .out] ⊆ parts) :
    Within parts b₀ (Blk.bellFound v q b₁) ↔ Within parts b₀ b₁ :=
  Within.iff_of (k := [.fe, .counters, .out]) (by simp [Blk.bellFound]) sub

@[simp] theorem within_readAgainNow (v : Env) (q : Nat) (sub : [.fe, .out] ⊆ parts) :
    Within parts b₀ (Blk.readAgainNow v q b₁) ↔ Within parts b₀ b₁ :=
  Within.iff_of (k := [.fe, .out]) (by simp [Blk.readAgainNow]) sub

@[simp] theorem within_abandonPoll (err : Bool) (sub : [.fe] ⊆ parts) :
    Within parts b₀ (Blk.abandonPoll err b₁) ↔ Within parts b₀ b₁ :=
  Within.iff_of (k := [.fe]) (by simp [Blk.abandonPoll]) sub

@[simp] theorem within_bellOver (v : Env) (q : Nat) (sub : [.fe] ⊆ parts) :
    Within parts b₀ (Blk.bellOver v q b₁) ↔ Within parts b₀ b₁ :=
  Within.iff_of (k := [.fe]) (by simp [Blk.bellOver]) sub

theorem within_respond (v : Env) (p : HostReq → Bool) (err : Bool) (k : Blk → Blk) {l : List Part}
    (keeps : ∀ b, Within l b (k b)) (sub : [.fe, .counters, .out] ⊆ l) (b : Blk) : Within l b (b.respond v p err k) := by
  unfold Blk.respond
  split
  · exact .trans ((within_hostRsp _ _ sub).mpr (.refl _ _)) (keeps _)
  refine .mono (k := [.fe, .counters, .out]) ?_ sub
  dsimp only
  repeat' split
  all_goals simp

@[simp] theorem within_bellAndDone (v : Env) (q : Nat) (err : Bool) (sub : [.fe, .out] ⊆ parts) :
    Within parts b₀ (Blk.bellAndDone v q err b₁) ↔ Within parts b₀ b₁ :=
  Within.iff_of (k := [.fe, .out]) (by simp [Blk.bellAndDone]) sub

@[simp] theorem within_lookAndDone (v : Env) (q : Nat) (err : Bool) (sub : [.fe, .out] ⊆ parts) :
    Within parts b₀ (Blk.lookAndDone v q err b₁) ↔ Within parts b₀ b₁ :=
  Within.iff_of (k := [.fe, .out]) (by simp [Blk.lookAndDone]) sub

@[simp] theorem within_lookFound (v : Env) (q pi : Nat) (sub : [.fe, .rel, .counters, .out] ⊆ parts) :
    Within parts b₀ (Blk.lookFound v q pi b₁) ↔ Within parts b₀ b₁ := by
  refine Within.iff_of (k := [.fe, .rel, .counters, .out]) ?_ sub
  unfold Blk.lookFound
  dsimp only
  repeat' split
  all_goals simp

@[simp] theorem within_piFound (v : Env) (look : Bool) (q pi : Nat) (sub : [.fe, .rel, .counters, .out] ⊆ parts) :
    Within parts b₀ (Blk.piFound v look q pi b₁) ↔ Within parts b₀ b₁ := by
  refine Within.iff_of (k := [.fe, .rel, .counters, .out]) ?_ sub
  unfold Blk.piFound
  dsimp only
  repeat' split
  all_goals simp

@[simp] theorem within_piLost (look : Bool) (q : Nat) (u : Queue) (sub : [.fe] ⊆ parts) :
    Within parts b₀ (Blk.piLost look q u b₁) ↔ Within parts b₀ b₁ :=
  Within.iff_of (k := [.fe]) (by simp [Blk.piLost]) sub

@[simp] theorem within_putSession (k : Nat) (s : Session) (sub : [.rt] ⊆ parts) :
    Within parts b₀ (Blk.putSession b₁ k s) ↔ Within parts b₀ b₁ :=
  Within.iff_of (k := [.rt]) (by simp [Blk.putSession]) sub

@[simp] theorem within_acceptVector (v : Env) (k : Nat) (x : Vector) (sub : [.fe, .rt] ⊆ parts) :
    Within parts b₀ (Blk.acceptVector v k x b₁) ↔ Within parts b₀ b₁ := by
  refine Within.iff_of (k := [.fe, .rt]) ?_ sub
  unfold Blk.acceptVector
  repeat' split
  all_goals simp

@[simp] theorem within_bindRows (c : Nat) (d : Rsd) (sub : [.fe, .hb] ⊆ parts) :
    Within parts b₀ (Blk.bindRows c d b₁) ↔ Within parts b₀ b₁ := by
  refine Within.iff_of (k := [.fe, .hb]) ?_ sub
  unfold Blk.bindRows
  refine .forEach _ (fun r b => ?_) _
  split
  · next h => exact (within_bindStream h).mono (by simp)
  · simp

@[simp] theorem within_openSession (v : Env) (k : Nat) (x : Vector) (rsd : List Byte) (sub : [.fe, .rt, .hb, .counters] ⊆ parts) :
    Within parts b₀ (Blk.openSession v k x rsd b₁) ↔ Within parts b₀ b₁ := by
  refine Within.iff_of (k := [.fe, .rt, .hb, .counters]) ?_ sub
  unfold Blk.openSession
  dsimp only
  repeat' split
  all_goals simp

@[simp] theorem within_intakeVector (v : Env) (x : Vector) (rsd : List Byte) (sub : [.fe, .rt, .hb, .counters] ⊆ parts) :
    Within parts b₀ (Blk.intakeVector v x rsd b₁) ↔ Within parts b₀ b₁ := by
  refine Within.iff_of (k := [.fe, .rt, .hb, .counters]) ?_ sub
  unfold Blk.intakeVector
  repeat' split
  all_goals simp

@[simp] theorem within_drainWaiting (v : Env) (sub : [.fe, .rt, .hb, .counters] ⊆ parts) :
    Within parts b₀ (Blk.drainWaiting v b₁) ↔ Within parts b₀ b₁ :=
  Within.iff_of (k := [.fe, .rt, .hb, .counters]) (by simp [Blk.drainWaiting]) sub

theorem within_issueSend {d : Blk} {v : Env} {k row : Nat} {chunk : Bool} {index : Nat}
    (issued : b₁.issueSend v k row chunk index = some d) : Within [.agents, .rt, .counters, .out] b₁ d := by
  unfold Blk.issueSend at issued
  dsimp only at issued
  repeat' split at issued
  all_goals cases issued
  all_goals simp

@[simp] theorem within_issueUnsent (v : Env) (n : Nat) (sub : [.agents, .rt, .counters, .out] ⊆ parts) :
    Within parts b₀ (Blk.issueUnsent v n b₁) ↔ Within parts b₀ b₁ := by
  refine Within.iff_of (k := [.agents, .rt, .counters, .out]) ?_ sub
  induction n generalizing b₁ with
  | zero => exact .refl _ _
  | succ n ih =>
    unfold Blk.issueUnsent
    split
    · simp
    split
    · simp
    · next h => exact .trans ((within_modRt _ (by simp)).mpr (within_issueSend h)) ih

@[simp] theorem within_retryUnsent (v : Env) (sub : [.agents, .rt, .counters, .out] ⊆ parts) :
    Within parts b₀ (Blk.retryUnsent v b₁) ↔ Within parts b₀ b₁ :=
  Within.iff_of (k := [.agents, .rt, .counters, .out]) (by simp [Blk.retryUnsent]) sub

@[simp] theorem within_issueDeferred (v : Env) (k : Nat) (sub : [.agents, .rt, .counters, .out] ⊆ parts) :
    Within parts b₀ (Blk.issueDeferred v k b₁) ↔ Within parts b₀ b₁ := by
  refine Within.iff_of (k := [.agents, .rt, .counters, .out]) ?_ sub
  unfold Blk.issueDeferred
  dsimp only
  repeat' split
  all_goals simp

@[simp] theorem within_resolveExpert (k e : Nat) (value : Bool) (sub : [.predNext, .rt] ⊆ parts) :
    Within parts b₀ (Blk.resolveExpert k e value b₁) ↔ Within parts b₀ b₁ := by
  refine Within.iff_of (k := [.predNext, .rt]) ?_ sub
  unfold Blk.resolveExpert
  dsimp only
  repeat' split
  all_goals simp

@[simp] theorem within_settleChoice (k tok rank e : Nat) (c : Choice) (w : BitVec 32 × Bool) (sub : [.predNext, .fe, .rt, .counters, .out] ⊆ parts) :
    Within parts b₀ (Blk.settleChoice k tok rank e c w b₁) ↔ Within parts b₀ b₁ := by
  refine Within.iff_of (k := [.predNext, .fe, .rt, .counters, .out]) ?_ sub
  unfold Blk.settleChoice
  dsimp only
  repeat' split
  all_goals simp

theorem within_routeToken {d : Blk} {v : Env} {k : Nat} {s : Session} {x : Vector}
    (routed : b₁.routeToken v k s x = some d) :
    Within [.predNext, .agents, .fe, .rt, .counters, .out] b₁ d := by
  unfold Blk.routeToken at routed
  dsimp only at routed
  repeat' split at routed
  all_goals cases routed
  all_goals simp

@[simp] theorem within_routeNext (v : Env) (sub : [.predNext, .agents, .fe, .rt, .hb, .counters, .out] ⊆ parts) :
    Within parts b₀ (Blk.routeNext v b₁) ↔ Within parts b₀ b₁ := by
  refine Within.iff_of (k := [.predNext, .agents, .fe, .rt, .hb, .counters, .out]) ?_ sub
  unfold Blk.routeNext
  dsimp only
  split
  · simp
  split
  · simp
  split
  · simp
  split
  · simp
  split
  · simp
  split
  · simp
  · next h =>
    have routed := (within_routeToken h).mono (l := [.predNext, .agents, .fe, .rt, .hb, .counters, .out]) (by simp)
    split
    · exact (within_drainWaiting _ (by simp)).mpr (.trans (by simp) routed)
    · exact .trans (by simp) routed

@[simp] theorem within_routeDue (v : Env) (n : Nat) (sub : [.predNext, .agents, .fe, .rt, .hb, .counters, .out] ⊆ parts) :
    Within parts b₀ (Blk.routeDue v n b₁) ↔ Within parts b₀ b₁ := by
  refine Within.iff_of (k := [.predNext, .agents, .fe, .rt, .hb, .counters, .out]) ?_ sub
  induction n generalizing b₁ with
  | zero => exact .refl _ _
  | succ n ih =>
    unfold Blk.routeDue
    split
    · exact .trans (by simp) ih
    · exact .refl _ _

@[simp] theorem within_dropSend (e : Nat) (id : BitVec 32) (sub : [.agents] ⊆ parts) :
    Within parts b₀ (Blk.dropSend b₁ e id) ↔ Within parts b₀ b₁ :=
  Within.iff_of (k := [.agents]) (by simp [Blk.dropSend]) sub

@[simp] theorem within_sendFinished (w : SendWord) (sub : [.rt, .out] ⊆ parts) :
    Within parts b₀ (Blk.sendFinished w b₁) ↔ Within parts b₀ b₁ := by
  refine Within.iff_of (k := [.rt, .out]) ?_ sub
  unfold Blk.sendFinished
  dsimp only
  repeat' split
  all_goals simp

@[simp] theorem within_notice (t : TaskRef) (release : Bool) (sub : [.rt, .counters] ⊆ parts) :
    Within parts b₀ (Blk.notice t release b₁) ↔ Within parts b₀ b₁ :=
  Within.iff_of (k := [.rt, .counters]) (by simp [Blk.notice]) sub

@[simp] theorem within_answerTo (e : Nat) (answer : BitVec 32) (sub : [.agents, .out] ⊆ parts) :
    Within parts b₀ (Blk.answerTo e answer b₁) ↔ Within parts b₀ b₁ :=
  Within.iff_of (k := [.agents, .out]) (by simp [Blk.answerTo]) sub

@[simp] theorem within_answerChunk (e : Nat) (sub : [.reaches, .agents, .rt, .pg, .counters, .out] ⊆ parts) :
    Within parts b₀ (Blk.answerChunk e b₁) ↔ Within parts b₀ b₁ := by
  refine Within.iff_of (k := [.reaches, .agents, .rt, .pg, .counters, .out]) ?_ sub
  unfold Blk.answerChunk
  dsimp only
  repeat' split
  all_goals simp

@[simp] theorem within_answerChunks (sub : [.reaches, .agents, .rt, .pg, .counters, .out] ⊆ parts) :
    Within parts b₀ (Blk.answerChunks b₁) ↔ Within parts b₀ b₁ :=
  Within.iff_of (k := [.reaches, .agents, .rt, .pg, .counters, .out]) (by simp [Blk.answerChunks]) sub

@[simp] theorem within_writeFills (s : Session) (row : Nat) (x : RsdRow) (sub : [.out] ⊆ parts) :
    Within parts b₀ (Blk.writeFills s row x b₁) ↔ Within parts b₀ b₁ :=
  Within.iff_of (k := [.out]) (by simp [Blk.writeFills]) sub

@[simp] theorem within_writeEmpties (s : Session) (row : Nat) (x : RsdRow) (sub : [.out, .fresh] ⊆ parts) :
    Within parts b₀ (Blk.writeEmpties s row x b₁) ↔ Within parts b₀ b₁ :=
  Within.iff_of (k := [.out, .fresh]) (by simp [Blk.writeEmpties]) sub

@[simp] theorem within_closeWrites (s : Session) (sub : [.out, .fresh] ⊆ parts) :
    Within parts b₀ (Blk.closeWrites s b₁) ↔ Within parts b₀ b₁ :=
  Within.iff_of (k := [.out, .fresh]) (by simp [Blk.closeWrites]) sub

@[simp] theorem within_closeNotices (s : Session) (row : Nat) (x : RsdRow) (sub : [.rt, .counters] ⊆ parts) :
    Within parts b₀ (Blk.closeNotices s row x b₁) ↔ Within parts b₀ b₁ :=
  Within.iff_of (k := [.rt, .counters]) (by simp [Blk.closeNotices]) sub

@[simp] theorem within_announceRow (s : Session) (row : Nat) (x : RsdRow) (sub : [.rt, .fresh] ⊆ parts) :
    Within parts b₀ (Blk.announceRow s row x b₁) ↔ Within parts b₀ b₁ :=
  Within.iff_of (k := [.rt, .fresh]) (by simp [Blk.announceRow]) sub

@[simp] theorem within_emptyPuts (s : Session) (sub : [.agents, .fe, .hb, .counters, .out] ⊆ parts) :
    Within parts b₀ (Blk.emptyPuts s b₁) ↔ Within parts b₀ b₁ :=
  Within.iff_of (k := [.agents, .fe, .hb, .counters, .out]) (by simp [Blk.emptyPuts]) sub

@[simp] theorem within_closeSession (v : Env) (k : Nat) (s : Session) (sub : [.reaches, .predNext, .agents, .fe, .rt, .hb, .pg, .counters, .out, .fresh] ⊆ parts) :
    Within parts b₀ (Blk.closeSession v k s b₁) ↔ Within parts b₀ b₁ :=
  Within.iff_of (k := [.reaches, .predNext, .agents, .fe, .rt, .hb, .pg, .counters, .out, .fresh]) (by simp [Blk.closeSession]) sub

@[simp] theorem within_announcedRow (k row : Nat) (s : Session) (x : RsdRow) (l : BitVec 32) (sub : [.predNext, .fe, .rt, .counters, .out] ⊆ parts) :
    Within parts b₀ (Blk.announcedRow k row s x l b₁) ↔ Within parts b₀ b₁ :=
  Within.iff_of (k := [.predNext, .fe, .rt, .counters, .out]) (by simp [Blk.announcedRow]) sub

theorem within_announcement {d : Blk} {a : Nat × BitVec 32 × BitVec 16 × BitVec 16 × BitVec 32}
    (taken : b₁.announcement a = some d) : Within [.predNext, .fe, .rt, .counters, .out] b₁ d := by
  unfold Blk.announcement at taken
  dsimp only at taken
  repeat' split at taken
  all_goals cases taken
  all_goals simp

@[simp] theorem within_dropSessions (v : Env) (c : Nat) (sub : [.agents, .fe, .rt, .hb, .counters] ⊆ parts) :
    Within parts b₀ (Blk.dropSessions v c b₁) ↔ Within parts b₀ b₁ := by
  refine Within.iff_of (k := [.agents, .fe, .rt, .hb, .counters]) ?_ sub
  unfold Blk.dropSessions
  refine (within_drainWaiting _ (by simp)).mpr ((within_modRt _ (by simp)).mpr (.forEach _ (fun p b => ?_) _))
  refine (within_withAgents _ (by simp)).mpr (.forEach _ (fun x b => ?_) _)
  split
  · split <;> simp
  · simp

@[simp] theorem within_takeHead (q : Nat) (u : Queue) (sub : [.fe, .counters] ⊆ parts) :
    Within parts b₀ (Blk.takeHead q u b₁) ↔ Within parts b₀ b₁ :=
  Within.iff_of (k := [.fe, .counters]) (by simp [Blk.takeHead]) sub

/-- What a started descriptor does beside the bookkeeping of its queue. -/
theorem within_startDesc (v : Env) (q : Nat) (op : Nat → Bool) (run : Queue → Nat → BitVec 512 → Blk → Begun) {l : List Part}
    (runs : ∀ u i d b, Within l b (run u i d b).blk) (sub : [.fe, .counters] ⊆ l) (b : Blk) :
    Within l b (b.startDesc v q op run) := by
  have push (i : Nat) (d : BitVec 512) (x : Begun) : Within l x.blk (x.push v q i d) :=
    .mono (k := [.fe]) (by simp [Begun.push]) (List.Subset.trans (by simp) sub)
  have taken (u : Queue) : Within l b (b.takeHead q u) := .mono (k := [.fe, .counters]) (by simp) sub
  unfold Blk.startDesc
  split
  · exact .refl _ _
  split
  · exact .refl _ _
  split
  · exact .refl _ _
  dsimp only
  split
  · exact (taken _).trans (push _ _ _)
  · refine .trans (.trans (taken ‹Queue›) (.mono (k := [.fe]) ?_ (List.Subset.trans (by simp) sub))) (push _ _ _)
    unfold Blk.ends
    simp
  · exact (taken _).trans ((runs _ _ _ _).trans (push _ _ _))

@[simp] theorem within_setPhase (q index : Nat) (p : Phase) (sub : [.fe] ⊆ parts) :
    Within parts b₀ (Blk.setPhase q index p b₁) ↔ Within parts b₀ b₁ :=
  Within.iff_of (k := [.fe]) (by simp [Blk.setPhase]) sub

@[simp] theorem within_readFault (v : Env) (u : Queue) (rsp : Rsp) (sub : [.fe, .rel, .mc, .counters, .out, .fresh] ⊆ parts) :
    Within parts b₀ (Blk.readFault v u rsp b₁) ↔ Within parts b₀ b₁ := by
  refine Within.iff_of (k := [.fe, .rel, .mc, .counters, .out, .fresh]) ?_ sub
  unfold Blk.readFault
  repeat' split
  all_goals simp

@[simp] theorem within_patchArgs (x : Ctx) (ps : List (BitVec 128)) (sub : [.out] ⊆ parts) :
    Within parts b₀ (Blk.patchArgs x ps b₁) ↔ Within parts b₀ b₁ :=
  Within.iff_of (k := [.out]) (by simp [Blk.patchArgs]) sub

@[simp] theorem within_launchGo (c : Nat) (d : BitVec 512) (handles : List (BitVec 64)) (ps : List (BitVec 128))
    (sub : [.out] ⊆ parts) : Within parts b₀ (b₁.launchGo c d handles ps).blk ↔ Within parts b₀ b₁ := by
  refine Within.iff_of (k := [.out]) ?_ sub
  unfold Blk.launchGo
  split
  · exact .refl _ _
  split
  · exact .refl _ _
  · simp

@[simp] theorem within_launchAgain (v : Env) (q : Nat) (u : Queue) (x : Started) (handles : List (BitVec 64)) (ps : List (BitVec 128)) (rsp : Rsp) (sub : [.fe, .rel, .mc, .counters, .out, .fresh] ⊆ parts) :
    Within parts b₀ (Blk.launchAgain v q u x handles ps rsp b₁) ↔ Within parts b₀ b₁ := by
  refine Within.iff_of (k := [.fe, .rel, .mc, .counters, .out, .fresh]) ?_ sub
  unfold Blk.launchAgain
  dsimp only
  repeat' split
  all_goals simp

@[simp] theorem within_askImage (a : BitVec 64) (n : Nat) (sub : [.fe, .out] ⊆ parts) :
    Within parts b₀ (Blk.askImage a n b₁) ↔ Within parts b₀ b₁ :=
  Within.iff_of (k := [.fe, .out]) (by simp [Blk.askImage]) sub

@[simp] theorem within_readImage (q index : Nat) (sub : [.fe, .out] ⊆ parts) :
    Within parts b₀ (Blk.readImage q index b₁) ↔ Within parts b₀ b₁ := by
  refine Within.iff_of (k := [.fe, .out]) ?_ sub
  unfold Blk.readImage
  dsimp only
  repeat' split
  all_goals simp

@[simp] theorem within_nextImage (sub : [.fe, .out] ⊆ parts) :
    Within parts b₀ (Blk.nextImage b₁) ↔ Within parts b₀ b₁ := by
  refine Within.iff_of (k := [.fe, .out]) ?_ sub
  unfold Blk.nextImage
  dsimp only
  repeat' split
  all_goals simp

@[simp] theorem within_loaderHalt (v : Env) (q index c : Nat) (sub : [.fe, .rel, .mc, .counters, .out, .fresh] ⊆ parts) :
    Within parts b₀ (Blk.loaderHalt v q index c b₁) ↔ Within parts b₀ b₁ :=
  Within.iff_of (k := [.fe, .rel, .mc, .counters, .out, .fresh]) (by simp [Blk.loaderHalt]) sub

@[simp] theorem within_imageRead (v : Env) (q : Nat) (u : Queue) (x : Started) (image : List Byte) (handles : List (BitVec 64)) (sub : [.reaches, .blocks, .fe, .rel, .out] ⊆ parts) :
    Within parts b₀ (Blk.imageRead v q u x image handles b₁) ↔ Within parts b₀ b₁ := by
  refine Within.iff_of (k := [.reaches, .blocks, .fe, .rel, .out]) ?_ sub
  unfold Blk.imageRead
  dsimp only
  repeat' split
  all_goals simp

@[simp] theorem within_askValue (q : Nat) (d : BitVec 512) (sub : [.fe, .out] ⊆ parts) :
    Within parts b₀ (Blk.askValue q d b₁) ↔ Within parts b₀ b₁ :=
  Within.iff_of (k := [.fe, .out]) (by simp [Blk.askValue]) sub

@[simp] theorem within_fenceFault (v : Env) (f : FenceOut) (x : Option Started) (host : Bool) (sub : [.fe, .rel, .mc, .counters, .out, .fresh] ⊆ parts) :
    Within parts b₀ (Blk.fenceFault v f x host b₁) ↔ Within parts b₀ b₁ := by
  refine Within.iff_of (k := [.fe, .rel, .mc, .counters, .out, .fresh]) ?_ sub
  unfold Blk.fenceFault
  dsimp only
  repeat' split
  all_goals simp

@[simp] theorem within_pendStep (q index c : Nat) (d : BitVec 512) (leaves : List Nat) (joins : List (Nat × BitVec 32))
    (sub : [.fe] ⊆ parts) : Within parts b₀ (b₁.pendStep q index c d leaves joins).blk ↔ Within parts b₀ b₁ := by
  refine Within.iff_of (k := [.fe]) ?_ sub
  unfold Blk.pendStep
  split
  · exact .refl _ _
  split
  · exact .refl _ _
  · simp

@[simp] theorem within_takeDump (d : Dump) (sub : [.fe, .db, .out] ⊆ parts) :
    Within parts b₀ (Blk.takeDump d b₁) ↔ Within parts b₀ b₁ :=
  Within.iff_of (k := [.fe, .db, .out]) (by simp [Blk.takeDump]) sub

@[simp] theorem within_takeDumps (c count : Nat) (sub : [.fe, .db, .out] ⊆ parts) :
    Within parts b₀ (Blk.takeDumps c count b₁) ↔ Within parts b₀ b₁ :=
  Within.iff_of (k := [.fe, .db, .out]) (by simp [Blk.takeDumps]) sub

@[simp] theorem within_acceptDump (v : Env) (c : Nat) (d : BitVec 512) (sub : [.fe, .db, .out] ⊆ parts) :
    Within parts b₀ (Blk.acceptDump v c d b₁).1 ↔ Within parts b₀ b₁ := by
  refine Within.iff_of (k := [.fe, .db, .out]) ?_ sub
  unfold Blk.acceptDump
  dsimp only
  repeat' split
  all_goals simp

@[simp] theorem within_markRange (v : Env) (c : Nat) (d : BitVec 512) (sub : [.fe, .db, .counters] ⊆ parts) :
    Within parts b₀ (Blk.markRange v c d b₁) ↔ Within parts b₀ b₁ := by
  refine Within.iff_of (k := [.fe, .db, .counters]) ?_ sub
  unfold Blk.markRange
  dsimp only
  repeat' split
  all_goals simp

@[simp] theorem within_dropStep (c q index : Nat) (sub : [.fe] ⊆ parts) :
    Within parts b₀ (Blk.dropStep c q index b₁) ↔ Within parts b₀ b₁ :=
  Within.iff_of (k := [.fe]) (by simp [Blk.dropStep]) sub

@[simp] theorem within_endDesc (c q index : Nat) (d : BitVec 512) (latch : Option (List Nat)) (status : BitVec 8) (info : Nat) (sub : [.fe, .rel, .counters] ⊆ parts) :
    Within parts b₀ (Blk.endDesc c q index d latch status info b₁) ↔ Within parts b₀ b₁ :=
  Within.iff_of (k := [.fe, .rel, .counters]) (by simp [Blk.endDesc]) sub

@[simp] theorem within_descDone (q index : Nat) (status : BitVec 8) (info : Nat := 0) (sub : [.fe, .rel, .db, .counters, .out] ⊆ parts) :
    Within parts b₀ (Blk.descDone q index status b₁ info) ↔ Within parts b₀ b₁ := by
  refine Within.iff_of (k := [.fe, .rel, .db, .counters, .out]) ?_ sub
  unfold Blk.descDone
  dsimp only
  repeat' split
  all_goals simp

@[simp] theorem within_endAll (q : Nat) (status : BitVec 8) (keep : Option Nat) (sub : [.fe, .rel, .db, .counters, .out] ⊆ parts) :
    Within parts b₀ (Blk.endAll q status keep b₁) ↔ Within parts b₀ b₁ := by
  refine Within.iff_of (k := [.fe, .rel, .db, .counters, .out]) ?_ sub
  unfold Blk.endAll
  dsimp only
  repeat' split
  all_goals simp

@[simp] theorem within_raiseDone (v : Env) (q : Nat) (status : BitVec 8) (ticket : Nat) (sub : [.fe, .rel, .out] ⊆ parts) :
    Within parts b₀ (Blk.raiseDone v q status ticket b₁) ↔ Within parts b₀ b₁ :=
  Within.iff_of (k := [.fe, .rel, .out]) (by simp [Blk.raiseDone]) sub

@[simp] theorem within_writeResults (v : Env) (sub : [.fe, .rel, .counters, .out] ⊆ parts) :
    Within parts b₀ (Blk.writeResults v b₁) ↔ Within parts b₀ b₁ :=
  Within.iff_of (k := [.fe, .rel, .counters, .out]) (by simp [Blk.writeResults]) sub

@[simp] theorem within_mirrorContext (v : Env) (c : Nat) (sub : [.fe, .out] ⊆ parts) :
    Within parts b₀ (Blk.mirrorContext v c b₁) ↔ Within parts b₀ b₁ :=
  Within.iff_of (k := [.fe, .out]) (by simp [Blk.mirrorContext]) sub

@[simp] theorem within_mirrorQueue (v : Env) (q : Nat) (sub : [.fe, .out] ⊆ parts) :
    Within parts b₀ (Blk.mirrorQueue v q b₁) ↔ Within parts b₀ b₁ :=
  Within.iff_of (k := [.fe, .out]) (by simp [Blk.mirrorQueue]) sub

@[simp] theorem within_takeLatches (v : Env) (sub : [.fe, .counters] ⊆ parts) :
    Within parts b₀ (Blk.takeLatches v b₁) ↔ Within parts b₀ b₁ :=
  Within.iff_of (k := [.fe, .counters]) (by simp [Blk.takeLatches]) sub

@[simp] theorem within_clearContext (c : Nat) (sub : [.preds, .history, .hb, .db] ⊆ parts) :
    Within parts b₀ (Blk.clearContext c b₁) ↔ Within parts b₀ b₁ :=
  Within.iff_of (k := [.preds, .history, .hb, .db]) (by simp [Blk.clearContext]) sub

@[simp] theorem within_createContext (v : Env) (d : BitVec 512) (record groupMap : List Byte) (sub : [.preds, .history, .fe, .hb, .rel, .db, .out] ⊆ parts) :
    Within parts b₀ (Blk.createContext v d record groupMap b₁).1 ↔ Within parts b₀ b₁ := by
  refine Within.iff_of (k := [.preds, .history, .fe, .hb, .rel, .db, .out]) ?_ sub
  unfold Blk.createContext
  dsimp only
  repeat' split
  all_goals simp

@[simp] theorem within_destroyContext (v : Env) (c : Nat) (sub : [.reaches, .blocks, .agents, .fe, .rt, .hb, .rel, .counters, .out] ⊆ parts) :
    Within parts b₀ (Blk.destroyContext v c b₁).1 ↔ Within parts b₀ b₁ := by
  refine Within.iff_of (k := [.reaches, .blocks, .agents, .fe, .rt, .hb, .rel, .counters, .out]) ?_ sub
  unfold Blk.destroyContext
  dsimp only
  repeat' split
  all_goals simp

@[simp] theorem within_addQueue (v : Env) (q : Nat) (u : Queue) (sub : [.fe, .rel, .out] ⊆ parts) :
    Within parts b₀ (Blk.addQueue v q u b₁) ↔ Within parts b₀ b₁ :=
  Within.iff_of (k := [.fe, .rel, .out]) (by simp [Blk.addQueue]) sub

@[simp] theorem within_createQueue (v : Env) (d : BitVec 512) (sub : [.fe, .rel, .out] ⊆ parts) :
    Within parts b₀ (Blk.createQueue v d b₁).1 ↔ Within parts b₀ b₁ := by
  refine Within.iff_of (k := [.fe, .rel, .out]) ?_ sub
  unfold Blk.createQueue
  dsimp only
  repeat' split
  all_goals simp

@[simp] theorem within_openQueue0 (v : Env) (sub : [.fe, .out] ⊆ parts) :
    Within parts b₀ (Blk.openQueue0 v b₁) ↔ Within parts b₀ b₁ :=
  Within.iff_of (k := [.fe, .out]) (by simp [Blk.openQueue0]) sub

@[simp] theorem within_abortLaunch (v : Env) (c : Nat) (why : AbortWhy) (sub : [.reaches, .fe, .counters] ⊆ parts) :
    Within parts b₀ (Blk.abortLaunch v c why b₁) ↔ Within parts b₀ b₁ :=
  Within.iff_of (k := [.reaches, .fe, .counters]) (by simp [Blk.abortLaunch]) sub

@[simp] theorem within_destroyQueue (v : Env) (own : Nat) (d : BitVec 512) (sub : [.reaches, .fe, .rel, .counters, .out] ⊆ parts) :
    Within parts b₀ (Blk.destroyQueue v own d b₁).1 ↔ Within parts b₀ b₁ := by
  refine Within.iff_of (k := [.reaches, .fe, .rel, .counters, .out]) ?_ sub
  unfold Blk.destroyQueue
  dsimp only
  repeat' split
  all_goals simp

@[simp] theorem within_orphanQueue (q : Nat) (u : Queue) (sub : [.fe, .rel] ⊆ parts) :
    Within parts b₀ (Blk.orphanQueue q u b₁) ↔ Within parts b₀ b₁ :=
  Within.iff_of (k := [.fe, .rel]) (by simp [Blk.orphanQueue]) sub

@[simp] theorem within_closeQueue (v : Env) (q : Nat) (u : Queue) (sub : [.fe, .hb, .rel, .db, .counters, .out] ⊆ parts) :
    Within parts b₀ (Blk.closeQueue v q u b₁) ↔ Within parts b₀ b₁ := by
  refine Within.iff_of (k := [.fe, .hb, .rel, .db, .counters, .out]) ?_ sub
  unfold Blk.closeQueue
  refine .trans ?_ (.forEach _ (fun p b => .forEach _ (fun x b => ?_) _) _)
  · split
    · refine .trans (c := b₁.endAll q stBusy none) (by simp) ?_
      simp
    · simp
  · split <;> simp

@[simp] theorem within_closeQueues (v : Env) (sub : [.fe, .hb, .rel, .db, .counters, .out] ⊆ parts) :
    Within parts b₀ (Blk.closeQueues v b₁) ↔ Within parts b₀ b₁ := by
  refine Within.iff_of (k := [.fe, .hb, .rel, .db, .counters, .out]) ?_ sub
  unfold Blk.closeQueues
  refine .forEach _ (fun p b => ?_) _
  repeat' split
  all_goals simp

@[simp] theorem within_keepLast (old : List (Nat × Block)) (sub : [.reaches, .blocks] ⊆ parts) :
    Within parts b₀ (Blk.keepLast old b₁) ↔ Within parts b₀ b₁ :=
  Within.iff_of (k := [.reaches, .blocks]) (by simp [Blk.keepLast]) sub

@[simp] theorem within_armLaunch (v : Env) (q : Nat) (u : Queue) (x : Started) (sub : [.reaches, .blocks, .fe, .rel, .db, .counters, .out] ⊆ parts) :
    Within parts b₀ (Blk.armLaunch v q u x b₁) ↔ Within parts b₀ b₁ :=
  Within.iff_of (k := [.reaches, .blocks, .fe, .rel, .db, .counters, .out]) (by simp [Blk.armLaunch]) sub

@[simp] theorem within_launchEdge (v : Env) (q c : Nat) (x : Started) (endDone : Bool) (sub : [.fe, .rel, .db, .counters, .out] ⊆ parts) :
    Within parts b₀ (Blk.launchEdge v q c x endDone b₁) ↔ Within parts b₀ b₁ :=
  Within.iff_of (k := [.fe, .rel, .db, .counters, .out]) (by simp [Blk.launchEdge]) sub

@[simp] theorem within_patchEdge (v : Env) (q c : Nat) (x : Started) (ps : List (BitVec 128)) (sub : [.fe, .rel, .db, .counters, .out] ⊆ parts) :
    Within parts b₀ (Blk.patchEdge v q c x ps b₁) ↔ Within parts b₀ b₁ := by
  refine Within.iff_of (k := [.fe, .rel, .db, .counters, .out]) ?_ sub
  unfold Blk.patchEdge
  dsimp only
  repeat' split
  all_goals simp

@[simp] theorem within_closingEdge (v : Env) (q : Nat) (u : Queue) (x : Started) (sub : [.fe, .rel, .db, .counters, .out] ⊆ parts) :
    Within parts b₀ (Blk.closingEdge v q u x b₁) ↔ Within parts b₀ b₁ := by
  refine Within.iff_of (k := [.fe, .rel, .db, .counters, .out]) ?_ sub
  unfold Blk.closingEdge
  repeat' split
  all_goals simp

@[simp] theorem within_openEdge (v : Env) (q : Nat) (u : Queue) (x : Started) (sub : [.reaches, .blocks, .preds, .history, .agents, .fe, .rt, .hb, .rel, .db, .counters, .out] ⊆ parts) :
    Within parts b₀ (Blk.openEdge v q u x b₁) ↔ Within parts b₀ b₁ := by
  refine Within.iff_of (k := [.reaches, .blocks, .preds, .history, .agents, .fe, .rt, .hb, .rel, .db, .counters, .out]) ?_ sub
  unfold Blk.openEdge
  dsimp only
  repeat' split
  all_goals simp

@[simp] theorem within_phaseEdge (v : Env) (q : Nat) (u : Queue) (x : Started) (sub : [.reaches, .blocks, .preds, .history, .agents, .fe, .rt, .hb, .rel, .db, .counters, .out] ⊆ parts) :
    Within parts b₀ (Blk.phaseEdge v q u x b₁) ↔ Within parts b₀ b₁ :=
  Within.iff_of (k := [.reaches, .blocks, .preds, .history, .agents, .fe, .rt, .hb, .rel, .db, .counters, .out]) (by simp [Blk.phaseEdge]) sub

@[simp] theorem within_queueOps (v : Env) (sub : [.reaches, .blocks, .preds, .history, .agents, .fe, .rt, .hb, .rel, .db, .counters, .out] ⊆ parts) :
    Within parts b₀ (Blk.queueOps v b₁) ↔ Within parts b₀ b₁ := by
  refine Within.iff_of (k := [.reaches, .blocks, .preds, .history, .agents, .fe, .rt, .hb, .rel, .db, .counters, .out]) ?_ sub
  unfold Blk.queueOps
  exact .forEach _ (fun p b => .forEach _ (fun x b => by simp) _) _

@[simp] theorem within_takeRequests (p : TaskRef → Bool) (sub : [.fe] ⊆ parts) :
    Within parts b₀ (Blk.takeRequests p b₁) ↔ Within parts b₀ b₁ :=
  Within.iff_of (k := [.fe]) (by simp [Blk.takeRequests]) sub

@[simp] theorem within_forgetHistory (c : Nat) (x : Ctx) (joins : List Nat) (sub : [.history] ⊆ parts) :
    Within parts b₀ (Blk.forgetHistory c x joins b₁) ↔ Within parts b₀ b₁ :=
  Within.iff_of (k := [.history]) (by simp [Blk.forgetHistory]) sub

@[simp] theorem within_applyStep (v : Env) (c : Nat) (x : Ctx) (t : TaskRef) (sub : [.history, .fe, .hb, .rel, .db, .counters, .out] ⊆ parts) :
    Within parts b₀ (Blk.applyStep v c x t b₁) ↔ Within parts b₀ b₁ := by
  refine Within.iff_of (k := [.history, .fe, .hb, .rel, .db, .counters, .out]) ?_ sub
  unfold Blk.applyStep
  dsimp only
  repeat' split
  all_goals simp

@[simp] theorem within_serveSteps (v : Env) (c n : Nat) (sub : [.history, .fe, .hb, .rel, .db, .counters, .out] ⊆ parts) :
    Within parts b₀ (Blk.serveSteps v c n b₁) ↔ Within parts b₀ b₁ := by
  refine Within.iff_of (k := [.history, .fe, .hb, .rel, .db, .counters, .out]) ?_ sub
  induction n generalizing b₁ with
  | zero => exact .refl _ _
  | succ n ih =>
    unfold Blk.serveSteps
    split
    · exact .refl _ _
    split
    · exact .refl _ _
    split
    · exact .refl _ _
    · exact .trans (by simp) ih

@[simp] theorem within_pendWaiting (sub : [.fe, .rel, .db, .counters, .out] ⊆ parts) :
    Within parts b₀ (Blk.pendWaiting b₁) ↔ Within parts b₀ b₁ := by
  refine Within.iff_of (k := [.fe, .rel, .db, .counters, .out]) ?_ sub
  unfold Blk.pendWaiting
  refine .forEach _ (fun p b => .forEach _ (fun x b => ?_) _) _
  dsimp only
  repeat' split
  all_goals simp

@[simp] theorem within_stepEdge (v : Env) (sub : [.history, .fe, .hb, .rel, .db, .counters, .out] ⊆ parts) :
    Within parts b₀ (Blk.stepEdge v b₁) ↔ Within parts b₀ b₁ := by
  refine Within.iff_of (k := [.history, .fe, .hb, .rel, .db, .counters, .out]) ?_ sub
  simp [Blk.stepEdge]

@[simp] theorem within_stepResults (sub : [.reaches, .predOps, .fe] ⊆ parts) :
    Within parts b₀ (Blk.stepResults b₁) ↔ Within parts b₀ b₁ := by
  refine Within.iff_of (k := [.reaches, .predOps, .fe]) ?_ sub
  unfold Blk.stepResults
  refine .forEach _ (fun p b => ?_) _
  dsimp only
  split <;> simp

@[simp] theorem within_tickTimers (v : Env) (sub : [.fe] ⊆ parts) :
    Within parts b₀ (Blk.tickTimers v b₁) ↔ Within parts b₀ b₁ :=
  Within.iff_of (k := [.fe]) (by simp [Blk.tickTimers]) sub

@[simp] theorem within_timeoutHead (v : Env) (q : Nat) (u : Queue) (sub : [.fe, .counters] ⊆ parts) :
    Within parts b₀ (Blk.timeoutHead v q u b₁) ↔ Within parts b₀ b₁ := by
  refine Within.iff_of (k := [.fe, .counters]) ?_ sub
  unfold Blk.timeoutHead
  split
  · simp
  split <;> simp [Begun.push, Blk.ends]

@[simp] theorem within_writeTrace (v : Env) (rs : List TraceRec) (sub : [.db, .counters, .out] ⊆ parts) :
    Within parts b₀ (Blk.writeTrace v rs b₁) ↔ Within parts b₀ b₁ :=
  Within.iff_of (k := [.db, .counters, .out]) (by simp [Blk.writeTrace]) sub

@[simp] theorem within_enterTime (v : Env) (sub : [.db, .counters] ⊆ parts) :
    Within parts b₀ (Blk.enterTime v b₁) ↔ Within parts b₀ b₁ :=
  Within.iff_of (k := [.db, .counters]) (by simp [Blk.enterTime]) sub

@[simp] theorem within_sampleLoad (v : Env) (sub : [.agents, .db] ⊆ parts) :
    Within parts b₀ (Blk.sampleLoad v b₁) ↔ Within parts b₀ b₁ :=
  Within.iff_of (k := [.agents, .db]) (by simp [Blk.sampleLoad]) sub

@[simp] theorem within_snapshotImage (v : Env) (cause : Nat) (sub : [.counters, .out] ⊆ parts) :
    Within parts b₀ (Blk.snapshotImage v cause b₁).1 ↔ Within parts b₀ b₁ :=
  Within.iff_of (k := [.counters, .out]) (by simp [Blk.snapshotImage]) sub

@[simp] theorem within_takeSnapshot (v : Env) (cause : Nat) (sub : [.db, .counters, .out] ⊆ parts) :
    Within parts b₀ (Blk.takeSnapshot v cause b₁) ↔ Within parts b₀ b₁ :=
  Within.iff_of (k := [.db, .counters, .out]) (by simp [Blk.takeSnapshot]) sub

@[simp] theorem within_traceStop (v : Env) (cause part : Nat) (sub : [.db, .counters] ⊆ parts) :
    Within parts b₀ (b₁.traceStop v cause part) ↔ Within parts b₀ b₁ :=
  Within.iff_of (k := [.db, .counters]) (by simp [Blk.traceStop]) sub

@[simp] theorem within_stopNow (v : Env) (sub : [.db, .counters, .out] ⊆ parts) :
    Within parts b₀ (Blk.stopNow v b₁) ↔ Within parts b₀ b₁ := by
  refine Within.iff_of (k := [.db, .counters, .out]) ?_ sub
  unfold Blk.stopNow
  dsimp only
  repeat' split
  all_goals simp

@[simp] theorem within_snapResume (sub : [.db] ⊆ parts) :
    Within parts b₀ (Blk.snapResume b₁) ↔ Within parts b₀ b₁ := by
  refine Within.iff_of (k := [.db]) ?_ sub
  unfold Blk.snapResume
  repeat' split
  all_goals simp

@[simp] theorem within_resumeNow (v : Env) (sub : [.db, .counters] ⊆ parts) :
    Within parts b₀ (Blk.resumeNow v b₁) ↔ Within parts b₀ b₁ :=
  Within.iff_of (k := [.db, .counters]) (by simp [Blk.resumeNow]) sub

@[simp] theorem within_resetOver (v : Env) (sub : [.db, .counters] ⊆ parts) :
    Within parts b₀ (Blk.resetOver v b₁) ↔ Within parts b₀ b₁ :=
  Within.iff_of (k := [.db, .counters]) (by simp [Blk.resetOver]) sub

@[simp] theorem within_dropDumps (p : Dump → Bool) (sub : [.db, .counters] ⊆ parts) :
    Within parts b₀ (Blk.dropDumps p b₁) ↔ Within parts b₀ b₁ :=
  Within.iff_of (k := [.db, .counters]) (by simp [Blk.dropDumps]) sub

@[simp] theorem within_moveWindows (v : Env) (sub : [.rel] ⊆ parts) :
    Within parts b₀ (Blk.moveWindows v b₁) ↔ Within parts b₀ b₁ :=
  Within.iff_of (k := [.rel]) (by simp [Blk.moveWindows]) sub

@[simp] theorem within_writeRecord (v : Env) (r : JRec) (sub : [.out] ⊆ parts) :
    Within parts b₀ (Blk.writeRecord v r b₁) ↔ Within parts b₀ b₁ :=
  Within.iff_of (k := [.out]) (by simp [Blk.writeRecord]) sub

@[simp] theorem within_flushJournal (v : Env) (sub : [.rel, .out] ⊆ parts) :
    Within parts b₀ (Blk.flushJournal v b₁) ↔ Within parts b₀ b₁ := by
  refine Within.iff_of (k := [.rel, .out]) ?_ sub
  unfold Blk.flushJournal
  dsimp only
  repeat' split
  all_goals simp

@[simp] theorem within_takeCopies (v : Env) (sub : [.rel, .out] ⊆ parts) :
    Within parts b₀ (Blk.takeCopies v b₁) ↔ Within parts b₀ b₁ := by
  refine Within.iff_of (k := [.rel, .out]) ?_ sub
  unfold Blk.takeCopies
  refine .forEach _ (fun p b => ?_) _
  dsimp only
  repeat' split
  all_goals simp

@[simp] theorem within_stageCkpt (sub : [.rel] ⊆ parts) :
    Within parts b₀ (Blk.stageCkpt b₁) ↔ Within parts b₀ b₁ := by
  refine Within.iff_of (k := [.rel]) ?_ sub
  unfold Blk.stageCkpt
  dsimp only
  repeat' split
  all_goals simp

@[simp] theorem within_ckptEdge (v : Env) (sub : [.rel, .counters, .out] ⊆ parts) :
    Within parts b₀ (Blk.ckptEdge v b₁) ↔ Within parts b₀ b₁ := by
  refine Within.iff_of (k := [.rel, .counters, .out]) ?_ sub
  unfold Blk.ckptEdge
  dsimp only
  repeat' split
  all_goals simp

@[simp] theorem within_idleContext (v : Env) (c : Nat) (sub : [.reaches, .blocks, .agents, .hb, .fresh] ⊆ parts) :
    Within parts b₀ (Blk.idleContext v c b₁) ↔ Within parts b₀ b₁ := by
  refine Within.iff_of (k := [.reaches, .blocks, .agents, .hb, .fresh]) ?_ sub
  unfold Blk.idleContext
  refine .forEach _ (fun r b => .forEach _ (fun p b => ?_) _) _
  simp

@[simp] theorem within_clearReaches (v : Env) (c : Nat) (sub : [.reaches, .fe, .counters] ⊆ parts) :
    Within parts b₀ (Blk.clearReaches v c b₁) ↔ Within parts b₀ b₁ :=
  Within.iff_of (k := [.reaches, .fe, .counters]) (by simp [Blk.clearReaches]) sub

@[simp] theorem within_faultQueues (v : Env) (c ticket : Nat) (desc : Option (Nat × Nat)) (sub : [.fe, .rel, .db, .counters, .out] ⊆ parts) :
    Within parts b₀ (Blk.faultQueues v c ticket desc b₁) ↔ Within parts b₀ b₁ :=
  Within.iff_of (k := [.fe, .rel, .db, .counters, .out]) (by simp [Blk.faultQueues]) sub

@[simp] theorem within_applyTeardown (v : Env) (c : Nat) (cause : BitVec 8) (desc : Option (Nat × Nat)) (sub : [.reaches, .blocks, .agents, .fe, .rt, .hb, .rel, .db, .mc, .counters, .out, .fresh] ⊆ parts) :
    Within parts b₀ (Blk.applyTeardown v c cause desc b₁) ↔ Within parts b₀ b₁ :=
  Within.iff_of (k := [.reaches, .blocks, .agents, .fe, .rt, .hb, .rel, .db, .mc, .counters, .out, .fresh]) (by simp [Blk.applyTeardown]) sub

@[simp] theorem within_teardownEdge (v : Env) (sub : [.reaches, .blocks, .agents, .fe, .rt, .hb, .rel, .db, .mc, .counters, .out, .fresh] ⊆ parts) :
    Within parts b₀ (Blk.teardownEdge v b₁) ↔ Within parts b₀ b₁ :=
  Within.iff_of (k := [.reaches, .blocks, .agents, .fe, .rt, .hb, .rel, .db, .mc, .counters, .out, .fresh]) (by simp [Blk.teardownEdge]) sub

@[simp] theorem within_enterReset (v : Env) (sub : [.rel, .db, .mc, .counters, .out] ⊆ parts) :
    Within parts b₀ (Blk.enterReset v b₁) ↔ Within parts b₀ b₁ := by
  refine Within.iff_of (k := [.rel, .db, .mc, .counters, .out]) ?_ sub
  unfold Blk.enterReset
  dsimp only
  repeat' split
  all_goals simp

@[simp] theorem within_resetControl (v : Env) (sub : [.reaches, .predOps, .predNext, .agents, .fe, .rt, .hb, .rel, .db, .counters, .out] ⊆ parts) :
    Within parts b₀ (Blk.resetControl v b₁) ↔ Within parts b₀ b₁ := by
  refine Within.iff_of (k := [.reaches, .predOps, .predNext, .agents, .fe, .rt, .hb, .rel, .db, .counters, .out]) ?_ sub
  unfold Blk.resetControl
  refine .trans (c := { b₁ with
    rt := { err := b₁.rt.err }, agents := b₁.agents.map fun (p : Nat × Agent) => (p.1, p.2.resetControl)
    predOps := [], predNext := [] }) ?_ (by simp)
  exact fun p out => by cases p <;> first | rfl | exact fun _ => rfl | simp at out

@[simp] theorem within_stopAndReset (v : Env) (sub : [.reaches, .predOps, .predNext, .agents, .fe, .rt, .hb, .rel, .db, .counters, .out] ⊆ parts) :
    Within parts b₀ (Blk.stopAndReset v b₁) ↔ Within parts b₀ b₁ :=
  Within.iff_of (k := [.reaches, .predOps, .predNext, .agents, .fe, .rt, .hb, .rel, .db, .counters, .out]) (by simp [Blk.stopAndReset]) sub

@[simp] theorem within_sweep (v : Env) (l : List Met) (sub : [.rel, .mc, .counters, .out, .fresh] ⊆ parts) :
    Within parts b₀ (Blk.sweep v l b₁) ↔ Within parts b₀ b₁ :=
  Within.iff_of (k := [.rel, .mc, .counters, .out, .fresh]) (by simp [Blk.sweep]) sub

@[simp] theorem within_readRetirement (v : Env) (ws : List (BitVec 64)) (sub : [.reaches, .fe, .rel, .mc, .counters, .out, .fresh] ⊆ parts) :
    Within parts b₀ (Blk.readRetirement v ws b₁) ↔ Within parts b₀ b₁ := by
  refine Within.iff_of (k := [.reaches, .fe, .rel, .mc, .counters, .out, .fresh]) ?_ sub
  unfold Blk.readRetirement
  refine .trans (by simp) (.forEach _ (fun w b => ?_) _)
  split
  case h_5 => exact .refl _ _
  all_goals simp

@[simp] theorem within_mirrorAgain (v : Env) (c : Nat) (sub : [.fe, .out] ⊆ parts) :
    Within parts b₀ (Blk.mirrorAgain v c b₁) ↔ Within parts b₀ b₁ :=
  Within.iff_of (k := [.fe, .out]) (by simp [Blk.mirrorAgain]) sub

@[simp] theorem within_reloadContext (v : Env) (c : Nat) (x : Ctx) (sub : [.fe, .out] ⊆ parts) :
    Within parts b₀ (Blk.reloadContext v c x b₁) ↔ Within parts b₀ b₁ := by
  refine Within.iff_of (k := [.fe, .out]) ?_ sub
  unfold Blk.reloadContext
  dsimp only
  repeat' split
  all_goals simp

@[simp] theorem within_reload (v : Env) (sub : [.fe, .out] ⊆ parts) :
    Within parts b₀ (Blk.reload v b₁) ↔ Within parts b₀ b₁ :=
  Within.iff_of (k := [.fe, .out]) (by simp [Blk.reload]) sub

@[simp] theorem within_endDrain (e : Nat) (sub : [.agents, .hb, .mc, .counters, .out] ⊆ parts) :
    Within parts b₀ (Blk.endDrain e b₁) ↔ Within parts b₀ b₁ :=
  Within.iff_of (k := [.agents, .hb, .mc, .counters, .out]) (by simp [Blk.endDrain]) sub

@[simp] theorem within_visitPage (v : Env) (mem page : Nat) (sub : [.rel] ⊆ parts) :
    Within parts b₀ (Blk.visitPage v mem page b₁) ↔ Within parts b₀ b₁ :=
  Within.iff_of (k := [.rel]) (by simp [Blk.visitPage]) sub

@[simp] theorem within_fenceEdge (r : Nat) (sub : [.reaches] ⊆ parts) :
    Within parts b₀ (Blk.fenceEdge b₁ r) ↔ Within parts b₀ b₁ := by
  refine Within.iff_of (k := [.reaches]) ?_ sub
  unfold Blk.fenceEdge
  dsimp only
  repeat' split
  all_goals simp

@[simp] theorem within_testWrite (r : Nat) (x : BitVec 32) (sub : [.reaches] ⊆ parts) :
    Within parts b₀ (Blk.testWrite r x b₁) ↔ Within parts b₀ b₁ :=
  Within.iff_of (k := [.reaches]) (by simp [Blk.testWrite]) sub

theorem within_replayRelease (v : Env) (r : JRec) (s : Rp) :
    Within [.agents, .fe, .rt, .hb, .counters, .out] s.blk (s.release v r).blk := by
  unfold Rp.release
  dsimp only
  repeat' split
  all_goals simp

theorem within_replayStep (v : Env) (r : JRec) (later : List JRec) (s : Rp) :
    Within [.agents, .fe, .rt, .hb, .counters, .out] s.blk (s.step v r later).blk := by
  unfold Rp.step
  dsimp only
  split
  · exact .trans (by simp) (within_replayRelease v r _)
  repeat' split
  all_goals simp

theorem within_replayRun (v : Env) (js : List JRec) (s : Rp) :
    Within [.agents, .fe, .rt, .hb, .counters, .out] s.blk (Rp.run v js s).blk := by
  induction js generalizing s with
  | nil => exact .refl _ _
  | cons r rest ih => exact (within_replayStep v r rest s).trans (ih _)

@[simp] theorem within_restoreBlock (c : Nat) (f : Frame) (phys : Nat) (entries : Tbl Task) (sub : [.reaches, .blocks, .fe] ⊆ parts) :
    Within parts b₀ (Blk.restoreBlock c f phys entries b₁) ↔ Within parts b₀ b₁ := by
  refine Within.iff_of (k := [.reaches, .blocks, .fe]) ?_ sub
  unfold Blk.restoreBlock
  dsimp only
  repeat' split
  all_goals simp

@[simp] theorem within_restoreAway (c : Nat) (bw : Bool) (p : Rep) (f : Frame) (entries : Tbl Task) (sub : [.reaches, .fe] ⊆ parts) :
    Within parts b₀ (Blk.restoreAway c bw p f entries b₁) ↔ Within parts b₀ b₁ :=
  Within.iff_of (k := [.reaches, .fe]) (by simp [Blk.restoreAway]) sub

@[simp] theorem within_restoreBlocks (p : Rep) (idle bw : Bool) (sub : [.reaches, .blocks, .fe] ⊆ parts) :
    Within parts b₀ (Blk.restoreBlocks p idle bw b₁) ↔ Within parts b₀ b₁ := by
  refine Within.iff_of (k := [.reaches, .blocks, .fe]) ?_ sub
  unfold Blk.restoreBlocks
  refine .forEach _ (fun f b => ?_) _
  dsimp only
  repeat' split
  all_goals simp

@[simp] theorem within_stageStep (c : Nat) (x : Ctx) (sub : [.rel] ⊆ parts) :
    Within parts b₀ (Blk.stageStep c x b₁) ↔ Within parts b₀ b₁ := by
  refine Within.iff_of (k := [.rel]) ?_ sub
  unfold Blk.stageStep
  repeat' split
  all_goals simp

@[simp] theorem within_settle (v : Env) (p : Rep) (sub : [.preds, .fe, .hb, .rel] ⊆ parts) :
    Within parts b₀ (Blk.settle v p b₁) ↔ Within parts b₀ b₁ := by
  refine Within.iff_of (k := [.preds, .fe, .hb, .rel]) ?_ sub
  unfold Blk.settle
  split
  · exact .refl _ _
  refine (within_modFe _ (by simp)).mpr ((within_modHb_chanMem (l := [.preds, .fe, .hb, .rel]) _ (by intro; rfl) (by simp)).mpr ?_)
  refine List.foldlRecOn _ _ ?_ fun b within q _ => (within_preds _ (by simp)).mpr within
  simp

@[simp] theorem within_relist (v : Env) (r : Nat) (sub : [.reaches, .blocks] ⊆ parts) :
    Within parts b₀ (Blk.relist v r b₁) ↔ Within parts b₀ b₁ :=
  Within.iff_of (k := [.reaches, .blocks]) (by simp [Blk.relist]) sub

@[simp] theorem within_queryCounts (sub : [.out] ⊆ parts) :
    Within parts b₀ (Blk.queryCounts b₁) ↔ Within parts b₀ b₁ :=
  Within.iff_of (k := [.out]) (by simp [Blk.queryCounts]) sub

@[simp] theorem within_replay (v : Env) (sub : [.reaches, .blocks, .preds, .agents, .fe, .rt, .hb, .rel, .counters, .out] ⊆ parts) :
    Within parts b₀ (Blk.replay v b₁) ↔ Within parts b₀ b₁ := by
  refine Within.iff_of (k := [.reaches, .blocks, .preds, .agents, .fe, .rt, .hb, .rel, .counters, .out]) ?_ sub
  have ran (js : List JRec) (s : Rp) : Within [.reaches, .blocks, .preds, .agents, .fe, .rt, .hb, .rel, .counters, .out]
      s.blk (Rp.run v js s).blk := (within_replayRun v js s).mono (by simp)
  unfold Blk.replay
  refine .trans ?_ (.forEach _ (fun p b => by simp) _)
  refine (within_modRel _ (by simp)).mpr ((within_releaseEffects v (by simp)).mpr ?_)
  refine .trans (.trans ?_ (.forEach _ (fun p b => ?_) _)) (.forEach _ (fun r b => by simp) _)
  · refine .trans ?_ (.forEach _ (fun r b => by simp) _)
    refine .trans ?_ (.forEach _ (fun p b => by simp) _)
    refine (within_queryCounts (by simp)).mpr (.trans ?_ (ran _ _))
    exact (within_modHb_chanMem _ (by intro; rfl) (by simp)).mpr (.refl _ _)
  · split
    · simp
    · exact .refl _ _

@[simp] theorem within_reissueFences (sub : [.fe, .out] ⊆ parts) :
    Within parts b₀ (Blk.reissueFences b₁) ↔ Within parts b₀ b₁ :=
  Within.iff_of (k := [.fe, .out]) (by simp [Blk.reissueFences]) sub

@[simp] theorem within_resendSignals (v : Env) (sub : [.hb, .counters, .out] ⊆ parts) :
    Within parts b₀ (Blk.resendSignals v b₁) ↔ Within parts b₀ b₁ :=
  Within.iff_of (k := [.hb, .counters, .out]) (by simp [Blk.resendSignals]) sub

@[simp] theorem within_startFrame (v : Env) (f : TxFrame) (sub : [.mc, .out] ⊆ parts) :
    Within parts b₀ (Blk.startFrame v f b₁) ↔ Within parts b₀ b₁ :=
  Within.iff_of (k := [.mc, .out]) (by simp [Blk.startFrame]) sub

@[simp] theorem within_sendNow (v : Env) (type dst : Nat) (body : List Byte) (sub : [.mc, .out] ⊆ parts) :
    Within parts b₀ (Blk.sendNow v type dst body b₁) ↔ Within parts b₀ b₁ :=
  Within.iff_of (k := [.mc, .out]) (by simp [Blk.sendNow]) sub

@[simp] theorem within_queueFrame (type dst prio : Nat) (body : List Byte) (sub : [.mc] ⊆ parts) :
    Within parts b₀ (Blk.queueFrame type dst prio body b₁) ↔ Within parts b₀ b₁ :=
  Within.iff_of (k := [.mc]) (by simp [Blk.queueFrame]) sub

@[simp] theorem within_mcAsk (x : McOp) (sub : [.mc, .counters] ⊆ parts) :
    Within parts b₀ (Blk.mcAsk x b₁) ↔ Within parts b₀ b₁ :=
  Within.iff_of (k := [.mc, .counters]) (by simp [Blk.mcAsk]) sub

@[simp] theorem within_mcAnswer (status : BitVec 8) (data : List Word32) (sub : [.mc] ⊆ parts) :
    Within parts b₀ (Blk.mcAnswer status data b₁) ↔ Within parts b₀ b₁ := by
  refine Within.iff_of (k := [.mc]) ?_ sub
  unfold Blk.mcAnswer
  dsimp only
  repeat' split
  all_goals simp

@[simp] theorem within_mcStarted (sub : [.mc] ⊆ parts) :
    Within parts b₀ (Blk.mcStarted b₁) ↔ Within parts b₀ b₁ :=
  Within.iff_of (k := [.mc]) (by simp [Blk.mcStarted]) sub

@[simp] theorem within_wholeEdge (v : Env) (sub : [.agents, .pg, .db, .mc, .counters, .out] ⊆ parts) :
    Within parts b₀ (Blk.wholeEdge v b₁) ↔ Within parts b₀ b₁ :=
  Within.iff_of (k := [.agents, .pg, .db, .mc, .counters, .out]) (by simp [Blk.wholeEdge]) sub

@[simp] theorem within_csnapEdge (v : Env) (sub : [.agents, .pg, .db, .mc, .counters, .out] ⊆ parts) :
    Within parts b₀ (Blk.csnapEdge v b₁) ↔ Within parts b₀ b₁ :=
  Within.iff_of (k := [.agents, .pg, .db, .mc, .counters, .out]) (by simp [Blk.csnapEdge]) sub

@[simp] theorem within_haltSnap (sub : [.db] ⊆ parts) :
    Within parts b₀ (Blk.haltSnap b₁) ↔ Within parts b₀ b₁ :=
  Within.iff_of (k := [.db]) (by simp [Blk.haltSnap]) sub

@[simp] theorem within_snapOver (v : Env) (x : Snap) (sub : [.db] ⊆ parts) :
    Within parts b₀ (Blk.snapOver v x b₁) ↔ Within parts b₀ b₁ :=
  Within.iff_of (k := [.db]) (by simp [Blk.snapOver]) sub

@[simp] theorem within_flushOver (sub : [.db, .mc] ⊆ parts) :
    Within parts b₀ (Blk.flushOver b₁) ↔ Within parts b₀ b₁ := by
  refine Within.iff_of (k := [.db, .mc]) ?_ sub
  unfold Blk.flushOver
  dsimp only
  repeat' split
  all_goals simp

@[simp] theorem within_writePi (v : Env) (sub : [.db, .mc, .out] ⊆ parts) :
    Within parts b₀ (Blk.writePi v b₁) ↔ Within parts b₀ b₁ :=
  Within.iff_of (k := [.db, .mc, .out]) (by simp [Blk.writePi]) sub

@[simp] theorem within_issueChallenge (sub : [.rel, .mc] ⊆ parts) :
    Within parts b₀ (Blk.issueChallenge b₁) ↔ Within parts b₀ b₁ :=
  Within.iff_of (k := [.rel, .mc]) (by simp [Blk.issueChallenge]) sub

@[simp] theorem within_makerResponse (r : Word32) (sub : [.rel, .mc] ⊆ parts) :
    Within parts b₀ (Blk.makerResponse r b₁) ↔ Within parts b₀ b₁ := by
  refine Within.iff_of (k := [.rel, .mc]) ?_ sub
  unfold Blk.makerResponse
  repeat' split
  all_goals simp

@[simp] theorem within_mcEdge (v : Env) (sub : [.mc] ⊆ parts) :
    Within parts b₀ (Blk.mcEdge v b₁) ↔ Within parts b₀ b₁ :=
  Within.iff_of (k := [.mc]) (by simp [Blk.mcEdge]) sub

@[simp] theorem within_mcGiveUp (v : Env) (op : Nat) (sub : [.rel, .db, .mc, .counters] ⊆ parts) :
    Within parts b₀ (Blk.mcGiveUp v op b₁) ↔ Within parts b₀ b₁ := by
  refine Within.iff_of (k := [.rel, .db, .mc, .counters]) ?_ sub
  unfold Blk.mcGiveUp
  dsimp only
  repeat' split
  all_goals simp

@[simp] theorem within_mcExpire (v : Env) (op : Nat) (sub : [.rel, .db, .mc, .counters] ⊆ parts) :
    Within parts b₀ (Blk.mcExpire v op b₁) ↔ Within parts b₀ b₁ :=
  Within.iff_of (k := [.rel, .db, .mc, .counters]) (by simp [Blk.mcExpire]) sub

@[simp] theorem within_reqGo (v : Env) (value : Word32) (sub : [.mc, .counters] ⊆ parts) :
    Within parts b₀ (Blk.reqGo v value b₁) ↔ Within parts b₀ b₁ :=
  Within.iff_of (k := [.mc, .counters]) (by simp [Blk.reqGo]) sub

@[simp] theorem within_noteStranger (sub : [.mc, .counters] ⊆ parts) :
    Within parts b₀ (Blk.noteStranger b₁) ↔ Within parts b₀ b₁ :=
  Within.iff_of (k := [.mc, .counters]) (by simp [Blk.noteStranger]) sub

@[simp] theorem within_discardFrame (h : Heard) (sub : [.mc, .counters] ⊆ parts) :
    Within parts b₀ (Blk.discardFrame h b₁) ↔ Within parts b₀ b₁ := by
  refine Within.iff_of (k := [.mc, .counters]) ?_ sub
  unfold Blk.discardFrame
  repeat' split
  all_goals simp

@[simp] theorem within_noteStation (src : Nat) (sub : [.mc] ⊆ parts) :
    Within parts b₀ (Blk.noteStation src b₁) ↔ Within parts b₀ b₁ :=
  Within.iff_of (k := [.mc]) (by simp [Blk.noteStation]) sub

@[simp] theorem within_receiveFrame (frame : List Byte) (sub : [.mc, .counters] ⊆ parts) :
    Within parts b₀ (Blk.receiveFrame frame b₁) ↔ Within parts b₀ b₁ :=
  Within.iff_of (k := [.mc, .counters]) (by simp [Blk.receiveFrame]) sub

@[simp] theorem within_setLantern (k : Nat) (sub : [.mc, .counters] ⊆ parts) :
    Within parts b₀ (Blk.setLantern k b₁) ↔ Within parts b₀ b₁ := by
  refine Within.iff_of (k := [.mc, .counters]) ?_ sub
  unfold Blk.setLantern
  dsimp only
  repeat' split
  all_goals simp

@[simp] theorem within_takeSample (v : Env) (mtime : Nat) (sub : [.mc, .fresh] ⊆ parts) :
    Within parts b₀ (Blk.takeSample v mtime b₁) ↔ Within parts b₀ b₁ :=
  Within.iff_of (k := [.mc, .fresh]) (by simp [Blk.takeSample]) sub

@[simp] theorem within_followBeacon (v : Env) (src : Nat) (frame : List Byte) (sub : [.mc, .counters, .fresh] ⊆ parts) :
    Within parts b₀ (Blk.followBeacon v src frame b₁) ↔ Within parts b₀ b₁ :=
  Within.iff_of (k := [.mc, .counters, .fresh]) (by simp [Blk.followBeacon]) sub

@[simp] theorem within_carrierFalls (v : Env) (sub : [.mc] ⊆ parts) :
    Within parts b₀ (Blk.carrierFalls v b₁) ↔ Within parts b₀ b₁ :=
  Within.iff_of (k := [.mc]) (by simp [Blk.carrierFalls]) sub

@[simp] theorem within_frameSent (v : Env) (f : TxFrame) (echo : Nat) (sub : [.mc, .counters] ⊆ parts) :
    Within parts b₀ (Blk.frameSent v f echo b₁) ↔ Within parts b₀ b₁ := by
  refine Within.iff_of (k := [.mc, .counters]) ?_ sub
  unfold Blk.frameSent
  dsimp only
  repeat' split
  all_goals simp

@[simp] theorem within_frameCollided (f : TxFrame) (sub : [.mc, .counters, .fresh] ⊆ parts) :
    Within parts b₀ (Blk.frameCollided f b₁) ↔ Within parts b₀ b₁ :=
  Within.iff_of (k := [.mc, .counters, .fresh]) (by simp [Blk.frameCollided]) sub

@[simp] theorem within_raiseAlarm (value : Word32) (sub : [.mc] ⊆ parts) :
    Within parts b₀ (Blk.raiseAlarm value b₁) ↔ Within parts b₀ b₁ :=
  Within.iff_of (k := [.mc]) (by simp [Blk.raiseAlarm]) sub

@[simp] theorem within_popRx (value : Word32) (sub : [.mc] ⊆ parts) :
    Within parts b₀ (Blk.popRx value b₁) ↔ Within parts b₀ b₁ :=
  Within.iff_of (k := [.mc]) (by simp [Blk.popRx]) sub

@[simp] theorem within_drainAgent (v : Env) (e : Nat) (sub : [.reaches, .agents, .fe, .hb, .chanMem, .counters, .out] ⊆ parts) :
    Within parts b₀ (Blk.drainAgent v e b₁) ↔ Within parts b₀ b₁ :=
  Within.iff_of (k := [.reaches, .agents, .fe, .hb, .chanMem, .counters, .out]) (by simp [Blk.drainAgent]) sub

@[simp] theorem within_countClks (e : Nat) (a : Agent) (sub : [.counters] ⊆ parts) :
    Within parts b₀ (Blk.countClks e a b₁) ↔ Within parts b₀ b₁ :=
  Within.iff_of (k := [.counters]) (by simp [Blk.countClks]) sub

@[simp] theorem within_endPulse (v : Env) (sub : [.reaches, .blocks, .predNext, .agents, .fe, .rt, .hb, .chanMem, .counters, .out] ⊆ parts) :
    Within parts b₀ (Blk.endPulse v b₁) ↔ Within parts b₀ b₁ :=
  Within.iff_of (k := [.reaches, .blocks, .predNext, .agents, .fe, .rt, .hb, .chanMem, .counters, .out]) (by simp [Blk.endPulse]) sub

@[simp] theorem within_sendFitting (v : Env) (as : List (Nat × RsigBlk × BitVec 16)) (sub : [.rt, .hb, .rel, .counters] ⊆ parts) :
    Within parts b₀ (Blk.sendFitting v as b₁) ↔ Within parts b₀ b₁ := by
  refine Within.iff_of (k := [.rt, .hb, .rel, .counters]) ?_ sub
  induction as generalizing b₁ with
  | nil => exact .refl _ _
  | cons a rest ih =>
    unfold Blk.sendFitting
    dsimp only
    split
    · exact .trans (by simp) ih
    · simp

@[simp] theorem within_sendAnnounces (v : Env) (sub : [.rt, .hb, .rel, .counters] ⊆ parts) :
    Within parts b₀ (Blk.sendAnnounces v b₁) ↔ Within parts b₀ b₁ := by
  refine Within.iff_of (k := [.rt, .hb, .rel, .counters]) ?_ sub
  simp [Blk.sendAnnounces]

@[simp] theorem within_routerEdge (v : Env) (r : Nat) (sub : [.reaches, .blocks, .fe, .counters] ⊆ parts) :
    Within parts b₀ (Blk.routerEdge v b₁ r) ↔ Within parts b₀ b₁ :=
  Within.iff_of (k := [.reaches, .blocks, .fe, .counters]) (by simp [Blk.routerEdge]) sub

@[simp] theorem within_withdrawGang (v : Env) (r : Nat) (g : GangSend) (sub : [.reaches, .blocks, .agents, .counters] ⊆ parts) :
    Within parts b₀ (Blk.withdrawGang v r g b₁) ↔ Within parts b₀ b₁ :=
  Within.iff_of (k := [.reaches, .blocks, .agents, .counters]) (by simp [Blk.withdrawGang]) sub

@[simp] theorem within_releaseGang (v : Env) (r : Nat) (g : GangSend) (sub : [.reaches, .agents, .out] ⊆ parts) :
    Within parts b₀ (Blk.releaseGang v r g b₁) ↔ Within parts b₀ b₁ :=
  Within.iff_of (k := [.reaches, .agents, .out]) (by simp [Blk.releaseGang]) sub

@[simp] theorem within_gangEdge (v : Env) (r : Nat) (sub : [.reaches, .blocks, .agents, .counters, .out] ⊆ parts) :
    Within parts b₀ (Blk.gangEdge v b₁ r) ↔ Within parts b₀ b₁ :=
  Within.iff_of (k := [.reaches, .blocks, .agents, .counters, .out]) (by simp [Blk.gangEdge]) sub

@[simp] theorem within_makeReady (v : Env) (t : TaskRef) (sub : [.reaches, .blocks] ⊆ parts) :
    Within parts b₀ (Blk.makeReady v t b₁) ↔ Within parts b₀ b₁ :=
  Within.iff_of (k := [.reaches, .blocks]) (by simp [Blk.makeReady]) sub

@[simp] theorem within_applySkips (v : Env) (r : Nat) (ts : List TaskRef)
    (sub : [.reaches, .blocks, .fe, .hb, .rel, .db, .counters] ⊆ parts) :
    Within parts b₀ (Blk.applySkips v r ts b₁).1 ↔ Within parts b₀ b₁ := by
  refine Within.iff_of (k := [.reaches, .blocks, .fe, .hb, .rel, .db, .counters]) ?_ sub
  induction ts generalizing b₁ with
  | nil => exact .refl _ _
  | cons t ts ih =>
    unfold Blk.applySkips
    dsimp only
    split
    · simp
    split
    · exact .trans (by simp) ih
    split
    · exact .trans (by simp) ih
    · simp

@[simp] theorem within_readyStage (v : Env) (r : Nat) (held : Bool) (sub : [.reaches, .blocks, .fe, .hb, .rel, .db, .counters] ⊆ parts) :
    Within parts b₀ (Blk.readyStage v b₁ r held) ↔ Within parts b₀ b₁ := by
  refine Within.iff_of (k := [.reaches, .blocks, .fe, .hb, .rel, .db, .counters]) ?_ sub
  simp [Blk.readyStage]

@[simp] theorem within_commitLists (v : Env) (r : Nat) (sub : [.reaches, .blocks] ⊆ parts) :
    Within parts b₀ (Blk.commitLists v b₁ r) ↔ Within parts b₀ b₁ :=
  Within.iff_of (k := [.reaches, .blocks]) (by simp [Blk.commitLists]) sub

@[simp] theorem within_listUpdate (v : Env) (l : ListRec) (sub : [.reaches, .blocks] ⊆ parts) :
    Within parts b₀ (Blk.listUpdate v b₁ l) ↔ Within parts b₀ b₁ := by
  refine Within.iff_of (k := [.reaches, .blocks]) ?_ sub
  unfold Blk.listUpdate
  dsimp only
  repeat' split
  all_goals simp

@[simp] theorem within_insertReady (r : Nat) (sub : [.reaches] ⊆ parts) :
    Within parts b₀ (Blk.insertReady b₁ r) ↔ Within parts b₀ b₁ :=
  Within.iff_of (k := [.reaches]) (by simp [Blk.insertReady]) sub

@[simp] theorem within_sampleDepths (r : Nat) (sub : [.db, .counters] ⊆ parts) :
    Within parts b₀ (Blk.sampleDepths b₁ r) ↔ Within parts b₀ b₁ :=
  Within.iff_of (k := [.db, .counters]) (by simp [Blk.sampleDepths]) sub

@[simp] theorem within_completionEdge (v : Env) (sub : [.reaches, .blocks, .predOps, .predNext, .fe, .hb, .rel, .db, .counters, .out] ⊆ parts) :
    Within parts b₀ (Blk.completionEdge v b₁).1 ↔ Within parts b₀ b₁ := by
  refine Within.iff_of (k := [.reaches, .blocks, .predOps, .predNext, .fe, .hb, .rel, .db, .counters, .out]) ?_ sub
  exact within_foldl_fst (fun a r => by simp) _ (b₁, [])

@[simp] theorem within_operations (v : Env) (sub : [.reaches, .blocks, .preds, .history, .predOps, .predNext, .agents, .fe, .rt, .hb, .rel, .db, .counters, .out, .fresh] ⊆ parts) :
    Within parts b₀ (Blk.operations v b₁).1 ↔ Within parts b₀ b₁ := by
  refine Within.iff_of (k := [.reaches, .blocks, .preds, .history, .predOps, .predNext, .agents, .fe, .rt, .hb, .rel, .db, .counters, .out, .fresh]) ?_ sub
  unfold Blk.operations
  refine .trans (c := b₁.openQueue0 v) (by simp) (.trans (c := { b₁.openQueue0 v with
    predOps := (b₁.openQueue0 v).predOps ++ (b₁.openQueue0 v).predNext, predNext := [] }) ?_ (by simp))
  exact fun p out => by cases p <;> first | rfl | exact fun _ => rfl | simp at out

@[simp] theorem within_readiness (v : Env) (held : List Nat) (sub : [.reaches, .blocks, .fe, .hb, .rel, .db, .counters] ⊆ parts) :
    Within parts b₀ (Blk.readiness v held b₁) ↔ Within parts b₀ b₁ := by
  refine Within.iff_of (k := [.reaches, .blocks, .fe, .hb, .rel, .db, .counters]) ?_ sub
  unfold Blk.readiness
  refine .forEach _ (fun r b => ?_) _
  simp

@[simp] theorem within_edgeRecords (v : Env) (sub : [.reaches, .blocks, .agents, .fe, .rt, .hb, .rel, .db, .mc, .counters, .out, .fresh] ⊆ parts) :
    Within parts b₀ (Blk.edgeRecords v b₁) ↔ Within parts b₀ b₁ :=
  Within.iff_of (k := [.reaches, .blocks, .agents, .fe, .rt, .hb, .rel, .db, .mc, .counters, .out, .fresh]) (by simp [Blk.edgeRecords]) sub

@[simp] theorem within_edgeSamples (v : Env) (sub : [.fe, .db, .counters] ⊆ parts) :
    Within parts b₀ (Blk.edgeSamples v b₁) ↔ Within parts b₀ b₁ :=
  Within.iff_of (k := [.fe, .db, .counters]) (by simp [Blk.edgeSamples]) sub

@[simp] theorem within_workEdge (v : Env) (ran : Bool) (sub : [.reaches, .blocks, .preds, .history, .predOps, .predNext, .agents, .fe, .rt, .hb, .rel, .db, .mc, .counters, .out, .fresh] ⊆ parts) :
    Within parts b₀ (Blk.workEdge v ran b₁) ↔ Within parts b₀ b₁ :=
  Within.iff_of (k := [.reaches, .blocks, .preds, .history, .predOps, .predNext, .agents, .fe, .rt, .hb, .rel, .db, .mc, .counters, .out, .fresh]) (by simp [Blk.workEdge]) sub

@[simp] theorem within_resumeEdge (v : Env) (sub : [.reaches, .blocks, .agents, .fe, .hb, .rel, .db, .counters, .out] ⊆ parts) :
    Within parts b₀ (Blk.resumeEdge v b₁) ↔ Within parts b₀ b₁ := by
  refine Within.iff_of (k := [.reaches, .blocks, .agents, .fe, .hb, .rel, .db, .counters, .out]) ?_ sub
  unfold Blk.resumeEdge
  split
  · exact .refl _ _
  · refine .trans (.trans ?_ ((within_withAgents (b₁ := (b₁.resumeNow v).afterAck v) _ (by simp)).mpr (.refl _ _)))
      (.forEach _ (fun r b => .forEach _ (fun t b => by simp) _) _)
    simp

@[simp] theorem within_broadcast (sub : [.agents] ⊆ parts) :
    Within parts b₀ (Blk.broadcast b₁) ↔ Within parts b₀ b₁ :=
  Within.iff_of (k := [.agents]) (by simp [Blk.broadcast]) sub

@[simp] theorem within_beginPulse (v : Env) (sub : [.reaches, .blocks, .agents, .fe, .rt, .hb, .pg, .rel, .db, .mc, .counters, .out] ⊆ parts) :
    Within parts b₀ (Blk.beginPulse v b₁) ↔ Within parts b₀ b₁ := by
  refine Within.iff_of (k := [.reaches, .blocks, .agents, .fe, .rt, .hb, .pg, .rel, .db, .mc, .counters, .out]) ?_ sub
  unfold Blk.beginPulse
  dsimp only
  repeat' split
  all_goals simp



@[simp] theorem within_pulseNews (v : Env) (p : PulseIn) (sub : [.reaches, .fe, .rel, .mc, .counters, .out, .fresh] ⊆ parts) :
    Within parts b₀ (Blk.pulseNews v p b₁) ↔ Within parts b₀ b₁ :=
  Within.iff_of (k := [.reaches, .fe, .rel, .mc, .counters, .out, .fresh]) (by simp [Blk.pulseNews]) sub

@[simp] theorem within_writesAct (v : Env) (first : Bool) (sub : [.reaches, .fe, .rel, .mc, .counters, .out, .fresh] ⊆ parts) :
    Within parts b₀ (Blk.writesAct v first b₁) ↔ Within parts b₀ b₁ :=
  Within.iff_of (k := [.reaches, .fe, .rel, .mc, .counters, .out, .fresh]) (by simp [Blk.writesAct]) sub

@[simp] theorem within_wrote (addr : Nat) (data : Word32) (retire : List (BitVec 64)) (sub : [.fe, .mc] ⊆ parts) :
    Within parts b₀ (Blk.wrote addr data retire b₁) ↔ Within parts b₀ b₁ := by
  refine Within.iff_of (k := [.fe, .mc]) ?_ sub
  unfold Blk.wrote
  split
  · simp
  split
  · exact (within_setSegEn _ _).mono (by simp)
  · exact .refl _ _

@[simp] theorem within_act (v : Env) (addr : Nat) (data : Word32) (sub : [.fe, .db, .mc, .counters, .out, .fresh] ⊆ parts) :
    Within parts b₀ (Blk.act v addr data b₁) ↔ Within parts b₀ b₁ := by
  refine Within.iff_of (k := [.fe, .db, .mc, .counters, .out, .fresh]) ?_ sub
  unfold Blk.act
  dsimp only
  repeat' split
  all_goals simp

end Blk

end Sys2Proof.Machine
end

section
/-! Which parts of the block a command may change. -/

namespace Sys2Proof.Machine

open Sys2Proof.Config

/-- All parts. -/
def Part.whole : List Part :=
  [.reaches, .preds, .history, .predOps, .predNext, .agents, .fe, .rt, .hb, .pg, .rel, .db, .mc, .counters, .out, .fresh,
    .blocks, .chanMem]

theorem Blk.Within.whole (b c : Blk) : Within Part.whole b c := fun p out => absurd (by cases p <;> simp [Part.whole]) out

theorem State.within_requestPower (s : State) (d : Nat) : Blk.Within [.out] s.blk (s.requestPower d).blk := by
  unfold State.requestPower
  split <;> simp

/-! ### The register port -/

/-- The parts that a write of the register port may change. -/
def Part.ofPort : List Part := [.reaches, .fe, .rt, .db, .mc, .counters, .out, .fresh]

theorem State.within_writeReg (s : State) (addr : Nat) (r : Reg) (data : Word32) (retire : List (BitVec 64)) :
    Blk.Within Part.ofPort s.blk (s.writeReg addr r data retire).blk := by
  unfold State.writeReg State.setLock
  repeat' split
  all_goals first
    | exact .refl _ _
    | simp [Part.ofPort]

theorem within_portWrite {s t : State} {addr : Nat} {data : Word32} {be : BitVec 4} {retire : List (BitVec 64)}
    (h : (.next (s.portWrite addr data be retire) : Host.Outcome State Fault Refusal) = .next t) :
    Blk.Within Part.ofPort s.blk t.blk := by
  cases h
  refine (Blk.within_emit _ (by simp [Part.ofPort])).mpr ?_
  unfold State.takeWrite
  repeat' split
  all_goals first
    | exact .refl _ _
    | exact s.within_writeReg _ _ _ _

theorem within_testRow {s t : State} {r : Nat} {value : Word32} (h : testRow r value s = .next t) :
    Blk.Within Part.ofPort s.blk t.blk := by
  unfold testRow at h
  split at h
  · exact within_portWrite h
  · cases h; exact .refl _ _

theorem within_portRead {s t : State} {addr : Nat} {be : BitVec 4}
    (h : (.next (s.portRead addr be) : Host.Outcome State Fault Refusal) = .next t) : Blk.Within [.out] s.blk t.blk := by
  cases h
  unfold State.portRead
  split <;> simp


/-- The parts of the block that a command may change. -/
def Instr.touches : Instr → List Part
  | .powerOnReset .. | .pulseEdge .. =>
    Part.whole
  | .domainPowerAck .. =>
    [.fe, .rel, .out]
  | .stepRequest .. | .cyclicTableSwitch | .writeMonitorHint =>
    [.fe]
  | .edgeRead .. =>
    [.reaches]
  | .outboxSend .. =>
    [.reaches, .counters]
  | .unitApply .. =>
    [.reaches, .blocks, .fe, .counters]
  | .ledgerRmw .. =>
    [.reaches, .blocks, .fe, .rel, .mc, .counters, .out, .fresh]
  | .pageInComplete .. =>
    [.reaches, .fe, .rel, .mc, .counters, .out, .fresh]
  | .pageOutComplete .. =>
    [.reaches, .fe, .rel, .db, .mc, .counters, .out, .fresh]
  | .backwaterBlockLoad .. =>
    [.reaches, .blocks, .fe, .out]
  | .dispatchWordArrive .. | .abortRequest .. =>
    [.reaches, .agents, .counters, .out]
  | .dispatchPresent .. | .syncReservedOp .. | .operationClassReserved .. | .channelReservedOp ..
  | .resetDrainExpiry | .debugReservedOp .. =>
    [.agents, .out]
  | .engineTakeDispatch .. =>
    [.agents]
  | .engineCompletion .. =>
    [.reaches, .agents, .fe, .hb, .chanMem, .counters, .out]
  | .completionLand .. | .preemptionNoticeLand .. | .abortReplyLand .. =>
    [.reaches, .agents, .counters]
  | .engineAbortAck .. =>
    [.reaches, .agents, .hb, .counters, .out]
  | .tilePull .. =>
    [.reaches, .blocks, .agents, .counters, .out]
  | .tilePullRetry .. =>
    [.reaches, .blocks, .agents, .rt, .pg, .counters, .out]
  | .holdItem .. | .commitNotice .. | .releaseItemAck .. =>
    [.agents, .fe, .hb, .chanMem, .counters, .out]
  | .squashNotice .. | .census .. | .censusClose .. =>
    [.agents, .counters, .out]
  | .scoreVector .. =>
    [.agents, .fe, .rt, .hb, .counters]
  | .tokenRoute =>
    [.predNext, .agents, .fe, .rt, .hb, .counters, .out]
  | .chunkBind .. =>
    [.rt, .counters, .out]
  | .sendDone .. | .deferredSendIssue .. | .sessionClosePoint .. =>
    [.agents, .rt, .counters, .out]
  | .tileRelease .. =>
    [.rt, .counters]
  | .routerNoticeLand .. =>
    [.reaches, .rt, .counters]
  | .chunkPull .. =>
    [.reaches, .agents, .rt, .pg, .counters, .out]
  | .sessionClose .. =>
    [.rt, .out, .fresh]
  | .closeWritesAcked .. =>
    [.reaches, .predNext, .agents, .fe, .rt, .hb, .pg, .rel, .mc, .counters, .out, .fresh]
  | .announcementReceive =>
    [.predNext, .fe, .rt, .counters, .out]
  | .doorbellPollDue | .deferredPollStart | .summaryReadDone .. | .bellAndDone .. | .loadImage ..
  | .waitValue .. =>
    [.fe, .counters, .out]
  | .piReadDone .. | .descriptorFetchDone .. | .statusRecordWriteResponse .. =>
    [.fe, .rel, .counters, .out]
  | .nop .. | .markBegin .. | .markEnd .. | .contextCreate .. | .contextDestroy .. | .queueCreate ..
  | .queueDestroy .. | .dumpTensor .. | .reservedOpcode .. =>
    [.fe, .counters]
  | .launchGraph .. | .imageReadDone .. | .loadImageWritesAcked .. | .patch .. | .waitValueReadDone ..
  | .writeValueAck .. | .step .. =>
    [.fe, .rel, .mc, .counters, .out, .fresh]
  | .waitValuePoll .. =>
    [.fe, .out]
  | .writeValue .. | .queueTimeout .. =>
    [.fe, .rel, .counters]
  | .feFwCtlGo .. | .pgCtlEn .. | .rchTestFence .. | .rchTestStart .. | .dbSnapResumeGo .. | .dbBpResume ..
  | .mcReqGo .. | .mcSegCtlEn .. | .mcAlarmRaise .. | .mcRxPop .. | .feCtlEn .. | .glbLock ..
  | .registerWrite .. =>
    Part.ofPort
  | .firmwareLoadDone .. =>
    [.fe, .rel, .mc, .counters, .out]
  | .cpTrap .. =>
    [.rel, .db, .counters, .fresh]
  | .cpHeartbeatSilent | .checkpointBegin | .checkpointEnd | .blkResetReq =>
    [.rel]
  | .syncRead .. | .syncAdd .. | .syncWaitGe .. | .syncWaitEq .. | .syncTake .. | .dmaCompletionSignal ..
  | .connect .. =>
    [.agents, .hb, .counters, .out]
  | .syncRsig .. | .fanout .. | .cbOpen .. =>
    [.agents, .hb, .out]
  | .journalAck .. =>
    [.fe, .hb, .rel, .mc, .counters, .out, .fresh]
  | .signalResend .. | .signalAckReceive .. | .signalReceive .. | .slotCombine .. =>
    [.hb, .counters, .out]
  | .fabricCountPush .. =>
    [.hb, .counters]
  | .releaseEffect =>
    [.reaches, .agents, .fe, .rt, .hb, .counters, .out]
  | .epochQuery .. | .watchFetch .. | .registerReadCapture .. | .registerAccessError .. =>
    [.out]
  | .fabricTelemetry .. | .timeRecord =>
    [.db, .counters]
  | .accept .. =>
    [.agents, .hb, .chanMem, .rel, .counters, .out]
  | .send .. | .mark .. | .rewind .. | .release .. =>
    [.agents, .hb, .chanMem, .counters, .out]
  | .read .. =>
    [.agents, .hb, .chanMem, .rel, .mc, .counters, .out, .fresh]
  | .close .. =>
    [.agents, .hb, .chanMem, .out]
  | .cbQueueOpen .. | .cbPut .. =>
    [.agents, .fe, .hb, .counters, .out]
  | .combineCloseDone .. =>
    [.reaches, .hb]
  | .enginePowerGood .. =>
    [.agents, .counters]
  | .controlEdge =>
    [.pg, .mc, .counters, .out]
  | .droopCalibrationPeriod | .pgPowerSample .. | .supplyLevelChange .. | .sagHoldExpiry | .boostGrant .. =>
    [.pg]
  | .droopEvent .. | .stretchRequestEnd .. =>
    [.pg, .counters, .out]
  | .teardownDeadline .. =>
    [.reaches, .blocks, .hb, .rel, .fresh]
  | .blockReset .. =>
    [.reaches, .predOps, .predNext, .agents, .fe, .rt, .hb, .rel, .db, .mc, .counters, .out, .fresh]
  | .resetPhaseEnd2 .. =>
    [.reaches, .agents, .fe, .hb, .rel, .mc, .counters, .out, .fresh]
  | .journalReplay =>
    [.reaches, .blocks, .preds, .agents, .fe, .rt, .hb, .rel, .counters, .out]
  | .resetResume =>
    [.fe, .hb, .rel, .counters, .out]
  | .scrubPage .. =>
    [.rel, .mc, .counters, .out, .fresh]
  | .selfTestDone .. =>
    [.reaches, .rel, .mc, .counters, .out, .fresh]
  | .watchHit .. =>
    [.agents, .db, .counters, .out]
  | .loadMapSample =>
    [.agents, .db]
  | .snapshotWritesAcked .. | .traceWriteAck .. | .counterSnapshotWritesAcked .. =>
    [.rel, .db, .mc, .counters, .out, .fresh]
  | .breakpointHalt .. =>
    [.db, .counters, .fresh]
  | .dumpCopyDone =>
    [.fe, .db, .counters, .out]
  | .identityRead | .statusRead | .mcReservedOp | .listenTimeout | .probe .. | .backoffExpiry =>
    [.mc]
  | .counterSnapshot | .hangSnapshot | .traceFlush =>
    [.db, .mc]
  | .powerShedControl =>
    [.pg, .mc]
  | .mgmtBlockReset | .makerPortRequest =>
    [.rel, .mc]
  | .mcOperationTimeout =>
    [.rel, .db, .mc, .counters]
  | .probeSend | .electionBeacon | .beaconSend | .frameTransmit .. | .alarmFreeze =>
    [.mc, .out]
  | .beaconMissed | .request .. | .alarm .. | .telemetry .. | .log .. | .response .. | .telemetryBuild
  | .discardedFrame .. =>
    [.mc, .counters]
  | .beacon .. | .reflectionCheck .. =>
    [.mc, .counters, .fresh]
  | .chunkClaimable .. =>
    [.rt, .out]

/-- A command changes nothing of the block but what `touches` lists. -/
theorem exec_within {c : Instr} {s t : State} (h : exec c s = .next t) : Blk.Within (Instr.touches c) s.blk t.blk := by
  cases c with
  | powerOnReset | pulseEdge =>
    exact .whole _ _
  | domainPowerAck =>
    simp only [exec, execDomainPowerAck] at h
    have asked (x : State) (k : Nat) (same : Blk.Within [.fe, .rel] s.blk x.blk) :
        Blk.Within [.fe, .rel, .out] s.blk (x.requestPower k).blk :=
      (same.mono (by simp)).trans ((x.within_requestPower k).mono (by simp))
    repeat' split at h
    all_goals cases h
    all_goals first
      | exact asked _ _ (by simp)
      | simp [Instr.touches]
  | stepRequest | edgeRead | outboxSend | unitApply | dispatchPresent | completionLand | tilePull
  | tilePullRetry | cyclicTableSwitch | releaseItemAck | tokenRoute | doorbellPollDue | writeMonitorHint
  | deferredPollStart | firmwareLoadDone | cpTrap | cpHeartbeatSilent | journalAck | signalAckReceive
  | signalReceive | releaseEffect | epochQuery | fabricTelemetry | controlEdge | droopCalibrationPeriod
  | pgPowerSample | droopEvent | supplyLevelChange | sagHoldExpiry | boostGrant | checkpointBegin | blkResetReq
  | resetDrainExpiry | resetPhaseEnd2 | journalReplay | scrubPage | selfTestDone | timeRecord | loadMapSample
  | breakpointHalt | traceWriteAck | listenTimeout | electionBeacon | beaconSend | beaconMissed | backoffExpiry
  | telemetryBuild | stretchRequestEnd | discardedFrame =>
    cases h; simp [Instr.touches]
  | ledgerRmw | pageInComplete | pageOutComplete | backwaterBlockLoad | dispatchWordArrive | engineTakeDispatch
  | engineAbortAck | preemptionNoticeLand | abortRequest | abortReplyLand | commitNotice | squashNotice
  | chunkBind | deferredSendIssue | tileRelease | routerNoticeLand | sessionClosePoint | sessionClose
  | closeWritesAcked | loadImageWritesAcked | waitValuePoll | queueTimeout | signalResend | fabricCountPush
  | cbQueueOpen | combineCloseDone | checkpointEnd | snapshotWritesAcked | dumpCopyDone | mcReservedOp
  | probeSend | beacon | request | alarm | telemetry | log | response | probe | frameTransmit | reflectionCheck
  | alarmFreeze | counterSnapshotWritesAcked | chunkClaimable =>
    cases h; dsimp only [Instr.touches]; repeat' split
    all_goals simp
  | engineCompletion =>
    simp only [exec, execEngineCompletion] at h
    repeat' split at h
    all_goals cases h
    all_goals simp [Instr.touches]
  | holdItem =>
    simp only [exec, execHoldItem] at h
    repeat' split at h
    all_goals cases h
    all_goals simp [Instr.touches]
  | scoreVector | chunkPull | syncWaitGe | syncWaitEq | syncTake | syncReservedOp | operationClassReserved
  | connect | send | mark | rewind | release | fanout | cbOpen | cbPut | channelReservedOp | census
  | censusClose | watchFetch | watchHit | debugReservedOp =>
    rcases atRun_next h with rfl | ⟨r, -, -, rfl⟩ <;> simp [Instr.touches]
  | sendDone =>
    simp only [exec, execSendDone] at h
    repeat' split at h
    all_goals cases h
    all_goals simp [Instr.touches]
  | announcementReceive =>
    cases h; dsimp only [Instr.touches]; split
    · exact .refl _ _
    split
    · exact .refl _ _
    · refine (Blk.within_modRt _ (by simp)).mpr ?_
      cases taken : s.blk.announcement _ with
      | none => exact .refl _ _
      | some d => exact Blk.within_announcement taken
  | summaryReadDone | imageReadDone =>
    cases h; simp only [Blk.within_ite, Blk.Within.refl, implies_true, and_true]
    refine Blk.within_respond _ _ _ _ (fun b => ?_) (by simp [Instr.touches]) _
    dsimp only [Instr.touches]
    repeat' split
    all_goals simp
  | bellAndDone | piReadDone | descriptorFetchDone | waitValueReadDone | writeValueAck
  | statusRecordWriteResponse =>
    cases h; simp only [Blk.within_ite, Blk.Within.refl, implies_true, and_true]
    refine fun _ => Blk.within_respond _ _ _ _ (fun b => ?_) (by simp [Instr.touches]) _
    dsimp only [Instr.touches]
    repeat' split
    all_goals simp
  | nop | loadImage | waitValue | writeValue | markBegin | markEnd | contextCreate | contextDestroy
  | queueCreate | queueDestroy | dumpTensor =>
    cases h; simp only [Blk.within_ite, Blk.Within.refl, implies_true, and_true]
    refine fun _ => Blk.within_startDesc _ _ _ _ (fun u i d b => ?_) (by simp [Instr.touches]) _
    dsimp only [Instr.touches]
    repeat' split
    all_goals simp [Blk.ends]
  | launchGraph =>
    simp only [exec, execLaunchGraph] at h
    split at h
    · cases h; dsimp only [Instr.touches]
      repeat' split
      all_goals simp
    · cases h; simp only [Blk.within_ite, Blk.Within.refl, implies_true, and_true, true_and]
      refine fun _ _ => Blk.within_startDesc _ _ _ _ (fun u i d b => ?_) (by simp [Instr.touches]) _
      dsimp only [Instr.touches]
      repeat' split
      all_goals simp [Blk.ends]
  | patch | step =>
    cases h; simp only [Blk.within_ite, Blk.Within.refl, implies_true, and_true, true_and]
    refine fun _ _ => Blk.within_startDesc _ _ _ _ (fun u i d b => ?_) (by simp [Instr.touches]) _
    dsimp only [Instr.touches]
    repeat' split
    all_goals simp [Blk.ends]
  | reservedOpcode =>
    cases h; simp only [Blk.within_ite, Blk.Within.refl, implies_true, and_true]
    exact fun _ => Blk.within_startDesc _ _ _ _ (fun u i d b => by simp [Blk.ends]) (by simp [Instr.touches]) _
  | feFwCtlGo | pgCtlEn | dbSnapResumeGo | dbBpResume | mcReqGo | mcSegCtlEn | mcAlarmRaise | mcRxPop | feCtlEn
  | glbLock | registerWrite =>
    exact within_portWrite h
  | syncRead | syncAdd | dmaCompletionSignal | accept | read | close =>
    rcases atRun_next h with rfl | ⟨r, -, -, rfl⟩
    · exact .refl _ _
    · dsimp only [Instr.touches]
      repeat' split
      all_goals simp
  | syncRsig =>
    rcases atRun_next h with rfl | ⟨r, -, -, rfl⟩
    · exact .refl _ _
    · dsimp only [Instr.touches]
      split
      · simp
      split
      · simp
      · exact (Blk.within_opReply _ _ _ _ (by simp)).mpr ((Blk.within_pendSignal _ _ _ _ (fun l b => by simp [keepInRun]) _).mono (by simp))
  | slotCombine =>
    simp only [exec, execSlotCombine] at h
    repeat' split at h
    all_goals cases h
    all_goals simp [Instr.touches]
  | enginePowerGood =>
    simp only [exec, execEnginePowerGood] at h
    split at h
    · cases h; exact .refl _ _
    split at h
    · cases h; exact .refl _ _
    split at h
    · cases h
    rw [onBlk_next h]
    dsimp only [Instr.touches]
    split
    · exact (Blk.within_withCounters (b₁ := s.blk.modAgent _ _) _ (by simp)).mpr (by simp)
    · simp
  | teardownDeadline =>
    cases h; dsimp only [Instr.touches]; split
    case isFalse => exact .refl _ _
    split
    · exact .refl _ _
    split
    · exact .refl _ _
    · refine (Blk.within_modRel _ (by simp)).mpr (.forEach _ (fun r b => ?_) _)
      simp
  | blockReset =>
    simp only [exec, execBlockReset] at h
    repeat' split at h
    all_goals cases h
    all_goals simp [Instr.touches]
  | resetResume =>
    simp only [exec, execResetResume] at h
    repeat' split at h
    all_goals cases h
    all_goals simp [Instr.touches]
  | rchTestFence | rchTestStart =>
    exact within_testRow h
  | identityRead | statusRead | counterSnapshot | hangSnapshot | powerShedControl | traceFlush | mgmtBlockReset
  | makerPortRequest =>
    cases h; dsimp only [Instr.touches]; split <;> simp
  | mcOperationTimeout =>
    simp only [exec, execMcOperationTimeout] at h
    split at h
    · cases h; exact .refl _ _
    · cases h; simp [Instr.touches]
  | registerReadCapture | registerAccessError =>
    exact within_portRead h

end Sys2Proof.Machine
end

section
/-! Channel memory stays in its canonical form (log 16): settles O42. Few operations write channel memory; each of them
does so by the writes of `Laws/Memory.lean`. -/

namespace Sys2Proof.Machine

/-- Channel memory of the block is in its canonical form. -/
def Blk.Canon (b : Blk) : Prop := Memory.wf b.hb.chanMem = true

namespace Blk

variable {l : List Part} {b c : Blk}

/-- What leaves channel memory keeps its form. -/
theorem Canon.of_within (canon : b.Canon) (within : Within l b c) (out : .chanMem ∉ l := by simp) : c.Canon := by
  rw [Canon, show c.hb.chanMem = b.hb.chanMem from within .chanMem out]
  exact canon

theorem Canon.modHb {f : Hb → Hb} (canon : b.Canon)
    (keeps : ∀ h : Hb, Memory.wf h.chanMem = true → Memory.wf (f h).chanMem = true) : (b.modHb f).Canon := keeps _ canon

theorem Canon.forEach {α : Type} {f : α → Blk → Blk} (canon : b.Canon) (xs : List α)
    (keeps : ∀ x b, Canon b → Canon (f x b)) : (b.forEach xs f).Canon := by
  induction xs generalizing b with
  | nil => exact canon
  | cons x xs ih => exact ih (keeps x b canon)

theorem Canon.ite {p : Prop} [Decidable p] (canon : b.Canon) (other : c.Canon) : (if p then b else c).Canon := by
  split
  · exact canon
  · exact other

/-! ### The operations on channels that write -/

theorem Canon.flushGap (canon : b.Canon) (k i : Nat) : (b.flushGap k i).Canon := by
  unfold Blk.flushGap
  split
  · exact canon
  dsimp only
  split
  · next x _ _ =>
    exact Canon.of_within (l := [.hb, .out]) (b := b.modHb (Hb.putWords x x.wp x.gapWords))
      (canon.modHb fun h wf => Hb.putWords_wf _ _ _ wf) (by simp)
  · exact canon

theorem Canon.offer (canon : b.Canon) (k i : Nat) (x : Channel) (payload : List (BitVec 64)) :
    (b.offer k i x payload).1.Canon := by
  have stored (pad ws : List (BitVec 64)) (p : Nat) (y : Channel) (n : Nat) :
      ((((b.modHb fun h => Hb.putWords x p ws (Hb.putWords x x.wp pad h)).update k i x y false true).bump
        .chMsg).bump .chPad 0 n).Canon :=
    Canon.of_within (l := [.hb, .counters, .out])
      (b := b.modHb fun h => Hb.putWords x p ws (Hb.putWords x x.wp pad h))
      (canon.modHb fun h wf => Hb.putWords_wf _ _ _ (Hb.putWords_wf _ _ _ wf)) (by simp)
  unfold Blk.offer
  dsimp only
  split
  · exact stored [] _ _ _ _
  split
  · exact stored [_] _ _ _ _
  · exact canon.of_within (l := [.hb, .counters, .out]) (by simp)

theorem Canon.sendChan (canon : b.Canon) (e k i : Nat) (t : TaskRef) (payload : List (BitVec 64)) :
    (b.sendChan e k i t payload).1.Canon := by
  unfold Blk.sendChan
  dsimp only
  repeat' split
  case h_4.isFalse.isFalse =>
    exact (canon.of_within (l := [.hb]) (by simp)).offer _ _ _ _
  all_goals exact canon.of_within (l := [.hb, .counters]) (by simp)

theorem Canon.sendOn (canon : b.Canon) (e : Nat) (t : TaskRef) (id : BitVec 32) (payload : List (BitVec 64)) :
    (b.sendOn e t id payload).1.Canon := by
  unfold Blk.sendOn
  split
  · exact canon.sendChan ..
  split
  · exact canon
  split
  · exact canon
  · exact List.foldlRecOn (motive := fun a : Blk × Option (BitVec 8) => a.1.Canon) _ _ canon
      fun a acc m _ => Canon.sendChan acc ..

theorem Canon.readMove (canon : b.Canon) (k i : Nat) (x : Channel) : (b.readMove k i x).1.Canon := by
  unfold Blk.readMove
  split
  · exact canon.of_within (l := [.hb, .counters, .out]) (by simp)
  · exact (canon.of_within (l := [.hb, .out]) (by simp)).flushGap k i

theorem Canon.moveOn (canon : b.Canon) (e : Nat) (t : TaskRef) (id : BitVec 32) (m : ReadMove) :
    (b.moveOn e t id m).1.Canon := by
  unfold Blk.moveOn
  split
  · exact canon
  split
  · exact canon
  dsimp only
  split
  case h_1 => exact (canon.of_within (l := [.hb]) (by simp)).readMove ..
  case h_2 => exact canon.of_within (l := [.hb, .out]) (by simp)
  case h_3 => split <;> exact canon.of_within (l := [.hb, .out]) (by simp)
  case h_4 => exact (canon.of_within (l := [.hb, .out]) (by simp)).flushGap ..

theorem Canon.answer {p : Blk × Option (BitVec 8)} (canon : p.1.Canon) (e : Nat) (t : TaskRef) :
    (Blk.answer e t p).Canon := canon.of_within (l := [.agents, .out]) (by simp)

theorem Canon.runMove (canon : b.Canon) (e : Nat) (r : Run) (id : BitVec 32) (m : ReadMove) : (b.runMove e r id m).Canon := by
  unfold Blk.runMove
  split
  · exact canon.of_within (l := [.agents, .out]) (by simp)
  · exact (canon.moveOn ..).answer ..

theorem Canon.closeEnd (canon : b.Canon) (e : Nat) (t : TaskRef) (send : Bool) (i : Nat) :
    (b.closeEnd e t send i).1.Canon := by
  have shut (x y : Channel) (k : Nat) : ((b.update k i x y false false).flushGap k i).Canon :=
    (canon.of_within (l := [.hb, .out]) (by simp)).flushGap k i
  have freed (p : Bool) {d : Blk} (canon : d.Canon) : (if p then d.freeChan t.ctx i else d).Canon := by
    split
    · exact canon.of_within (l := [.hb]) (by simp)
    · exact canon
  cases send
  all_goals
    simp only [Blk.closeEnd, Bool.false_eq_true, ↓reduceIte]
    split
    · exact canon
    split
    · exact canon
    · exact freed _ (shut _ _ _)

/-! ### The write-hold buffer -/

theorem Canon.releaseItem (canon : b.Canon) (v : Env) (e : Nat) (t : TaskRef) (i : HoldItem) :
    (b.releaseItem v e t i).Canon := by
  cases i with
  | chanSend id p =>
    have sent := canon.sendOn e t id p
    unfold Blk.releaseItem
    dsimp only
    split
    · exact canon.of_within (l := [.agents]) (by simp)
    · exact sent
  | chanMove id m =>
    have moved := canon.moveOn e t id m
    unfold Blk.releaseItem
    dsimp only
    split
    · exact canon.of_within (l := [.agents]) (by simp)
    · exact moved
  | remoteSignal x => exact canon.of_within (l := [.agents, .hb]) (within_pendSignal _ _ _ _ (fun l d => by simp) b)
  | _ =>
    refine canon.of_within (l := [.agents, .fe, .hb, .counters, .out]) ?_
    unfold Blk.releaseItem
    dsimp only
    repeat' split
    all_goals simp

theorem Canon.pump (canon : b.Canon) (v : Env) (e n : Nat) : (b.pump v e n).Canon := by
  induction n generalizing b with
  | zero => exact canon
  | succ n ih =>
    unfold Blk.pump
    dsimp only
    split
    · exact canon.of_within (l := [.agents]) (by simp)
    split
    · exact canon.of_within (l := [.agents]) (by simp)
    · exact ih ((canon.of_within (l := [.agents, .counters]) (by simp)).releaseItem ..)

theorem Canon.release (canon : b.Canon) (v : Env) (e : Nat) : (b.release v e).Canon := by
  unfold Blk.release
  split
  · exact canon
  · exact canon.pump ..

theorem Canon.commitAt (canon : b.Canon) (v : Env) (e : Nat) (t : TaskRef) : (b.commitAt v e t).Canon := by
  unfold Blk.commitAt
  split
  · exact (canon.of_within (l := [.agents]) (by simp)).release ..
  · exact canon

theorem Canon.finishRun (canon : b.Canon) (v : Env) (e : Nat) (r : Run) (word : BitVec 128) :
    (b.finishRun v e r word).Canon := by
  unfold Blk.finishRun
  dsimp only
  split
  · split
    · exact canon.of_within (l := [.agents, .out]) (by simp)
    · exact (canon.of_within (l := [.agents]) (by simp)).release ..
  · split <;> exact canon.of_within (l := [.agents]) (by simp)

theorem Canon.engineCompletes (canon : b.Canon) (v : Env) (e : Nat) (r : Run) (word : BitVec 128) :
    (b.engineCompletes v e r word).Canon := by
  have finished (w : BitVec 128) : (b.finishRun v e r w).Canon := canon.finishRun ..
  have cleared (w : BitVec 128) : ((b.modAgent e fun a => { a with abort := none }).finishRun v e r w).Canon :=
    (canon.of_within (l := [.agents]) (by simp)).finishRun ..
  unfold Blk.engineCompletes
  generalize withStatus word (completionStatus (cplStatus word) r.status) = w
  dsimp only
  split
  case h_3 =>
    split
    · exact canon.of_within (l := [.reaches, .agents, .counters, .hb, .out]) (by simp)
    · exact (cleared w).of_within (l := [.reaches, .agents, .counters, .hb, .out]) (by simp)
  case h_4 => exact (cleared w).of_within (l := [.reaches, .agents, .out]) (by simp)
  case h_5 => exact (finished w).of_within (l := [.reaches, .agents, .out]) (by simp)
  all_goals exact canon.of_within (l := [.agents, .counters, .hb, .out]) (by simp)

theorem Canon.flushLate (canon : b.Canon) (e : Nat) : (b.flushLate e).Canon :=
  canon.of_within (l := [.agents]) (by simp)

theorem Canon.drainAgent (canon : b.Canon) (v : Env) (e : Nat) : (b.drainAgent v e).Canon := by
  unfold Blk.drainAgent
  refine Canon.flushLate (Canon.release (Canon.forEach (Canon.forEach (Canon.forEach ?_ _ ?_) _ ?_) _ ?_) v e) e
  · exact canon.of_within (l := [.agents]) (by simp)
  · exact fun d c canon => canon.of_within (l := [.reaches, .agents, .counters, .out]) (by simp)
  · exact fun t c canon => canon.commitAt ..
  · exact fun t c canon => canon.of_within (l := [.agents, .counters, .out]) (by simp)

/-! ### The pulse edge -/

/-- Power and the sums of charges at an edge. -/
def edgePower (v : Env) (mg : Nat) (b : Blk) : Blk :=
  let b := (b.modRel Rel.nextPhase).pgEdge v mg
  let b := b.forEach (List.range v.reaches) fun r b => b.modReach r fun rc => { rc with charges := [] }
  b.modDb fun d => { d with haltSeen := d.cpHalted || d.rcHalted }

/-- Every agent at an edge. -/
def agentsEdge (v : Env) (b : Blk) : Blk :=
  { b with agents := b.agents.map fun (p : Nat × Agent) => (p.1, p.2.atEdge v.n) }

/-- An edge as far as the work of the data plane: power, what the agents hold, and the end of a stop or a reset. -/
def edgeStart (v : Env) (mg : Nat) (b : Blk) : Blk := (((b.edgePower v mg).agentsEdge v).resumeEdge v).resetOver v

/-- The work of the data plane, if it works. -/
def edgeWork (v : Env) (ran : Bool) (b : Blk) : Blk := if b.frozen then b else b.workEdge v ran

/-- An edge after the work of the data plane. -/
def edgeEnd (v : Env) (b : Blk) : Blk :=
  let b := b.mcEdge v
  let b := if b.rel.pendingCause.isSome then b.enterReset v else if b.frozen then b else b.stopNow v
  (b.csnapEdge v).broadcast.beginPulse v

theorem edge_eq (v : Env) (mg : Nat) (b : Blk) :
    b.edge v mg = ((b.edgeStart v mg).edgeWork v !b.frozen).edgeEnd v := rfl

theorem within_edgePower (v : Env) (mg : Nat) (b : Blk) : Within [.reaches, .pg, .rel, .db, .mc, .counters, .out] b
    (b.edgePower v mg) := by
  simp [edgePower]

@[simp] theorem within_agentsEdge (v : Env) (sub : [.agents] ⊆ l) : Within l b (c.agentsEdge v) ↔ Within l b c :=
  within_withAgents _ sub

theorem within_edgeStart (v : Env) (mg : Nat) (b : Blk) : Within
    [.reaches, .blocks, .agents, .fe, .hb, .pg, .rel, .db, .mc, .counters, .out] b (b.edgeStart v mg) :=
  ((within_edgePower v mg b).mono (by simp)).trans (by simp [edgeStart])

theorem within_edgeWork (v : Env) (ran : Bool) (b : Blk) : Within
    [.reaches, .blocks, .preds, .history, .predOps, .predNext, .agents, .fe, .rt, .hb, .rel, .db, .mc, .counters, .out,
      .fresh] b (b.edgeWork v ran) := by
  unfold edgeWork
  simp

theorem within_edgeEnd (v : Env) (b : Blk) : Within
    [.reaches, .blocks, .agents, .fe, .rt, .hb, .pg, .rel, .db, .mc, .counters, .out] b (b.edgeEnd v) := by
  unfold edgeEnd
  dsimp only
  split
  · simp
  · split <;> simp

theorem Canon.endPulse (canon : b.Canon) (v : Env) : (b.endPulse v).Canon := by
  have counted : (b.forEach b.agents fun p b => b.countClks p.1 p.2).Canon :=
    canon.of_within (l := [.counters]) (by simp)
  unfold Blk.endPulse
  dsimp only
  split
  · exact counted
  · have requests : ((b.forEach b.agents fun p b => b.countClks p.1 p.2).takeRequests fun _ => true).Canon :=
      counted.of_within (l := [.fe]) (by simp)
    have drained := requests.forEach ((b.forEach b.agents fun p b => b.countClks p.1 p.2).takeRequests fun _ => true).agents (f := fun (p : Nat × Agent) b => (b.landHeld p.1).drainAgent v p.1)
      fun p d canon => (canon.of_within (l := [.reaches, .agents, .counters]) (by simp)).drainAgent ..
    exact drained.of_within (l := [.reaches, .blocks, .predNext, .agents, .fe, .rt, .hb, .counters, .out]) (by simp)

/-- Nothing that an edge itself does writes channel memory. -/
theorem Canon.edge (canon : b.Canon) (v : Env) (mg : Nat) : (b.edge v mg).Canon := by
  rw [edge_eq]
  have started := canon.of_within (within_edgeStart v mg b) (by simp)
  exact (started.of_within (within_edgeWork v (!b.frozen) _) (by simp)).of_within (within_edgeEnd v _) (by simp)

end Blk

/-! ### Every command -/

/-- Every command keeps channel memory canonical. -/
theorem exec_canon {c : Instr} {s t : State} (canon : s.blk.Canon) (h : exec c s = .next t) : t.blk.Canon := by
  by_cases writes : .chanMem ∈ Instr.touches c
  case neg => exact canon.of_within (exec_within h) writes
  cases c with
  | powerOnReset => cases h; exact reset_memory_wf
  | pulseEdge p =>
    cases h
    have news : (s.blk.pulseNews s.env p).Canon :=
      canon.of_within (l := [.reaches, .fe, .rel, .mc, .counters, .out, .fresh]) (by simp)
    exact ((news.endPulse s.env).of_within (l := [.reaches, .fe, .rel, .mc, .counters, .out, .fresh]) (by simp)).edge _ _
  | engineCompletion e word =>
    simp only [exec, execEngineCompletion] at h
    repeat' split at h
    all_goals cases h
    · exact canon
    · exact canon
    · dsimp only
      split
      · exact canon.of_within (l := [.reaches, .agents, .counters, .hb, .out]) (by simp)
      · exact canon.engineCompletes ..
  | holdItem e item =>
    simp only [exec, execHoldItem] at h
    repeat' split at h
    all_goals cases h
    · exact canon
    · exact canon
    · exact (canon.of_within (l := [.agents, .out]) (by simp)).release ..
  | commitNotice e =>
    cases h; dsimp only
    split
    case isFalse => exact canon
    split
    · exact canon
    split
    · exact canon
    · exact (canon.of_within (l := [.agents]) (by simp)).commitAt ..
  | releaseItemAck e =>
    cases h; dsimp only
    split
    case isFalse => exact canon
    split
    · exact canon
    split
    · exact canon.of_within (l := [.agents]) (by simp)
    · exact (canon.of_within (l := [.agents]) (by simp)).release ..
  | accept e index rlog persist autorel stat =>
    rcases atRun_next h with rfl | ⟨r, -, -, rfl⟩
    · exact canon
    dsimp only
    split
    · exact canon.of_within (l := [.agents, .out]) (by simp)
    split
    · exact canon.of_within (l := [.agents, .out]) (by simp)
    refine .ite (canon.of_within (l := [.agents, .out]) (by simp)) ?_
    split
    · exact canon.of_within (l := [.out]) (by simp)
    · next a _ =>
      exact Blk.Canon.of_within (l := [.rel, .hb, .counters, .out]) (b := s.blk.modHb fun h => h.clearBytes a (8 * 2 ^ rlog))
        (canon.modHb fun h wf => Hb.clearBytes_wf _ _ wf) (by simp)
  | send e id payload =>
    rcases atRun_next h with rfl | ⟨r, -, -, rfl⟩
    · exact canon
    dsimp only
    split
    · exact canon.of_within (l := [.agents, .out]) (by simp)
    · exact (canon.sendOn ..).answer ..
  | mark | rewind | release =>
    rcases atRun_next h with rfl | ⟨r, -, -, rfl⟩
    · exact canon
    · exact canon.runMove ..
  | read e id ecc =>
    rcases atRun_next h with rfl | ⟨r, -, -, rfl⟩
    · exact canon
    have replied {d : Blk} (canon : d.Canon) (st : BitVec 8) (x : BitVec 32) (ws : List (BitVec 64)) :
        (d.opReply e st x ws).Canon := canon.of_within (l := [.out]) (by simp)
    have read (x : Channel) (k i : Nat) : ((s.blk.putChan k i x).readMove k i x).1.Canon :=
      (canon.of_within (l := [.hb]) (by simp)).readMove ..
    dsimp only
    split
    · exact canon.of_within (l := [.agents, .out]) (by simp)
    split
    · exact canon.of_within (l := [.out]) (by simp)
    split
    · exact canon.of_within (l := [.agents, .hb, .rel, .mc, .counters, .out, .fresh]) (by simp)
    split
    · exact replied (read _ _ _) _ _ _
    split
    · exact canon.of_within (l := [.agents, .hb, .rel, .mc, .counters, .out, .fresh]) (by simp)
    · refine replied (Blk.Canon.readMove ?_ _ _ _) _ _ _
      exact canon.of_within (l := [.hb, .rel, .mc, .counters, .out, .fresh]) (by simp)
  | close e id =>
    rcases atRun_next h with rfl | ⟨r, -, -, rfl⟩
    · exact canon
    dsimp only
    split
    · exact canon.of_within (l := [.agents, .out]) (by simp)
    split
    · exact (canon.closeEnd ..).answer ..
    · exact (canon.closeEnd ..).answer ..
    · split
      · exact canon.of_within (l := [.hb, .out]) (by simp)
      · exact canon.of_within (l := [.agents, .out]) (by simp)
    · exact canon.of_within (l := [.agents, .out]) (by simp)
  | _ => simp [Instr.touches, Part.ofPort] at writes

/-- A period without a command changes the block only where an operation of the request port times out. -/
theorem State.within_tick (s : State) : Blk.Within [.rel, .db, .mc, .counters] s.blk s.tick.blk := by
  unfold State.tick
  dsimp only
  split <;> simp

/-- Settles O42: on an empty queue nothing of the hub moves; a command keeps the form by `exec_canon`. -/
theorem channelMemoryStaysCanonical : Obligations.ChannelMemoryStaysCanonical := by
  intro s t canon h
  unfold step at h
  split at h
  · cases h
    exact Blk.Canon.of_within (l := [.rel, .db, .mc, .counters]) canon s.within_tick
  case h_2 rest _ => exact exec_canon (s := { s with pending := rest }) canon h

end Sys2Proof.Machine
end

section
/-!
# STATE outside pulse edges (Table 2.4)

The statement lets only the application of a unit, the deadline of a teardown, a pulse edge and replay change STATE.  A
read-modify-write of the spill ledger changes it as well: what stands in its queue is applied to a block that is resident
by then as any unit is (R86), and the premise says nothing of that queue.  A re-arm in it makes a completed task wait.
-/
namespace Sys2Proof.Machine

/-- A completed LOOP task with an iteration left. -/
def doneLoopTask : Task := { state := .done, loop := true, iter := 1 }

def doneLoopRef : TaskRef := { ctx := 1, id := 0 }

/-- Reach 0 with the task in its store and a re-arm of it in the read-modify-write queue. -/
def rearmInRmwReach : Reach :=
  { blocks := [(0, { ctx := 1, seg := 0, vblock := 0, taskN := 1, roots := false, loop := true, edgeBase := 0
                     edgeN := 0, entries := [(0, doneLoopTask)], lastDec := 0 })]
    rmw := [{ kind := .rearm false, target := doneLoopRef }] }

/-- The state with that reach and its context. -/
def rearmInRmw : State :=
  { State.reset with blk := { reaches := [(0, rearmInRmwReach)], fe := { ctxs := [(1, {})] } } }

theorem rearmInRmw_once : Once rearmInRmw.blk doneLoopRef where
  blocks := by decide +kernel
  entries := by decide +kernel
  one := by
    intro x found
    have task : rearmInRmw.blk.task? doneLoopRef = some doneLoopTask := by decide +kernel
    cases task.symm.trans found
    decide +kernel

/-- The one task of the state is no gang head. -/
theorem rearmInRmw_followed : Followed rearmInRmw.blk doneLoopRef where
  toOnce := rearmInRmw_once
  alone := by
    intro h z found covers
    obtain ⟨p, resident, -, -, -, entry⟩ := Blk.task?_mem found
    have plain : ∀ q ∈ rearmInRmw.blk.reaches, ∀ p ∈ q.2.blocks, ∀ e ∈ p.2.entries, e.2.kind ≠ .gang := by
      decide +kernel
    obtain none | some := mem_of_tgetD ({} : Reach) rearmInRmw.blk.reaches h.reach
    · rw [Blk.reach, none] at resident
      cases resident
    · exact plain _ some _ resident _ entry covers.1
  paging := by
    intro p x f es paging
    have idle : (rearmInRmw.blk.reach doneLoopRef.reach).pagingIn = none := by decide +kernel
    cases idle.symm.trans paging

/-- The read-modify-write leaves the task waiting. -/
theorem rearmInRmw_waits :
    ∃ t y, exec (.ledgerRmw 0 true) rearmInRmw = .next t ∧ t.blk.task? doneLoopRef = some y ∧ y.state = .waiting :=
  ⟨_, _, rfl, rfl, by decide +kernel⟩

/-- Refutes O18: LEDGER_RMW with a re-arm at the head of the read-modify-write queue makes a task that is done wait,
and it is none of the commands that the statement lets do so. -/
theorem not_taskStateFollowsTable2_4 : ¬ Obligations.TaskStateFollowsTable2_4 := by
  unfold Obligations.TaskStateFollowsTable2_4
  intro h
  obtain ⟨t, y, done, found, waits⟩ := rearmInRmw_waits
  have before : rearmInRmw.blk.task? doneLoopRef = some doneLoopTask := by decide +kernel
  have same := h _ _ _ _ _ _ done rearmInRmw_followed before found
  rw [waits] at same
  cases same

end Sys2Proof.Machine
end

section
/-!
# Power, the pulse edge and the stop (R21-R26, R103, R276, R285-R290)
-/
namespace Sys2Proof.Machine

/-! ### A pulse edge (O13) -/

/-- Settles O13: `Blk.workEdge` is its stages one after another by definition. -/
theorem pulseEdgeAppliesWrites : Obligations.PulseEdgeAppliesWrites :=
  ⟨fun s p => ⟨_, rfl, rfl, rfl, rfl, rfl, rfl, by
      have first (frozen en : Bool) : (en && !frozen) = ((frozen || en) && !frozen) := by
        cases frozen <;> simp
      rw [first]
      rfl⟩, fun _ _ _ => rfl⟩

/-! ### A pulse edge in a stop (O14) -/

/-- What a stop holds of the block (R103): the stores, the predicates, the hub, the router and the journal. -/
structure Blk.Holds (b b' : Blk) : Prop where
  preds   : b'.preds = b.preds
  history : b'.history = b.history
  hb      : b'.hb = b.hb
  rt      : b'.rt = b.rt
  reach   : ∀ r, (b'.reach r).blocks = (b.reach r).blocks ∧ (b'.reach r).edges = (b.reach r).edges ∧
    (b'.reach r).lc = (b.reach r).lc ∧ (b'.reach r).backlog = (b.reach r).backlog ∧
    (b'.reach r).ledger = (b.reach r).ledger
  journal : b'.rel.journal = b.rel.journal

/-- The parts that a stop holds whole. -/
def Part.held : List Part := [.reaches, .preds, .history, .hb, .rt, .rel]

namespace Blk

namespace Holds

variable {b c d : Blk}

@[simp] theorem refl (b : Blk) : b.Holds b := ⟨rfl, rfl, rfl, rfl, fun _ => ⟨rfl, rfl, rfl, rfl, rfl⟩, rfl⟩

theorem trans (h : b.Holds c) (k : c.Holds d) : b.Holds d where
  preds := k.preds.trans h.preds
  history := k.history.trans h.history
  hb := k.hb.trans h.hb
  rt := k.rt.trans h.rt
  reach := fun r => by
    obtain ⟨a1, a2, a3, a4, a5⟩ := h.reach r
    obtain ⟨c1, c2, c3, c4, c5⟩ := k.reach r
    exact ⟨c1.trans a1, c2.trans a2, c3.trans a3, c4.trans a4, c5.trans a5⟩
  journal := k.journal.trans h.journal

theorem symm (h : b.Holds c) : c.Holds b where
  preds := h.preds.symm
  history := h.history.symm
  hb := h.hb.symm
  rt := h.rt.symm
  reach := fun r => by
    obtain ⟨a1, a2, a3, a4, a5⟩ := h.reach r
    exact ⟨a1.symm, a2.symm, a3.symm, a4.symm, a5.symm⟩
  journal := h.journal.symm

/-- A change that a stop allows makes no difference at the end. -/
theorem iff_of (h : c.Holds d) : b.Holds d ↔ b.Holds c := ⟨fun k => k.trans h.symm, fun k => k.trans h⟩

/-- A change outside the parts that a stop holds. -/
theorem of_within {l : List Part} (h : Within l b c) (apart : ∀ p ∈ Part.held, p ∉ l := by decide) : b.Holds c where
  preds := h .preds (apart _ (by simp [Part.held]))
  history := h .history (apart _ (by simp [Part.held]))
  hb := h .hb (apart _ (by simp [Part.held]))
  rt := h .rt (apart _ (by simp [Part.held]))
  reach := fun r => by
    have same : c.reaches = b.reaches := h .reaches (apart _ (by simp [Part.held]))
    rw [Blk.reach, Blk.reach, same]
    exact ⟨rfl, rfl, rfl, rfl, rfl⟩
  journal := congrArg Rel.journal (h .rel (apart _ (by simp [Part.held])))

theorem forEach {α : Type} {f : α → Blk → Blk} (xs : List α) (h : ∀ x (c : Blk), c.Holds (f x c)) (b : Blk) :
    b.Holds (b.forEach xs f) := by
  induction xs generalizing b with
  | nil => exact refl b
  | cons x xs ih => exact (h x b).trans (ih (f x b))

end Holds

section
variable {b c d : Blk}

@[simp] theorem holds_ite {p : Prop} [Decidable p] :
    b.Holds (if p then c else d) ↔ (p → b.Holds c) ∧ (¬ p → b.Holds d) := by
  split <;> simp [*]

@[simp] theorem holds_forEach {α : Type} {f : α → Blk → Blk} (xs : List α) (h : ∀ x (c : Blk), c.Holds (f x c)) :
    b.Holds (c.forEach xs f) ↔ b.Holds c := Holds.iff_of (Holds.forEach xs h c)

@[simp] theorem holds_modReach (r : Nat) (f : Reach → Reach) (keep : ∀ x, (f x).blocks = x.blocks ∧
    (f x).edges = x.edges ∧ (f x).lc = x.lc ∧ (f x).backlog = x.backlog ∧ (f x).ledger = x.ledger) :
    b.Holds (c.modReach r f) ↔ b.Holds c := by
  refine Holds.iff_of ⟨rfl, rfl, rfl, rfl, fun k => ?_, rfl⟩
  rcases Decidable.em (k = r) with rfl | other
  · rw [reach_modReach_same]
    exact keep _
  · rw [reach_modReach_other _ _ other]
    exact ⟨rfl, rfl, rfl, rfl, rfl⟩

@[simp] theorem holds_modRel (f : Rel → Rel) (keep : ∀ l, (f l).journal = l.journal) :
    b.Holds (c.modRel f) ↔ b.Holds c :=
  Holds.iff_of ⟨rfl, rfl, rfl, rfl, fun _ => ⟨rfl, rfl, rfl, rfl, rfl⟩, keep _⟩

@[simp] theorem holds_modFe (f : Fe → Fe) : b.Holds (c.modFe f) ↔ b.Holds c :=
  Holds.iff_of (.of_within (l := [.fe]) (by simp))

@[simp] theorem holds_modMc (f : Mc → Mc) : b.Holds (c.modMc f) ↔ b.Holds c :=
  Holds.iff_of (.of_within (l := [.mc]) (by simp))

@[simp] theorem holds_modDb (f : Db → Db) : b.Holds (c.modDb f) ↔ b.Holds c :=
  Holds.iff_of (.of_within (l := [.db]) (by simp))

@[simp] theorem holds_emit (o : Out) : b.Holds (c.emit o) ↔ b.Holds c :=
  Holds.iff_of (.of_within (l := [.out]) (by simp))

@[simp] theorem holds_bump (k : Ctr) (i n : Nat) : b.Holds (c.bump k i n) ↔ b.Holds c :=
  Holds.iff_of (.of_within (l := [.counters]) (by simp))

@[simp] theorem holds_alarm (k : Nat) : b.Holds (c.alarm k) ↔ b.Holds c :=
  Holds.iff_of (.of_within (l := [.mc]) (by simp))

@[simp] theorem holds_spend : b.Holds c.spend ↔ b.Holds c :=
  Holds.iff_of (.of_within (l := [.fresh]) (by simp))

@[simp] theorem holds_tearDown (k : Nat) (cause : BitVec 8) (desc : Option (Nat × Nat)) :
    b.Holds (c.tearDown k cause desc) ↔ b.Holds c :=
  Holds.iff_of (.of_within (l := [.fe]) (by simp))

/-! #### The error log and what a pulse brings -/

@[simp] theorem holds_writeLog (v : Env) (r : ELogRec) : b.Holds (c.writeLog v r) ↔ b.Holds c := by
  simp [writeLog]

@[simp] theorem holds_elogReturn (v : Env) : b.Holds (c.elogReturn v) ↔ b.Holds c :=
  Holds.iff_of (by simp [elogReturn])

@[simp] theorem holds_logError (v : Env) (r : ELogRec) : b.Holds (c.logError v r) ↔ b.Holds c := by
  have queued : c.Holds (c.queueLog v r) := .of_within (l := [.mc, .counters, .fresh]) (by simp)
  exact Holds.iff_of (by simp [logError, queued])

@[simp] theorem holds_storedRead (v : Env) (p : Place) (source : Nat) (ecc : Ecc) :
    b.Holds (c.storedRead v p source ecc) ↔ b.Holds c := by
  refine Holds.iff_of ?_
  unfold storedRead
  dsimp only
  split <;> simp

@[simp] theorem holds_haltChannel (v : Env) (ctx : Option Nat) : b.Holds (c.haltChannel v ctx) ↔ b.Holds c := by
  simp [haltChannel, deviceError, countHalt]

@[simp] theorem holds_askReset (cause : Cause) : b.Holds (c.askReset cause) ↔ b.Holds c :=
  Holds.iff_of (by simp [askReset])

@[simp] theorem holds_meet (v : Env) (x : Met) : b.Holds (c.meet v x) ↔ b.Holds c :=
  Holds.iff_of (by simp [meet, meetUncorrectable])

@[simp] theorem holds_spillHalt (v : Env) (r : Nat) : b.Holds (c.spillHalt v r) ↔ b.Holds c := by
  simp [spillHalt]

theorem holds_pulseNews (v : Env) (p : PulseIn) (b : Blk) : b.Holds (b.pulseNews v p) := by
  simp [pulseNews, elogSeen]

/-! #### The edge -/

@[simp] theorem holds_fenceEdge (r : Nat) : b.Holds (c.fenceEdge r) ↔ b.Holds c := by
  refine Holds.iff_of ?_
  unfold fenceEdge
  split <;> simp

theorem holds_readRetirement (v : Env) (ws : List (BitVec 64)) (b : Blk) : b.Holds (b.readRetirement v ws) := by
  unfold readRetirement
  refine (holds_forEach _ fun w c => ?_).2 (by simp)
  split <;> simp [logIgnored, Reach.retire]

theorem holds_writesAct (v : Env) (first : Bool) (b : Blk) : b.Holds (b.writesAct v first) := by
  have fences : b.Holds (b.forEach (List.range v.reaches) fun r b => b.fenceEdge r) := by simp
  exact iteInduction (fun _ => fences.trans (holds_readRetirement ..)) fun _ => fences

theorem holds_edgePower (v : Env) (mg : Nat) (b : Blk) : b.Holds (b.edgePower v mg) := by
  have phase : b.Holds (b.modRel Rel.nextPhase) := by simp [Rel.nextPhase, apply_ite Rel.journal]
  have power : b.Holds ((b.modRel Rel.nextPhase).pgEdge v mg) :=
    phase.trans (.of_within (l := [.pg, .mc, .counters, .out]) (by simp))
  simp [edgePower, power]

/-- Effects that the journal let go are issued; the journal stays. -/
theorem holds_releaseEffects (v : Env) (b : Blk) : b.Holds (b.releaseEffects v) := by
  have issued (p : Option Nat × Effect) (c : Blk) : c.Holds (c.issue v p.1 p.2) :=
    .of_within (l := [.fe, .out]) (by simp)
  unfold releaseEffects
  dsimp only
  rw [holds_modRel _ (by simp)]
  exact List.foldlRecOn (motive := fun acc : Blk × _ => b.Holds acc.1) _ _ (.refl b) fun acc held p _ => by
    split
    · exact held.trans (issued p _)
    · exact held

/-! #### A stop goes on -/

theorem frozen_of_within {l : List Part} (h : Within l b c) (rel : .rel ∉ l := by decide)
    (db : .db ∉ l := by decide) : c.frozen = b.frozen := by
  rw [frozen, frozen, h .rel rel, h .db db]

@[simp] theorem frozen_enterReset (v : Env) {b : Blk} (stopped : b.frozen = true) : (b.enterReset v).frozen = true := by
  unfold enterReset
  split
  · exact stopped
  case h_2 cause _ =>
    have begun (x : Blk) (l : Within [.db, .mc, .counters, .out] (b.modRel fun l => { l with
        pendingCause := none, phase := 1, cause := cause.code, resetEdge := v.n
        count := if b.rel.phase != 0 then l.count else min 0xFFFF (l.count + 1) }) x) : x.frozen = true := by
      have phase : x.rel.phase = 1 := congrArg Rel.phase (l .rel (by simp))
      simp [frozen, phase]
    exact begun _ (by simp)

@[simp] theorem frozen_csnapEdge (v : Env) (b : Blk) : (b.csnapEdge v).frozen = b.frozen := by
  have rel : (b.csnapEdge v).rel = b.rel :=
    (by simp : Within [.agents, .pg, .db, .mc, .counters, .out] b (b.csnapEdge v)) .rel (by simp)
  unfold frozen
  rw [rel]
  unfold csnapEdge
  split
  · rfl
  · simp

@[simp] theorem frozen_releaseEffects (v : Env) (b : Blk) : (b.releaseEffects v).frozen = b.frozen := by
  have issued (p : Option Nat × Effect) (c : Blk) : (c.issue v p.1 p.2).frozen = c.frozen :=
    frozen_of_within (l := [.fe, .out]) (by simp)
  unfold releaseEffects
  refine Eq.trans (b := (List.foldl _ (b, []) b.rel.waiting).1.frozen) rfl ?_
  exact List.foldlRecOn (motive := fun acc : Blk × _ => acc.1.frozen = b.frozen) _ _ rfl fun acc held p _ => by
    dsimp only
    split
    · exact (issued p _).trans held
    · exact held

@[simp] theorem frozen_mcAnswer (status : BitVec 8) (data : List Word32) (b : Blk) :
    (b.mcAnswer status data).frozen = b.frozen := frozen_of_within (l := [.mc]) (by simp)

@[simp] theorem frozen_flushOver (b : Blk) : b.flushOver.frozen = b.frozen := by
  unfold flushOver
  split
  · rfl
  · simp only [apply_ite Blk.frozen, frozen_mcAnswer]
    simp only [frozen]
    split
    · rfl
    · split <;> rfl

@[simp] theorem frozen_writePi (v : Env) (b : Blk) : (b.writePi v).frozen = b.frozen := by
  simp only [writePi, apply_ite Blk.frozen, frozen_flushOver]
  simp [frozen]

@[simp] theorem frozen_forEach_modReach (xs : List Nat) (f : Reach → Reach) (b : Blk) :
    (b.forEach xs fun r b => b.modReach r f).frozen = b.frozen := 
  frozen_of_within (l := [.reaches, .blocks]) (by simp)

/-- A pulse that ends in a stop is counted, and nothing lands. -/
theorem within_endPulse_frozen (v : Env) {b : Blk} (stopped : b.frozen = true) :
    Within [.counters] b (b.endPulse v) := by
  have counted : Within [.counters] b (b.forEach b.agents fun p b => b.countClks p.1 p.2) := by simp
  unfold endPulse
  dsimp only
  rw [if_pos ((frozen_of_within counted).trans stopped)]
  exact counted

/-- The pulse that begins in a stop: allowances, and what the journal let go, but no selection. -/
theorem holds_beginPulse (v : Env) {b : Blk} (stopped : b.frozen = true) : b.Holds (b.beginPulse v) := by
  have pi (c : Blk) : c.Holds (c.writePi v) := .of_within (l := [.db, .mc, .out]) (by simp)
  have allowed : b.Holds (b.forEach (List.range v.reaches) fun r c => c.modReach r fun rc =>
      { rc with allowLeft := b.allow.getD 0, charged := false, hubSent := 0 }) := by simp
  unfold beginPulse
  dsimp only
  rw [if_pos]
  · refine Holds.trans ?_ (pi _)
    rw [holds_ite]
    exact ⟨fun _ => .trans (by simp [allowed]) (holds_releaseEffects ..), fun _ => by simp [allowed]⟩
  · rw [frozen_writePi, apply_ite Blk.frozen, frozen_releaseEffects, ite_self]
    exact (frozen_of_within (l := [.reaches, .fe]) (by simp)).trans stopped

@[simp] theorem holds_enterReset (v : Env) : b.Holds (c.enterReset v) ↔ b.Holds c := by
  have snapshot (x : Blk) : x.Holds (x.takeSnapshot v 2) := .of_within (l := [.db, .counters, .out]) (by simp)
  have stop (x : Blk) : x.Holds (x.traceStop v 2 0) := .of_within (l := [.db, .counters]) (by simp)
  refine Holds.iff_of ?_
  unfold enterReset
  split
  · exact .refl c
  · simp [Holds.iff_of (snapshot _), Holds.iff_of (stop _)]

/-- The end of an edge while the data plane is stopped: a block reset may begin, and no selection. -/
theorem holds_edgeEnd (v : Env) {b : Blk} (stopped : b.frozen = true) : b.Holds (b.edgeEnd v) := by
  have answered : b.Holds (b.mcEdge v) ∧ (b.mcEdge v).frozen = true :=
    ⟨.of_within (l := [.mc]) (by simp), (frozen_of_within (l := [.mc]) (by simp)).trans stopped⟩
  have rest (c : Blk) (held : b.Holds c) (fc : c.frozen = true) : b.Holds ((c.csnapEdge v).broadcast.beginPulse v) :=
    .trans (held.trans (.of_within (l := [.agents, .pg, .db, .mc, .counters, .out]) (by simp)))
      (holds_beginPulse v (by simpa [Blk.broadcast, frozen] using (frozen_csnapEdge v c).trans fc))
  obtain ⟨held, fc⟩ := answered
  unfold edgeEnd
  refine rest _ ?_ ?_
  · simp [fc, held]
  · split
    · exact frozen_enterReset v fc
    · exact fc

end

@[simp] theorem frozen_trace (v : Env) (taskEvent : Bool) (r : TraceRec) (b : Blk) :
    (b.trace v taskEvent r).frozen = b.frozen := by
  simp only [trace, apply_ite Blk.frozen]
  simp [frozen]

theorem frozen_resetOver (v : Env) (b : Blk) : (b.resetOver v).frozen = b.frozen := by
  unfold resetOver
  split
  · rfl
  · exact frozen_trace v false _ b

/-- What an edge does in a stop that goes on. -/
theorem holds_edge (v : Env) (mg : Nat) {b : Blk} (stopped : b.db.stopped = true) (resume : b.db.resumeReq = false) :
    b.Holds (b.edge v mg) := by
  have powered : ((b.edgePower v mg).agentsEdge v).db =
      { b.db with haltSeen := b.db.cpHalted || b.db.rcHalted } := by
    have db := (by simp : Within [.reaches, .pg, .rel, .mc, .counters, .out] b (((b.modRel Rel.nextPhase).pgEdge v mg).forEach
      (List.range v.reaches) fun r b => b.modReach r fun rc => { rc with charges := [] })) .db (by simp)
    exact congrArg (fun d : Db => { d with haltSeen := d.cpHalted || d.rcHalted }) db
  have started : b.Holds (b.edgeStart v mg) ∧ (b.edgeStart v mg).frozen = true := by
    have held : b.Holds ((b.edgePower v mg).agentsEdge v) :=
      (holds_edgePower v mg b).trans (.of_within (l := [.agents]) (by simp))
    have restarts (c : Blk) : c.Holds (c.resetOver v) := .of_within (l := [.db, .counters]) (by simp)
    have same : ((b.edgePower v mg).agentsEdge v).resumeEdge v = (b.edgePower v mg).agentsEdge v := by
      simp [resumeEdge, powered, resume]
    rw [edgeStart, same]
    exact ⟨held.trans (restarts _), (frozen_resetOver v _).trans (by simp [frozen, powered, stopped])⟩
  obtain ⟨held, stays⟩ := started
  rw [edge_eq, edgeWork, if_pos stays]
  exact held.trans (holds_edgeEnd v stays)

end Blk

/-- Settles O14: the news of the pulse leaves what a stop holds, and the edge does no work and selects nothing. -/
theorem stopHoldsTheDataPlane : Obligations.StopHoldsTheDataPlane := by
  intro s p stopped resume _
  obtain ⟨t, e, -, -, -, -, -, blk⟩ := pulseEdgeAppliesWrites.1 s p
  refine ⟨t, e, ?_⟩
  have news : s.blk.Holds (s.blk.pulseNews s.env p) := Blk.holds_pulseNews ..
  have db : (s.blk.pulseNews s.env p).db = s.blk.db :=
    (by simp : Blk.Within [.reaches, .fe, .rel, .mc, .counters, .out, .fresh] s.blk _) .db (by simp)
  have ended := Blk.within_endPulse_frozen s.env (b := s.blk.pulseNews s.env p) (by simp [Blk.frozen, db, stopped])
  have acted := Blk.holds_writesAct t.env (t.cfg.frozen && !s.cfg.frozen) ((s.blk.pulseNews s.env p).endPulse s.env)
  have db' : (((s.blk.pulseNews s.env p).endPulse s.env).writesAct t.env (t.cfg.frozen && !s.cfg.frozen)).db = s.blk.db :=
    have acts : Blk.Within [.reaches, .fe, .rel, .mc, .counters, .out, .fresh] ((s.blk.pulseNews s.env p).endPulse s.env)
      (((s.blk.pulseNews s.env p).endPulse s.env).writesAct t.env (t.cfg.frozen && !s.cfg.frozen)) := by simp
    Eq.trans (acts .db (by simp)) (Eq.trans (ended .db (by simp)) db)
  obtain ⟨preds, history, hb, rt, reach, journal⟩ := ((news.trans (.of_within ended)).trans acted).trans
    (Blk.holds_edge t.env (max p.mgClks s.aon.since) (by rw [db', stopped]) (by rw [db', resume]))
  rw [← blk] at preds history hb rt reach journal
  exact ⟨preds, history, hb, rt, reach, journal⟩

end Sys2Proof.Machine
end

section
/-!
# The governor: pins, the control edge, calibration (R279-R290)
-/
namespace Sys2Proof.Machine

namespace Blk

/-! ### Droop inputs (O19) -/

/-- The droop inputs with their rises counted, before the rule of their OR. -/
def droopNoted (pins : BitVec 8) (b : Blk) : Blk :=
  let rose := (List.range 8).filter fun i => pins.getLsbD i && !b.pg.pins.getLsbD i
  rose.foldl (fun b i => b.bump .droopInput i) (b.modPg fun p =>
    { p with pins := pins, perInput := rose.foldl (fun t i => tmod 0 t i (· + 1)) p.perInput })

theorem droopPins_eq (v : Env) (pins : BitVec 8) (b : Blk) : b.droopPins v pins = (b.droopNoted pins).droopRise v := rfl

/-- Counting rises of several inputs changes that counter alone. -/
theorem foldl_bump (k : Ctr) (is : List Nat) (b : Blk) :
    Within [.counters] b (is.foldl (fun c i => c.bump k i) b) ∧
      ∀ k' i, k' ≠ k → (is.foldl (fun c i => c.bump k i) b).ctr k' i = b.ctr k' i := by
  induction is generalizing b with
  | nil => exact ⟨.refl _ _, fun _ _ _ => rfl⟩
  | cons i is ih =>
    obtain ⟨within, others⟩ := ih (b.bump k i)
    exact ⟨.trans (by simp) within, fun k' j other => (others k' j other).trans (ctr_bump_other _ _ (.inl other))⟩

theorem within_droopNoted (pins : BitVec 8) (b : Blk) : Within [.pg, .counters] b (b.droopNoted pins) :=
  .trans ((within_modPg _ (by simp)).2 (.refl _ _)) ((foldl_bump .droopInput _ _).1.mono (by simp))

theorem droopNoted_pg (pins : BitVec 8) (b : Blk) :
    ∃ x, (b.droopNoted pins).pg = { b.pg with pins := pins, perInput := x } :=
  ⟨_, (foldl_bump .droopInput _ _).1 .pg (by simp)⟩

theorem ctr_droopNoted (pins : BitVec 8) (b : Blk) (i : Nat) :
    (b.droopNoted pins).ctr .droopEvent i = b.ctr .droopEvent i :=
  (foldl_bump .droopInput _ _).2 .droopEvent i (by simp)

/-- A rise of the OR of the counted inputs with droop handling on. -/
theorem droopRise_event (v : Env) {b : Blk} (now : b.pg.counted v b.pg.pins = true) (was : b.pg.countedOr = false)
    (on : v.droopEn = true) (off : b.pg.droopOff = false) (low : b.pg.stretch = false) :
    b.droopRise v = ((((b.modPg fun p => { p with countedOr := true, lastDroop := some v.n, boostDrop := true }).bump
      .droopEvent).modPg fun p => { p with stretch := true }).emit (.stretch true (v.field 0xA0001C 0 3))).bump .stretchClk 0
        (v.field 0xA0001C 0 3 + 1) := by
  simp [droopRise, now, was, on, off, low]
  rfl

/-- Without a counted input that is high no event arises. -/
theorem droopRise_quiet (v : Env) {b : Blk} (now : b.pg.counted v b.pg.pins = false) :
    b.droopRise v = b.modPg fun p => { p with countedOr := false } := by
  simp [droopRise, now]

/-- What a droop event does (R287, R288). -/
theorem droopPins_event (v : Env) {b : Blk} {pins : BitVec 8} (now : b.pg.counted v pins = true)
    (was : b.pg.countedOr = false) (on : v.droopEn = true) (off : b.pg.droopOff = false) (low : b.pg.stretch = false) :
    let d := b.droopPins v pins
    d.pg.pins = pins ∧ d.pg.stretch = true ∧ d.pg.boostDrop = true ∧ d.pg.lastDroop = some v.n ∧
      d.ctr .droopEvent = b.ctr .droopEvent + 1 ∧ d.out = b.out ++ [.stretch true (v.field 0xA0001C 0 3)] ∧
      d = { b with pg := d.pg, counters := d.counters, out := d.out } := by
  have within : Within [.pg, .counters, .out] b (b.droopPins v pins) := by simp
  obtain ⟨x, pg⟩ := b.droopNoted_pg pins
  have count := b.ctr_droopNoted pins 0
  have out : (b.droopNoted pins).out = b.out := (b.within_droopNoted pins) .out (by simp)
  have rise := droopRise_event v (b := b.droopNoted pins) (by rw [pg]; exact now) (by rw [pg]; exact was) on
    (by rw [pg]; exact off) (by rw [pg]; exact low)
  refine ⟨?_, ?_, ?_, ?_, ?_, ?_, within.eq⟩ <;> rw [droopPins_eq, rise]
  · simp [pg]
  · simp
  · simp
  · simp
  · rw [ctr_bump_other _ _ (.inl (by simp))]
    exact (ctr_bump_same ..).trans (congrArg (· + 1) count)
  · simp [out]

/-- The end of a stretch request (R288). -/
theorem droopPins_quiet (v : Env) {b : Blk} {pins : BitVec 8} (now : b.pg.counted v pins = false) :
    ∃ x, (b.droopPins v pins).pg = { b.pg with pins := pins, perInput := x, countedOr := false } ∧
      (b.droopPins v pins).out = b.out := by
  obtain ⟨x, pg⟩ := b.droopNoted_pg pins
  have out : (b.droopNoted pins).out = b.out := (b.within_droopNoted pins) .out (by simp)
  rw [droopPins_eq, droopRise_quiet v (by rw [pg]; exact now)]
  exact ⟨x, by simp [pg], out⟩

end Blk

/-- Settles O19: the pins by definition of their commands, a droop event and the end of a request by
`Blk.droopPins_event` and `Blk.droopPins_quiet`. -/
theorem governorFollowsItsPins : Obligations.GovernorFollowsItsPins := by
  refine ⟨fun _ _ => ⟨_, rfl, ⟨rfl, rfl, rfl⟩, rfl⟩, fun _ _ => ⟨_, rfl, ⟨rfl, rfl, rfl⟩, rfl⟩,
    fun _ _ => ⟨_, rfl, ⟨rfl, rfl, rfl⟩, rfl⟩, fun s => ⟨_, rfl, ⟨rfl, rfl, rfl⟩, Nat.min_le_left _ _, ?_, rfl⟩,
    fun s pins now was on off low => ⟨_, rfl, ⟨rfl, rfl, rfl⟩, Blk.droopPins_event s.env now was on off low⟩, ?_⟩
  · intro st x hist level
    have kept : s.blk.pg.supplyAt (s.env.n + 1) = [(st, x)] := by simp [Pg.supplyAt, hist, level]
    simp [kept, sagOf]
  · intro s pins now high
    obtain ⟨x, pg, out⟩ := Blk.droopPins_quiet s.env now
    refine ⟨_, rfl, ⟨rfl, rfl, rfl⟩, ?_⟩
    dsimp only
    have falls : ((s.blk.droopPins s.env pins).pg.stretch && !(s.blk.droopPins s.env pins).pg.counted s.env pins) = true := by
      have same : (s.blk.droopPins s.env pins).pg.counted s.env pins = s.blk.pg.counted s.env pins := by rw [pg]; rfl
      rw [same, now, pg, high]
      rfl
    rw [if_pos falls]
    refine ⟨by simp [pg], by simp, by simp [out], ?_⟩
    have within : Blk.Within [.pg, .counters, .out] s.blk (((s.blk.droopPins s.env pins).modPg fun p =>
      { p with stretch := false }).emit (.stretch false (s.env.field 0xA0001C 0 3))) := by simp
    exact within.eq

end Sys2Proof.Machine
end

section
/-!
# The governor at edges and control edges (R279-R289): settles O20
-/
namespace Sys2Proof.Machine

/-! ### The permit word (R280) -/

/-- The fields of the permit word can be read back. -/
theorem permit_fields (dsp be sh sas throttle : Bool) {shed allow : Nat} (small : shed < 8) (word : allow < 2 ^ 32) :
    let w := BitVec.ofNat 64 (b2n dsp + fieldAt 1 (b2n be) + fieldAt 2 (b2n sh) + fieldAt 3 (b2n sas)
      + fieldAt 7 (b2n throttle) + fieldAt 13 shed + fieldAt 32 allow)
    (w.getLsbD 0 = dsp ∧ w.getLsbD 1 = be ∧ w.getLsbD 2 = sh ∧ w.getLsbD 3 = sas ∧ w.getLsbD 7 = throttle) ∧
      bits w 13 3 = shed ∧ bits w 32 32 = allow := by
  have bit (x : Bool) : b2n x < 2 := by cases x <;> decide
  have eq (x : Bool) (n : Nat) (h : n % 2 = b2n x) : decide (n % 2 = 1) = x := by
    rw [h]; cases x <;> rfl
  have h0 := bit dsp
  have h1 := bit be
  have h2 := bit sh
  have h3 := bit sas
  have h7 := bit throttle
  simp only [BitVec.getLsbD_ofNat, Nat.testBit_eq_decide_div_mod_eq, bits, BitVec.toNat_ofNat, fieldAt,
    Nat.shiftRight_eq_div_pow]
  refine ⟨⟨?_, ?_, ?_, ?_, ?_⟩, ?_, ?_⟩
  · simpa using eq dsp _ (by omega)
  · simpa using eq be _ (by omega)
  · simpa using eq sh _ (by omega)
  · simpa using eq sas _ (by omega)
  · simpa using eq throttle _ (by omega)
  · omega
  · omega

/-- Without EN no permit; with it the flags, the shed level and the allowance of an edge (R280). -/
theorem Pg.permitOf_fields (v : Env) (p : Pg) (on : v.cfg.frozen = true) (small : p.shed ≤ 5) :
    let w := p.permitOf v
    let throttle := v.pgEn && decide (p.bucket ≤ 0)
    (w.getLsbD 0 = (v.feEn && decide (p.shed < 5) && !throttle) ∧ w.getLsbD 1 = decide (p.shed < 3) ∧
      w.getLsbD 2 = decide (p.shed < 2) ∧ w.getLsbD 3 = decide (p.shed < 4) ∧ w.getLsbD 7 = throttle) ∧
      bits w 13 3 = p.shed ∧ bits w 32 32 = if v.pgEn then
        min 0xFFFFFFFE ((max 0 p.bucket).toNat / v.reaches / (4096 * 256)) else 0xFFFFFFFF := by
  rw [Pg.permitOf, on]
  exact permit_fields _ _ _ _ _ (by omega) (by split <;> omega)

/-! ### An edge of the governor (R281, R290) -/

/-- Supply, forced level and droop level of an edge. -/
def Pg.levelled (v : Env) (p : Pg) : Pg :=
  let hist := p.supplyAt v.n
  let sag := sagOf (v.n + 1 - v.sagHold) hist
  let forced := (p.forcedIn.map (·.1)).getD p.forced
  let shed := max sag forced
  { p with supplyHist := pruneRuns (v.n - 65536) hist, sag := sag, forced := forced
           droopOff := (p.forcedIn.map (·.2)).getD p.droopOff, forcedIn := none
           boostDrop := decide (p.shed = 0) && decide (0 < shed), shed := shed
           level := p.levelNext.getD p.level, levelNext := none, chunkCharges := [] }

namespace Blk

/-- The pins and the clock of the pulse counted, and the debit, the start or the end of metering. -/
def pgMetered (v : Env) (mg : Nat) (b : Blk) : Blk :=
  let b := (b.bump .boostReqPulse 0 (b2n b.pg.boostReq)).bump .boostGrantPulse 0 (b2n b.pg.boostGrant)
  let b := b.modPg fun p => { p with pulseClks := (mg :: p.pulseClks).take 1024 }
  if !v.pgEn then b.modPg fun p => { p with metering := false }
  else if b.pg.metering then b.debit v
  else b.modPg (Pg.start v)

/-- The levels of an edge and their alarms; `was`: the governor before. -/
def pgLevelled (v : Env) (was : Pg) (b : Blk) : Blk :=
  let b := if b.pg.shed = was.shed then b else b.alarm 5
  if b.pg.level ≠ was.level ∧ b.pg.level.toNat = v.field 0xA0001C 12 3 then b.alarm 7 else b

/-- A boost request that an edge lowers. -/
def pgLowered (v : Env) (b : Blk) : Blk := if b.pg.boostDrop || !v.pgEn then b.setBoost false else b

/-- The levels of an edge, and the permit of the pulse that follows. -/
def pgPermitted (v : Env) (b : Blk) : Blk :=
  (((b.pgLowered v).modPg (Pg.levelled v)).pgLevelled v (b.pgLowered v).pg).modPg fun p =>
    { p with permit := p.permitOf v }

/-- A stretch request that droop handling no longer allows, the rule of the counted inputs, and the counters. -/
def pgStretched (v : Env) (b : Blk) : Blk :=
  let b := if b.pg.stretch && (b.pg.droopOff || !v.droopEn) then
      (b.modPg fun p => { p with stretch := false }).emit (.stretch false (v.field 0xA0001C 0 3))
    else b
  let b := (b.droopRise v).bump .throttlePulse 0 (b2n b.pg.throttle)
  if 1 ≤ b.pg.shed ∧ b.pg.shed ≤ 5 then b.bump .shedPulse b.pg.shed else b

theorem pgEdge_eq (v : Env) (mg : Nat) (b : Blk) :
    b.pgEdge v mg = ((b.pgMetered v mg).pgPermitted v).pgStretched v := (rfl)

/-- The bucket after the debit and the fill (R281). -/
theorem pgMetered_bucket (v : Env) (mg : Nat) (b : Blk) (on : v.pgEn = true) :
    (b.pgMetered v mg).pg.bucket = if b.pg.metering = true then min v.burst (b.pg.bucket
      - (((List.range 16).map fun k => b.pg.factor k * b.chargesOf v k).foldl (· + ·) 0 : Nat) + roundFp b.pg.fillFp 12)
    else v.burst := by
  unfold pgMetered
  simp only [on, Bool.not_true, Bool.false_eq_true, if_false]
  by_cases metering : b.pg.metering = true
  · rw [if_pos metering, if_pos (by simpa using metering)]
    have charges (c : Blk) (f : Pg → Pg) (keep : (f c.pg).chunkCharges = c.pg.chunkCharges) (k : Nat) :
        (c.modPg f).chargesOf v k = c.chargesOf v k := by simp [chargesOf, Blk.reach, keep]
    have bumped (c : Blk) (x : Ctr) (i n k : Nat) : (c.bump x i n).chargesOf v k = c.chargesOf v k := by
      simp [chargesOf, Blk.reach]
    simp only [debit, bump_pg, modPg_pg, List.map_map, Function.comp_def]
    simp only [charges _ (fun p => { p with pulseClks := (mg :: p.pulseClks).take 1024 }) rfl, bumped]
    rfl
  · rw [if_neg metering, if_neg (by simpa using metering)]
    simp [Pg.start]

/-- What the permit word is made of and the word itself: the later steps of an edge leave them. -/
def meter (b : Blk) : Int × Nat × BitVec 64 := (b.pg.bucket, b.pg.shed, b.pg.permit)

@[simp] theorem meter_bump (b : Blk) (k : Ctr) (i n : Nat) : (b.bump k i n).meter = b.meter := by simp [meter]

@[simp] theorem meter_setBoost (b : Blk) (on : Bool) : (b.setBoost on).meter = b.meter := by
  unfold setBoost
  split <;> rfl

@[simp] theorem meter_droopRise (v : Env) (b : Blk) : (b.droopRise v).meter = b.meter := by
  unfold droopRise
  dsimp only
  repeat' split
  all_goals simp [meter]

theorem pg_alarmUnless {p : Prop} [Decidable p] (b : Blk) (k : Nat) : (if p then b else b.alarm k).pg = b.pg := by
  split <;> rfl

theorem pg_alarmIf {p : Prop} [Decidable p] (b : Blk) (k : Nat) : (if p then b.alarm k else b).pg = b.pg := by
  split <;> rfl

theorem pgLevelled_pg (v : Env) (was : Pg) (b : Blk) : (b.pgLevelled v was).pg = b.pg := by
  unfold pgLevelled
  dsimp only
  rw [pg_alarmIf, pg_alarmUnless]

theorem meter_pgLowered (v : Env) (b : Blk) : (b.pgLowered v).meter = b.meter := by
  unfold pgLowered
  split
  · exact b.meter_setBoost false
  · rfl

theorem pgPermitted_bucket (v : Env) (b : Blk) : (b.pgPermitted v).pg.bucket = b.pg.bucket := by
  rw [pgPermitted, modPg_pg, pgLevelled_pg]
  exact congrArg Prod.fst (b.meter_pgLowered v)

theorem pgPermitted_permit (v : Env) (b : Blk) : (b.pgPermitted v).pg.permit = (b.pgPermitted v).pg.permitOf v := (rfl)

theorem meter_pgStretched (v : Env) (b : Blk) : (b.pgStretched v).meter = b.meter := by
  unfold pgStretched
  simp only [apply_ite meter, meter_bump, meter_droopRise, ite_self]
  split <;> rfl

theorem permitOf_congr (v : Env) {p q : Pg} (bucket : p.bucket = q.bucket) (shed : p.shed = q.shed) :
    p.permitOf v = q.permitOf v := by
  rw [Pg.permitOf, Pg.permitOf, bucket, shed]

theorem pgStretched_permit (v : Env) {b : Blk} (h : b.pg.permit = b.pg.permitOf v) :
    (b.pgStretched v).pg.permit = (b.pgStretched v).pg.permitOf v := by
  obtain ⟨bucket, shed, permit⟩ : (b.pgStretched v).pg.bucket = b.pg.bucket ∧ (b.pgStretched v).pg.shed = b.pg.shed ∧
      (b.pgStretched v).pg.permit = b.pg.permit := by
    simpa only [meter, Prod.mk.injEq] using meter_pgStretched v b
  rw [permit, h, permitOf_congr v bucket.symm shed.symm]

/-- The permit word of an edge is that of the bucket and the shed level that the edge leaves. -/
theorem pgEdge_permit (v : Env) (mg : Nat) (b : Blk) : (b.pgEdge v mg).pg.permit = (b.pgEdge v mg).pg.permitOf v := by
  rw [pgEdge_eq]
  exact pgStretched_permit v (pgPermitted_permit v _)

theorem pgStretched_bucket (v : Env) (b : Blk) : (b.pgStretched v).pg.bucket = b.pg.bucket :=
  congrArg Prod.fst (meter_pgStretched v b)

theorem pgEdge_bucket (v : Env) (mg : Nat) (b : Blk) : (b.pgEdge v mg).pg.bucket = (b.pgMetered v mg).pg.bucket := by
  rw [pgEdge_eq, pgStretched_bucket, pgPermitted_bucket]

end Blk

/-! ### Control edges (R283, R285, R286) -/

/-- A table of the first `n` numbers answers each of them. -/
theorem tget_map_of_mem {ν : Type} (f : Nat → ν) {l : List Nat} {k : Nat} (h : k ∈ l) :
    tget (l.map fun i => (i, f i)) k = some (f k) := by
  induction l with
  | nil => cases h
  | cons i l ih =>
    by_cases e : i = k
    · simp [tget, e]
    · simp [tget, e, ih ((List.mem_cons.1 h).resolve_left (Ne.symm e))]

/-- The sample consumed and the power average moved toward it (R283, R285). -/
def Pg.sampled (v : Env) (p : Pg) : Pg :=
  { p with lastP := (p.sampleOf v).1, miss := (p.sampleOf v).2.1, stale := (p.sampleOf v).2.2, sample := none
           pAvg := addFp p.pAvg (divFp (mulFp (subFp (ofIntFp ((p.sampleOf v).1.toNat : Nat)) p.pAvg) p.periodNs)
             v.windowNs) }

/-- P_base and the factors after a control edge. -/
def Pg.calibrated (v : Env) (p : Pg) : Pg :=
  if v.calEn then (p.sampled v).calibrate v p.periodNs (ofIntFp ((p.sampleOf v).1.toNat : Nat)) else p.sampled v

/-- The governor's state at a control edge but for the boost request. -/
def Pg.controlled (v : Env) (p : Pg) : Pg :=
  let q := p.calibrated v
  { q with fillFp := q.fill v, sums := [], controlAt := v.n, calEdges := q.calEdges + 1
           calDue := q.calDue || (q.calEdges + 1) % 1024 == 0 }

/-- Calibration touches P_base and the factors. -/
theorem Pg.calibrate_frame (v : Env) (t x : BitVec 32) (p : Pg) :
    p.calibrate v t x = { p with pBase := (p.calibrate v t x).pBase, factors := (p.calibrate v t x).factors } := by
  unfold Pg.calibrate
  dsimp only
  split <;> rfl

theorem Pg.calibrated_frame (v : Env) (p : Pg) :
    p.calibrated v = { p.sampled v with pBase := (p.calibrated v).pBase, factors := (p.calibrated v).factors } := by
  unfold Pg.calibrated
  split
  · exact Pg.calibrate_frame ..
  · rfl

theorem Pg.controlled_frame (v : Env) (p : Pg) :
    p.controlled v = { p.sampled v with
      pBase := (p.calibrated v).pBase, factors := (p.calibrated v).factors, fillFp := (p.calibrated v).fill v, sums := []
      controlAt := v.n, calEdges := p.calEdges + 1, calDue := p.calDue || (p.calEdges + 1) % 1024 == 0 } := by
  rw [Pg.controlled, Pg.calibrated_frame]
  rfl

/-- FILL from the new average and the new base (R283). -/
theorem Pg.fill_calibrated (v : Env) (p : Pg) : (p.calibrated v).fill v =
    divFp (mulFp (maxFp 0 (subFp (minFp (v.mwFp 0xA00008) (maxFp (v.mwFp 0xA0000C)
      (subFp (mulFp (ofIntFp 2) (v.mwFp 0xA00004)) (p.sampled v).pAvg))) (p.calibrated v).pBase)) p.periodNs)
      (ofIntFp 1024) := by
  rw [Pg.calibrated_frame]
  rfl

/-- A period without charges moves P_base alone. -/
theorem Pg.calibrate_idle (v : Env) (t x : BitVec 32) {p : Pg} (idle : ∀ k, k < 16 → tgetD 0 p.sums k = 0) :
    p.calibrate v t x = { p with pBase := addFp p.pBase (mulFp (pow2Fp v.gain) (subFp x p.pBase)) } := by
  have all : ((List.range 16).all fun k => tgetD 0 p.sums k == 0) = true := by
    simpa using idle
  unfold Pg.calibrate
  dsimp only
  rw [if_pos all]

/-- The factor that a charged class gets (R286), rounded to 4.12 and before it is clamped. -/
def Pg.refit (v : Env) (t x : BitVec 32) (p : Pg) (k : Nat) : Int :=
  let s (k : Nat) : BitVec 32 := ofIntFp (tgetD 0 p.sums k : Nat)
  let f (k : Nat) : BitVec 32 := mulFp (ofIntFp (p.factor k : Nat)) (pow2Fp 12)
  let spent := (List.range 16).foldl (fun acc k => addFp acc (mulFp (f k) (s k))) 0
  let err := subFp (mulFp (subFp x p.pBase) t) spent
  let norm := (List.range 16).foldl (fun acc k => addFp acc (mulFp (s k) (s k))) 0
  roundFp (addFp (f k) (divFp (mulFp (mulFp (pow2Fp v.gain) err) (s k)) norm)) 12

/-- A period with charges moves the factors of the classes charged. -/
theorem Pg.calibrate_charged (v : Env) (t x : BitVec 32) {p : Pg} {j : Nat} (some : j < 16) (charged : tgetD 0 p.sums j ≠ 0) :
    p.calibrate v t x = { p with factors := (List.range 16).map fun k => (k, if tgetD 0 p.sums k = 0
      then BitVec.ofNat 16 (p.factor k)
      else BitVec.ofNat 16 (min 0xFFFF (max 0x400 (p.refit v t x k))).toNat) } := by
  have busy : ¬ ((List.range 16).all fun k => tgetD 0 p.sums k == 0) = true := by
    simp only [List.all_eq_true, List.mem_range, beq_iff_eq]
    exact fun all => charged (all j some)
  unfold Pg.calibrate
  dsimp only
  rw [if_neg busy]
  congr 1
  refine List.map_congr_left fun k _ => ?_
  split <;> rfl

theorem Pg.factor_calibrate (v : Env) (t x : BitVec 32) {p : Pg} {j : Nat} (some : j < 16) (charged : tgetD 0 p.sums j ≠ 0)
    {k : Nat} (low : k < 16) :
    (tgetD 0 p.sums k = 0 → (p.calibrate v t x).factor k = p.factor k) ∧
      (tgetD 0 p.sums k ≠ 0 → ((p.calibrate v t x).factor k : Int) = min 0xFFFF (max 0x400 (p.refit v t x k))) := by
  rw [Pg.calibrate_charged v t x some charged]
  have read := tget_map_of_mem (fun k => if tgetD 0 p.sums k = 0 then BitVec.ofNat 16 (p.factor k)
      else BitVec.ofNat 16 (min 0xFFFF (max 0x400 (p.refit v t x k))).toNat) (List.mem_range.2 low)
  refine ⟨fun none => ?_, fun some => ?_⟩
  · rw [Pg.factor, tgetD, read, if_pos none]
    simp [Pg.factor]
  · rw [Pg.factor, tgetD, read, if_neg some]
    simp only [Option.getD_some, BitVec.toNat_ofNat]
    omega

namespace Blk

/-- Boost at a control edge changes the request alone. -/
theorem setBoost_pg (b : Blk) (on : Bool) : ∃ x, (b.setBoost on).pg = { b.pg with boostReq := x } := by
  unfold setBoost
  split
  · exact ⟨b.pg.boostReq, rfl⟩
  · exact ⟨on, rfl⟩

theorem boostControl_pg (v : Env) (b : Blk) : ∃ x, (b.boostControl v).pg = { b.pg with boostReq := x } := by
  unfold boostControl
  dsimp only
  split <;> exact setBoost_pg ..

theorem ctr_setBoost (b : Blk) (on : Bool) (k : Ctr) : (b.setBoost on).ctr k = b.ctr k := by
  unfold setBoost
  split <;> rfl

theorem ctr_boostControl (v : Env) (b : Blk) (k : Ctr) : (b.boostControl v).ctr k = b.ctr k := by
  unfold boostControl
  dsimp only
  split <;> exact ctr_setBoost ..

/-- The block at a control edge before the boost request is set. -/
def controlCounted (v : Env) (b : Blk) : Blk :=
  let q := b.pg.calibrated v
  let changed := decide (q.pBase ≠ b.pg.pBase) || (List.range 16).any (fun k => q.factor k != b.pg.factor k)
  let c := { b with pg := b.pg.controlled v }
  let c := if q.stale && !b.pg.stale then c.alarm 6 else c
  ((c.bump .controlEdge).bump .sampleMissing 0 (b2n b.pg.sample.isNone)).bump .calUpdate 0 (b2n changed)

theorem controlEdge_eq (v : Env) (b : Blk) : b.controlEdge v = (b.controlCounted v).boostControl v := rfl

theorem controlEdge_pg (v : Env) (b : Blk) : ∃ x, (b.controlEdge v).pg = { b.pg.controlled v with boostReq := x } := by
  obtain ⟨x, boosted⟩ := (b.controlCounted v).boostControl_pg v
  refine ⟨x, boosted.trans ?_⟩
  have kept : (b.controlCounted v).pg = b.pg.controlled v := by
    unfold controlCounted
    simp only [bump_pg, pg_alarmIf]
  rw [kept]

theorem ctr_controlEdge (v : Env) (b : Blk) : (b.controlEdge v).ctr .controlEdge = b.ctr .controlEdge + 1 := by
  rw [controlEdge_eq, ctr_boostControl]
  unfold controlCounted
  dsimp only
  rw [ctr_bump_other _ _ (.inl (by simp)), ctr_bump_other _ _ (.inl (by simp)), ctr_bump_same]
  split <;> rfl

end Blk

/-- Settles O20: the permit word by `Blk.pgEdge_permit`, the bucket by `Blk.pgEdge_bucket`, a control edge by the frame of
`Pg.controlled`. -/
theorem controlEdgeFollowsTheSample : Obligations.ControlEdgeFollowsTheSample := by
  refine ⟨fun v b mg => ?_, fun s due => ?_, fun s due => ?_⟩
  · have permit := b.pgEdge_permit v mg
    refine ⟨fun on metering => ?_, fun on off => ?_, fun locked => ?_, fun frozen small => ?_⟩
    · rw [b.pgEdge_bucket, b.pgMetered_bucket v mg on, if_pos metering]
    · rw [b.pgEdge_bucket, b.pgMetered_bucket v mg on, if_neg (by simp [off])]
    · rw [permit, Pg.permitOf, locked]
      rfl
    · obtain ⟨⟨dsp, be, sh, sas, throttle⟩, shed, allow⟩ := Pg.permitOf_fields v _ frozen small
      rw [← permit] at dsp be sh sas throttle shed allow
      refine ⟨dsp, be, sh, sas, throttle, shed, fun off => ?_, fun on => ?_⟩
      · simp [Blk.allow, allow, off]
      · rw [Blk.allow, allow, if_pos on, if_neg (by omega)]
        rw [Nat.mul_comm]
  · obtain ⟨x, pg⟩ := s.blk.controlEdge_pg s.env
    rw [Pg.controlled_frame] at pg
    have within : Blk.Within [.pg, .mc, .counters, .out] s.blk (s.blk.controlEdge s.env) := by simp
    refine ⟨{ s with blk := s.blk.controlEdge s.env }, ?_, ⟨rfl, rfl, rfl⟩, ?_⟩
    · simp only [exec, execControlEdge, onBlk, due, if_true]
    refine ⟨(congrArg Pg.pAvg pg).trans ?_, fun x sampled => ?_, fun missing => ?_, congrArg Pg.sample pg,
      (congrArg Pg.sums pg).trans rfl, (congrArg Pg.bucket pg).trans rfl, (congrArg Pg.calEdges pg).trans rfl, ?_, fun off => ?_, fun on => ⟨fun idle => ?_,
      fun j low charged => ?_⟩, (congrArg Pg.fillFp pg).trans ?_, s.blk.ctr_controlEdge s.env, ?_, within.eq⟩
    · rw [show (s.blk.controlEdge s.env).pg.lastP = (s.blk.pg.sampleOf s.env).1 from congrArg Pg.lastP pg]
      rfl
    · simp [pg, Pg.sampled, Pg.sampleOf, sampled]
    · simp [pg, Pg.sampled, Pg.sampleOf, missing]
    · exact (congrArg Pg.calDue pg).trans (congrArg (s.blk.pg.calDue || ·)
        (Bool.eq_iff_iff.2 (beq_iff_eq.trans decide_eq_true_iff.symm)))
    · simp [pg, Pg.calibrated, off, Pg.sampled]
    · have calibrated : s.blk.pg.calibrated s.env = _ := (if_pos on).trans (Pg.calibrate_idle _ _ _ idle)
      rw [calibrated] at pg
      refine ⟨(congrArg Pg.factors pg).trans rfl, (congrArg Pg.pBase pg).trans ?_⟩
      rw [show (s.blk.controlEdge s.env).pg.lastP = (s.blk.pg.sampleOf s.env).1 from congrArg Pg.lastP pg]
      rfl
    · have calibrated : s.blk.pg.calibrated s.env = _ := if_pos on
      have base : (s.blk.pg.calibrated s.env).pBase = s.blk.pg.pBase := by
        rw [calibrated]
        exact (congrArg Pg.pBase (Pg.calibrate_charged _ _ _ (p := s.blk.pg.sampled s.env) low charged)).trans rfl
      have lastP : (s.blk.controlEdge s.env).pg.lastP = (s.blk.pg.sampleOf s.env).1 := congrArg Pg.lastP pg
      refine ⟨(congrArg Pg.pBase pg).trans base, fun k small => ?_⟩
      have factor : (s.blk.controlEdge s.env).pg.factor k = (s.blk.pg.calibrated s.env).factor k :=
        (congrArg (fun p : Pg => p.factor k) pg).trans rfl
      have moved := Pg.factor_calibrate s.env s.blk.pg.periodNs (ofIntFp ((s.blk.pg.sampleOf s.env).1.toNat : Nat))
        (p := s.blk.pg.sampled s.env) low charged small
      rw [factor, calibrated, lastP]
      exact moved
    · rw [Pg.fill_calibrated, show (s.blk.controlEdge s.env).pg.pAvg = (s.blk.pg.sampled s.env).pAvg from
        (congrArg Pg.pAvg pg).trans rfl, show (s.blk.controlEdge s.env).pg.pBase = (s.blk.pg.calibrated s.env).pBase from
        (congrArg Pg.pBase pg).trans rfl]
    · simp only [pg]
      rfl
  · simp only [Does, exec, execDroopCalibrationPeriod, onBlk]
    refine ⟨_, rfl, ⟨rfl, rfl, rfl⟩, ?_⟩
    simp only [due]
    exact ⟨rfl, rfl, fun on => by simp [on], fun off => by simp [off], rfl⟩

end Sys2Proof.Machine
end

section
/-!
# Power domains and engines (R208, R267, R276, R278, R315): settles O12
-/
namespace Sys2Proof.Machine

/-! ### Power words -/

theorem getLsbD_setBit20_same {d : Nat} (low : d < 20) (x : BitVec 20) (on : Bool) :
    (setBit20 x d on).getLsbD d = on := by
  cases on <;> simp [setBit20, low]

theorem getLsbD_setBit20_other {d k : Nat} (low : k < 20) (other : k ≠ d) (x : BitVec 20) (on : Bool) :
    (setBit20 x d on).getLsbD k = x.getLsbD k := by
  cases on
  all_goals
    simp [setBit20, low]
    omega

theorem lt_of_getLsbD {w d : Nat} {x : BitVec w} (h : x.getLsbD d = true) : d < w := by
  refine Nat.lt_of_not_le fun high => ?_
  rw [BitVec.getLsbD_of_ge _ _ high] at h
  cases h

/-! ### The order of the domains (R278) -/

theorem nextDomain_mem {d k : Nat} : ∀ {l : List Nat}, nextDomain d l = some k → k ∈ l
  | [], h | [_], h => by cases h
  | x :: y :: r, h => by
    rw [nextDomain] at h
    split at h
    · cases h; simp
    · exact List.mem_cons_of_mem _ (nextDomain_mem h)

theorem domainOrder_lt {g : Config.Grade} {k : Nat} (h : k ∈ domainOrder g) : k < 20 := by
  have all : ∀ k ∈ domainOrder g, k < 20 := by cases g <;> decide
  exact all k h

/-! ### Requests -/

theorem State.requestPower_frame (s : State) (d : Nat) :
    (s.requestPower d).aon = { s.aon with pdReq := (s.requestPower d).aon.pdReq } ∧
      (s.requestPower d).cfg = s.cfg ∧ (s.requestPower d).pending = s.pending ∧
      (s.requestPower d).blk = { s.blk with out := (s.requestPower d).blk.out } ∧
      (d < 20 → (s.requestPower d).aon.pdReq.getLsbD d = true) := by
  unfold State.requestPower
  split
  · exact ⟨rfl, rfl, rfl, rfl, fun _ => ‹_›⟩
  · exact ⟨rfl, rfl, rfl, rfl, fun low => getLsbD_setBit20_same low _ true⟩

theorem State.requestPower_low {s : State} {d : Nat} (low : s.aon.pdReq.getLsbD d = false) :
    s.requestPower d = { s with
      aon := { s.aon with pdReq := setBit20 s.aon.pdReq d true }, blk := s.blk.emit (.powerReq d true) } := by
  simp [State.requestPower, low]

/-- The block after a domain has come up: the front end starts anew (R208, R316). -/
def Blk.domainUp (d : Nat) (b : Blk) : Blk := if d = 16 then b.fePowerUp else b

theorem Blk.domainUp_frame (d : Nat) (b : Blk) :
    (d = 16 → (b.domainUp d).fe.fwState = .bootWait) ∧
    (∀ p, p ∈ (b.domainUp d).rel.validPages → p ∈ b.rel.validPages ∧ (d = 16 → p.1 ≠ 34 ∧ p.1 ≠ 35)) ∧
    b.domainUp d = { b with
      fe := (b.domainUp d).fe
      rel := { b.rel with validPages := (b.domainUp d).rel.validPages, partPages := (b.domainUp d).rel.partPages } } := by
  unfold domainUp
  split
  · refine ⟨fun _ => rfl, fun p valid => ?_, rfl⟩
    simp only [fePowerUp, invalidate, modRel_rel, modFe_rel, List.mem_filter, bne_iff_ne] at valid
    exact ⟨valid.1.1, fun _ => ⟨valid.1.2, valid.2⟩⟩
  · exact ⟨fun h => absurd h ‹_›, fun p valid => ⟨valid, fun h => absurd h ‹_›⟩, rfl⟩

/-- A domain whose acknowledgement rises as requested. -/
def State.acked (d : Nat) (s : State) : State :=
  { s with aon := { s.aon with pdAck := setBit20 s.aon.pdAck d true }, blk := s.blk.domainUp d }

theorem exec_domainPowerAck_rise {s : State} {d : Nat} (known : (domainOrder s.aon.grade).contains d = true)
    (was : s.aon.pdAck.getLsbD d = false) (asked : s.aon.pdReq.getLsbD d = true) :
    exec (.domainPowerAck d true) s = .next (match nextDomain d (domainOrder s.aon.grade) with
      | some k => (s.acked d).requestPower k
      | none => s.acked d) := by
  simp only [exec, execDomainPowerAck]
  rw [if_neg (by simp [List.contains_iff_mem.1 known, was, asked]), if_neg (by simp), if_pos trivial]
  by_cases front : d = 16
  · rw [if_pos front, State.acked, Blk.domainUp, if_pos front]
    cases nextDomain d (domainOrder s.aon.grade) <;> rfl
  · rw [if_neg front, State.acked, Blk.domainUp, if_neg front]
    cases nextDomain d (domainOrder s.aon.grade) <;> rfl

theorem exec_domainPowerAck_fall {s : State} {d : Nat} (known : (domainOrder s.aon.grade).contains d = true)
    (was : s.aon.pdAck.getLsbD d = true) (off : s.aon.pdReq.getLsbD d = false) :
    exec (.domainPowerAck d false) s = .next { s with
      aon := { s.aon with pdAck := setBit20 s.aon.pdAck d false, pdReq := setBit20 s.aon.pdReq d true }
      blk := s.blk.emit (.powerReq d true) } := by
  simp only [exec, execDomainPowerAck]
  rw [if_neg (by simp [List.contains_iff_mem.1 known, was]), if_neg (by simp [off]), if_neg (by simp)]
  exact congrArg _ (State.requestPower_low (s := { s with aon := { s.aon with pdAck := setBit20 s.aon.pdAck d false } }) off)

/-! ### Engines -/

/-- An engine after its power has returned. -/
def Blk.engineUp (e : Nat) (b : Blk) : Blk :=
  { b.modAgent e fun a => { a with pwrGood := true, joined := false, locals := [], fenced := false } with
    counters := agentCounters.foldl (fun t c => tdel t (ctrKey c e)) b.counters }

theorem Blk.agent_engineUp_same (e : Nat) (b : Blk) : (b.engineUp e).agent e =
    { b.agent e with pwrGood := true, joined := false, locals := [], fenced := false } :=
  agent_modAgent_same b e fun a => { a with pwrGood := true, joined := false, locals := [], fenced := false }

theorem Blk.agent_engineUp_other {e k : Nat} (other : k ≠ e) (b : Blk) : (b.engineUp e).agent k = b.agent k :=
  agent_modAgent_other b (fun a => { a with pwrGood := true, joined := false, locals := [], fenced := false }) other

theorem exec_enginePowerGood_rise {s : State} {e : Nat} (known : e < s.aon.grade.engines)
    (down : (s.blk.agent e).pwrGood = false) :
    exec (.enginePowerGood e true) s = .next { s with blk := s.blk.engineUp e } := by
  simp only [exec, execEnginePowerGood]
  rw [if_neg (by omega), if_neg (by simp [down]), if_neg (by simp)]
  rfl

theorem exec_enginePowerGood_fall {s : State} {e : Nat} (known : e < s.aon.grade.engines)
    (up : (s.blk.agent e).pwrGood = true) (idle : (s.blk.agent e).idle = true) :
    exec (.enginePowerGood e false) s = .next { s with
      blk := s.blk.modAgent e fun a => { a with pwrGood := false, joined := false, bcast := {} } } := by
  simp only [exec, execEnginePowerGood]
  rw [if_neg (by omega), if_neg (by simp [up]), if_neg (by simp [idle])]
  rfl

/-- The counters of an engine's domain are zero after its power has returned (R325). -/
theorem ctr_agentCounters (b : Blk) {k : Ctr} (held : k ∈ agentCounters) (e : Nat) :
    tgetD 0 (agentCounters.foldl (fun t c => tdel t (ctrKey c e)) b.counters) (ctrKey k e) = 0 := by
  have unlisted (cs : List Ctr) (t : Tbl Nat) (h : tget t (ctrKey k e) = none ∨ k ∈ cs) :
      tget (cs.foldl (fun t c => tdel t (ctrKey c e)) t) (ctrKey k e) = none := by
    induction cs generalizing t with
    | nil => simpa using h
    | cons c cs ih =>
      refine ih _ ?_
      rw [tget_tdel]
      by_cases same : k = c
      · exact .inl (if_pos (by rw [same]))
      · refine h.imp (fun none => ?_) fun mem => (List.mem_cons.1 mem).resolve_left same
        rw [none, ite_self]
  rw [tgetD, unlisted _ _ (.inr held)]
  rfl

/-- Settles O12: a rise by `exec_domainPowerAck_rise`, a fall and the engines by their commands' definitions. -/
theorem domainsAndEnginesPowerUp : Obligations.DomainsAndEnginesPowerUp := by
  refine ⟨fun s d known was asked => ?_, fun s d known was off => ?_, fun s e known down => ?_,
    fun s e known up idle => ?_⟩
  · have low := lt_of_getLsbD asked
    obtain ⟨boot, pages, frame⟩ := s.blk.domainUp_frame d
    refine ⟨_, exec_domainPowerAck_rise known was asked, ?_⟩
    have ack : (s.acked d).aon.pdAck.getLsbD d = true := getLsbD_setBit20_same low _ true
    have acks (k : Nat) (small : k < 20) (other : k ≠ d) :
        (s.acked d).aon.pdAck.getLsbD k = s.aon.pdAck.getLsbD k := getLsbD_setBit20_other small other _ true
    cases next : nextDomain d (domainOrder s.aon.grade) with
    | none => exact ⟨rfl, rfl, ack, acks, fun _ h => (by cases h), boot, pages,
        congrArg (fun b : Blk => { b with out := (s.blk.domainUp d).out }) frame⟩
    | some k =>
      obtain ⟨aon, cfg, pending, blk, asks⟩ := (s.acked d).requestPower_frame k
      dsimp only
      rw [cfg, pending, aon, blk]
      refine ⟨rfl, rfl, ack, acks, fun j h => ?_, boot, pages, ?_⟩
      · cases h
        exact asks (domainOrder_lt (nextDomain_mem next))
      · exact congrArg (fun b : Blk => { b with out := ((s.acked d).requestPower k).blk.out }) frame
  · have low := lt_of_getLsbD was
    exact ⟨_, exec_domainPowerAck_fall known was off, rfl, rfl, getLsbD_setBit20_same low _ _,
      getLsbD_setBit20_same low _ _, rfl⟩
  · exact ⟨_, exec_enginePowerGood_rise known down, ⟨rfl, rfl, rfl⟩, Blk.agent_engineUp_same e s.blk,
      fun k other => Blk.agent_engineUp_other other s.blk, ctr_agentCounters s.blk (by decide) e,
      ctr_agentCounters s.blk (by decide) e, rfl⟩
  · exact ⟨_, exec_enginePowerGood_fall known up idle, ⟨rfl, rfl, rfl⟩, Blk.agent_modAgent_same ..,
      fun k other => Blk.agent_modAgent_other _ _ other, rfl⟩

end Sys2Proof.Machine
end

section
/-!
# The task stores: what a task reads as after a write of one (R59, R83)
-/
namespace Sys2Proof

variable {ν : Type}

/-- The first member of a table that meets a test is found after it was changed to one that meets it as well. -/
theorem find?_tput_same {P : Nat × ν → Bool} {t : Tbl ν} {k : Nat} {x y : ν} (found : t.find? P = some (k, x))
    (meets : P (k, y) = true) : (tput t k y).find? P = some (k, y) := by
  fun_induction tput t k y with
  | case1 => cases found
  | case2 => simp [meets]
  | case3 => simp [meets]
  | case4 k' v' r _ later ih =>
    have not : P (k', v') = false := by
      refine Bool.eq_false_iff.2 fun h => ?_
      rw [List.find?_cons_of_pos h] at found
      exact later (congrArg Prod.fst (Option.some.inj found)).symm
    rw [List.find?_cons_of_neg (by simp [not])] at found ⊢
    exact ih found

/-- In a sorted table a change between members that fail a test makes no difference to what the test finds. -/
theorem find?_tput_other {P : Nat × ν → Bool} {lo : Option Nat} {t : Tbl ν} {k : Nat} {x y : ν}
    (sorted : tsorted lo t = true) (mem : (k, x) ∈ t) (old : P (k, x) = false) (new : P (k, y) = false) :
    (tput t k y).find? P = t.find? P := by
  induction t generalizing lo with
  | nil => cases mem
  | cons p r ih =>
    obtain ⟨k', v'⟩ := p
    have rest : tsorted (some k') r = true := by
      simp only [tsorted, Bool.and_eq_true] at sorted
      exact sorted.2
    rcases List.mem_cons.1 mem with h | h
    · cases h
      simp [tput, List.find?_cons, old, new]
    · have below := tsorted_lt rest _ h
      have e : tput ((k', v') :: r) k y = (k', v') :: tput r k y := by
        rw [tput, if_neg (by simp only at below; omega), if_neg (by simp only at below; omega)]
      rw [e, List.find?_cons, List.find?_cons, ih rest h]

end Sys2Proof

namespace Sys2Proof.Machine

/-! ### Names of tasks -/

/-- The bits of a number between two of its bits. -/
theorem bits_eq {w : Nat} (x : BitVec w) (lo n : Nat) : bits x lo n = x.toNat / 2 ^ lo % 2 ^ n := by
  rw [bits, Nat.shiftRight_eq_div_pow]

/-- A task's name is its context and the four fields of its identifier. -/
theorem TaskRef.ext_fields {t u : TaskRef} (ctx : t.ctx = u.ctx) (seg : t.seg = u.seg) (reach : t.reach = u.reach)
    (vblock : t.vblock = u.vblock) (entry : t.entry = u.entry) : t = u := by
  obtain ⟨c, i⟩ := t
  obtain ⟨d, j⟩ := u
  simp only [TaskRef.seg, TaskRef.reach, TaskRef.vblock, TaskRef.entry, bits_eq] at ctx seg reach vblock entry
  have id : i = j := BitVec.eq_of_toNat_eq (by omega)
  rw [ctx, id]

theorem TaskRef.plus_zero (t : TaskRef) : t.plus 0 = t := by
  obtain ⟨c, i⟩ := t
  have id : mkId (bits i 20 12) (bits i 16 4) ((bits i 0 16 + 0) / 256 % 256) ((bits i 0 16 + 0) % 256) = i := by
    refine BitVec.eq_of_toNat_eq ?_
    simp only [mkId, fieldAt, bits_eq, BitVec.toNat_ofNat]
    omega
  exact congrArg (TaskRef.mk c) id

namespace Blk

/-! ### Where a task is found -/

/-- A change that leaves the task blocks leaves where every task is found. -/
theorem Within.locate {l : List Part} {b c : Blk} (h : Within l b c) (out : .blocks ∉ l) (t : TaskRef) :
    c.locate t = b.locate t := by
  have same : (c.reach t.reach).blocks = (b.reach t.reach).blocks := h .blocks out t.reach
  rw [Blk.locate, Blk.locate, Reach.find, Reach.find, same]

theorem Within.task? {l : List Part} {b c : Blk} (h : Within l b c) (out : .blocks ∉ l) (t : TaskRef) :
    c.task? t = b.task? t := by
  rw [Blk.task?, Blk.task?, h.locate out]

/-- A change that leaves the reaches leaves each of them. -/
theorem Within.reach {l : List Part} {b c : Blk} (h : Within l b c) (out : .reaches ∉ l) (r : Nat) :
    c.reach r = b.reach r := by
  rw [Blk.reach, Blk.reach, show _ = _ from h .reaches out]

theorem task?_eq_some {b : Blk} {t : TaskRef} {x : Task} : b.task? t = some x ↔ ∃ k bl, b.locate t = .at k bl x := by
  unfold Blk.task?
  split
  case h_1 k bl y h => simp [h]
  case h_2 h => simp; intro k bl e; exact h k bl x e

theorem locate_at {b : Blk} {t : TaskRef} {k : Nat} {bl : Block} {x : Task} : b.locate t = .at k bl x ↔
    (b.reach t.reach).find t.ctx t.seg t.vblock = some (k, bl) ∧ tget bl.entries t.entry = some x := by
  unfold Blk.locate
  split
  case h_1 h => simp [h]
  case h_2 k' bl' h =>
    split
    case h_1 y e => grind
    case h_2 e => grind

/-- The block of a task that is found is one of its reach, and bears the task's name. -/
theorem block_of_locate {b : Blk} {t : TaskRef} {k : Nat} {bl : Block} {x : Task} (h : b.locate t = .at k bl x) :
    (k, bl) ∈ (b.reach t.reach).blocks ∧ bl.ctx = t.ctx ∧ bl.seg = t.seg ∧ bl.vblock = t.vblock := by
  obtain ⟨found, -⟩ := locate_at.1 h
  have names := List.find?_some found
  simp only [Bool.and_eq_true, beq_iff_eq] at names
  exact ⟨List.mem_of_find?_eq_some found, names.1.1, names.1.2, names.2⟩

/-! ### A write of one task -/

variable {b : Blk} {t u : TaskRef} {x : Task}

theorem modTask_of_locate {k : Nat} {bl : Block} (h : b.locate t = .at k bl x) (f : Task → Task) :
    b.modTask t f = b.modReach t.reach fun rc =>
      { rc with blocks := tput rc.blocks k { bl with entries := tput bl.entries t.entry (f x) } } := by
  simp [modTask, h]

theorem modTask_of_none (h : b.task? t = none) (f : Task → Task) : b.modTask t f = b := by
  unfold modTask
  split
  case h_1 k bl x e => rw [task?_eq_some.2 ⟨k, bl, e⟩] at h; cases h
  case h_2 => rfl

theorem locate_modTask_same {k : Nat} {bl : Block} (h : b.locate t = .at k bl x) (f : Task → Task) :
    (b.modTask t f).locate t = .at k { bl with entries := tput bl.entries t.entry (f x) } (f x) := by
  obtain ⟨-, ctx, seg, vblock⟩ := block_of_locate h
  rw [modTask_of_locate h, locate_at, reach_modReach_same]
  exact ⟨find?_tput_same (locate_at.1 h).1 (by simp [ctx, seg, vblock]), tget_tput_same ..⟩

@[simp] theorem task?_modTask_same (b : Blk) (t : TaskRef) (f : Task → Task) :
    (b.modTask t f).task? t = (b.task? t).map f := by
  cases h : b.task? t with
  | none => rw [modTask_of_none h, h]; rfl
  | some x =>
    obtain ⟨k, bl, found⟩ := task?_eq_some.1 h
    exact task?_eq_some.2 ⟨k, _, locate_modTask_same found f⟩

theorem task?_modTask (h : b.task? t = some x) (f : Task → Task) : (b.modTask t f).task? t = some (f x) := by
  rw [task?_modTask_same, h]
  rfl

/-- A write of one task leaves every other where the blocks of the reach are in order. -/
theorem task?_modTask_other (sorted : tsorted none (b.reach t.reach).blocks = true) (other : u ≠ t) (f : Task → Task) :
    (b.modTask t f).task? u = b.task? u := by
  cases h : b.task? t with
  | none => rw [modTask_of_none h]
  | some x =>
    obtain ⟨k, bl, found⟩ := task?_eq_some.1 h
    obtain ⟨mem, ctx, seg, vblock⟩ := block_of_locate found
    by_cases reach : u.reach = t.reach
    · by_cases same : u.ctx = t.ctx ∧ u.seg = t.seg ∧ u.vblock = t.vblock
      · obtain ⟨c, s, v⟩ := same
        have entry : u.entry ≠ t.entry := fun e => other (TaskRef.ext_fields c s reach v e)
        have there : (b.reach u.reach).find u.ctx u.seg u.vblock = some (k, bl) := by
          rw [reach, c, s, v]; exact (locate_at.1 found).1
        have now : ((b.modTask t f).reach u.reach).find u.ctx u.seg u.vblock =
            some (k, { bl with entries := tput bl.entries t.entry (f x) }) := by
          rw [reach, c, s, v]; exact (locate_at.1 (locate_modTask_same found f)).1
        simp only [Blk.task?, Blk.locate, there, now, tget_tput_other _ _ entry]
        cases tget bl.entries u.entry <;> rfl
      · have fails : (bl.ctx == u.ctx && bl.seg == u.seg && bl.vblock == u.vblock) = false := by
          rw [ctx, seg, vblock]
          refine Bool.eq_false_iff.2 fun all => ?_
          simp only [Bool.and_eq_true, beq_iff_eq] at all
          exact same ⟨all.1.1.symm, all.1.2.symm, all.2.symm⟩
        have find : ((b.modTask t f).reach u.reach).find u.ctx u.seg u.vblock =
            (b.reach u.reach).find u.ctx u.seg u.vblock := by
          rw [modTask_of_locate found, reach, reach_modReach_same]
          exact find?_tput_other sorted mem fails fails
        rw [Blk.task?, Blk.task?, Blk.locate, Blk.locate, find]
    · rw [modTask_of_locate found, Blk.task?, Blk.task?, Blk.locate, Blk.locate, reach_modReach_other _ _ reach]

/-- A write of one task changes nothing of a reach but its blocks. -/
theorem reach_modTask (b : Blk) (t : TaskRef) (f : Task → Task) (r : Nat) :
    (b.modTask t f).reach r = { b.reach r with blocks := ((b.modTask t f).reach r).blocks } := by
  unfold modTask
  split
  · rcases Decidable.em (r = t.reach) with rfl | other
    · rw [reach_modReach_same]
    · rw [reach_modReach_other _ _ other]
  · rfl

/-- What an update of a reach keeps of it, it keeps of every reach. -/
theorem keeps_modReach {α : Type} (g : Reach → α) {f : Reach → Reach} (keep : ∀ rc, g (f rc) = g rc) (b : Blk) (r k : Nat) :
    g ((b.modReach r f).reach k) = g (b.reach k) := by
  rcases Decidable.em (k = r) with rfl | other
  · rw [reach_modReach_same, keep]
  · rw [reach_modReach_other _ _ other]

theorem keeps_modTask {α : Type} (g : Reach → α) (keep : ∀ rc bs, g { rc with blocks := bs } = g rc) (b : Blk)
    (t : TaskRef) (f : Task → Task) (r : Nat) : g ((b.modTask t f).reach r) = g (b.reach r) := by
  rw [reach_modTask, keep]

/-- The blocks of every reach stay in order. -/
theorem sorted_modTask {r : Nat} (sorted : tsorted none (b.reach r).blocks = true) (f : Task → Task) :
    tsorted none ((b.modTask t f).reach r).blocks = true := by
  unfold modTask
  split
  · rcases Decidable.em (r = t.reach) with rfl | other
    · rw [reach_modReach_same]
      exact tsorted_tput _ (fun _ h => by cases h) sorted
    · rwa [reach_modReach_other _ _ other]
  · exact sorted

/-- STATE of a task that is no gang's is written in its own entry alone. -/
theorem setState_of_kind (h : b.task? t = some x) (kind : x.kind ≠ .gang) (st : TState) :
    b.setState t st = b.modTask t fun x => { x with state := st } := by
  simp [setState, h, kind]

end Blk
end Sys2Proof.Machine
end

section
/-!
# Completions at an edge (R48, R49, R92-R95, R99, R101): settles O15
-/
namespace Sys2Proof.Machine

/-! ### The order of R92 -/

section
variable {α : Type} (key : α → Nat)

theorem linsert_perm (x : α) (l : List α) : (linsert key x l).Perm (x :: l) := by
  unfold linsert
  have whole := List.takeWhile_append_dropWhile (p := fun y => decide (key y ≤ key x)) (l := l)
  exact List.perm_middle.trans (by rw [whole])

theorem linsert_sorted {x : α} {l : List α} (sorted : l.Pairwise fun a b => key a ≤ key b) :
    (linsert key x l).Pairwise fun a b => key a ≤ key b := by
  induction l with
  | nil => simp [linsert]
  | cons y l ih =>
    obtain ⟨first, rest⟩ := List.pairwise_cons.1 sorted
    by_cases below : key y ≤ key x
    · have e : linsert key x (y :: l) = y :: linsert key x l := by simp [linsert, below]
      rw [e, List.pairwise_cons]
      refine ⟨fun z mem => ?_, ih rest⟩
      rcases List.mem_cons.1 ((linsert_perm key x l).mem_iff.1 mem) with rfl | mem
      · exact below
      · exact first z mem
    · have e : linsert key x (y :: l) = x :: y :: l := by simp [linsert, below]
      rw [e, List.pairwise_cons]
      refine ⟨fun z mem => ?_, sorted⟩
      rcases List.mem_cons.1 mem with rfl | mem
      · omega
      · have := first z mem
        omega

/-- The stable sort rearranges a list into ascending order. -/
theorem lsort_sorts (l : List α) : (lsort key l).Perm l ∧ (lsort key l).Pairwise fun a b => key a ≤ key b := by
  have step (l acc : List α) (sorted : acc.Pairwise fun a b => key a ≤ key b) :
      (l.foldl (fun acc x => linsert key x acc) acc).Perm (acc ++ l) ∧
        (l.foldl (fun acc x => linsert key x acc) acc).Pairwise fun a b => key a ≤ key b := by
    induction l generalizing acc with
    | nil => simp [sorted]
    | cons x l ih =>
      obtain ⟨perm, pairwise⟩ := ih _ (linsert_sorted key sorted)
      exact ⟨perm.trans (((linsert_perm key x acc).append_right l).trans List.perm_middle.symm), pairwise⟩
  simpa [lsort] using step l [] .nil

end

/-- The completions of a reach at an edge: what landed, no engine's, flagged tasks'. -/
theorem Reach.arrivalsInOrder_sorted (rc : Reach) : ∃ own faults : List TaskRef,
    rc.arrivalsInOrder = rc.landed ++ own.map .own ++ faults.map .flagged ∧ own.Perm rc.selfDone ∧
    own.Pairwise (fun x y => x.order ≤ y.order) ∧ faults.Pairwise (fun x y => x.order ≤ y.order) ∧
    ∀ k, k ∈ faults ↔ k ∈ rc.cfSet ∧ Arrival.flagged k ∉ rc.landed := by
  obtain ⟨own, ascending⟩ := lsort_sorts TaskRef.order rc.selfDone
  refine ⟨_, _, rfl, own, ascending, (lsort_sorts TaskRef.order _).2, fun k => ?_⟩
  rw [(lsort_sorts TaskRef.order _).1.mem_iff, List.mem_filter]
  refine and_congr_right fun _ => ?_
  rw [Bool.not_eq_true', Bool.eq_false_iff]
  refine not_congr (List.any_eq_true.trans ⟨fun ⟨x, mem, is⟩ => ?_, fun mem => ⟨_, mem, beq_self_eq_true k⟩⟩)
  cases x with
  | flagged u => rw [← (beq_iff_eq.1 is : u = k)]; exact mem
  | _ => cases is

namespace Blk

theorem countHeld_within (r : Nat) (why : List Ctr) (b : Blk) : Within [.counters] b (b.countHeld r why) := by simp

/-- Completions applied one after another until one does not fit (R95). -/
theorem applyInOrder_applied (v : Env) (r : Nat) (xs : List Arrival) (b : Blk) :
    ∃ (done held : List Arrival) (c : Blk), xs = done ++ held ∧ Applied v done b c ∧
      (held = [] → b.applyInOrder v r xs = (c, false)) ∧
      (∀ x rest, held = x :: rest → (c.applyArrival v x).1 = none ∧ (b.applyInOrder v r xs).2 = true ∧
        (let d := (b.applyInOrder v r xs).1
         d.reach r = { c.reach r with landed := held } ∧ (∀ k, k ≠ r → d.reach k = c.reach k) ∧
         d = { c with reaches := d.reaches, counters := d.counters })) := by
  induction xs generalizing b with
  | nil => exact ⟨[], [], b, rfl, .nil b, fun _ => rfl, fun _ _ h => (by cases h)⟩
  | cons x xs ih =>
    rw [applyInOrder]
    split
    case h_1 c why fits =>
      obtain ⟨done, held, d, parts, applied, all, stops⟩ := ih c
      exact ⟨x :: done, held, d, by rw [parts, List.cons_append], .cons x done b c d (by rw [fits]) applied, all, stops⟩
    case h_2 why fits =>
      refine ⟨[], x :: xs, b, rfl, .nil b, fun h => (by cases h), fun y rest h => ?_⟩
      cases h
      have counted : Within [.counters] b (b.forEach (x :: xs) fun _ b => b.countHeld r why) :=
        .forEach _ (fun _ c => countHeld_within r why c) b
      have reach (k : Nat) : (b.forEach (x :: xs) fun _ b => b.countHeld r why).reach k = b.reach k := by
        rw [Blk.reach, Blk.reach, show _ = _ from counted .reaches (by simp)]
      refine ⟨by rw [fits], rfl, ?_, fun k other => ?_, ?_⟩
      · exact (reach_modReach_same ..).trans (by rw [reach])
      · exact (reach_modReach_other _ _ other).trans (reach k)
      · have within : Within [.reaches, .blocks, .counters] b ((b.forEach (x :: xs) fun _ b => b.countHeld r why).modReach r
            fun rc => { rc with landed := x :: xs }) := (counted.mono (by simp)).trans (by simp)
        exact within.eq

/-! ### A task that completes (R48, R49, R94) -/

variable {b : Blk} {t : TaskRef} {x : Task}

/-- A re-arm of a task that is no gang's: it waits, or its count flag is set. -/
theorem task?_rearm (h : b.task? t = some x) (kind : x.kind ≠ .gang) (rf : Bool) :
    (b.rearm t rf).task? t = some ((x.rearmed rf).getD { x with cf := true }) := by
  unfold rearm
  rw [h]
  dsimp only
  cases again : x.rearmed rf with
  | some y =>
    rw [setState_of_kind h kind]
    simp [h]
  | none =>
    have flagged : Within [.reaches] (b.modTask t fun x => { x with cf := true }) (b.setFlag t) := by
      unfold setFlag awaitFault
      simp
    rw [flagged.task? (by simp), task?_modTask h]
    rfl

/-- A re-arm changes blocks and flags alone. -/
theorem keeps_rearm {α : Type} (g : Reach → α) (keep : ∀ rc bs, g { rc with blocks := bs } = g rc)
    (flags : ∀ rc l, g { rc with cfSet := l } = g rc) (h : b.task? t = some x) (kind : x.kind ≠ .gang) (rf : Bool) (r : Nat) :
    g ((b.rearm t rf).reach r) = g (b.reach r) := by
  unfold rearm
  rw [h]
  dsimp only
  cases x.rearmed rf with
  | some y =>
    rw [setState_of_kind h kind]
    exact (keeps_modTask g keep ..).trans (keeps_modTask g keep ..)
  | none => exact (keeps_modReach g (fun rc => flags rc _) ..).trans (keeps_modTask g keep ..)

end Blk

/-- ITER of a task that completes (R48). -/
def Task.iterLeft (x : Task) : BitVec 16 := if x.loop && x.iter != 0 then x.iter - 1 else x.iter

/-- A task that has completed or been skipped, before a re-arm that waits (R48, R49). -/
def Task.ended (skipped : Bool) (x : Task) : Task :=
  { x.takeBank with state := if skipped then .skipped else .done, iter := x.iterLeft }

/-- The backlog record of a task that completes or is skipped (R94). -/
def Task.backlogRec (t : TaskRef) (skipped : Bool) (x : Task) : Backlog :=
  { ref := t, skipped := skipped, continuing := x.loop && !skipped && x.iterLeft != 0, succPtr := x.succPtr.toNat
    succN := x.succN.toNat
    portal := if x.kind == .marker && x.argPtr != 0xFFFFFFFF then some x.argPtr else none }

/-- Its COMPLETE record. -/
def Task.completeRec (t : TaskRef) (skipped : Bool) (aux epoch : Nat) (x : Task) : JRec :=
  { type := .complete, ctx := t.ctx, status := if skipped then stSkipped else stOk, epoch := epoch
    ending := x.loop && !(x.loop && !skipped && x.iterLeft != 0), gang := x.kind == .gang, id := t.id
    aux := BitVec.ofNat 32 aux }

namespace Blk

variable {b : Blk} {t : TaskRef} {x : Task}

/-- The entry of a task that ends. -/
def endEntry (t : TaskRef) (skipped : Bool) (x : Task) (b : Blk) : Blk :=
  (b.setState t (if skipped then .skipped else .done)).modTask t fun y => { y.takeBank with iter := x.iterLeft }

/-- Its records: COMPLETE enters the journal, its edges wait to be read. -/
def endRecords (t : TaskRef) (skipped : Bool) (aux : Nat) (x : Task) (b : Blk) : Blk :=
  (b.stage t.reach (x.completeRec t skipped aux (b.epoch t.ctx))).modReach t.reach fun rc =>
    { (rc.unlist t).dropRecords t with backlog := rc.backlog ++ [x.backlogRec t skipped] }

/-- What counters, trace, launch and channels see of it. -/
def endNotes (v : Env) (t : TaskRef) (skipped : Bool) (engine : Nat) (x : Task) (b : Blk) : Blk :=
  (((b.ctxBump t.ctx (if skipped then 0x010 else 0x008)).traceTask v 2 0 t (engine := engine)
    (status := if skipped then stSkipped else stOk) (aux := BitVec.ofNat 64 v.n)).noteLaunch t
      (!(x.loop && !skipped && x.iterLeft != 0))).freeRunChannels t

/-- The block after a task's end, before a re-arm that waits. -/
def endTask (v : Env) (t : TaskRef) (skipped : Bool) (aux engine : Nat) (x : Task) (b : Blk) : Blk :=
  ((b.endEntry t skipped x).endRecords t skipped aux x).endNotes v t skipped engine x

theorem finishTask_of_task (h : b.task? t = some x) (v : Env) (skipped : Bool) (aux engine : Nat) :
    b.finishTask v t skipped aux engine =
      let d := b.endTask v t skipped aux engine x
      if x.ra then
        let d := d.modTask t fun x => { x with ra := false, rf := false }
        if x.iterLeft = 0 then d else d.rearm t x.rf
      else d := by
  unfold finishTask
  rw [h]
  rfl

theorem within_endNotes (v : Env) (t : TaskRef) (skipped : Bool) (engine : Nat) (x : Task) (b : Blk) :
    Within [.fe, .hb, .db, .counters] b (b.endNotes v t skipped engine x) := by simp [endNotes]

theorem within_endRecords (t : TaskRef) (skipped : Bool) (aux : Nat) (x : Task) (b : Blk) :
    Within [.reaches, .rel] b (b.endRecords t skipped aux x) := by
  simp [endRecords, Reach.unlist, Reach.dropRecords]

theorem within_endEntry (t : TaskRef) (skipped : Bool) (x : Task) (b : Blk) :
    Within [.reaches, .blocks] b (b.endEntry t skipped x) := by simp [endEntry]

theorem task?_endTask (h : b.task? t = some x) (kind : x.kind ≠ .gang) (v : Env) (skipped : Bool) (aux engine : Nat) :
    (b.endTask v t skipped aux engine x).task? t = some (x.ended skipped) := by
  rw [endTask, (within_endNotes v t skipped engine x _).task? (by simp), (within_endRecords t skipped aux x _).task? (by simp), endEntry,
    setState_of_kind h kind]
  simp [h, Task.ended, Task.takeBank]

theorem backlog_endTask (h : b.task? t = some x) (kind : x.kind ≠ .gang) (v : Env) (skipped : Bool) (aux engine : Nat) :
    ((b.endTask v t skipped aux engine x).reach t.reach).backlog =
      (b.reach t.reach).backlog ++ [x.backlogRec t skipped] := by
  have entry : ((b.endEntry t skipped x).reach t.reach).backlog = (b.reach t.reach).backlog := by
    rw [endEntry, setState_of_kind h kind]
    exact (keeps_modTask Reach.backlog (fun _ _ => rfl) ..).trans (keeps_modTask Reach.backlog (fun _ _ => rfl) ..)
  rw [endTask, (within_endNotes v t skipped engine x _).reach (by simp), ← entry]
  exact congrArg Reach.backlog (reach_modReach_same ..)

theorem staged_endTask (v : Env) (t : TaskRef) (skipped : Bool) (aux engine : Nat) (x : Task) (b : Blk) :
    ∃ n k, (b.endTask v t skipped aux engine x).rel.staged =
      b.rel.staged ++ [(t.reach, { x.completeRec t skipped aux n with ticket := k })] := by
  have entry : (b.endEntry t skipped x).rel = b.rel := (within_endEntry t skipped x b) .rel (by simp)
  refine ⟨(b.endEntry t skipped x).epoch t.ctx, b.rel.tickets, ?_⟩
  rw [endTask, show _ = _ from (within_endNotes v t skipped engine x _) .rel (by simp), ← entry]
  rfl

end Blk

/-- What a task reads as once its end is applied, with a re-arm that waited (R48, R49). -/
def Task.finished (skipped : Bool) (x : Task) : Task :=
  let y := x.ended skipped
  if x.ra then
    let z := { y with ra := false, rf := false }
    if x.iterLeft = 0 then z else (z.rearmed x.rf).getD { z with cf := true }
  else y

namespace Blk

variable {b : Blk} {t : TaskRef} {x : Task}

/-- The end of a task that is no gang's: its entry, its backlog record and its COMPLETE record. -/
theorem finishTask_leaves (h : b.task? t = some x) (kind : x.kind ≠ .gang) (v : Env) (skipped : Bool) (aux engine : Nat) :
    let d := b.finishTask v t skipped aux engine
    d.task? t = some (x.finished skipped) ∧
      (d.reach t.reach).backlog = (b.reach t.reach).backlog ++ [x.backlogRec t skipped] ∧
      ∃ n k, d.rel.staged = b.rel.staged ++ [(t.reach, { x.completeRec t skipped aux n with ticket := k })] := by
  have entry := task?_endTask h kind v skipped aux engine
  have backlog := backlog_endTask h kind v skipped aux engine
  have staged := staged_endTask v t skipped aux engine x b
  rw [finishTask_of_task h]
  dsimp only
  unfold Task.finished
  generalize b.endTask v t skipped aux engine x = d at entry backlog staged
  by_cases again : x.ra = true
  · rw [if_pos again, if_pos again]
    have cleared := task?_modTask entry fun x => { x with ra := false, rf := false }
    have kept : ((d.modTask t fun x => { x with ra := false, rf := false }).reach t.reach).backlog =
        (d.reach t.reach).backlog := keeps_modTask Reach.backlog (fun _ _ => rfl) ..
    by_cases last : x.iterLeft = 0
    · rw [if_pos last, if_pos last]
      exact ⟨cleared, kept.trans backlog, by rw [modTask_rel]; exact staged⟩
    · rw [if_neg last, if_neg last]
      refine ⟨task?_rearm cleared kind x.rf, ?_, ?_⟩
      · exact (keeps_rearm Reach.backlog (fun _ _ => rfl) (fun _ _ => rfl) cleared kind x.rf _).trans (kept.trans backlog)
      · have same : Within [.reaches, .blocks] d ((d.modTask t fun x => { x with ra := false, rf := false }).rearm t x.rf) := by
          simp
        rw [show _ = _ from same .rel (by simp)]
        exact staged
  · rw [if_neg again, if_neg again]
    exact ⟨entry, backlog, staged⟩

/-! ### Completion words (R92, R95, R99, R101) -/

/-- A signal stages its record behind those that stand. -/
theorem staged_sendSignal (v : Env) (place ctx : Nat) (s : RsigBlk) (round : BitVec 16) (b : Blk) :
    ∃ more, (b.sendSignal v place ctx s round).rel.staged = b.rel.staged ++ more := ⟨_, rfl⟩

/-- The effects of a completed run stage records behind those that stand. -/
theorem staged_runEffects (v : Env) (t : TaskRef) (c : Cpl) (b : Blk) :
    ∃ more, (b.runEffects v t c).rel.staged = b.rel.staged ++ more := by
  have signals (l : List RsigBlk) (d : Blk) :
      ∃ more, (d.forEach l fun s b => b.sendSignal v t.reach t.ctx s 0).rel.staged = d.rel.staged ++ more := by
    induction l generalizing d with
    | nil => exact ⟨[], by simp [forEach]⟩
    | cons s l ih =>
      obtain ⟨m, hm⟩ := staged_sendSignal v t.reach t.ctx s 0 d
      obtain ⟨n, hn⟩ := ih (d.sendSignal v t.reach t.ctx s 0)
      exact ⟨m ++ n, by rw [← List.append_assoc, ← hm]; exact hn⟩
  obtain ⟨more, sent⟩ := signals c.rsig (b.countBytes t.ctx c.word)
  have counted : (b.countBytes t.ctx c.word).rel = b.rel := (by simp : Within [.db, .counters] b _) .rel (by simp)
  have census (d : Blk) : Within [.predNext, .db, .counters, .out] d (if cplStatus c.word ≠ stOk then d else
      match c.close with
      | some p => (d.addCensus t.ctx c.census).closeCensus v t.ctx p
      | none => d.addCensus t.ctx c.census) := by
    split
    · simp
    · split <;> simp
  refine ⟨more, ?_⟩
  rw [← counted, ← sent]
  exact congrArg Rel.staged (census _ .rel (by simp))

/-! ### Completion words (R92, R95, R99, R101) -/

theorem headOf_of_kind (h : b.task? t = some x) (kind : x.kind ≠ .gang) : b.headOf t = t := by
  simp [headOf, h, Task.isMember, kind]

/-- What the word of a plain or expert task does. -/
theorem applyWord_of_kind (v : Env) {c : Cpl} (h : b.task? c.ref = some x) (kind : x.kind = .plain ∨ x.kind = .expert) :
    b.applyWord v c =
      if x.state != .dispatched || (b.reach c.ref.reach).cfSet.contains c.ref then (some (b.discard c.ref.reach), [])
      else
        let fits := b.wordFits v c.ref.reach c.rsig.length (cplStatus c.word == stOk)
        if !fits.1 then (none, fits.2)
        else if cplStatus c.word ≠ stOk then
          (some ((b.faultTask v c.ref (cplStatus c.word) (popAux c.word) (engine := c.engine)).runEffects v c.ref c), [])
        else
          (some ((((b.modReach c.ref.reach fun rc => rc).wordPred c.ref.ctx c.word false).finishTask v c.ref false
            (popAux c.word) (engine := c.engine)).runEffects v c.ref c), []) := by
  unfold applyWord
  rw [headOf_of_kind h (by rcases kind with k | k <;> simp [k])]
  dsimp only
  rw [h]
  rcases kind with k | k
  all_goals
    simp [k]
    rfl

theorem modQueue_fe (b : Blk) (q : Nat) (f : Queue → Queue) :
    ∃ qs, (b.modQueue q f).fe = { b.fe with queues := qs } := by
  unfold modQueue
  split <;> exact ⟨_, rfl⟩

/-- A completion changes the queue of its launch alone in the front end. -/
theorem noteLaunch_fe (b : Blk) (t : TaskRef) (ending : Bool) :
    ∃ qs, (b.noteLaunch t ending).fe = { b.fe with queues := qs } := by
  unfold noteLaunch
  split
  · exact ⟨_, rfl⟩
  · exact modQueue_fe ..

end Blk

/-- A bank that DEPINIT covers (R49). -/
theorem Task.rearmed_of_le {x : Task} {rf : Bool} (fits : x.depcnt.toNat + b2n rf ≤ x.depinit.toNat) :
    x.rearmed rf = some { x with
      state := .waiting, sk := false, ra := false, rf := false, kept := 0
      depcnt := BitVec.ofNat 16 (x.depinit.toNat - (x.depcnt.toNat + b2n rf)) } := if_neg (by omega)

/-- A task that ends with a re-arm whose bank fits waits again (R49). -/
theorem Task.finished_again {x : Task} (again : x.ra = true) (left : x.iterLeft ≠ 0)
    (fits : (x.depcnt + x.kept).toNat + (if x.rf then 1 else 0) ≤ x.depinit.toNat) :
    x.finished false = { x with
      state := .waiting, sk := false, ra := false, rf := false, kept := 0, iter := x.iterLeft
      depcnt := BitVec.ofNat 16 (x.depinit.toNat - ((x.depcnt + x.kept).toNat + if x.rf then 1 else 0)) } := by
  unfold Task.finished
  dsimp only
  rw [if_pos again, if_neg left, Task.rearmed_of_le (x := { x.ended false with ra := false, rf := false }) fits]
  rfl

namespace Blk

variable {b : Blk} {t : TaskRef} {x : Task}

/-- Whether a context can be torn down depends on the contexts and the teardowns asked for. -/
theorem canTearDown_congr {c : Blk} (ctxs : c.fe.ctxs = b.fe.ctxs) (asked : c.fe.teardownsIn = b.fe.teardownsIn) (k : Nat) :
    c.canTearDown k = b.canTearDown k := by
  simp [canTearDown, torn, ctx?, ctxs, asked]

theorem tearDown_asks {k : Nat} (can : b.canTearDown k = true) (cause : BitVec 8) (desc : Option (Nat × Nat)) :
    (b.tearDown k cause desc).fe.teardownsIn = b.fe.teardownsIn ++ [(k, cause, desc)] := by
  simp [tearDown, can]

/-- A fault's records leave every list of the reach but those of ready tasks, and ask for the teardown. -/
theorem faultRecord_leaves (v : Env) (t : TaskRef) (gang : Bool) (status : BitVec 8) (aux engine : Nat) (b : Blk) :
    (b.faultRecord v t gang status aux engine).reach t.reach = (b.reach t.reach).unlist t ∧
      (b.canTearDown t.ctx = true → (b.faultRecord v t gang status aux engine).fe.teardownsIn =
        b.fe.teardownsIn ++ [(t.ctx, status, none)]) := by
  have whole (c : Blk) : Within [.fe, .hb, .db, .counters] c (((((c.ctxBump t.ctx 0x018).traceTask v 2 0 t engine status
      (BitVec.ofNat 64 v.n)).noteLaunch t false).freeRunChannels t).tearDown t.ctx status) := by simp
  have counted (c : Blk) : Within [.db, .counters] c ((c.ctxBump t.ctx 0x018).traceTask v 2 0 t engine status
      (BitVec.ofNat 64 v.n)) := by simp
  have freed (c : Blk) : Within [.hb] c (c.freeRunChannels t) := by simp
  refine ⟨?_, fun can => ?_⟩
  · exact ((whole _).reach (by simp) _).trans (reach_modReach_same ..)
  · have front (c : Blk) (same : c.fe = b.fe) : ∃ qs, ((((c.ctxBump t.ctx 0x018).traceTask v 2 0 t engine status
        (BitVec.ofNat 64 v.n)).noteLaunch t false).freeRunChannels t).fe = { b.fe with queues := qs } := by
      obtain ⟨qs, noted⟩ := ((c.ctxBump t.ctx 0x018).traceTask v 2 0 t engine status (BitVec.ofNat 64 v.n)).noteLaunch_fe
        t false
      refine ⟨qs, Eq.trans (freed _ .fe (by simp)) (noted.trans ?_)⟩
      rw [show _ = _ from counted c .fe (by simp), same]
    obtain ⟨qs, fe⟩ := front ((b.stage t.reach _).modReach t.reach fun rc => rc.unlist t) rfl
    refine (tearDown_asks ?_ status none).trans (congrArg (·.teardownsIn ++ _) fe)
    rw [canTearDown_congr (b := b) (by rw [fe]) (by rw [fe])]
    exact can

/-- A fault of a task that is no gang's (Table 2.4): STATE, and the teardown of its context. -/
theorem faultTask_leaves (h : b.task? t = some x) (kind : x.kind ≠ .gang) (v : Env)
    (status : BitVec 8) (aux engine : Nat) :
    let d := b.faultTask v t status aux engine
    d.task? t = some { x with state := .faulted } ∧
      (d.reach t.reach).backlog = (b.reach t.reach).backlog ∧
      (b.canTearDown t.ctx = true → d.fe.teardownsIn = b.fe.teardownsIn ++ [(t.ctx, status, none)]) := by
  have any : b.anyTask? t = some x := by simp [anyTask?, h]
  have state : b.faultState t x = b.modTask t fun y => { y with state := .faulted } := by
    simp [faultState, kind, forEach, TaskRef.plus_zero, modAny, h]
  intro d
  have e : d = (b.modTask t fun y => { y with state := .faulted }).faultRecord v t (x.kind == .gang) status aux engine := by
    rw [← state]
    simp only [d, faultTask, any]
  obtain ⟨lists, torn⟩ := faultRecord_leaves v t (x.kind == .gang) status aux engine
    (b.modTask t fun y => { y with state := .faulted })
  have within : Within [.reaches, .fe, .hb, .rel, .db, .counters] (b.modTask t fun y => { y with state := .faulted })
    ((b.modTask t fun y => { y with state := .faulted }).faultRecord v t (x.kind == .gang) status aux engine) := by simp
  rw [e]
  refine ⟨(within.task? (by simp) t).trans (task?_modTask h _), ?_, fun can => ?_⟩
  · rw [lists]
    exact keeps_modTask Reach.backlog (fun _ _ => rfl) ..
  · have same : (b.modTask t fun y => { y with state := .faulted }).fe = b.fe := modTask_fe ..
    rw [torn (by rw [canTearDown_congr (b := b) (by rw [same]) (by rw [same])]; exact can), same]

end Blk

/-- Settles O15: the order by `Reach.arrivalsInOrder_sorted`, where it stops by `Blk.applyInOrder_applied`, a word by
`Blk.applyWord_of_kind` with `Blk.finishTask_leaves` and `Blk.faultTask_leaves`. -/
theorem completionsApplyInOrder : Obligations.CompletionsApplyInOrder := by
  refine ⟨Reach.arrivalsInOrder_sorted, fun v b r => Blk.applyInOrder_applied v r _ _, fun v b c x h kind => ?_⟩
  have single : x.kind ≠ .gang := by rcases kind with k | k <;> simp [k]
  have unmarked : (x.kind == .marker) = false := by rcases kind with k | k <;> simp [k]
  have applied := Blk.applyWord_of_kind v h kind
  refine ⟨fun late => ?_, fun state clean => ?_⟩
  · rw [applied, if_pos (by simpa [or_comm] using late)]
    rfl
  · rw [if_neg (by simp [state, clean])] at applied
    refine ⟨fun full => ?_, fun fits ok => ?_, fun fits fault => ?_⟩
    · rw [applied]
      simp [full]
    · rw [if_neg (by simp [fits]), if_neg (by simp [ok])] at applied
      refine ⟨_, applied, ?_⟩
      have effects (d : Blk) : Blk.Within [.predNext, .hb, .rel, .db, .counters, .out] d (d.runEffects v c.ref c) := by simp
      have named : Blk.Within [.reaches, .predOps] b ((b.modReach c.ref.reach fun rc => rc).wordPred c.ref.ctx c.word false) := by
        simp
      have found := (named.task? (by simp) c.ref).trans h
      obtain ⟨entry, backlog, n, k, staged⟩ := Blk.finishTask_leaves found single v false (popAux c.word) c.engine
      obtain ⟨more, records⟩ := Blk.staged_runEffects v c.ref c (Blk.finishTask v c.ref false (popAux c.word)
        ((b.modReach c.ref.reach fun rc => rc).wordPred c.ref.ctx c.word false) c.engine)
      rw [(effects _).task? (by simp), (effects _).reach (by simp), entry]
      refine ⟨⟨fun plain => ?_, fun again left fits => ?_, fun again last => ?_, ?_⟩, ?_⟩
      · simp [Task.finished, plain, Task.ended, Task.takeBank, Task.iterLeft]
      · rw [Task.finished_again again left fits]
        rfl
      · have last : x.iterLeft = 0 := last
        rw [Task.finished, if_pos again]
        dsimp only
        rw [if_pos last]
        rfl
      · have same : ((b.modReach c.ref.reach fun rc => rc).wordPred c.ref.ctx c.word false).reach c.ref.reach =
            b.reach c.ref.reach := by
          have pred (d : Blk) : Blk.Within [.predOps] d (d.wordPred c.ref.ctx c.word false) := by simp
          exact ((pred _).reach (by simp) _).trans (Blk.reach_modReach_same ..)
        rw [backlog, same, Task.backlogRec, unmarked, Bool.not_false, Bool.and_true]
        rfl
      · refine ⟨{ x.completeRec c.ref false (popAux c.word) n with ticket := k }, ?_, rfl, rfl, rfl, rfl⟩
        rw [records, staged]
        exact List.mem_append_left _ (List.mem_append_right _ (List.mem_singleton_self _))
    · rw [if_neg (by simp [fits]), if_pos fault] at applied
      refine ⟨_, applied, ?_⟩
      have effects (d : Blk) : Blk.Within [.predNext, .hb, .rel, .db, .counters, .out] d (d.runEffects v c.ref c) := by simp
      obtain ⟨entry, backlog, torn⟩ := Blk.faultTask_leaves h single v (cplStatus c.word) (popAux c.word) c.engine
      rw [(effects _).task? (by simp), (effects _).reach (by simp), show _ = _ from effects _ .fe (by simp)]
      exact ⟨entry, backlog, torn⟩

end Sys2Proof.Machine
end

section
/-!
# Predicate resolutions and names of tasks (R53, R134, R142): refutes O17

The statement lets no task change that a resolved slot does not gate, of the stores in which the task is resident once in
its reach.  The model names an entry by the number of its virtual block, of any size, and a number above 255 runs over
into the reach of the identifier: an entry of reach 0 can bear the name of a task of reach 1.  The premise says nothing of
the other reaches, so that a shadow task there commits a task that waits.
-/
namespace Sys2Proof.Machine

/-- A task that waits, in reach 1, and its name. -/
def aliasedTask : Task := { state := .waiting, depcnt := 2 }

def aliasedRef : TaskRef := { ctx := 1, id := 0x10000 }

/-- A block of context 1 with one entry. -/
def oneEntryBlock (vblock : Nat) (x : Task) : Block :=
  { ctx := 1, seg := 0, vblock := vblock, taskN := 1, roots := false, loop := false, edgeBase := 0, edgeN := 0
    entries := [(0, x)], lastDec := 0 }

/-- The resolution of a slot that gates no task of reach 1. -/
def aliasedResolve : PredMsg := { ctx := 1, slot := 1, op := .resolveTrue, record := false }

/-- Virtual block 256 of reach 0 holds a shadow task that the slot gates; its name is that of the task in reach 1. -/
def aliasedStore : Blk :=
  { reaches := [(0, { blocks := [(0, oneEntryBlock 256 { state := .shadow, pred := 1, pol := true })] }),
                (1, { blocks := [(0, oneEntryBlock 0 aliasedTask)] })]
    predOps := [aliasedResolve] }

theorem aliasedStore_task : aliasedStore.task? aliasedRef = some aliasedTask := by decide +kernel

theorem aliasedStore_once : Once aliasedStore aliasedRef where
  blocks := by decide +kernel
  entries := by decide +kernel
  one := by
    intro x found
    cases aliasedStore_task.symm.trans found
    decide +kernel

/-- The resolution dispatches the task of reach 1. -/
theorem aliasedStore_committed :
    (aliasedStore.predStage State.reset.env).task? aliasedRef ≠ some aliasedTask := by decide +kernel

/-- Refutes O17: the slot does not gate the waiting task of reach 1, and its resolution dispatches it. -/
theorem not_predicatesResolveTheirSlots : ¬ Obligations.PredicatesResolveTheirSlots := by
  unfold Obligations.PredicatesResolveTheirSlots
  rintro ⟨-, -, one⟩
  obtain ⟨-, -, -, -, resolved⟩ := one State.reset.env aliasedStore aliasedResolve rfl
  obtain ⟨-, -, tasks⟩ := resolved (by decide) (by decide) (by decide +kernel)
  obtain ⟨kept, -⟩ := tasks aliasedRef aliasedTask aliasedStore_task aliasedStore_once (by decide +kernel)
  exact aliasedStore_committed (kept (by decide +kernel))

end Sys2Proof.Machine
end

section
/-!
# Readiness at an edge and the ready lists (R35, R54, R55, R83, R87, R92, R106): settles O16
-/
namespace Sys2Proof.Machine

/-! ### A task that stays as it is while others change -/

/-- What makes a task a gang's head, and of how many. -/
def Task.gangShape (x : Task) : Kind × Bool × BitVec 12 := (x.kind, x.gangHead, x.gang)

theorem Task.gangShape_rearmed {x y : Task} {rf : Bool} (h : x.rearmed rf = some y) : y.gangShape = x.gangShape := by
  unfold Task.rearmed at h
  dsimp only at h
  split at h
  · cases h
  · cases h
    rfl

theorem TaskRef.plus_fields (t : TaskRef) (n : Nat) :
    (t.plus n).ctx = t.ctx ∧ (t.plus n).reach = t.reach ∧ (t.plus n).index = (t.index + n) % 65536 := by
  obtain ⟨c, i⟩ := t
  refine ⟨rfl, ?_, ?_⟩
  · simp only [TaskRef.plus, TaskRef.reach, TaskRef.seg, TaskRef.index, mkId, fieldAt, bits_eq, BitVec.toNat_ofNat]
    omega
  · simp only [TaskRef.plus, TaskRef.reach, TaskRef.seg, TaskRef.index, mkId, fieldAt, bits_eq, BitVec.toNat_ofNat]
    omega

/-- No member of a gang is its head. -/
theorem TaskRef.plus_ne (t : TaskRef) {n : Nat} (pos : 0 < n) (low : n < 65536) : t.plus n ≠ t := by
  intro e
  have index := (t.plus_fields n).2.2
  rw [e] at index
  have small : t.index < 65536 := by
    rw [TaskRef.index, bits_eq]
    omega
  omega

namespace Blk

/-- No resident gang head has the task among its members (R42). -/
def Alone (b : Blk) (k : TaskRef) : Prop := ∀ h z, b.task? h = some z → ¬ Covers h z k

/-- The task blocks of a reach stay in order, and its tasks keep their part in gangs. -/
structure Shaped (r : Nat) (b b' : Blk) : Prop where
  sorted : tsorted none (b.reach r).blocks = true → tsorted none (b'.reach r).blocks = true
  shape  : ∀ h, h.reach = r → (b'.task? h).map Task.gangShape = (b.task? h).map Task.gangShape

/-- Task `k` reads as before, in a reach that stays in shape. -/
structure Kept (k : TaskRef) (b b' : Blk) : Prop where
  task   : b'.task? k = b.task? k
  shaped : Shaped k.reach b b'

theorem Alone.of_shaped {k : TaskRef} {b b' : Blk} (alone : b.Alone k) (kept : Shaped k.reach b b') : b'.Alone k := by
  intro h z found covers
  obtain ⟨kind, head, m, pos, low, name⟩ := covers
  have reach : h.reach = k.reach := by rw [← name]; exact (h.plus_fields m).2.1.symm
  have same := kept.shape h reach
  rw [found] at same
  cases was : b.task? h with
  | none => simp [was] at same
  | some w =>
    simp only [was, Option.map_some, Option.some.injEq, Task.gangShape, Prod.mk.injEq] at same
    obtain ⟨k', h', g'⟩ := same
    exact alone h w was ⟨k' ▸ kind, h' ▸ head, m, pos, g' ▸ low, name⟩

theorem Alone.of_kept {k : TaskRef} {b b' : Blk} (alone : b.Alone k) (kept : Kept k b b') : b'.Alone k :=
  alone.of_shaped kept.shaped

theorem Kept.sorted {k : TaskRef} {b b' : Blk} (kept : Kept k b b')
    (sorted : tsorted none (b.reach k.reach).blocks = true) : tsorted none (b'.reach k.reach).blocks = true :=
  kept.shaped.sorted sorted

/-! ### The tasks of a reach keep their part in gangs -/

namespace Shaped

variable {r : Nat} {t : TaskRef} {b c d : Blk}

theorem refl (r : Nat) (b : Blk) : Shaped r b b := ⟨id, fun _ _ => rfl⟩

theorem trans (h : Shaped r b c) (g : Shaped r c d) : Shaped r b d :=
  ⟨fun s => g.sorted (h.sorted s), fun u e => (g.shape u e).trans (h.shape u e)⟩

theorem of_within {l : List Part} (h : Within l b c) (out : .blocks ∉ l := by decide) : Shaped r b c where
  sorted := fun s => by rw [show _ = _ from h .blocks out r]; exact s
  shape := fun u _ => by rw [h.task? out u]

/-- A write of a task that leaves its part in a gang. -/
theorem modTask (sorted : tsorted none (b.reach r).blocks = true) (f : Task → Task)
    (shape : t.reach = r → ∀ x, b.task? t = some x → (f x).gangShape = x.gangShape) : Shaped r b (b.modTask t f) := by
  refine ⟨fun _ => sorted_modTask sorted f, fun u e => ?_⟩
  by_cases same : u = t
  · rw [same, task?_modTask_same, Option.map_map]
    exact Option.map_congr fun x found => shape (same ▸ e) x found
  · by_cases reach : t.reach = r
    · rw [task?_modTask_other (reach ▸ sorted) same f]
    · have apart : (b.modTask t f).reach u.reach = b.reach u.reach := by
        unfold Blk.modTask
        split
        · exact reach_modReach_other _ _ (by omega)
        · rfl
      rw [Blk.task?, Blk.task?, Blk.locate, Blk.locate, apart]

theorem setState (sorted : tsorted none (b.reach r).blocks = true) (st : TState) : Shaped r b (b.setState t st) := by
  have all (ms : List Nat) (c : Blk) (kept : Shaped r b c) :
      Shaped r b (c.forEach ms fun m b => b.modTask (t.plus m) fun y => { y with state := st }) := by
    induction ms generalizing c with
    | nil => exact kept
    | cons m ms ih => exact ih _ (kept.trans (modTask (kept.sorted sorted) _ fun _ _ _ => rfl))
  unfold Blk.setState
  split
  · exact refl r b
  · have first : Shaped r b (b.modTask t fun x => { x with state := st }) := modTask sorted _ fun _ _ _ => rfl
    exact iteInduction (fun _ => all _ _ first) fun _ => first

theorem makeReady (sorted : tsorted none (b.reach r).blocks = true) (v : Env) : Shaped r b (b.makeReady v t) := by
  have state := setState (t := t) sorted .ready
  have listed (c : Blk) : Within [.reaches] c (c.modReach t.reach fun rc => { rc with becoming := rc.becoming ++ [t] }) := by
    simp
  exact (state.trans (modTask (state.sorted sorted) (fun x => { x.takeBank with readyEdge := v.n }) fun _ _ _ => rfl)).trans
    (.of_within (listed _))

end Shaped

namespace Kept

variable {k t : TaskRef} {b c d : Blk}

theorem refl (k : TaskRef) (b : Blk) : Kept k b b := ⟨rfl, .refl ..⟩

theorem trans (h : Kept k b c) (g : Kept k c d) : Kept k b d := ⟨g.task.trans h.task, h.shaped.trans g.shaped⟩

theorem of_within {l : List Part} (h : Within l b c) (out : .blocks ∉ l := by decide) : Kept k b c :=
  ⟨h.task? out k, .of_within h out⟩

/-- A write of another task that leaves its part in a gang. -/
theorem modTask (sorted : tsorted none (b.reach k.reach).blocks = true) (other : k ≠ t) (f : Task → Task)
    (shape : t.reach = k.reach → ∀ x, b.task? t = some x → (f x).gangShape = x.gangShape) : Kept k b (b.modTask t f) := by
  refine ⟨?_, .modTask sorted f shape⟩
  by_cases reach : t.reach = k.reach
  · exact task?_modTask_other (reach ▸ sorted) other f
  · have apart : (b.modTask t f).reach k.reach = b.reach k.reach := by
      unfold Blk.modTask
      split
      · exact reach_modReach_other _ _ (by omega)
      · rfl
    rw [Blk.task?, Blk.task?, Blk.locate, Blk.locate, apart]

/-- STATE of another task, with that of its gang if it is a head. -/
theorem setState (sorted : tsorted none (b.reach k.reach).blocks = true) (alone : b.Alone k) (other : k ≠ t) (st : TState) :
    Kept k b (b.setState t st) := by
  refine ⟨?_, .setState sorted st⟩
  unfold Blk.setState
  split
  · rfl
  · next x found =>
    have first : Kept k b (b.modTask t fun x => { x with state := st }) := modTask sorted other _ fun _ _ _ => rfl
    refine iteInduction (motive := fun c : Blk => c.task? k = _) (fun head => ?_) fun _ => first.task
    have all (ms : List Nat) (only : ∀ m ∈ ms, k ≠ t.plus m) (c : Blk) (kept : Kept k b c) :
        Kept k b (c.forEach ms fun m b => b.modTask (t.plus m) fun y => { y with state := st }) := by
      induction ms generalizing c with
      | nil => exact kept
      | cons m ms ih =>
        exact ih (fun n mem => only n (List.mem_cons_of_mem _ mem)) _
          (kept.trans (modTask (kept.sorted sorted) (only m (List.mem_cons_self ..)) _ fun _ _ _ => rfl))
    refine (all _ (fun m mem => ?_) _ first).task
    rintro rfl
    obtain ⟨i, low, rfl⟩ := List.mem_map.1 mem
    simp only [Bool.and_eq_true, beq_iff_eq] at head
    have := List.mem_range.1 low
    exact alone t x found ⟨head.1, head.2, i + 1, by omega, by omega, rfl⟩

/-- A chain of changes that each leave the task. -/
theorem forEach {α : Type} {f : α → Blk → Blk} (xs : List α)
    (h : ∀ x ∈ xs, ∀ c, tsorted none (c.reach k.reach).blocks = true → c.Alone k → Kept k c (f x c))
    (sorted : tsorted none (b.reach k.reach).blocks = true) (alone : b.Alone k) : Kept k b (b.forEach xs f) := by
  induction xs generalizing b with
  | nil => exact refl k b
  | cons x xs ih =>
    have first := h x (List.mem_cons_self ..) b sorted alone
    exact first.trans (ih (fun y mem => h y (List.mem_cons_of_mem _ mem)) (first.sorted sorted) (alone.of_kept first))

theorem setFlag (sorted : tsorted none (b.reach k.reach).blocks = true) (other : k ≠ t) : Kept k b (b.setFlag t) := by
  have waits (c : Blk) : Within [.reaches] c (c.awaitFault t) := by simp
  exact (modTask sorted other (fun x => { x with cf := true }) fun _ _ _ => rfl).trans (.of_within (waits _))

theorem rearm (sorted : tsorted none (b.reach k.reach).blocks = true) (alone : b.Alone k) (other : k ≠ t) (rf : Bool) :
    Kept k b (b.rearm t rf) := by
  unfold Blk.rearm
  split
  · exact refl k b
  · next x found =>
    split
    · next y again =>
      have first := setState (k := k) sorted alone other .waiting
      refine first.trans (modTask (first.sorted sorted) other _ fun reach z now => ?_)
      have same := first.shaped.shape t reach
      rw [now, found, Option.map_some, Option.map_some, Option.some.injEq] at same
      rw [same, Task.gangShape_rearmed again]
    · exact setFlag sorted other

theorem finishTask (sorted : tsorted none (b.reach k.reach).blocks = true) (alone : b.Alone k) (other : k ≠ t) (v : Env)
    (skipped : Bool) (aux engine : Nat) : Kept k b (b.finishTask v t skipped aux engine) := by
  cases found : b.task? t with
  | none =>
    rw [Blk.finishTask, found]
    exact refl k b
  | some x =>
    have state : Kept k b (b.setState t (if skipped then .skipped else .done)) := setState sorted alone other _
    have entry : Kept k b (b.endEntry t skipped x) := state.trans (modTask (state.sorted sorted) other _ fun _ _ _ => rfl)
    have ended : Kept k b (b.endTask v t skipped aux engine x) :=
      entry.trans (.trans (.of_within (within_endRecords t skipped aux x _))
        (.of_within (within_endNotes v t skipped engine x _)))
    rw [finishTask_of_task found]
    dsimp only
    refine iteInduction (fun _ => ?_) fun _ => ended
    have cleared := ended.trans (modTask (ended.sorted sorted) other (fun x => { x with ra := false, rf := false })
      fun _ _ _ => rfl)
    exact iteInduction (fun _ => cleared) fun _ => cleared.trans
      (rearm (cleared.sorted sorted) (alone.of_kept cleared) other _)

theorem makeReady (sorted : tsorted none (b.reach k.reach).blocks = true) (alone : b.Alone k) (other : k ≠ t) (v : Env) :
    Kept k b (b.makeReady v t) := by
  have state := setState (k := k) sorted alone other .ready
  have listed (c : Blk) : Within [.reaches] c (c.modReach t.reach fun rc => { rc with becoming := rc.becoming ++ [t] }) := by
    simp
  exact (state.trans (modTask (state.sorted sorted) other (fun x => { x.takeBank with readyEdge := v.n })
    fun _ _ _ => rfl)).trans (.of_within (listed _))

/-- The skips of an edge leave a task that is none of them. -/
theorem applySkips (v : Env) (r : Nat) (ts : List TaskRef) (sorted : tsorted none (b.reach k.reach).blocks = true)
    (alone : b.Alone k) (other : k ∉ ts) : Kept k b (b.applySkips v r ts).1 := by
  induction ts generalizing b with
  | nil => exact refl k b
  | cons t ts ih =>
    obtain ⟨first, rest⟩ : k ≠ t ∧ k ∉ ts := by simpa using other
    have stopped (why : List Ctr) (c : Blk) : Kept k c (c.forEach (t :: ts) fun _ b => b.countHeld r why) :=
      .of_within (l := [.counters]) (.forEach _ (fun _ d => by simp) c)
    have skip := finishTask sorted alone first v true 0 0xFFFF
    have again := finishTask (skip.sorted sorted) (alone.of_kept skip) first v true 0 0xFFFF
    unfold Blk.applySkips
    dsimp only
    split
    · exact stopped _ b
    split
    · exact skip.trans (ih (skip.sorted sorted) (alone.of_kept skip) rest)
    split
    · have both := skip.trans again
      exact both.trans (ih (both.sorted sorted) (alone.of_kept both) rest)
    · exact skip.trans (stopped _ _)

end Kept
/-! ### The readiness stage (R54, R92) -/

variable {b : Blk} {k : TaskRef} {x : Task}

/-- The tasks of the zero set that get an answer, of those that a reach lists: the one followed is among them where its
own entry is. -/
theorem mem_tested (once : Once b k) (h : b.task? k = some x) (v : Env) (answer : Bool) :
    k ∈ b.tested v ((b.reach k.reach).tasks k.reach) answer ↔
      x.inZeroSet = true ∧ b.torn k.ctx = false ∧ b.armedNow v k.ctx = false ∧ b.readyTest k x = some answer := by
  have one := once.one x h
  have only (y : Task) : (k, y) ∈ (b.reach k.reach).tasks k.reach ↔ y = x := by
    have : (k, y) ∈ ((b.reach k.reach).tasks k.reach).filter (fun p => p.1 == k) ↔ (k, y) ∈ [(k, x)] := by rw [one]
    simpa using this
  unfold tested
  simp only [List.mem_map, List.mem_filter]
  constructor
  · rintro ⟨⟨u, y⟩, ⟨mem, meets⟩, rfl⟩
    cases (only y).1 mem
    simpa [and_assoc] using meets
  · rintro ⟨zero, torn, armed, test⟩
    exact ⟨(k, x), ⟨(only x).2 rfl, by simp [zero, torn, armed, test]⟩, rfl⟩

/-- It is among them once. -/
theorem count_tested (once : Once b k) (h : b.task? k = some x) (v : Env) (answer : Bool) :
    (b.tested v ((b.reach k.reach).tasks k.reach) answer).count k ≤ 1 := by
  have one := once.one x h
  unfold tested
  rw [List.count_eq_countP, List.countP_map, List.countP_filter]
  calc _ ≤ ((b.reach k.reach).tasks k.reach).countP (fun p => p.1 == k) :=
        List.countP_mono_left fun p _ h => by simp at h; simp [h.1]
    _ = 1 := by rw [List.countP_eq_length_filter, one]; rfl

/-- STATE of a task that may head a gang: its members are others. -/
theorem task?_setState (sorted : tsorted none (b.reach k.reach).blocks = true) (h : b.task? k = some x) (st : TState) :
    (b.setState k st).task? k = some { x with state := st } := by
  have first := task?_modTask h fun x => { x with state := st }
  have ordered : tsorted none ((b.modTask k fun x => { x with state := st }).reach k.reach).blocks = true :=
    sorted_modTask sorted _
  simp only [setState, h]
  refine iteInduction (motive := fun c : Blk => c.task? k = _) (fun head => ?_) fun _ => first
  have all (ms : List Nat) (low : ∀ m ∈ ms, 0 < m ∧ m < 65536) (c : Blk)
      (sorted : tsorted none (c.reach k.reach).blocks = true) :
      (c.forEach ms fun m b => b.modTask (k.plus m) fun y => { y with state := st }).task? k = c.task? k := by
    induction ms generalizing c with
    | nil => rfl
    | cons m ms ih =>
      obtain ⟨pos, small⟩ := low m (List.mem_cons_self ..)
      have kept : Kept k c (c.modTask (k.plus m) fun y => { y with state := st }) :=
        .modTask sorted (k.plus_ne pos small).symm _ fun _ _ _ => rfl
      exact (ih (fun n mem => low n (List.mem_cons_of_mem _ mem)) _ (kept.sorted sorted)).trans kept.task
  refine (all _ (fun m mem => ?_) _ ordered).trans first
  obtain ⟨i, low, rfl⟩ := List.mem_map.1 mem
  have := List.mem_range.1 low
  omega

theorem task?_makeReady (sorted : tsorted none (b.reach k.reach).blocks = true) (h : b.task? k = some x) (v : Env) :
    (b.makeReady v k).task? k =
      some { x with state := .ready, depcnt := x.depcnt + x.kept, kept := 0, readyEdge := v.n } := by
  have listed (c : Blk) : Within [.reaches] c (c.modReach k.reach fun rc => { rc with becoming := rc.becoming ++ [k] }) := by
    simp
  rw [makeReady, (listed _).task? (by simp), task?_modTask (task?_setState sorted h .ready)]
  rfl

/-- STATE is a matter of the blocks alone. -/
theorem keeps_setState {α : Type} (g : Reach → α) (keep : ∀ rc bs, g { rc with blocks := bs } = g rc) (b : Blk)
    (t : TaskRef) (st : TState) (r : Nat) : g ((b.setState t st).reach r) = g (b.reach r) := by
  have all (ms : List Nat) (c : Blk) :
      g ((c.forEach ms fun m b => b.modTask (t.plus m) fun y => { y with state := st }).reach r) = g (c.reach r) := by
    induction ms generalizing c with
    | nil => rfl
    | cons m ms ih => exact (ih _).trans (keeps_modTask g keep ..)
  unfold setState
  split
  · rfl
  · refine iteInduction (motive := fun c : Blk => g (c.reach r) = _) (fun _ => ?_) fun _ => keeps_modTask g keep ..
    exact (all _ _).trans (keeps_modTask g keep ..)

/-- A task that becomes ready is listed at its reach. -/
theorem becoming_makeReady (v : Env) (t : TaskRef) (b : Blk) (r : Nat) :
    ((b.makeReady v t).reach r).becoming = (b.reach r).becoming ++ (if r = t.reach then [t] else []) := by
  have entry : ∀ k, (((b.setState t .ready).modTask t fun x => { x.takeBank with readyEdge := v.n }).reach k).becoming =
      (b.reach k).becoming := fun k =>
    (keeps_modTask Reach.becoming (fun _ _ => rfl) ..).trans (keeps_setState Reach.becoming (fun _ _ => rfl) ..)
  unfold makeReady
  split
  · next e =>
    rw [e, reach_modReach_same, entry]
  · next e => rw [reach_modReach_other _ _ e, entry, List.append_nil]

theorem backlog_makeReady (v : Env) (t : TaskRef) (b : Blk) (r : Nat) :
    ((b.makeReady v t).reach r).backlog = (b.reach r).backlog := by
  unfold makeReady
  exact (keeps_modReach Reach.backlog (by intro _; rfl) ..).trans
    ((keeps_modTask Reach.backlog (fun _ _ => rfl) ..).trans (keeps_setState Reach.backlog (fun _ _ => rfl) ..))

/-- Tasks become ready one after another. -/
def makeAllReady (v : Env) (ts : List TaskRef) (b : Blk) : Blk := b.forEach ts fun t b => b.makeReady v t

theorem Kept.makeAllReady (v : Env) {ts : List TaskRef} (other : k ∉ ts)
    (sorted : tsorted none (b.reach k.reach).blocks = true) (alone : b.Alone k) : Kept k b (b.makeAllReady v ts) :=
  .forEach ts (fun _ mem _ s a => Kept.makeReady s a (fun e => other (e ▸ mem)) v) sorted alone

theorem backlog_makeAllReady (v : Env) (ts : List TaskRef) (b : Blk) (r : Nat) :
    ((b.makeAllReady v ts).reach r).backlog = (b.reach r).backlog := by
  induction ts generalizing b with
  | nil => rfl
  | cons t ts ih => exact (ih _).trans (backlog_makeReady ..)

theorem becoming_makeAllReady (v : Env) (ts : List TaskRef) (b : Blk) (r : Nat) :
    ((b.makeAllReady v ts).reach r).becoming = (b.reach r).becoming ++ ts.filter (fun t => r = t.reach) := by
  induction ts generalizing b with
  | nil => simp [makeAllReady, Blk.forEach]
  | cons t ts ih =>
    refine (ih _).trans ?_
    rw [becoming_makeReady, List.append_assoc, List.filter_cons]
    by_cases e : r = t.reach <;> simp [e]

/-- A task that is once among those that become ready reads as such. -/
theorem task?_makeAllReady (v : Env) {ts : List TaskRef} (mem : k ∈ ts) (one : ts.count k ≤ 1)
    (sorted : tsorted none (b.reach k.reach).blocks = true) (alone : b.Alone k) (h : b.task? k = some x) :
    (b.makeAllReady v ts).task? k =
      some { x with state := .ready, depcnt := x.depcnt + x.kept, kept := 0, readyEdge := v.n } := by
  induction ts generalizing b with
  | nil => cases mem
  | cons t ts ih =>
    by_cases e : t = k
    · subst e
      have rest : t ∉ ts := by
        rw [List.count_cons_self] at one
        exact List.count_eq_zero.1 (by omega)
      have now := task?_makeReady sorted h v
      have shaped := Shaped.makeReady (t := t) sorted v
      exact (Kept.makeAllReady v rest (shaped.sorted sorted) (alone.of_shaped shaped)).task.trans now
    · have first := Kept.makeReady sorted alone (Ne.symm e) v
      refine ih ((List.mem_cons.1 mem).resolve_left (Ne.symm e)) ?_ (first.sorted sorted) (alone.of_kept first)
        (first.task.trans h)
      exact Nat.le_trans (List.count_le_count_cons ..) one

/-- The skips that a reach notes for its next edge. -/
def noteSquashed (r : Nat) (l : List TaskRef) (b : Blk) : Blk := b.modReach r fun rc => { rc with squashed := l }

theorem within_noteSquashed (r : Nat) (l : List TaskRef) (b : Blk) : Within [.reaches] b (b.noteSquashed r l) := by
  simp [noteSquashed]

/-- The changes of an edge at a reach before its ready tasks are listed: the skips, and what a skip made ready again. -/
def readySkips (v : Env) (r : Nat) (held : Bool) (b : Blk) : Blk :=
  let squashed := (b.reach r).squashed.filter fun t => ((b.task? t).map Task.state) == some .skipped
  if held then b.noteSquashed r squashed
  else
    let skips := lsort TaskRef.order (squashed ++ b.tested v ((b.reach r).tasks r) true)
    let s := (b.noteSquashed r []).applySkips v r skips
    let b := s.1.noteSquashed r (s.2.filter squashed.contains)
    b.makeAllReady v (skips.filter fun t => b.testedNow v t false)

theorem readyStage_eq (v : Env) (r : Nat) (held : Bool) (b : Blk) :
    b.readyStage v r held =
      (b.readySkips v r held).makeAllReady v (lsort TaskRef.order (b.tested v ((b.reach r).tasks r) false)) := (rfl)

/-- Skips leave a task that gets none. -/
theorem Kept.readySkips (f : Followed b k) (v : Env) (held : Bool) (unsquashed : k ∉ (b.reach k.reach).squashed)
    (none : held = true ∨ k ∉ b.tested v ((b.reach k.reach).tasks k.reach) true) :
    Kept k b (b.readySkips v k.reach held) := by
  unfold Blk.readySkips
  dsimp only
  refine iteInduction (fun _ => .of_within (within_noteSquashed k.reach _ b)) fun live => ?_
  have other : k ∉ lsort TaskRef.order (((b.reach k.reach).squashed.filter fun t =>
      ((b.task? t).map Task.state) == some .skipped) ++ b.tested v ((b.reach k.reach).tasks k.reach) true) := by
    rw [(lsort_sorts _ _).1.mem_iff, List.mem_append, List.mem_filter]
    rintro (h | h)
    · exact unsquashed h.1
    · exact none.elim (fun e => live e) fun e => e h
  have alone : b.Alone k := f.alone
  have first : Kept k b (b.noteSquashed k.reach []) := .of_within (within_noteSquashed k.reach _ b)
  have skipped := first.trans (Kept.applySkips v k.reach _ (first.sorted f.blocks) (alone.of_kept first) other)
  have noted (l : List TaskRef) := skipped.trans (.of_within (within_noteSquashed k.reach l _))
  exact (noted _).trans (Kept.makeAllReady v (fun mem => other ((List.mem_filter.1 mem).1)) ((noted _).sorted f.blocks)
    (alone.of_kept (noted _)))

/-! ### A skip (R55) -/

/-- The end of a task, one that heads a gang as well. -/
theorem endTask_leaves (sorted : tsorted none (b.reach k.reach).blocks = true) (h : b.task? k = some x) (v : Env)
    (skipped : Bool) (aux engine : Nat) :
    (b.endTask v k skipped aux engine x).task? k = some (x.ended skipped) ∧
      ((b.endTask v k skipped aux engine x).reach k.reach).backlog =
        (b.reach k.reach).backlog ++ [x.backlogRec k skipped] := by
  have notes := within_endNotes v k skipped engine x ((b.endEntry k skipped x).endRecords k skipped aux x)
  have records := within_endRecords k skipped aux x (b.endEntry k skipped x)
  constructor
  · rw [endTask, notes.task? (by simp), records.task? (by simp), endEntry, task?_modTask (task?_setState sorted h _)]
    rfl
  · have entry : ((b.endEntry k skipped x).reach k.reach).backlog = (b.reach k.reach).backlog :=
      (keeps_modTask Reach.backlog (fun _ _ => rfl) ..).trans (keeps_setState Reach.backlog (fun _ _ => rfl) ..)
    rw [endTask, notes.reach (by simp), ← entry]
    exact congrArg Reach.backlog (reach_modReach_same ..)

theorem Shaped.endTask {r : Nat} (sorted : tsorted none (b.reach r).blocks = true) (v : Env) (skipped : Bool)
    (aux engine : Nat) (x : Task) : Shaped r b (b.endTask v k skipped aux engine x) := by
  have state := Shaped.setState (t := k) sorted (if skipped then .skipped else .done)
  have entry : Shaped r b (b.endEntry k skipped x) := state.trans (.modTask (state.sorted sorted) _ fun _ _ _ => rfl)
  exact entry.trans (.trans (.of_within (within_endRecords k skipped aux x _))
    (.of_within (within_endNotes v k skipped engine x _)))

/-- What does not wait is not tested. -/
theorem testedNow_of_state {v : Env} (h : b.task? k = some x) (state : x.state ≠ .waiting) (answer : Bool) :
    b.testedNow v k answer = false := by
  simp [testedNow, h, tested, Task.inZeroSet, state]

/-- The test is that of the predicate and the skip bit. -/
theorem testedNow_of_readyTest {v : Env} {answer : Bool} (h : b.task? k = some x) (test : b.readyTest k x = some !answer) :
    b.testedNow v k answer = false := by
  cases answer <;> simp_all [testedNow, tested]

theorem readyTest_congr {c : Blk} (same : c.preds = b.preds) (k : TaskRef) (x : Task) : c.readyTest k x = b.readyTest k x := by
  simp [readyTest, predTest, pred, same]

theorem wordFits_congr {c : Blk} {r : Nat} (backlog : (c.reach r).backlog = (b.reach r).backlog) (hb : c.hb = b.hb)
    (rel : c.rel = b.rel) (v : Env) (n : Nat) (fin : Bool) (pred : Bool) :
    c.wordFits v r n fin pred = b.wordFits v r n fin pred := by
  have room : c.backlogFits r = b.backlogFits r := by rw [backlogFits, backlogFits, backlog]
  have journal (k : Nat) : c.journalFits v k = b.journalFits v k := by
    rw [journalFits, journalFits, journalUsed, journalUsed, rel]
  rw [wordFits, wordFits, room, hb, journal]

/-- The one skip of an edge, of a task without a re-arm that waits: applied, or held back where it does not fit. -/
theorem readySkips_one (f : Followed b k) (h : b.task? k = some x) (v : Env) (plain : x.ra = false)
    (test : b.readyTest k x = some true) (only : b.tested v ((b.reach k.reach).tasks k.reach) true = [k])
    (unsquashed : (b.reach k.reach).squashed = []) :
    ((b.wordFits v k.reach 0 true).1 = true →
      (b.readySkips v k.reach false).task? k = some (x.ended true) ∧
        ((b.readySkips v k.reach false).reach k.reach).backlog = (b.reach k.reach).backlog ++ [x.backlogRec k true] ∧
        Shaped k.reach b (b.readySkips v k.reach false)) ∧
    ((b.wordFits v k.reach 0 true).1 = false → Kept k b (b.readySkips v k.reach false)) := by
  let c := b.noteSquashed k.reach []
  have first : Within [.reaches] b c := within_noteSquashed k.reach [] b
  have found : c.task? k = some x := (first.task? (by simp) k).trans h
  have backlog : (c.reach k.reach).backlog = (b.reach k.reach).backlog := keeps_modReach Reach.backlog (by intro _; rfl) ..
  have fits : c.wordFits v k.reach 0 true = b.wordFits v k.reach 0 true :=
    wordFits_congr backlog (first .hb (by simp)) (first .rel (by simp)) ..
  have skips : lsort TaskRef.order [k] = [k] := List.perm_singleton.1 (lsort_sorts _ _).1
  constructor
  · intro room
    have sorted : tsorted none (c.reach k.reach).blocks = true := (Shaped.of_within first).sorted f.blocks
    obtain ⟨entry, listed⟩ := endTask_leaves sorted found v true 0 0xFFFF
    have skipped : c.finishTask v k true 0 = c.endTask v k true 0 0xFFFF x := by
      rw [finishTask_of_task found]
      simp [plain]
    have done : c.applySkips v k.reach [k] = (c.endTask v k true 0 0xFFFF x, []) := by
      have late : (c.endTask v k true 0 0xFFFF x).testedNow v k true = false :=
        testedNow_of_state entry (by simp [Task.ended]) _
      simp [applySkips, fits, room, skipped, late]
    have noted := within_noteSquashed k.reach [] (c.endTask v k true 0 0xFFFF x)
    have again : ((c.endTask v k true 0 0xFFFF x).noteSquashed k.reach []).testedNow v k false = false :=
      testedNow_of_state ((noted.task? (by simp) k).trans entry) (by simp [Task.ended]) _
    have e : b.readySkips v k.reach false = (c.endTask v k true 0 0xFFFF x).noteSquashed k.reach [] := by
      simp only [readySkips, unsquashed, only, List.filter_nil, List.nil_append, skips]
      rw [if_neg (by simp), show (b.noteSquashed k.reach []).applySkips v k.reach [k] = _ from done]
      simp [again, makeAllReady, Blk.forEach]
    rw [e]
    refine ⟨(noted.task? (by simp) k).trans entry, ?_, ?_⟩
    · exact (keeps_modReach Reach.backlog (by intro _; rfl) ..).trans (listed.trans (by rw [backlog]))
    · exact (Shaped.of_within first).trans ((Shaped.endTask sorted v true 0 0xFFFF x).trans (.of_within noted))
  · intro full
    have held : c.applySkips v k.reach [k] = (c.countHeld k.reach (b.wordFits v k.reach 0 true).2, [k]) := by
      simp [applySkips, fits, full, Blk.forEach]
    have counted : Within [.reaches, .counters] b ((c.countHeld k.reach (b.wordFits v k.reach 0 true).2).noteSquashed k.reach []) := by
      have count (d : Blk) : Within [.counters] d (d.countHeld k.reach (b.wordFits v k.reach 0 true).2) := by simp
      exact ((first.mono (by simp)).trans ((count c).mono (by simp))).trans
        ((within_noteSquashed k.reach [] _).mono (by simp))
    have e : b.readySkips v k.reach false = (c.countHeld k.reach (b.wordFits v k.reach 0 true).2).noteSquashed k.reach [] := by
      have again := testedNow_of_readyTest (v := v) (answer := false) ((counted.task? (by simp) k).trans h)
        ((readyTest_congr (counted .preds (by simp)) k x).trans test)
      simp only [readySkips, unsquashed, only, List.filter_nil, List.nil_append, skips]
      rw [if_neg (by simp), show (b.noteSquashed k.reach []).applySkips v k.reach [k] = _ from held]
      simp [again, makeAllReady, Blk.forEach]
    rw [e]
    exact .of_within counted

/-! ### The ready stage of a reach (R54) -/

/-- A task of the zero set whose test makes it ready does so, and is listed. -/
theorem readyStage_ready (f : Followed b k) (h : b.task? k = some x) (v : Env) (held : Bool)
    (unsquashed : k ∉ (b.reach k.reach).squashed) (zero : x.inZeroSet = true) (torn : b.torn k.ctx = false)
    (armed : b.armedNow v k.ctx = false) (test : b.readyTest k x = some false) :
    (b.readyStage v k.reach held).task? k =
        some { x with state := .ready, depcnt := x.depcnt + x.kept, kept := 0, readyEdge := v.n } ∧
      k ∈ ((b.readyStage v k.reach held).reach k.reach).becoming := by
  have among := (mem_tested f.toOnce h v false).2 ⟨zero, torn, armed, test⟩
  have skips := Kept.readySkips f v held unsquashed (.inr fun mem => by
    have := ((mem_tested f.toOnce h v true).1 mem).2.2.2
    rw [test] at this
    cases this)
  have perm := (lsort_sorts TaskRef.order (b.tested v ((b.reach k.reach).tasks k.reach) false)).1
  rw [readyStage_eq]
  refine ⟨task?_makeAllReady v (perm.mem_iff.2 among) ?_ (skips.sorted f.blocks) (Alone.of_kept f.alone skips)
    (skips.task.trans h), ?_⟩
  · rw [perm.count_eq]
    exact count_tested f.toOnce h v false
  · rw [becoming_makeAllReady]
    exact List.mem_append_right _ (List.mem_filter.2 ⟨perm.mem_iff.2 among, by simp⟩)

/-- One that is not tested, or whose test does not decide, stays. -/
theorem readyStage_stays (f : Followed b k) (h : b.task? k = some x) (v : Env) (held : Bool)
    (skips : Kept k b (b.readySkips v k.reach held))
    (unready : k ∉ b.tested v ((b.reach k.reach).tasks k.reach) false) :
    (b.readyStage v k.reach held).task? k = some x := by
  rw [readyStage_eq]
  have rest := Kept.makeAllReady v (ts := lsort TaskRef.order (b.tested v ((b.reach k.reach).tasks k.reach) false))
    (fun mem => unready ((lsort_sorts _ _).1.mem_iff.1 mem)) (skips.sorted f.blocks) (Alone.of_kept f.alone skips)
  exact rest.task.trans (skips.task.trans h)

/-- The one skip of an edge. -/
theorem readyStage_skip (f : Followed b k) (h : b.task? k = some x) (v : Env) (plain : x.ra = false)
    (test : b.readyTest k x = some true) (only : b.tested v ((b.reach k.reach).tasks k.reach) true = [k])
    (unsquashed : (b.reach k.reach).squashed = []) :
    ((b.wordFits v k.reach 0 true).1 = true →
      (∃ y, (b.readyStage v k.reach false).task? k = some y ∧ y.state = .skipped) ∧
        ∃ q, ((b.readyStage v k.reach false).reach k.reach).backlog = (b.reach k.reach).backlog ++ [q] ∧ q.ref = k ∧
          q.skipped = true) ∧
    ((b.wordFits v k.reach 0 true).1 = false → (b.readyStage v k.reach false).task? k = some x) := by
  have unready : k ∉ b.tested v ((b.reach k.reach).tasks k.reach) false := fun mem => by
    have := ((mem_tested f.toOnce h v false).1 mem).2.2.2
    rw [test] at this
    cases this
  obtain ⟨room, full⟩ := readySkips_one f h v plain test only unsquashed
  refine ⟨fun fits => ?_, fun none => readyStage_stays f h v false (full none) unready⟩
  obtain ⟨entry, backlog, shaped⟩ := room fits
  have rest := Kept.makeAllReady v (ts := lsort TaskRef.order (b.tested v ((b.reach k.reach).tasks k.reach) false))
    (fun mem => unready ((lsort_sorts _ _).1.mem_iff.1 mem)) (shaped.sorted f.blocks) (Alone.of_shaped f.alone shaped)
  rw [readyStage_eq]
  exact ⟨⟨_, rest.task.trans entry, rfl⟩, _, (backlog_makeAllReady ..).trans backlog, rfl, rfl⟩

/-! ### The ready lists (R106) -/

/-- What a list of ready tasks becomes: what returns, what it holds, what becomes ready. -/
theorem insertReady_lists (b : Blk) (r : Nat) : ∃ new : List TaskRef,
    let rc := b.reach r
    let among (p : Task → Bool) (k : TaskRef) : Bool :=
      match b.task? k with | some x => x.state == .ready && p x | none => false
    let goes (p : Task → Bool) (l : List TaskRef) : List TaskRef :=
      rc.returning.filter (among p) ++ l ++ new.filter (among p)
    new.Perm rc.becoming ∧ new.Pairwise (fun x y => x.order ≤ y.order) ∧
    (b.insertReady r).reach r = { rc with
      lc := goes (fun x => !x.be) rc.lc, fillList := goes (fun x => x.be && x.fills) rc.fillList
      plainList := goes (fun x => x.be && !x.fills) rc.plainList, becoming := [], returning := [] } ∧
    b.insertReady r = { b with reaches := (b.insertReady r).reaches } := by
  obtain ⟨perm, sorted⟩ := lsort_sorts TaskRef.order (b.reach r).becoming
  refine ⟨lsort TaskRef.order (b.reach r).becoming, perm, sorted, ?_, rfl⟩
  have kind (k : Nat) (p : Task → Bool)
      (same : ∀ x : Task, (if !x.be then 0 else if x.fills then 1 else 2) = k ↔ p x = true) :
      (fun t => ((b.task? t).bind fun x => if x.state ≠ .ready then none else if !x.be then some 0 else if x.fills then some 1
        else some 2) == some k) = fun t => match b.task? t with | some x => x.state == .ready && p x | none => false := by
    funext t
    cases b.task? t with
    | none => rfl
    | some x =>
      have := same x
      rw [Bool.eq_iff_iff]
      by_cases ready : x.state = .ready
      · cases be : x.be <;> cases fills : x.fills <;> simp [be, fills] at this <;> simp [ready, be, fills, this]
      · simp [ready]
  unfold insertReady
  rw [reach_modReach_same]
  simp only
  rw [kind 0 (fun x => !x.be) fun x => by cases x.be <;> cases x.fills <;> simp,
    kind 1 (fun x => x.be && x.fills) fun x => by cases x.be <;> cases x.fills <;> simp,
    kind 2 (fun x => x.be && !x.fills) fun x => by cases x.be <;> cases x.fills <;> simp]

/-! ### Arming (R83, R87, R192) -/

/-- The launch entries from which arming takes ITER, at a reach. -/
def armingCopy (frames : List Frame) (r : Nat) (rc : Reach) (bl : Block) : Tbl Task :=
  if rc.spillHalted then []
  else ((frames.find? fun f => f.reach == r && f.seg == bl.seg && f.vblock == bl.vblock).map Frame.launch).getD []

/-- A block of the context that is armed. -/
def armedBlock (frames : List Frame) (r : Nat) (rc : Reach) (epoch : Nat) (bl : Block) : Block :=
  { bl with entries := armEntries bl.loop (armingCopy frames r rc bl) bl.entries, epoch := epoch }

/-- The change of one reach by an arming. -/
def armedReach (frames : List Frame) (c epoch r : Nat) (rc : Reach) : Reach :=
  let stale (x : Arrival) : Bool := match x with | .flagged t => t.ctx == c | _ => false
  { rc with
    blocks := rc.blocks.map fun p => if p.2.ctx = c then (p.1, armedBlock frames r rc epoch p.2) else p
    cfSet := rc.cfSet.filter (fun t => t.ctx != c), landed := rc.landed.filter (fun x => !stale x) }

/-- What an arming does to the context. -/
def Ctx.relaunch (v : Env) (x : Ctx) : Ctx :=
  { x with launchCount := x.launchCount + 1, closedLaunch := false, armEdge := v.n }

/-- Arming without the page-ins that it asks for. -/
def armedReaches (v : Env) (c : Nat) (frames : List Frame) (b : Blk) : Blk :=
  b.forEach (List.range v.reaches) fun r d => d.modReach r (armedReach frames c (b.epoch c) r)

theorem armContext_eq (v : Env) {c : Nat} {x : Ctx} (h : b.ctx? c = some x) :
    b.armContext v c =
      let d := (b.modCtx c (Ctx.relaunch v)).armedReaches v c x.image.frames
      if x.backwater then d
      else d.forEach (x.image.frames.filter Frame.roots) fun f b => b.requestPage f.reach c f.seg f.vblock := by
  simp only [armContext, inBackwater, h, Option.map_some, Option.getD_some]
  rfl

/-- What the page-ins of an arming leave. -/
theorem pages_armContext (v : Env) {c : Nat} {x : Ctx} (h : b.ctx? c = some x) :
    Within [.reaches] ((b.modCtx c (Ctx.relaunch v)).armedReaches v c x.image.frames) (b.armContext v c) := by
  rw [armContext_eq v h]
  dsimp only
  exact iteInduction (fun _ => .refl _ _) fun _ => .forEach _ (fun f d => by simp) _

/-- Each reach changes by its own arming. -/
theorem reach_armedReaches (v : Env) (c : Nat) (frames : List Frame) (b : Blk) {r : Nat} (below : r < v.reaches) :
    (b.armedReaches v c frames).reach r = armedReach frames c (b.epoch c) r (b.reach r) := by
  have all (l : List Nat) (nodup : l.Nodup) (d : Blk) :
      (d.forEach l fun r d => d.modReach r (armedReach frames c (b.epoch c) r)).reach r =
        if r ∈ l then armedReach frames c (b.epoch c) r (d.reach r) else d.reach r := by
    induction l generalizing d with
    | nil => rfl
    | cons k l ih =>
      obtain ⟨new, rest⟩ := List.nodup_cons.1 nodup
      refine (ih rest _).trans ?_
      by_cases e : r = k
      · subst e
        simp [new]
      · rw [reach_modReach_other _ _ e]
        simp [e]
  exact (all _ List.nodup_range b).trans (if_pos (List.mem_range.2 below))

theorem tget_armEntries (loop : Bool) (launch es : Tbl Task) (k : Nat) :
    tget (armEntries loop launch es) k = (tget es k).map fun x => x.armed loop (tget launch k) := by
  induction es with
  | nil => rfl
  | cons p es ih =>
    unfold armEntries
    rw [List.map_cons, tget, tget]
    by_cases e : p.1 = k
    · simp [e]
    · rw [if_neg e, if_neg e]
      exact ih

/-- An arming leaves each block in its place. -/
theorem find_armedReach (frames : List Frame) (c epoch r : Nat) (rc : Reach) (d seg vb : Nat) :
    (armedReach frames c epoch r rc).find d seg vb = (rc.find d seg vb).map fun p =>
      if p.2.ctx = c then (p.1, armedBlock frames r rc epoch p.2) else p := by
  refine List.find?_map.trans ?_
  congr 2
  funext p
  dsimp only [Function.comp]
  split <;> rfl

/-- Where a task is found after arming: in the same block, armed if it is the context's. -/
theorem task?_armContext (v : Env) {c : Nat} {x : Ctx} (h : b.ctx? c = some x) {n : Nat} {bl : Block} {z : Task}
    (below : k.reach < v.reaches) (at_ : b.locate k = .at n bl z) :
    (b.armContext v c).task? k = some (if k.ctx = c then
      z.armed bl.loop (tget (armingCopy x.image.frames k.reach (b.reach k.reach) bl) k.entry) else z) := by
  obtain ⟨found, entry⟩ := locate_at.1 at_
  obtain ⟨-, ctx, -, -⟩ := block_of_locate at_
  rw [(pages_armContext v h).task? (by simp)]
  refine task?_eq_some.2 ⟨n, if bl.ctx = c then armedBlock x.image.frames k.reach (b.reach k.reach)
    ((b.modCtx c (Ctx.relaunch v)).epoch c) bl else bl, locate_at.2 ⟨?_, ?_⟩⟩
  · have relaunched : (b.modCtx c (Ctx.relaunch v)).reach k.reach = b.reach k.reach := by
      rw [Blk.reach, modCtx_reaches, Blk.reach]
    rw [reach_armedReaches _ _ _ _ below, find_armedReach, relaunched, found]
    simp only [Option.map_some]
    split <;> rfl
  · rw [ctx]
    split
    · exact (tget_armEntries ..).trans (by rw [entry]; rfl)
    · exact entry

/-- A page-in that a reach owes: the block is resident, asked for or on its way. -/
def Owes (c seg vb : Nat) (rc : Reach) : Prop :=
  (rc.find c seg vb).isSome = true ∨ (∃ q ∈ rc.pageReqs, q.ctx = c ∧ q.seg = seg ∧ q.vblock = vb) ∨
    (∃ p, rc.pagingIn = some p ∧ p.ctx = c ∧ p.seg = seg ∧ p.vblock = vb)

theorem owes_requestPage (b : Blk) (r c seg vb : Nat) : Owes c seg vb ((b.requestPage r c seg vb).reach r) := by
  unfold requestPage
  rw [reach_modReach_same]
  split
  · next h =>
    simp only [Bool.or_eq_true, List.any_eq_true, Bool.and_eq_true, beq_iff_eq, Option.map_eq_some_iff, Prod.mk.injEq] at h
    rcases h with (⟨q, mem, ⟨e1, e2⟩, e3⟩ | h) | ⟨p, e, e1, e2, e3⟩
    · exact .inr (.inl ⟨q, mem, e1, e2, e3⟩)
    · exact .inl h
    · exact .inr (.inr ⟨p, e, e1, e2, e3⟩)
  · exact .inr (.inl ⟨_, List.mem_append_right _ (List.mem_singleton_self _), rfl, rfl, rfl⟩)

/-- What is owed stays owed while more is asked for. -/
theorem Owes.requestPage {c seg vb r : Nat} (h : Owes c seg vb (b.reach r)) (r' c' seg' vb' : Nat) :
    Owes c seg vb ((b.requestPage r' c' seg' vb').reach r) := by
  unfold Blk.requestPage
  by_cases e : r = r'
  · subst e
    rw [reach_modReach_same]
    split
    · exact h
    · exact h.imp_right (.imp_left fun ⟨q, mem, e⟩ => ⟨q, List.mem_append_left _ mem, e⟩)
  · rwa [reach_modReach_other _ _ e]

/-- Arming asks for every ROOTS block that is not resident (R87). -/
theorem armContext_roots (v : Env) {c : Nat} {x : Ctx} (h : b.ctx? c = some x) (live : x.backwater = false) {f : Frame}
    (mem : f ∈ x.image.frames) (root : f.roots = true) : Owes c f.seg f.vblock ((b.armContext v c).reach f.reach) := by
  rw [armContext_eq v h]
  dsimp only
  rw [if_neg (by simp [live])]
  have all (l : List Frame) (d : Blk) (start : f ∈ l ∨ Owes c f.seg f.vblock (d.reach f.reach)) : Owes c f.seg f.vblock
      ((d.forEach l fun f b => b.requestPage f.reach c f.seg f.vblock).reach f.reach) := by
    induction l generalizing d with
    | nil => exact start.resolve_left (by simp)
    | cons g l ih =>
      refine ih _ ?_
      rcases start with start | start
      · rcases List.mem_cons.1 start with rfl | later
        · exact .inr (owes_requestPage ..)
        · exact .inl later
      · exact .inr (start.requestPage ..)
  exact all _ _ (.inl (List.mem_filter.2 ⟨mem, root⟩))

end Blk

/-- Settles O16: arming by `Blk.task?_armContext` and `Blk.armContext_roots`, the readiness test by
`Blk.readyStage_ready`, `Blk.readyStage_stays` and `Blk.readyStage_skip`, the lists by `Blk.insertReady_lists`. -/
theorem readyTasksEnterTheirLists : Obligations.ReadyTasksEnterTheirLists := by
  refine ⟨fun v b c x h => ⟨⟨_, ?_, rfl⟩, fun k n bl z below at_ => ⟨fun other => ?_, fun own => ?_⟩, fun live f mem root =>
    Blk.armContext_roots v h live mem root⟩, fun b k x => ⟨fun sk => ?_, fun p sk pred => ?_, fun sk pred => ?_⟩,
    fun v b k x held h f unsquashed => ⟨fun tests test => ?_, fun stays => ?_, fun tests test live plain only empty => ?_⟩,
    Blk.insertReady_lists⟩
  · have pages := Blk.pages_armContext v h
    have reaches (d : Blk) : Blk.Within [.reaches, .blocks] d (d.armedReaches v c x.image.frames) :=
      .forEach _ (fun r d => by simp) d
    rw [Blk.ctx?, show _ = _ from pages .fe (by simp), show _ = _ from reaches _ .fe (by simp)]
    exact (Blk.ctx?_modCtx_same ..).trans (by rw [h]; rfl)
  · rw [Blk.task?_armContext v h below at_, if_neg other]
  · refine ⟨_, by rw [Blk.task?_armContext v h below at_, if_pos own], rfl, fun kept => ?_, fun loop spill f w frame launch => ?_⟩
    · rcases kept with plain | halted
      · simp [Task.armed, plain]
      · simp [Task.armed, Blk.armingCopy, halted]
    · obtain ⟨-, -, seg, vblock⟩ := Blk.block_of_locate at_
      simp [Task.armed, Blk.armingCopy, spill, loop, seg, vblock, frame, launch]
  · simp [Blk.readyTest, sk]
  · simp only [Blk.readyTest, Blk.predTest, sk, pred]
    cases p <;> cases x.pol <;> rfl
  · simp [Blk.readyTest, Blk.predTest, sk, pred]
  · obtain ⟨zero, torn, armed⟩ := tests
    exact Blk.readyStage_ready f h v held unsquashed zero torn armed test
  · have undecided (answer : Bool) (mem : k ∈ b.tested v ((b.reach k.reach).tasks k.reach) answer) :
        answer = true ∧ held = true := by
      obtain ⟨zero, torn, armed, test⟩ := (Blk.mem_tested f.toOnce h v answer).1 mem
      rcases stays with none | none | ⟨skip, live⟩
      · exact absurd ⟨zero, torn, armed⟩ none
      · rw [none] at test; cases test
      · rw [skip] at test; exact ⟨(Option.some.inj test).symm, live⟩
    refine Blk.readyStage_stays f h v held (.readySkips f v held unsquashed ?_) fun mem => by
      cases (undecided false mem).1
    by_cases live : held = true
    · exact .inl live
    · exact .inr fun mem => live (undecided true mem).2
  · cases live
    exact Blk.readyStage_skip f h v plain test only empty

end Sys2Proof.Machine
end

section
/-!
# Edge read and crossbar (R94, R96, R97, R98, R130): settles O21
-/
namespace Sys2Proof.Machine

/-! ### Edge read (R94, R98) -/

/-- What edge read does to a reach: its queues grow within their limit, and its backlog, queues and count alone change. -/
structure Reach.Reads (rc rc' : Reach) : Prop where
  count : rc.readCount ≤ 256 → rc'.readCount ≤ 256
  queue : ∀ d, (tgetD [] rc.outbox d).length ≤ 256 → (tgetD [] rc'.outbox d).length ≤ 256
  grows : ∀ d, ∃ new, tgetD [] rc'.outbox d = tgetD [] rc.outbox d ++ new
  frame : rc' = { rc with backlog := rc'.backlog, outbox := rc'.outbox, readCount := rc'.readCount }

namespace Reach

theorem Reads.refl (rc : Reach) : Reads rc rc := ⟨id, fun _ => id, fun _ => ⟨[], by simp⟩, rfl⟩

theorem Reads.trans {x y z : Reach} (h : Reads x y) (g : Reads y z) : Reads x z where
  count := fun low => g.count (h.count low)
  queue := fun d low => g.queue d (h.queue d low)
  grows := fun d => by
    obtain ⟨m, hm⟩ := h.grows d
    obtain ⟨n, hn⟩ := g.grows d
    exact ⟨m ++ n, by rw [hn, hm, List.append_assoc]⟩
  frame := by rw [g.frame, h.frame]

/-- Entries and spent records that a reach may still take. -/
def readLeft (rc : Reach) : Nat := (256 - rc.readCount) + rc.backlog.length

/-- One entry: it is within the limits, and there is one less to read. -/
theorem reads_readEntry {rc rc' : Reach} (h : rc.readEntry = some rc') : Reads rc rc' ∧ rc'.readLeft < rc.readLeft := by
  unfold readEntry at h
  split at h
  · cases h
  · next k rest backlog =>
    split at h
    · cases h
      exact ⟨⟨id, fun _ => id, fun _ => ⟨[], by simp⟩, rfl⟩, by simp [readLeft, backlog]⟩
    split at h
    · cases h
    next low =>
    dsimp only at h
    split at h
    · cases h
    next room =>
    split at h
    · cases h
      exact ⟨⟨fun _ => by dsimp only; omega, fun _ => id, fun _ => ⟨[], by simp⟩, rfl⟩,
        by simp only [readLeft, backlog, List.length_cons]; omega⟩
    · next u _ =>
      cases h
      refine ⟨⟨fun _ => by dsimp only; omega, fun d fits => ?_, fun d => ?_, rfl⟩,
        by simp only [readLeft, backlog, List.length_cons]; omega⟩
      · by_cases e : d = (rc.nextEntry k).1.reach
        · subst e
          simp only [tgetD_tput_same, List.length_append, List.length_singleton]
          omega
        · rwa [tgetD_tput_other _ _ _ e]
      · by_cases e : d = (rc.nextEntry k).1.reach
        · subst e
          exact ⟨_, tgetD_tput_same ..⟩
        · exact ⟨[], by rw [tgetD_tput_other _ _ _ e, List.append_nil]⟩

/-- Reading goes on until nothing more can be read. -/
theorem reads_readEdges (n : Nat) (rc : Reach) :
    Reads rc (rc.readEdges n) ∧ (rc.readLeft ≤ n → (rc.readEdges n).readEntry = none) := by
  induction n generalizing rc with
  | zero =>
    refine ⟨.refl rc, fun none => ?_⟩
    show rc.readEntry = _
    cases h : rc.readEntry with
    | none => rfl
    | some rc' =>
      have := (reads_readEntry h).2
      omega
  | succ n ih =>
    unfold readEdges
    split
    · next rc' h =>
      obtain ⟨one, less⟩ := reads_readEntry h
      obtain ⟨rest, last⟩ := ih rc'
      exact ⟨one.trans rest, fun fuel => last (by omega)⟩
    · next h => exact ⟨.refl rc, fun _ => h⟩

theorem readLeft_le (rc : Reach) : rc.readLeft ≤ rc.readFuel := by
  unfold readLeft readFuel
  omega

end Reach

/-! ### The crossbar (R96, R97) -/

theorem takeUnits_takes (k a : Nat) (q : List XUnit) :
    (takeUnits k a q).1 ++ (takeUnits k a q).2.1 = q ∧ (takeUnits k a q).1.length ≤ k ∧
      (a ≤ 2048 → (takeUnits k a q).2.2 ≤ 2048) := by
  fun_induction takeUnits k a q with
  | case1 => simp
  | case2 => simp
  | case3 => simp
  | case4 k a u q low t ih =>
    obtain ⟨split, few, limit⟩ := ih
    exact ⟨by simp [t, split], by simp [t, few], fun _ => limit (by omega)⟩

/-- The first unit goes where there is room and the limit admits it. -/
theorem takeUnits_first {k a : Nat} {u : XUnit} {q : List XUnit} (room : 0 < k) (low : a + u.span ≤ 2048) :
    ∃ taken, (takeUnits k a (u :: q)).1 = u :: taken ∧ taken ++ (takeUnits k a (u :: q)).2.1 = q := by
  obtain ⟨k, rfl⟩ : ∃ j, k = j + 1 := ⟨k - 1, by omega⟩
  have fits : ¬ 2048 < a + u.span := by omega
  refine ⟨(takeUnits k (a + u.span) q).1, by simp [takeUnits, fits], ?_⟩
  simp only [takeUnits, if_neg fits]
  exact (takeUnits_takes ..).1

/-- What the transport of units towards one destination keeps (R96, R97). -/
structure Blk.Carried (dst : Nat) (b b' : Blk) : Prop where
  sent    : ∀ r, tgetD 0 (b.reach r).sentCount dst ≤ 16 → tgetD 0 (b'.reach r).sentCount dst ≤ 16
  limit   : (b.reach dst).admitCount ≤ 2048 → (b'.reach dst).admitCount ≤ 2048
  stores  : ∀ k, (b'.reach k).blocks = (b.reach k).blocks ∧ (b'.reach k).lc = (b.reach k).lc ∧
    (b'.reach k).ledger = (b.reach k).ledger ∧ (b'.reach k).landed = (b.reach k).landed
  arrives : ∃ more, (b'.reach dst).arrivals = (b.reach dst).arrivals ++ more
  frame   : b' = { b with reaches := b'.reaches, counters := b'.counters }

/-- The units that reach `r` has for a destination, and how many it has sent there. -/
def Blk.towards (b : Blk) (r dst : Nat) : List XUnit × Nat := (tgetD [] (b.reach r).outbox dst, tgetD 0 (b.reach r).sentCount dst)

namespace Blk

variable {dst : Nat} {b c d : Blk}

theorem Carried.refl (dst : Nat) (b : Blk) : Carried dst b b :=
  ⟨fun _ => id, id, fun _ => ⟨rfl, rfl, rfl, rfl⟩, ⟨[], by simp⟩, rfl⟩

theorem Carried.trans (h : Carried dst b c) (g : Carried dst c d) : Carried dst b d where
  sent := fun r low => g.sent r (h.sent r low)
  limit := fun low => g.limit (h.limit low)
  stores := fun k => by
    obtain ⟨b1, l1, e1, d1⟩ := h.stores k
    obtain ⟨b2, l2, e2, d2⟩ := g.stores k
    exact ⟨b2.trans b1, l2.trans l1, e2.trans e1, d2.trans d1⟩
  arrives := by
    obtain ⟨m, hm⟩ := h.arrives
    obtain ⟨n, hn⟩ := g.arrives
    exact ⟨m ++ n, by rw [hn, hm, List.append_assoc]⟩
  frame := by rw [g.frame, h.frame]

theorem Carried.forEach {α : Type} {f : α → Blk → Blk} (l : List α) (h : ∀ x b, Carried dst b (f x b)) (b : Blk) :
    Carried dst b (b.forEach l f) := by
  induction l generalizing b with
  | nil => exact .refl dst b
  | cons x l ih => exact (h x b).trans (ih _)

theorem reads_edgeRead (b : Blk) (r k : Nat) : Reach.Reads (b.reach k) ((b.edgeRead r).reach k) := by
  unfold edgeRead
  by_cases e : k = r
  · subst e
    rw [reach_modReach_same]
    exact (Reach.reads_readEdges _ _).1
  · rw [reach_modReach_other _ _ e]
    exact .refl _

theorem carried_of_reads (reads : ∀ k, Reach.Reads (b.reach k) (c.reach k))
    (frame : c = { b with reaches := c.reaches, counters := c.counters }) : Carried dst b c where
  sent := fun r low => by rw [(reads r).frame]; exact low
  limit := fun low => by rw [(reads dst).frame]; exact low
  stores := fun k => by rw [(reads k).frame]; exact ⟨rfl, rfl, rfl, rfl⟩
  arrives := ⟨[], by rw [(reads dst).frame, List.append_nil]⟩
  frame := frame

theorem reads_readAll (v : Env) (b : Blk) (k : Nat) : Reach.Reads (b.reach k) ((b.readAll v).reach k) := by
  unfold readAll
  generalize List.range v.reaches = l
  induction l generalizing b with
  | nil => exact .refl _
  | cons r l ih => exact (reads_edgeRead b r k).trans (ih _)

theorem carried_readAll (v : Env) (dst : Nat) (b : Blk) : Carried dst b (b.readAll v) :=
  .forEach _ (fun r b => carried_of_reads (reads_edgeRead b r) rfl) b

/-- The units that a reach sends to a destination, those that stay, and what the destination has then admitted. -/
def units (dst r : Nat) (b : Blk) : List XUnit × List XUnit × Nat :=
  takeUnits (16 - tgetD 0 (b.reach r).sentCount dst) (b.reach dst).admitCount (tgetD [] (b.reach r).outbox dst)

/-- A reach's queue after it has sent. -/
def leave (dst : Nat) (t : List XUnit × List XUnit × Nat) (rc : Reach) : Reach :=
  { rc with outbox := tput rc.outbox dst t.2.1, sentCount := tmod 0 rc.sentCount dst (· + t.1.length) }

/-- A destination after they have arrived. -/
def arrive (t : List XUnit × List XUnit × Nat) (rc : Reach) : Reach :=
  { rc with arrivals := rc.arrivals ++ t.1, admitCount := t.2.2 }

theorem sendFrom_eq (dst r : Nat) (b : Blk) : b.sendFrom dst r =
    ((b.modReach r (leave dst (b.units dst r))).modReach dst (arrive (b.units dst r))).bump .unitsSent r
      (b.units dst r).1.length := (rfl)

/-- The reaches after a reach has sent. -/
theorem reach_sendFrom (dst r k : Nat) (b : Blk) : (b.sendFrom dst r).reach k =
    (if k = dst then arrive (b.units dst r) else id) ((if k = r then leave dst (b.units dst r) else id) (b.reach k)) := by
  rw [sendFrom_eq, reach_congr (bump_reaches ..)]
  by_cases e : k = dst
  · subst e
    rw [reach_modReach_same, if_pos rfl]
    by_cases e : k = r
    · subst e
      rw [reach_modReach_same, if_pos rfl]
    · rw [reach_modReach_other _ _ e, if_neg e]
      rfl
  · rw [reach_modReach_other _ _ e, if_neg e]
    by_cases e : k = r
    · subst e
      rw [reach_modReach_same, if_pos rfl]
      rfl
    · rw [reach_modReach_other _ _ e, if_neg e]
      rfl

theorem arrivals_sendFrom (dst r : Nat) (b : Blk) :
    ((b.sendFrom dst r).reach dst).arrivals = (b.reach dst).arrivals ++ (b.units dst r).1 := by
  rw [reach_sendFrom, if_pos rfl]
  split <;> rfl

theorem towards_sendFrom_same (dst r : Nat) (b : Blk) : (b.sendFrom dst r).towards r dst =
    ((b.units dst r).2.1, tgetD 0 (b.reach r).sentCount dst + (b.units dst r).1.length) := by
  rw [towards, reach_sendFrom, if_pos rfl]
  split <;> simp [arrive, leave]

theorem towards_sendFrom_other {r k : Nat} (other : k ≠ r) (dst : Nat) (b : Blk) :
    (b.sendFrom dst r).towards k dst = b.towards k dst := by
  rw [towards, reach_sendFrom, if_neg other]
  split <;> rfl

theorem carried_sendFrom (dst r : Nat) (b : Blk) : Carried dst b (b.sendFrom dst r) where
  sent := fun k low => by
    by_cases e : k = r
    · subst e
      have now := congrArg Prod.snd (towards_sendFrom_same dst k b)
      have few := (takeUnits_takes (16 - tgetD 0 (b.reach k).sentCount dst) (b.reach dst).admitCount
        (tgetD [] (b.reach k).outbox dst)).2.1
      rw [show tgetD 0 ((b.sendFrom dst k).reach k).sentCount dst = _ from now]
      unfold units
      omega
    · rw [show tgetD 0 ((b.sendFrom dst r).reach k).sentCount dst = _ from congrArg Prod.snd (towards_sendFrom_other e dst b)]
      exact low
  limit := fun low => by
    rw [reach_sendFrom, if_pos rfl]
    exact (takeUnits_takes ..).2.2 low
  stores := fun k => by
    rw [reach_sendFrom]
    split <;> split <;> exact ⟨rfl, rfl, rfl, rfl⟩
  arrives := ⟨_, arrivals_sendFrom dst r b⟩
  frame := by
    rw [sendFrom_eq]
    unfold bump
    split <;> rfl

/-- The sends of a list of sources. -/
def sendsOf (dst : Nat) (l : List Nat) (b : Blk) : Blk := b.forEach l fun r b => b.sendFrom dst r

theorem sendsOf_nil (dst : Nat) (b : Blk) : b.sendsOf dst [] = b := rfl

theorem carried_sendsOf (dst : Nat) (l : List Nat) (b : Blk) : Carried dst b (b.sendsOf dst l) :=
  .forEach l (fun r b => carried_sendFrom dst r b) b

theorem towards_sendsOf {r : Nat} {l : List Nat} (other : r ∉ l) (dst : Nat) (b : Blk) :
    (b.sendsOf dst l).towards r dst = b.towards r dst := by
  induction l generalizing b with
  | nil => rfl
  | cons k l ih =>
    obtain ⟨first, rest⟩ : r ≠ k ∧ r ∉ l := by simpa using other
    exact (ih rest _).trans (towards_sendFrom_other first dst b)

theorem sendsOf_append (dst : Nat) (l m : List Nat) (b : Blk) :
    b.sendsOf dst (l ++ m) = (b.sendsOf dst l).sendsOf dst m := List.foldl_append ..

/-- A source's first unit goes when its turn comes, if it has room and the limit admits the unit then. -/
theorem sendsOf_first {l m : List Nat} {r : Nat} (pre : r ∉ l) (post : r ∉ m) {u : XUnit} {q : List XUnit}
    (queue : tgetD [] (b.reach r).outbox dst = u :: q) (room : tgetD 0 (b.reach r).sentCount dst < 16)
    (admits : ((b.sendsOf dst l).reach dst).admitCount + u.span ≤ 2048) :
    ∃ taken after rest, ((b.sendsOf dst (l ++ r :: m)).reach dst).arrivals =
        ((b.sendsOf dst l).reach dst).arrivals ++ u :: taken ++ after ∧
      q = taken ++ rest ∧ tgetD [] ((b.sendsOf dst (l ++ r :: m)).reach r).outbox dst = rest := by
  have before := towards_sendsOf pre dst b
  have queue' : tgetD [] ((b.sendsOf dst l).reach r).outbox dst = u :: q := (congrArg Prod.fst before).trans queue
  have room' : tgetD 0 ((b.sendsOf dst l).reach r).sentCount dst < 16 :=
    lt_of_eq_of_lt (congrArg Prod.snd before) room
  obtain ⟨taken, goes, rest⟩ := takeUnits_first (k := 16 - tgetD 0 ((b.sendsOf dst l).reach r).sentCount dst) (q := q)
    (by omega) admits
  obtain ⟨after, more⟩ := (carried_sendsOf dst m ((b.sendsOf dst l).sendFrom dst r)).arrives
  have e : b.sendsOf dst (l ++ r :: m) = ((b.sendsOf dst l).sendFrom dst r).sendsOf dst m := sendsOf_append ..
  have sent : (b.sendsOf dst l).units dst r = takeUnits (16 - tgetD 0 ((b.sendsOf dst l).reach r).sentCount dst)
      ((b.sendsOf dst l).reach dst).admitCount (u :: q) := by rw [units, queue']
  refine ⟨taken, after, _, ?_, rest.symm, ?_⟩
  · rw [e, more, arrivals_sendFrom, sent, goes]
  · have last := congrArg Prod.fst (towards_sendsOf post dst ((b.sendsOf dst l).sendFrom dst r))
    rw [e]
    exact last.trans ((congrArg Prod.fst (towards_sendFrom_same ..)).trans (by rw [sent]))

end Blk

/-! ### The sources of a pulse in turn -/

theorem Config.Grade.reaches_le (g : Config.Grade) : g.reaches ≤ 16 := by cases g <;> decide

theorem sourceOrder_split (v : Env) {r : Nat} (below : r < v.reaches) :
    ∃ l m, sourceOrder v = l ++ r :: m ∧ r ∉ l ∧ r ∉ m ∧ (r = v.n % 16 → l = []) := by
  have nodup : (sourceOrder v).Nodup := by
    refine .filter _ (List.pairwise_map.2 (List.nodup_range.imp_of_mem fun {i j} hi hj apart e => apart ?_))
    have := List.mem_range.1 hi
    have := List.mem_range.1 hj
    omega
  have mem : r ∈ sourceOrder v := by
    have low : v.reaches ≤ 16 := Config.Grade.reaches_le _
    refine List.mem_filter.2 ⟨List.mem_map.2 ⟨(r + 16 - v.n % 16) % 16, ?_, ?_⟩, by simpa using below⟩
    · exact List.mem_range.2 (Nat.mod_lt _ (by decide))
    · omega
  obtain ⟨l, m, e⟩ := List.append_of_mem mem
  rw [e] at nodup
  obtain ⟨-, tail, apart⟩ := List.nodup_append.1 nodup
  refine ⟨l, m, e, fun h => apart r h r (List.mem_cons_self ..) rfl, (List.nodup_cons.1 tail).1, fun first => ?_⟩
  have head : sourceOrder v = r :: ((List.range' 1 15).map fun i => (v.n + i) % 16).filter fun r => decide (r < v.reaches) := by
    have range : List.range 16 = 0 :: List.range' 1 15 := rfl
    rw [sourceOrder, range, List.map_cons, List.filter_cons, Nat.add_zero, ← first, if_pos (by simpa using below)]
  rw [e] at head
  cases l with
  | nil => rfl
  | cons k l =>
    have : k = r := (List.cons.inj head).1
    exact absurd (List.mem_cons_self ..) (this ▸ fun h => apart r h r (List.mem_cons_self ..) rfl)

/-! ### Step requests (R130) -/

theorem Blk.takeRequests_ctx? (p : TaskRef → Bool) {b : Blk} {c : Nat} {x : Ctx} (h : b.ctx? c = some x) :
    (b.takeRequests p).ctx? c = some { x with requests := x.requests ++ b.fe.stepsIn.filter fun k => p k && k.ctx == c } := by
  have all (ts : List TaskRef) (d : Blk) {x : Ctx} (h : d.ctx? c = some x) :
      (d.forEach ts fun t b => b.modCtx t.ctx fun x => { x with requests := x.requests ++ [t] }).ctx? c =
        some { x with requests := x.requests ++ ts.filter fun k => k.ctx == c } := by
    induction ts generalizing d x with
    | nil => simp [forEach, h]
    | cons t ts ih =>
      by_cases e : t.ctx = c
      · have now : (d.modCtx t.ctx fun x => { x with requests := x.requests ++ [t] }).ctx? c =
            some { x with requests := x.requests ++ [t] } := by
          rw [← e, ctx?_modCtx_same, e, h]
          rfl
        exact (ih _ now).trans (by simp [e])
      · have same : (d.modCtx t.ctx fun x => { x with requests := x.requests ++ [t] }).ctx? c = some x := by
          unfold modCtx
          split
          · exact (tget_tput_other _ _ (Ne.symm e)).trans h
          · exact h
        exact (ih _ same).trans (by simp [e])
  have given : (b.modFe fun fe => { fe with stepsIn := fe.stepsIn.filter fun t => !p t }).ctx? c = some x := h
  refine (all _ _ given).trans ?_
  rw [List.filter_filter]
  simp only [Bool.and_comm]

theorem Blk.takeRequests_fe (p : TaskRef → Bool) (b : Blk) :
    (b.takeRequests p).fe.stepsIn = b.fe.stepsIn.filter (fun t => !p t) ∧ (b.takeRequests p).fe.queues = b.fe.queues := by
  have all (ts : List TaskRef) (d : Blk) :
      let d' := d.forEach ts fun t b => b.modCtx t.ctx fun x => { x with requests := x.requests ++ [t] }
      d'.fe.stepsIn = d.fe.stepsIn ∧ d'.fe.queues = d.fe.queues := by
    induction ts generalizing d with
    | nil => exact ⟨rfl, rfl⟩
    | cons t ts ih =>
      have one : (d.modCtx t.ctx fun x => { x with requests := x.requests ++ [t] }).fe.stepsIn = d.fe.stepsIn ∧
          (d.modCtx t.ctx fun x => { x with requests := x.requests ++ [t] }).fe.queues = d.fe.queues := by
        unfold modCtx
        split <;> exact ⟨rfl, rfl⟩
      exact ⟨(ih _).1.trans one.1, (ih _).2.trans one.2⟩
  exact all _ _

/-- A command of a reach that acts while the data plane works. -/
theorem atReach_moves {s : State} {r : Nat} (f : Env → Blk → Blk) (low : r < s.aon.grade.reaches)
    (moving : s.blk.frozen = false) :
    atReach s r (fun v b => if b.frozen then b else f v b) = .next { s with blk := f s.env s.blk } := by
  rw [atReach_acts _ low, moving]
  rfl

/-- Settles O21: edge read by `Reach.reads_readEdges`, the limits by `Blk.Carried`, the units in turn by
`Blk.sendsOf_first`. -/
theorem requestsAndUnitsMoveOn : Obligations.RequestsAndUnitsMoveOn := by
  have sends {s : State} {dst : Nat} (low : dst < s.aon.grade.reaches) (moving : s.blk.frozen = false) :
      exec (.outboxSend dst) s =
        .next { s with blk := (s.blk.readAll s.env).sendsOf dst (sourceOrder s.env) } :=
    atReach_moves (fun v b => (b.readAll v).outboxSend v dst) low moving
  refine ⟨fun s r c x low moving ctx => ?_, fun s r low moving => ?_, fun s dst low moving => ?_,
    fun s dst r u q low source moving queue room span limit => ?_, fun s dst r u q low source moving queue room first limit => ?_⟩
  · refine ⟨_, atReach_moves (fun _ b => b.takeRequests fun t => t.reach == r) low moving, ⟨rfl, rfl, rfl⟩, Blk.takeRequests_ctx? _ ctx, ?_⟩
    obtain ⟨steps, queues⟩ := Blk.takeRequests_fe (fun t => t.reach == r) s.blk
    have only : Blk.Within [.fe] s.blk (s.blk.takeRequests fun t => t.reach == r) := by simp
    exact ⟨steps, queues, only.eq⟩
  · refine ⟨_, atReach_moves (fun _ b => b.edgeRead r) low moving, ⟨rfl, rfl, rfl⟩, ?_⟩
    obtain ⟨reads, last⟩ := Reach.reads_readEdges (s.blk.reach r).readFuel (s.blk.reach r)
    have now : (s.blk.edgeRead r).reach r = (s.blk.reach r).readEdges (s.blk.reach r).readFuel :=
      Blk.reach_modReach_same ..
    show ((s.blk.edgeRead r).reach r).readEntry = none ∧ _
    rw [← now] at reads last
    exact ⟨last (Reach.readLeft_le _), reads.count, reads.queue, reads.frame,
      fun k other => Blk.reach_modReach_other _ _ other, rfl⟩
  · have all := (Blk.carried_readAll s.env dst s.blk).trans (Blk.carried_sendsOf dst (sourceOrder s.env) _)
    exact ⟨_, sends low moving, ⟨rfl, rfl, rfl⟩, all.sent, all.limit, all.stores, all.frame⟩
  · obtain ⟨l, m, order, pre, post, -⟩ := sourceOrder_split s.env source
    have read := Blk.carried_readAll s.env dst s.blk
    obtain ⟨new, grown⟩ := (Blk.reads_readAll s.env s.blk r).grows dst
    have earlier := read.trans (Blk.carried_sendsOf dst l _)
    obtain ⟨before, came⟩ := earlier.arrives
    obtain ⟨taken, after, rest, arrivals, split, stays⟩ := Blk.sendsOf_first pre post (q := q ++ new)
      (by rw [grown, queue]; rfl) (by rw [(Blk.reads_readAll s.env s.blk r).frame]; exact room)
      (by rw [span]; exact earlier.limit limit)
    refine ⟨_, sends low moving, before, taken, after, new, rest, ?_, split, ?_⟩
    · rw [order]
      exact arrivals.trans (by rw [came])
    · rw [order]
      exact stays
  · obtain ⟨l, m, order, pre, post, head⟩ := sourceOrder_split s.env source
    cases head first
    obtain ⟨new, grown⟩ := (Blk.reads_readAll s.env s.blk r).grows dst
    obtain ⟨taken, after, rest, arrivals, split, stays⟩ := Blk.sendsOf_first pre post (q := q ++ new)
      (by rw [grown, queue]; rfl) (by rw [(Blk.reads_readAll s.env s.blk r).frame]; exact room)
      (by rw [Blk.sendsOf_nil, (Blk.reads_readAll s.env s.blk dst).frame]; exact limit)
    refine ⟨_, sends low moving, taken, after, new, rest, ?_, split, ?_⟩
    · rw [order]
      refine arrivals.trans ?_
      rw [Blk.sendsOf_nil, (Blk.reads_readAll s.env s.blk dst).frame]
    · rw [order]
      exact stays

end Sys2Proof.Machine
end

section
/-!
# A decrement and blocks that share a key (R35): refutes O22

The statement lets a decrement change the DEPCNT of no other task of its reach, of every store.  A store is a table of
blocks, which a run keeps in order of its keys; the statement does not ask for that.  Where two blocks stand under one key
the write of a task in the second takes the place of the first, and the tasks of the first are gone.
-/
namespace Sys2Proof.Machine

/-- The task that is decremented, in virtual block 0, and another, in virtual block 1. -/
def decrementedRef : TaskRef := { ctx := 1, id := 0 }
def shadowedRef : TaskRef := { ctx := 1, id := 0x100 }

/-- A task that waits for one decrement. -/
def waitsForOne : Task := { state := .waiting, depcnt := 1 }

/-- A plain decrement has arrived for the second of two blocks under one key. -/
def sharedKeyState : State :=
  { State.reset with
    aon := { State.reset.aon with grade := .o1 }
    blk := {
      reaches := [(0, {
        blocks := [(0, oneEntryBlock 1 waitsForOne), (0, oneEntryBlock 0 waitsForOne)]
        arrivals := [{ kind := .plain, target := decrementedRef }] })]
      fe := { ctxs := [(1, {})] } } }

theorem sharedKeyState_unit : OnlyUnit sharedKeyState 0 { kind := .plain, target := decrementedRef } where
  moving := by decide +kernel
  arrived := by decide +kernel
  backlog := fun r => by
    rcases r with _ | r <;> rfl
  outbox := fun r d => by
    rcases r with _ | r <;> rfl

/-- The decrement loses the task of the first block. -/
theorem sharedKeyState_loses : ∃ t, exec (.unitApply 0) sharedKeyState = .next t ∧
    (t.blk.task? shadowedRef).map Task.depcnt = none :=
  ⟨_, atReach_moves (fun v b => (b.pulseTransport v).applyArrivals v 0) (by decide) (by decide +kernel),
    by decide +kernel⟩

/-- Refutes O22: the decrement of a task in the second of two blocks under one key takes the first away. -/
theorem not_unitsActOnTheirTarget : ¬ Obligations.UnitsActOnTheirTarget := by
  unfold Obligations.UnitsActOnTheirTarget
  rintro ⟨decrement, -⟩
  obtain ⟨t, ran, -, -, others, -⟩ := decrement sharedKeyState 0 _ waitsForOne (by decide) sharedKeyState_unit (by decide)
    (.inl rfl) (by decide +kernel) (by decide +kernel) rfl (by decide)
  obtain ⟨t', ran', lost⟩ := sharedKeyState_loses
  cases ran.symm.trans ran'
  have kept := others shadowedRef (by decide) (by decide)
  rw [lost] at kept
  exact absurd kept (by decide +kernel)

end Sys2Proof.Machine
end

section
/-!
# Dispatch words at an agent (R31, R113, R114, R121, R266, R384): settles O24 and O25
-/
namespace Sys2Proof.Machine

/-! ### Changes of one agent -/

theorem OtherAgents.emit {e : Nat} {b c : Blk} (h : OtherAgents e b c) (o : Out) : OtherAgents e b (c.emit o) := h

namespace Blk

/-- Changes of one agent one after another are one change. -/
@[simp] theorem modAgent_modAgent (b : Blk) (e : Nat) (f g : Agent → Agent) :
    (b.modAgent e f).modAgent e g = b.modAgent e fun a => g (f a) := by
  have table (t : Tbl Agent) : tmod {} (tmod {} t e f) e g = tmod {} t e fun a => g (f a) := by
    have now : tgetD {} (tmod {} t e f) e = f (tgetD {} t e) := tgetD_tmod_same ..
    rw [tmod, now, tmod, tput_tput_same, tmod]
  show ({ b with agents := _ } : Blk) = _
  rw [modAgent_agents, table]
  rfl

/-- The order of a change of an agent and an output makes no difference. -/
theorem modAgent_emit (b : Blk) (o : Out) (e : Nat) (f : Agent → Agent) :
    (b.emit o).modAgent e f = (b.modAgent e f).emit o := rfl

theorem otherAgents_modAgent (b : Blk) (e : Nat) (f : Agent → Agent) : OtherAgents e b (b.modAgent e f) :=
  fun _ other => agent_modAgent_other b f other

@[simp] theorem agent_emit (b : Blk) (o : Out) (e : Nat) : (b.emit o).agent e = b.agent e := rfl

/-- Heads of gangs are a matter of the task blocks. -/
theorem Within.headOf {l : List Part} {b c : Blk} (h : Within l b c) (out : .blocks ∉ l) (t : TaskRef) :
    c.headOf t = b.headOf t := by
  rw [Blk.headOf, Blk.headOf, h.task? out]

@[simp] theorem headOf_modAgent (b : Blk) (e : Nat) (f : Agent → Agent) (t : TaskRef) :
    (b.modAgent e f).headOf t = b.headOf t := rfl

/-! ### A word at its agent (R31, R114, R384) -/

/-- What a refused word leaves at its reach. -/
theorem refuse_leaves (b : Blk) (e : Nat) (d : DWord) :
    let t := b.headOf d.ref
    let c := b.refuse e d
    c.ctr .dispatchRefusal t.reach = b.ctr .dispatchRefusal t.reach + 1 ∧
      (d.gangMember = none → ∃ x, (c.reach t.reach).returns = (b.reach t.reach).returns ++ [x] ∧
        x.ref = d.ref ∧ x.engine = e ∧ x.refused = true) ∧
      (d.gangMember ≠ none → (c.reach t.reach).returns = (b.reach t.reach).returns ∧
        ∀ g, g ∈ (c.reach t.reach).gangs → g.ref = t → g.refused = true) ∧
      c.agents = b.agents ∧ c = { b with reaches := c.reaches, counters := c.counters } := by
  dsimp only
  have only : Within [.reaches, .counters] b (b.refuse e d) := by simp
  have kept (f : Reach → Reach) : ((b.bump .dispatchRefusal (b.headOf d.ref).reach).modReach (b.headOf d.ref).reach f).reach
      (b.headOf d.ref).reach = f (b.reach (b.headOf d.ref).reach) := by
    rw [reach_modReach_same, reach_congr (bump_reaches ..)]
  refine ⟨ctr_bump_same .., fun single => ?_, fun member => ?_, only .agents (by simp), only.eq⟩
  · rw [refuse, single, kept]
    exact ⟨_, rfl, rfl, rfl, rfl⟩
  · have gang : d.gangMember.isSome = true := Option.isSome_iff_ne_none.2 member
    rw [refuse, gang, kept]
    refine ⟨rfl, fun g mem name => ?_⟩
    obtain ⟨h, -, rfl⟩ := List.mem_map.1 mem
    by_cases e : h.ref = (b.headOf d.ref)
    · rw [if_pos e]
    · rw [if_neg e] at name
      exact absurd name e

variable {b : Blk} {e : Nat} {d : DWord} {rest : List DWord}

/-- An agent that takes no words. -/
theorem wordArrive_out (v : Env) (out : (b.agent e).joined = false ∨ (b.agent e).pwrGood = false ∨ (b.agent e).fenced = true) :
    b.wordArrive v e d = b.refuse e d := by
  rw [wordArrive, if_pos (by rcases out with h | h | h <;> simp [h])]

/-- One that does puts a word that does not pre-empt into its queue. -/
theorem wordArrive_queues (v : Env) (joined : (b.agent e).joined = true) (power : (b.agent e).pwrGood = true)
    (whole : (b.agent e).fenced = false)
    (waits : d.preempting = false ∨ (b.agent e).pre ≠ none ∨ (b.agent e).preemptible = false) :
    b.wordArrive v e d = b.enqueue e d := by
  have no : (d.preempting && (b.agent e).pre.isNone && (b.agent e).preemptible) = false := by
    rcases waits with h | h | h
    · simp [h]
    · simp [Option.isNone_eq_false_iff.2 (Option.isSome_iff_ne_none.2 h)]
    · simp [h]
  rw [wordArrive, if_neg (by simp [joined, power, whole]), no]
  rfl

/-- A pre-empting word has the run of its engine aborted. -/
theorem wordArrive_preempts (v : Env) {r : Run} (joined : (b.agent e).joined = true) (power : (b.agent e).pwrGood = true)
    (whole : (b.agent e).fenced = false) (preempts : d.preempting = true) (free : (b.agent e).pre = none)
    (may : (b.agent e).preemptible = true) (run : (b.agent e).run = some r) (quiet : (b.agent e).abort = none) :
    b.wordArrive v e d = (b.modAgent e fun a => { a with pre := some d }).assertAbort e .preempt := by
  rw [wordArrive, if_neg (by simp [joined, power, whole]), if_pos (by simp [preempts, free, may])]
  simp [run, quiet]

/-- Abort rises on a port on which it is low. -/
theorem assertAbort_quiet (quiet : (b.agent e).abort = none) (cause : AbortCause) :
    b.assertAbort e cause = (b.emit (.abort e)).modAgent e fun a => { a with abort := some cause } := by
  simp [assertAbort, quiet]

/-- The oldest word on its way is off it. -/
def takeWord (e : Nat) (rest : List DWord) (b : Blk) : Blk := b.modAgent e fun a => { a with inWords := rest }

theorem agent_takeWord (e : Nat) (rest : List DWord) (b : Blk) :
    (b.takeWord e rest).agent e = { b.agent e with inWords := rest } := agent_modAgent_same b e _

end Blk

theorem exec_dispatchWordArrive {s : State} {e : Nat} {d : DWord} {rest : List DWord} (known : e < s.aon.grade.engines)
    (words : (s.blk.agent e).inWords = d :: rest) :
    exec (.dispatchWordArrive e) s = .next { s with blk := (s.blk.takeWord e rest).wordArrive s.env e d } := by
  simp only [exec, execDispatchWordArrive]
  rw [atEngine_acts _ known, words]
  rfl

/-- Settles O24: the arrival by `Blk.wordArrive_queues`, `Blk.wordArrive_preempts` and `Blk.wordArrive_out`, the refusal by
`Blk.refuse_leaves`. -/
theorem dispatchWordQueuesOrReturns : Obligations.DispatchWordQueuesOrReturns := by
  refine ⟨fun s e d rest known words joined power whole room waits => ?_,
    fun s e d rest r known words joined power whole preempts free may run quiet => ?_, fun s e d rest known words cannot => ?_⟩
  · refine ⟨_, exec_dispatchWordArrive known words, ⟨rfl, rfl, rfl⟩, ?_⟩
    have agent := Blk.agent_takeWord e rest s.blk
    have queued : (s.blk.takeWord e rest).wordArrive s.env e d =
        s.blk.modAgent e fun a => { a with inWords := rest, queue := a.queue ++ [d] } := by
      rw [Blk.wordArrive_queues s.env (by rw [agent]; exact joined) (by rw [agent]; exact power)
        (by rw [agent]; exact whole) (by rw [agent]; exact waits), Blk.enqueue, if_pos (by rw [agent]; exact room)]
      exact Blk.modAgent_modAgent ..
    rw [queued]
    exact ⟨Blk.agent_modAgent_same .., Blk.otherAgents_modAgent _ _ _, rfl⟩
  · refine ⟨_, exec_dispatchWordArrive known words, ⟨rfl, rfl, rfl⟩, ?_⟩
    have agent := Blk.agent_takeWord e rest s.blk
    have aborts : (s.blk.takeWord e rest).wordArrive s.env e d = (s.blk.modAgent e fun a =>
        { a with inWords := rest, pre := some d, abort := some .preempt }).emit (.abort e) := by
      rw [Blk.wordArrive_preempts s.env (by rw [agent]; exact joined) (by rw [agent]; exact power)
        (by rw [agent]; exact whole) preempts (by rw [agent]; exact free) (by rw [agent]; exact may)
        (by rw [agent]; exact run) (by rw [agent]; exact quiet), Blk.takeWord, Blk.modAgent_modAgent,
        Blk.assertAbort_quiet (by rw [Blk.agent_modAgent_same]; exact quiet), Blk.modAgent_emit, Blk.modAgent_modAgent]
    rw [aborts]
    exact ⟨(Blk.agent_emit ..).trans (Blk.agent_modAgent_same ..), rfl,
      (Blk.otherAgents_modAgent s.blk e _).emit _, rfl⟩
  · refine ⟨_, exec_dispatchWordArrive known words, ⟨rfl, rfl, rfl⟩, ?_⟩
    have agent := Blk.agent_takeWord e rest s.blk
    have refused : (s.blk.takeWord e rest).wordArrive s.env e d = (s.blk.takeWord e rest).refuse e d := by
      by_cases out : (s.blk.agent e).joined = false ∨ (s.blk.agent e).pwrGood = false ∨ (s.blk.agent e).fenced = true
      · exact Blk.wordArrive_out s.env (by rw [agent]; exact out)
      · simp only [not_or, Bool.not_eq_false, Bool.not_eq_true] at out
        obtain ⟨full, waits⟩ := ((cannot.resolve_left (by simp [out.1])).resolve_left (by simp [out.2.1])).resolve_left
          (by simp [out.2.2])
        rw [Blk.wordArrive_queues s.env (by rw [agent]; exact out.1) (by rw [agent]; exact out.2.1)
          (by rw [agent]; exact out.2.2) (by rw [agent]; exact waits), Blk.enqueue,
          if_neg (by rw [agent]; exact Nat.not_lt.2 full)]
    obtain ⟨count, single, member, agents, frame⟩ := (s.blk.takeWord e rest).refuse_leaves e d
    rw [refused]
    refine ⟨?_, fun k other => ?_, count, single, member, ?_⟩
    · exact (Blk.agent_congr agents e).trans agent
    · exact (Blk.agent_congr agents k).trans (Blk.otherAgents_modAgent _ _ _ _ other)
    · rw [frame]
      rfl

/-! ### Presenting and taking a word (R113, R217, R266, R344) -/

theorem Blk.presentAt_offer {b : Blk} {e : Nat} {d : DWord} (v : Env) (moving : b.frozen = false)
    (offer : (b.agent e).offer = some d) :
    b.presentAt v e = (b.modAgent e fun a => { a with present := some d, presentEdge := v.n }).emit (.present e d.word) := by
  simp [presentAt, moving, offer]

/-- An agent after its word is taken. -/
def Agent.taken (d : DWord) (a : Agent) : Agent :=
  if a.pre == some d then { a with present := none, pre := none }
  else { a with present := none, queue := a.queue.drop 1 }

/-- What is drained of a committed task leaves all of an agent but the commitment. -/
theorem Agent.foldl_drained (l : List TaskRef) {a : Agent} {r : Run} (run : a.run = some r) :
    ∃ c m, l.foldl Agent.drained a = { a with run := some { r with committed := c }, committed := m } := by
  have one (a : Agent) (r : Run) (run : a.run = some r) (t : TaskRef) :
      ∃ c m, a.drained t = { a with run := some { r with committed := c }, committed := m } := by
    unfold Agent.drained
    split
    · exact ⟨r.committed, a.committed, by rw [← run]⟩
    · dsimp only
      have runs : ∃ c, (a.run.map fun r => if r.ref = t then { r with committed := true } else r) =
          some { r with committed := c } := by
        rw [run, Option.map_some]
        split
        · exact ⟨true, rfl⟩
        · exact ⟨r.committed, rfl⟩
      obtain ⟨c, runs⟩ := runs
      rw [runs]
      split <;> exact ⟨c, _, rfl⟩
  induction l generalizing a r with
  | nil => exact ⟨r.committed, a.committed, by rw [← run]; rfl⟩
  | cons t l ih =>
    obtain ⟨c, m, first⟩ := one a r run t
    obtain ⟨c', m', rest⟩ := ih (a := { a with run := some { r with committed := c }, committed := m }) rfl
    exact ⟨c', m', by rw [List.foldl_cons, first, rest]⟩

/-- The run of a word that starts. -/
def newRun (v : Env) (since tile : Nat) (d : DWord) : Run :=
  { dw := d, tile := tile, shadow := d.shadow, startEdge := since, watch := v.watchpoints d.ref.ctx }

/-- A run that starts: local objects note their values, and nothing else changes but what is committed. -/
theorem Blk.startRun_agent (v : Env) (since e tile : Nat) (d : DWord) (b : Blk) : ∃ c m,
    (b.startRun v since e tile d).agent e = { (b.agent e).startLocals with
      run := some { newRun v since tile d with committed := c }, committed := m } := by
  obtain ⟨c, m, drained⟩ := Agent.foldl_drained (b.agent e).committed
    (a := { (b.agent e).startLocals with run := some (newRun v since tile d) }) rfl
  exact ⟨c, m, (agent_modAgent_same ..).trans drained⟩

theorem Agent.tget_startLocals {a : Agent} {i : Nat} {x : SyncObj} (h : tget a.locals i = some x) :
    tget a.startLocals.locals i = some { x with touched := false, start := x.value } := by
  show tget (a.locals.map _) i = _
  revert h
  induction a.locals with
  | nil => exact nofun
  | cons p l ih =>
    rw [List.map_cons, tget, tget]
    by_cases e : p.1 = i
    · rw [if_pos e, if_pos e]
      rintro ⟨⟩
      rfl
    · rw [if_neg e, if_neg e]
      exact ih

theorem exec_engineTakeDispatch_run {s : State} {e : Nat} {d : DWord} (known : e < s.aon.grade.engines)
    (present : (s.blk.agent e).present = some d) (runs : d.kind ≠ .list ∨ d.shadow = true) :
    exec (.engineTakeDispatch e) s = .next { s with
      blk := (s.blk.modAgent e (Agent.taken d)).startRun s.env (s.blk.agent e).presentEdge e (d.tile.getD d.tileField) d } := by
  have edge : ((s.blk.modAgent e (Agent.taken d)).agent e).presentEdge = (s.blk.agent e).presentEdge := by
    rw [Blk.agent_modAgent_same]
    unfold Agent.taken
    split <;> rfl
  simp only [exec, execEngineTakeDispatch]
  rw [atEngine_acts _ known, present]
  dsimp only
  rw [if_neg (by rcases runs with h | h <;> simp [h])]
  exact congrArg (fun n => Host.Outcome.next { s with
    blk := (s.blk.modAgent e (Agent.taken d)).startRun s.env n e (d.tile.getD d.tileField) d }) edge

theorem exec_engineTakeDispatch_list {s : State} {e : Nat} {d : DWord} (known : e < s.aon.grade.engines)
    (present : (s.blk.agent e).present = some d) (list : d.kind = .list) (direct : d.shadow = false) :
    exec (.engineTakeDispatch e) s = .next { s with blk := s.blk.modAgent e fun a => { Agent.taken d a with
      listWord := some d, fedFirst := false, advance := none, pull := .none, pullEmpty := false } } := by
  simp only [exec, execEngineTakeDispatch]
  rw [atEngine_acts _ known, present]
  dsimp only
  rw [if_pos (by simp [list, direct]), Blk.modAgent_modAgent]
  rfl

/-- Settles O25: `Blk.presentAt_offer`, and `Blk.startRun_agent` for the run that begins. -/
theorem presentedWordBecomesRun : Obligations.PresentedWordBecomesRun := by
  refine ⟨fun s e d known moving offer => ?_, fun s e d known present runs => ?_,
    fun s e d known present list direct => ?_⟩
  · refine ⟨_, atEngine_acts (fun v b => b.presentAt v e) known, ⟨rfl, rfl, rfl⟩, ?_⟩
    rw [Blk.presentAt_offer s.env moving offer]
    exact ⟨(Blk.agent_emit ..).trans (Blk.agent_modAgent_same ..), (Blk.otherAgents_modAgent s.blk e _).emit _, rfl, rfl⟩
  · refine ⟨_, exec_engineTakeDispatch_run known present runs, ⟨rfl, rfl, rfl⟩, ?_⟩
    obtain ⟨c, m, agent⟩ := (s.blk.modAgent e (Agent.taken d)).startRun_agent s.env (s.blk.agent e).presentEdge e
      (d.tile.getD d.tileField) d
    rw [Blk.agent_modAgent_same] at agent
    have locals : ((s.blk.agent e).taken d).locals = (s.blk.agent e).locals := by
      unfold Agent.taken
      split <;> rfl
    dsimp only
    rw [agent]
    refine ⟨?_, fun other => ?_, fun own => ?_, ⟨_, rfl, rfl, rfl, rfl, rfl, rfl, rfl⟩, fun i x h => ?_, ?_, fun k other => ?_, ?_⟩
    · unfold Agent.taken
      split <;> rfl
    · rw [Agent.taken, if_neg (by simpa using other)]
      exact ⟨rfl, rfl⟩
    · rw [Agent.taken, if_pos (by simpa using own)]
      exact ⟨rfl, rfl⟩
    · exact Agent.tget_startLocals (a := (s.blk.agent e).taken d) (by rw [locals]; exact h)
    · unfold Agent.taken
      split <;> rfl
    · exact (Blk.agent_modAgent_other _ _ other).trans (Blk.agent_modAgent_other _ _ other)
    · rfl
  · refine ⟨_, exec_engineTakeDispatch_list known present list direct, ⟨rfl, rfl, rfl⟩, ?_, Blk.otherAgents_modAgent _ _ _, rfl⟩
    refine (Blk.agent_modAgent_same ..).trans ?_
    unfold Agent.taken
    by_cases own : (s.blk.agent e).pre = some d <;> simp [own]

end Sys2Proof.Machine
end

section
/-!
# Completions, abort acknowledgements and abort messages (R62, R64, R102, R113, R115, R122, R202): settles O26 to O28
-/
namespace Sys2Proof.Machine

/-- A command of an engine that acts while the data plane works. -/
theorem atEngine_moves {s : State} {e : Nat} (f : Env → Blk → Blk) (known : e < s.aon.grade.engines)
    (moving : s.blk.frozen = false) :
    atEngine s e (fun v b => if b.frozen then b else f v b) = .next { s with blk := f s.env s.blk } := by
  rw [atEngine_acts _ known, moving]
  rfl

theorem OtherAgents.congr {e : Nat} {b c d : Blk} (h : OtherAgents e b c) (same : d.agents = c.agents) : OtherAgents e b d :=
  fun k other => (Blk.agent_congr same k).trans (h k other)

namespace Blk

variable {b : Blk} {e : Nat}

/-! ### The end of a run (R113, R265) -/

/-- The completion word of a run, with its status (R16). -/
def cplOf (e : Nat) (r : Run) (word : BitVec 128) : Cpl :=
  { ref := r.ref, engine := e, word := withStatus word (completionStatus (cplStatus word) r.status), rsig := r.rsig
    census := r.census, close := r.close, gang := r.dw.kind == .gang, shadow := r.dw.shadow }

/-- A change of an agent is what it makes of that agent. -/
theorem modAgent_congr {f g : Agent → Agent} (same : f (b.agent e) = g (b.agent e)) : b.modAgent e f = b.modAgent e g := by
  have same : f (tgetD {} b.agents e) = g (tgetD {} b.agents e) := same
  rw [modAgent, modAgent, tmod, tmod, same]

@[simp] theorem agent_modReach (b : Blk) (r : Nat) (f : Reach → Reach) (e : Nat) : (b.modReach r f).agent e = b.agent e := rfl

/-- Where no reply waits for the run's end, none is sent with it. -/
theorem flushLate_none (none : (b.agent e).lateReplies = []) : b.flushLate e = b.modAgent e id := by
  unfold flushLate
  refine modAgent_congr ?_
  simp only [none, List.filter_nil, List.append_nil]
  rw [← none]
  rfl

theorem nextTile_none (v : Env) (none : (b.agent e).listWord = none) : b.nextTile v e = b := by
  simp [nextTile, none]

theorem endListHold_none (none : (b.agent e).listWord = none) : b.endListHold e = b := by
  simp [endListHold, none]

/-- A run that completes, of an engine that is not asked to abort it and parks nothing. -/
theorem engineCompletes_sends (v : Env) {r : Run} (direct : r.parks = false) (moving : b.frozen = false)
    (quiet : (b.agent e).abort = none) (single : (b.agent e).listWord = none) (late : (b.agent e).lateReplies = [])
    (word : BitVec 128) : b.engineCompletes v e r word =
      b.modAgent e fun a => { a with run := none, outCpl := a.outCpl ++ [cplOf e r word] } := by
  have unstopped : b.db.stopped = false := by
    rw [frozen, Bool.or_eq_false_iff] at moving
    exact moving.1
  have finish (word : BitVec 128) : b.finishRun v e r word = (b.modAgent e fun a => { a with run := none }).sendCompletion e r word := by
    simp [finishRun, direct, unstopped]
  unfold engineCompletes
  rw [quiet]
  dsimp only
  rw [finish, sendCompletion, modAgent_modAgent, nextTile_none v (by simp [single]), flushLate_none (by simp [late]),
    modAgent_modAgent]
  rfl

end Blk

theorem exec_engineCompletion {s : State} {e : Nat} {r : Run} (at_ : RunsAt s e r) (word : BitVec 128) :
    exec (.engineCompletion e word) s = .next { s with blk := s.blk.engineCompletes s.env e r word } := by
  obtain ⟨engine, moving, run, active, nowait, nostall⟩ := at_
  rw [Blk.frozen, Bool.or_eq_false_iff] at moving
  simp only [exec, execEngineCompletion]
  rw [if_neg (by omega), run]
  dsimp only
  rw [if_neg (by simp [active, nowait]), if_neg (by simp [nostall, moving.1]), onBlk, if_neg (by simpa using moving.2)]

/-! ### A word lands (R102, R202) -/

namespace Blk

variable {b : Blk} {e : Nat} {c : Cpl} {rest : List Cpl}

/-- The oldest completion word that an agent has sent is off it. -/
def takeCpl (e : Nat) (rest : List Cpl) (b : Blk) : Blk :=
  b.modAgent e fun a => { a with outCpl := rest, landDue := a.landDue - 1 }

theorem agent_takeCpl (e : Nat) (rest : List Cpl) (b : Blk) :
    (b.takeCpl e rest).agent e = { b.agent e with outCpl := rest, landDue := (b.agent e).landDue - 1 } :=
  agent_modAgent_same b e _

theorem otherAgents_takeCpl (e : Nat) (rest : List Cpl) (b : Blk) : OtherAgents e b (b.takeCpl e rest) :=
  otherAgents_modAgent b e _

theorem landNext_of_head (words : (b.agent e).outCpl = c :: rest) : b.landNext e = (b.takeCpl e rest).landWord c := by
  simp only [landNext, words]
  rfl

/-- A word of a launch that goes on waits at its reach. -/
theorem landWord_waits (live : b.torn (b.headOf c.ref).ctx = false) (now : b.isLate (b.headOf c.ref).ctx (cplEpoch c.word) = false) :
    b.landWord c = b.modReach (b.headOf c.ref).reach fun rc => { rc with landed := rc.landed ++ [.word c] } := by
  simp [landWord, live, now]

/-- One of a launch that is over is discarded and counted. -/
theorem landWord_late (live : b.torn (b.headOf c.ref).ctx = false) (late : b.isLate (b.headOf c.ref).ctx (cplEpoch c.word) = true) :
    b.landWord c = b.bump .lateCompletion := by
  simp [landWord, live, late]

end Blk

/-- Settles O26: `Blk.engineCompletes_sends`, `Blk.landWord_waits` and `Blk.landWord_late`. -/
theorem completionReachesItsReach : Obligations.CompletionReachesItsReach := by
  have lands {s : State} {e : Nat} {c : Cpl} {rest : List Cpl} (known : e < s.aon.grade.engines)
      (moving : s.blk.frozen = false) (words : (s.blk.agent e).outCpl = c :: rest) :
      exec (.completionLand e) s = .next { s with blk := (s.blk.takeCpl e rest).landWord c } := by
    rw [← Blk.landNext_of_head words]
    exact atEngine_moves (fun _ b => b.landNext e) known moving
  refine ⟨fun s e r word at_ direct quiet single late => ?_, fun s e c rest known moving words live now => ?_,
    fun s e c rest known moving words live late => ?_⟩
  · refine ⟨_, exec_engineCompletion at_ word, ⟨rfl, rfl, rfl⟩, ?_⟩
    rw [Blk.engineCompletes_sends s.env direct at_.moving quiet single late]
    exact ⟨⟨Blk.cplOf e r word, Blk.agent_modAgent_same .., rfl, rfl, rfl, rfl⟩, Blk.otherAgents_modAgent _ _ _, rfl⟩
  · refine ⟨_, lands known moving words, ⟨rfl, rfl, rfl⟩, ?_⟩
    rw [Blk.landWord_waits (b := s.blk.takeCpl e rest) live now]
    exact ⟨(Blk.agent_modReach ..).trans (Blk.agent_takeCpl ..),
      (Blk.otherAgents_takeCpl e rest s.blk).congr rfl, Blk.reach_modReach_same ..,
      fun k other => Blk.reach_modReach_other (s.blk.takeCpl e rest) _ other, rfl⟩
  · refine ⟨_, lands known moving words, ⟨rfl, rfl, rfl⟩, ?_⟩
    rw [Blk.landWord_late (b := s.blk.takeCpl e rest) live late]
    have counted : Blk.Within [.counters] (s.blk.takeCpl e rest) ((s.blk.takeCpl e rest).bump .lateCompletion) := by simp
    have agents := counted .agents (by simp)
    refine ⟨?_, fun k other => (Blk.agent_congr agents k).trans (Blk.otherAgents_takeCpl e rest s.blk k other),
      counted .reaches (by simp), Blk.ctr_bump_same .., ?_⟩
    · rw [Blk.agent_congr agents e]
      exact congrArg Agent.outCpl (Blk.agent_takeCpl ..)
    · rw [counted.eq]
      rfl

/-! ### The abort acknowledgement (R62, R64, R122, R217) -/

/-- An agent without the items of a task. -/
def Agent.discards (t : TaskRef) (a : Agent) : Agent :=
  { a with
    items := a.items.filter (fun i => i.1 != t), ended := a.ended.filter (fun r => r.ref != t)
    committed := a.committed.filter (· != t), ackDue := if a.ackDue = some t then none else a.ackDue
    stalled := if (a.stalled.map (·.1)) = some t then none else a.stalled }

/-- An agent without its run, of task `t`: its items are gone and its local objects restored. -/
def Agent.dropsRun (t : TaskRef) (a : Agent) : Agent :=
  { (a.discards t).restoreLocals with run := none, pull := if a.pull = .chunk then .none else a.pull }

/-- An agent whose run is aborted on request, and the reply of it. -/
def Agent.aborted (t : TaskRef) (head : TaskRef) (edge : Nat) (a : Agent) : Agent :=
  { a.dropsRun t with ackAt := some edge, abort := none, outReplies := a.outReplies ++ [head] }

theorem Agent.aborted_lateReplies (t head : TaskRef) (edge : Nat) (a : Agent) :
    (a.aborted t head edge).lateReplies = a.lateReplies := (rfl)

theorem Agent.aborted_pre (t head : TaskRef) (edge : Nat) (a : Agent) : (a.aborted t head edge).pre = a.pre := (rfl)

namespace Blk

variable {b : Blk} {e : Nat}

/-- The bytes that an agent holds of a task. -/
def heldBytes (b : Blk) (e : Nat) (t : TaskRef) : Nat :=
  (((b.agent e).items.filter (fun i => i.1 == t)).map (fun i => itemBytes i.2)).foldl (· + ·) 0

theorem discardItems_eq (b : Blk) (e : Nat) (t : TaskRef) :
    b.discardItems e t false = (b.modAgent e (Agent.discards t)).bump .heldBytesDiscarded e (b.heldBytes e t) := by
  have : (b.modAgent e (Agent.discards t)) = b.modAgent e fun a => { a with
      items := (b.agent e).items.filter (fun i => i.1 != t), ended := a.ended.filter (fun r => r.ref != t)
      committed := a.committed.filter (· != t), ackDue := if a.ackDue = some t then none else a.ackDue
      stalled := if (a.stalled.map (·.1)) = some t then none else a.stalled } := modAgent_congr rfl
  rw [this]
  rfl

theorem modAgent_bump (b : Blk) (e : Nat) (f : Agent → Agent) (c : Ctr) (i n : Nat) :
    (b.bump c i n).modAgent e f = (b.modAgent e f).bump c i n := by
  unfold bump
  split <;> rfl

/-- A run that does not wait is dropped. -/
theorem dropRun_eq {r : Run} (run : (b.agent e).run = some r) (nowait : (b.agent e).wait = none) :
    b.dropRun e false = (b.modAgent e (Agent.dropsRun r.ref)).bump .heldBytesDiscarded e (b.heldBytes e r.ref) := by
  have quiet : b.cancelWait e = b := by simp [cancelWait, nowait]
  simp only [dropRun, run, quiet]
  rw [discardItems_eq, modAgent_bump, modAgent_modAgent]
  rfl

/-- An abort by request is acknowledged by an engine that runs no list task. -/
theorem abortAcked_request {r : Run} (run : (b.agent e).run = some r) (nowait : (b.agent e).wait = none)
    (single : (b.agent e).listWord = none) (present : (b.agent e).present = none) :
    b.abortAcked e .request = ((b.runAborted (b.headOf r.ref)).modAgent e fun a =>
      { a.dropsRun r.ref with abort := none, outReplies := a.outReplies ++ [b.headOf r.ref] }).bump .heldBytesDiscarded e
        (b.heldBytes e r.ref) := by
  let c := (b.modAgent e fun a => { a with abort := none }).runAborted (b.headOf r.ref)
  have agent : c.agent e = { b.agent e with abort := none } := agent_modAgent_same b e fun a => { a with abort := none }
  have dropped : c.dropRun e false = (c.modAgent e (Agent.dropsRun r.ref)).bump .heldBytesDiscarded e (b.heldBytes e r.ref) := by
    rw [dropRun_eq (by rw [agent]; exact run) (by rw [agent]; exact nowait)]
    simp only [heldBytes, agent]
  have agent' : (c.dropRun e false).agent e = { (b.agent e).dropsRun r.ref with abort := none } := by
    rw [dropped, agent_congr (bump_agents ..), agent_modAgent_same, agent]
    rfl
  have ends : (c.dropRun e false).endListHold e = c.dropRun e false := endListHold_none (by rw [agent']; exact single)
  have offered : (c.dropRun e false).modAgent e Agent.dropOffered = (c.dropRun e false).modAgent e id :=
    modAgent_congr (by
      rw [Agent.dropOffered, agent']
      simp only [Agent.dropsRun, Agent.discards, Agent.restoreLocals, present]
      rfl)
  have e1 : b.abortAcked e .request = (((c.dropRun e false).endListHold e).modAgent e Agent.dropOffered).modAgent e fun a =>
      { a with outReplies := a.outReplies ++ [b.headOf r.ref] } := by
    simp only [abortAcked, run]
    rfl
  rw [e1, ends, offered, modAgent_modAgent, dropped, modAgent_bump, modAgent_modAgent]
  refine congrArg (fun d : Blk => d.bump .heldBytesDiscarded e (b.heldBytes e r.ref)) ?_
  exact modAgent_modAgent (b.runAborted (b.headOf r.ref)) e (fun a => { a with abort := none }) _

end Blk

/-- The pulse of an acknowledgement is noted. -/
def Blk.noteAck (e n : Nat) (b : Blk) : Blk := b.modAgent e fun a => { a with ackAt := some n }

theorem Blk.agent_noteAck (e n : Nat) (b : Blk) : (b.noteAck e n).agent e = { b.agent e with ackAt := some n } :=
  agent_modAgent_same b e _

theorem Blk.abortedWith_noteAck (b : Blk) (e n : Nat) (t : TaskRef) (u : TaskRef) :
    ((b.noteAck e n).runAborted t).modAgent e (fun a =>
      { a.dropsRun u with abort := none, outReplies := a.outReplies ++ [t] }) =
    (b.runAborted t).modAgent e (Agent.aborted u t n) :=
  modAgent_modAgent (b.runAborted t) e (fun a => { a with ackAt := some n }) _

/-- A pre-empting word that waits is presented ahead of the queue. -/
def Blk.presentsPre (v : Env) (e : Nat) (b : Blk) : Blk := if (b.agent e).pre.isSome then b.presentAt v e else b

theorem exec_engineAbortAck_of {s : State} {e : Nat} {cause : AbortCause} (known : e < s.aon.grade.engines)
    (asked : (s.blk.agent e).abort = some cause) : exec (.engineAbortAck e) s = .next { s with
      blk := (((s.blk.noteAck e s.aon.pulse).abortAcked e cause).flushLate e).presentsPre s.env e } := by
  simp only [exec, execEngineAbortAck]
  rw [atEngine_acts _ known, asked]
  rfl

/-- The acknowledgement of an abort by request, of an engine that runs no list task. -/
theorem exec_engineAbortAck {s : State} {e : Nat} {r : Run} (known : e < s.aon.grade.engines)
    (run : (s.blk.agent e).run = some r)
    (asked : (s.blk.agent e).abort = some .request) (nowait : (s.blk.agent e).wait = none)
    (single : (s.blk.agent e).listWord = none) (late : (s.blk.agent e).lateReplies = []) (pre : (s.blk.agent e).pre = none)
    (present : (s.blk.agent e).present = none) :
    exec (.engineAbortAck e) s = .next { s with
      blk := ((s.blk.runAborted (s.blk.headOf r.ref)).modAgent e
        (Agent.aborted r.ref (s.blk.headOf r.ref) s.aon.pulse)).bump .heldBytesDiscarded e (s.blk.heldBytes e r.ref) } := by
  have agent := Blk.agent_noteAck e s.aon.pulse s.blk
  have acked := Blk.abortAcked_request (b := s.blk.noteAck e s.aon.pulse) (e := e) (r := r) (by rw [agent]; exact run)
    (by rw [agent]; exact nowait) (by rw [agent]; exact single) (by rw [agent]; exact present)
  have bytes : (s.blk.noteAck e s.aon.pulse).heldBytes e r.ref = s.blk.heldBytes e r.ref := by simp only [Blk.heldBytes, agent]
  rw [bytes, Blk.abortedWith_noteAck] at acked
  have last : ((s.blk.noteAck e s.aon.pulse).abortAcked e .request).agent e =
      (s.blk.agent e).aborted r.ref (s.blk.headOf r.ref) s.aon.pulse := by
    rw [acked, Blk.agent_congr (Blk.bump_agents ..), Blk.agent_modAgent_same]
    rfl
  have flushed : ((s.blk.noteAck e s.aon.pulse).abortAcked e .request).flushLate e =
      (s.blk.noteAck e s.aon.pulse).abortAcked e .request := by
    have none : (((s.blk.noteAck e s.aon.pulse).abortAcked e .request).agent e).lateReplies = [] := by
      rw [last, Agent.aborted_lateReplies, late]
    rw [Blk.flushLate_none none, acked, Blk.modAgent_bump, Blk.modAgent_modAgent]
    rfl
  have quiet : (((s.blk.noteAck e s.aon.pulse).abortAcked e .request).agent e).pre = none := by
    rw [last, Agent.aborted_pre, pre]
  rw [exec_engineAbortAck_of known asked, Blk.presentsPre, flushed, quiet, acked]
  rfl

/-- A change of some member of a list that keeps what is read of each. -/
theorem map_lreplace {ν α : Type} (g : ν → α) {f : ν → ν} (keep : ∀ x, g (f x) = g x) (p : ν → Bool) (l : List ν) :
    (lreplace p f l).map g = l.map g := by
  refine List.ext_getElem? fun i => ?_
  rw [lreplace, List.getElem?_map, List.getElem?_map, List.getElem?_modify]
  cases l[i]? with
  | none => simp
  | some x =>
    simp only [Option.map_some]
    split
    · exact congrArg some (keep x)
    · rfl

theorem Agent.tget_restoreLocals {a : Agent} {i : Nat} {x : SyncObj} (h : tget a.locals i = some x) :
    tget a.restoreLocals.locals i =
      some (if x.touched then { x with value := x.start, sat := false, touched := false } else x) := by
  show tget (a.locals.map _) i = _
  revert h
  induction a.locals with
  | nil => exact nofun
  | cons p l ih =>
    have key (q : Nat × SyncObj) (r : SyncObj) : (if q.2.touched then (q.1, r) else q).1 = q.1 := by split <;> rfl
    rw [List.map_cons, tget, tget]
    by_cases e : p.1 = i
    · rw [if_pos e, if_pos ((key ..).trans e)]
      rintro ⟨⟩
      split <;> rfl
    · rw [if_neg e, if_neg fun h => e ((key ..).symm.trans h)]
      exact ih

/-- What an aborted agent keeps of its run's time. -/
theorem Agent.aborted_leaves (t head : TaskRef) (edge : Nat) (a : Agent) :
    (a.aborted t head edge).run = none ∧ (a.aborted t head edge).abort = none ∧
      (a.aborted t head edge).outReplies = a.outReplies ++ [head] ∧ (a.aborted t head edge).outCpl = a.outCpl ∧
      ∀ i x, tget a.locals i = some x → tget (a.aborted t head edge).locals i =
        some (if x.touched then { x with value := x.start, sat := false, touched := false } else x) :=
  ⟨rfl, rfl, rfl, rfl, fun _ _ h => Agent.tget_restoreLocals (a := a.discards t) h⟩

/-- What the record of an abort loses nothing of. -/
theorem Blk.reach_runAborted (b : Blk) (t : TaskRef) (k : Nat) :
    let rc := (b.runAborted t).reach k
    rc = { b.reach k with abortRecs := rc.abortRecs } ∧
      rc.abortRecs.map AbortRec.ref = (b.reach k).abortRecs.map AbortRec.ref ∧
      rc.abortRecs.map AbortRec.waiting = (b.reach k).abortRecs.map AbortRec.waiting := by
  unfold runAborted
  by_cases there : k = t.reach
  · subst there
    rw [reach_modReach_same]
    exact ⟨rfl, map_lreplace AbortRec.ref (by intro _; rfl) .., map_lreplace AbortRec.waiting (by intro _; rfl) ..⟩
  · rw [reach_modReach_other _ _ there]
    exact ⟨rfl, rfl, rfl⟩

/-- The block after an abort by request is acknowledged. -/
def Blk.afterAbort (b : Blk) (e : Nat) (u t : TaskRef) (edge n : Nat) : Blk :=
  ((b.runAborted t).modAgent e (Agent.aborted u t edge)).bump .heldBytesDiscarded e n

theorem Blk.within_afterAbort (b : Blk) (e : Nat) (u t : TaskRef) (edge n : Nat) :
    Within [.reaches, .agents, .counters] b (b.afterAbort e u t edge n) := by simp [afterAbort]

theorem Blk.agent_afterAbort (b : Blk) (e : Nat) (u t : TaskRef) (edge n : Nat) :
    (b.afterAbort e u t edge n).agent e = (b.agent e).aborted u t edge :=
  (agent_congr (bump_agents ..) e).trans (agent_modAgent_same ..)

theorem Blk.otherAgents_afterAbort (b : Blk) (e : Nat) (u t : TaskRef) (edge n : Nat) :
    OtherAgents e b (b.afterAbort e u t edge n) := fun k other =>
  (agent_congr (bump_agents ..) k).trans (agent_modAgent_other _ _ other)

theorem Blk.reach_afterAbort (b : Blk) (e : Nat) (u t : TaskRef) (edge n : Nat) (k : Nat) :
    (b.afterAbort e u t edge n).reach k = (b.runAborted t).reach k := by
  rw [afterAbort, reach_congr (bump_reaches ..), reach_congr (modAgent_reaches ..)]

/-- Settles O27: `exec_engineAbortAck`, with `Agent.tget_restoreLocals` for the local objects. -/
theorem abortRestoresLocals : Obligations.AbortRestoresLocals := by
  intro s e r known run asked nowait single late pre present
  refine ⟨_, exec_engineAbortAck known run asked nowait single late pre present, ⟨rfl, rfl, rfl⟩, ?_⟩
  generalize s.blk.heldBytes e r.ref = n
  have agent := s.blk.agent_afterAbort e r.ref (s.blk.headOf r.ref) s.aon.pulse n
  have only := s.blk.within_afterAbort e r.ref (s.blk.headOf r.ref) s.aon.pulse n
  have others := s.blk.otherAgents_afterAbort e r.ref (s.blk.headOf r.ref) s.aon.pulse n
  have reaches := s.blk.reach_afterAbort e r.ref (s.blk.headOf r.ref) s.aon.pulse n
  obtain ⟨gone, quiet, replies, words, locals⟩ := Agent.aborted_leaves r.ref (s.blk.headOf r.ref) s.aon.pulse (s.blk.agent e)
  rw [← agent] at gone quiet replies words locals
  refine ⟨gone, quiet, replies, words, locals, only .hb (by simp), others, fun k => ?_, only.eq⟩
  have recs := s.blk.reach_runAborted (s.blk.headOf r.ref) k
  rw [← reaches k] at recs
  exact recs

/-! ### Notices, requests and replies (R115, R122, R202) -/

namespace Blk

variable {b : Blk} {e : Nat}

/-- An agent with no run, word or list of a task gives up what it holds of it, and replies (R122). -/
theorem abortAt_idle (t : TaskRef) (why : AbortWhy) (run : (b.agent e).run = none) (present : (b.agent e).present = none)
    (single : (b.agent e).listWord = none) (committed : (b.agent e).committed = []) :
    let mine (d : DWord) : Bool := b.headOf d.ref == t
    b.abortAt e t why = ((b.modAgent e fun a => { a with
      queue := a.queue.filter fun d => !mine d || a.present == some d
      pre := a.pre.filter fun d => !mine d || a.present == some d }).discardItems e t false).modAgent e fun a =>
        { a with outReplies := a.outReplies ++ [t] } := by
  dsimp only
  simp only [abortAt, agent_modAgent_same, run, present, single, committed]
  simp

/-- The run of a task that is torn down is asked to end. -/
theorem abortAt_teardown {t : TaskRef} {r : Run} (run : (b.agent e).run = some r) (own : b.headOf r.ref = t) :
    let mine (d : DWord) : Bool := b.headOf d.ref == t
    b.abortAt e t .teardown = (b.modAgent e fun a => { a with
      queue := a.queue.filter fun d => !mine d || a.present == some d
      pre := a.pre.filter fun d => !mine d || a.present == some d }).assertAbort e .request := by
  have mine : (b.headOf r.dw.ref == t) = true := by rw [← own]; exact beq_self_eq_true _
  dsimp only
  simp only [abortAt, agent_modAgent_same, run, Option.map_some, Option.getD_some, mine]
  simp

end Blk

namespace Blk

variable {b : Blk} {x : Return}

/-- The oldest notice of an agent is off it. -/
def takeNotice (e : Nat) (rest : List Return) (b : Blk) : Blk := b.modAgent e fun a => { a with outReturns := rest }

/-- A pre-emption notice reaches the reach of its task. -/
def landNotice (x : Return) (b : Blk) : Blk :=
  let t := b.headOf x.ref
  if b.torn t.ctx then b.discard t.reach
  else if b.isLate t.ctx x.epoch then b.bump .lateCompletion
  else b.modReach t.reach fun rc => { rc with returns := rc.returns ++ [x] }

theorem landNotice_late (live : b.torn (b.headOf x.ref).ctx = false) (late : b.isLate (b.headOf x.ref).ctx x.epoch = true) :
    b.landNotice x = b.bump .lateCompletion := by
  simp [landNotice, live, late]

theorem landNotice_waits (live : b.torn (b.headOf x.ref).ctx = false) (now : b.isLate (b.headOf x.ref).ctx x.epoch = false) :
    b.landNotice x = b.modReach (b.headOf x.ref).reach fun rc => { rc with returns := rc.returns ++ [x] } := by
  simp [landNotice, live, now]

end Blk

theorem exec_preemptionNoticeLand {s : State} {e : Nat} {x : Return} {rest : List Return} (known : e < s.aon.grade.engines)
    (moving : s.blk.frozen = false) (notices : (s.blk.agent e).outReturns = x :: rest) :
    exec (.preemptionNoticeLand e) s = .next { s with blk := (s.blk.takeNotice e rest).landNotice x } := by
  simp only [exec, execPreemptionNoticeLand]
  rw [atEngine_acts _ known, notices]
  dsimp only
  rw [if_neg (by simp [moving])]
  rfl

theorem exec_abortRequest {s : State} {e : Nat} {k : TaskRef} {why : AbortWhy} {rest : List (TaskRef × AbortWhy)}
    (known : e < s.aon.grade.engines) (moving : s.blk.frozen = false)
    (requests : (s.blk.agent e).inAborts = (k, why) :: rest) :
    exec (.abortRequest e) s = .next { s with
      blk := (s.blk.modAgent e fun a => { a with inAborts := rest }).abortAt e k why } := by
  simp only [exec, execAbortRequest]
  rw [atEngine_acts _ known, requests]
  dsimp only
  rw [if_neg (by simp [moving])]

theorem exec_abortReplyLand {s : State} {e : Nat} {k : TaskRef} {rest : List TaskRef} (known : e < s.aon.grade.engines)
    (moving : s.blk.frozen = false) (replies : (s.blk.agent e).outReplies = k :: rest) :
    exec (.abortReplyLand e) s = .next { s with
      blk := ((s.blk.modAgent e fun a => { a with outReplies := rest }).landAll e).modReach k.reach fun rc =>
        { rc with repliesIn := rc.repliesIn ++ [(k, e)] } } := by
  simp only [exec, execAbortReplyLand]
  rw [atEngine_acts _ known, replies]
  dsimp only
  rw [if_neg (by simp [moving])]

/-- Completion words that land change no agent, and no replies. -/
theorem Blk.landWord_replies (c : Cpl) (b : Blk) (k : Nat) : ((b.landWord c).reach k).repliesIn = (b.reach k).repliesIn := by
  unfold landWord discard
  dsimp only
  split
  · exact congrArg Reach.repliesIn (reach_congr (bump_reaches ..) k)
  split
  · exact congrArg Reach.repliesIn (reach_congr (bump_reaches ..) k)
  · exact keeps_modReach Reach.repliesIn (by intro _; rfl) ..

/-- An agent whose words have all landed. -/
theorem Blk.landAll_leaves (b : Blk) (e : Nat) :
    (b.landAll e).agents = (b.modAgent e fun a => { a with outCpl := [], landDue := 0 }).agents ∧
      ∀ k, ((b.landAll e).reach k).repliesIn = (b.reach k).repliesIn := by
  have all (cs : List Cpl) (d : Blk) : (d.forEach cs fun c b => b.landWord c).agents = d.agents ∧
      ∀ k, ((d.forEach cs fun c b => b.landWord c).reach k).repliesIn = (d.reach k).repliesIn := by
    induction cs generalizing d with
    | nil => exact ⟨rfl, fun _ => rfl⟩
    | cons c cs ih =>
      obtain ⟨agents, replies⟩ := ih (d.landWord c)
      have one : Within [.reaches, .counters] d (d.landWord c) := by simp
      exact ⟨agents.trans (one .agents (by simp)), fun k => (replies k).trans (landWord_replies c d k)⟩
  exact all _ _

/-- Settles O28: `Blk.abortAt_idle` and `Blk.abortAt_teardown` for the requests, `Blk.landAll_leaves` for the words before
a reply. -/
theorem abortMessagesLand : Obligations.AbortMessagesLand := by
  refine ⟨fun s e x rest known moving notices live late => ?_, fun s e x rest known moving notices live now => ?_,
    fun s e k why rest known moving requests run present single committed => ?_,
    fun s e k rest r known moving requests run own quiet => ?_, fun s e k rest known moving replies => ?_⟩
  · refine ⟨_, exec_preemptionNoticeLand known moving notices, ⟨rfl, rfl, rfl⟩, ?_⟩
    rw [Blk.landNotice_late (b := s.blk.takeNotice e rest) live late]
    have counted : Blk.Within [.counters] (s.blk.takeNotice e rest) ((s.blk.takeNotice e rest).bump .lateCompletion) := by simp
    have agents := counted .agents (by simp)
    exact ⟨(Blk.agent_congr agents e).trans (Blk.agent_modAgent_same ..), (Blk.otherAgents_modAgent s.blk e _).congr agents,
      Blk.ctr_bump_same .., by rw [counted.eq]; rfl⟩
  · refine ⟨_, exec_preemptionNoticeLand known moving notices, ⟨rfl, rfl, rfl⟩, ?_⟩
    rw [Blk.landNotice_waits (b := s.blk.takeNotice e rest) live now]
    exact ⟨(Blk.agent_modReach ..).trans (Blk.agent_modAgent_same ..),
      (Blk.otherAgents_modAgent s.blk e fun a => { a with outReturns := rest }).congr rfl, Blk.reach_modReach_same .., rfl⟩
  · refine ⟨_, exec_abortRequest known moving requests, ⟨rfl, rfl, rfl⟩, ?_⟩
    have agent := Blk.agent_modAgent_same s.blk e fun a => { a with inAborts := rest }
    rw [Blk.abortAt_idle (b := s.blk.modAgent e fun a => { a with inAborts := rest }) k why (by rw [agent]; exact run)
      (by rw [agent]; exact present) (by rw [agent]; exact single) (by rw [agent]; exact committed), Blk.discardItems_eq,
      Blk.modAgent_bump]
    simp only [Blk.modAgent_modAgent]
    generalize Blk.heldBytes _ _ _ = n
    have bumped (f : Agent → Agent) : ((s.blk.modAgent e f).bump .heldBytesDiscarded e n).agent e = f (s.blk.agent e) :=
      (Blk.agent_congr (Blk.bump_agents ..) e).trans (Blk.agent_modAgent_same ..)
    have others (f : Agent → Agent) : OtherAgents e s.blk ((s.blk.modAgent e f).bump .heldBytesDiscarded e n) :=
      (Blk.otherAgents_modAgent s.blk e f).congr (Blk.bump_agents ..)
    have frame (f : Agent → Agent) : Blk.Within [.agents, .counters] s.blk ((s.blk.modAgent e f).bump .heldBytesDiscarded e n) := by
      simp
    refine ⟨?_, ?_, ?_, ?_, others _, (frame _).eq⟩
    · rw [bumped]
      rfl
    · rw [bumped]
      rfl
    · rw [bumped]
      refine List.filter_congr fun d _ => ?_
      rw [present]
      exact Bool.or_false _
    · rw [bumped]
      rfl
  · refine ⟨_, exec_abortRequest known moving requests, ⟨rfl, rfl, rfl⟩, ?_⟩
    rw [Blk.abortAt_teardown (b := s.blk.modAgent e fun a => { a with inAborts := rest })
      (by rw [Blk.agent_modAgent_same]; exact run) own]
    dsimp only
    rw [Blk.assertAbort_quiet (by rw [Blk.agent_modAgent_same, Blk.agent_modAgent_same]; exact quiet), Blk.modAgent_emit]
    simp only [Blk.modAgent_modAgent]
    have agent (f : Agent → Agent) : ((s.blk.modAgent e f).emit (.abort e)).agent e = f (s.blk.agent e) :=
      Blk.agent_modAgent_same ..
    have others (f : Agent → Agent) : OtherAgents e s.blk ((s.blk.modAgent e f).emit (.abort e)) :=
      Blk.otherAgents_modAgent s.blk e f
    refine ⟨?_, ?_, ?_, rfl, others _, rfl⟩
    · rw [agent]
    · rw [agent]
    · rw [agent]
      exact run
  · refine ⟨_, exec_abortReplyLand known moving replies, ⟨rfl, rfl, rfl⟩, ?_⟩
    obtain ⟨agents, replied⟩ := (s.blk.modAgent e fun a => { a with outReplies := rest }).landAll_leaves e
    have agent := Blk.agent_congr agents e
    rw [Blk.modAgent_modAgent] at agents
    refine ⟨?_, ?_, ?_, (Blk.otherAgents_modAgent s.blk e _).congr agents, ?_⟩
    · rw [Blk.agent_modReach, agent, Blk.modAgent_modAgent, Blk.agent_modAgent_same]
    · rw [Blk.agent_modReach, agent, Blk.modAgent_modAgent, Blk.agent_modAgent_same]
    · rw [Blk.reach_modReach_same]
      exact congrArg (· ++ _) (replied k.reach)
    · exact (by simp : Blk.Within [.reaches, .agents, .counters] s.blk
        (((s.blk.modAgent e fun a => { a with outReplies := rest }).landAll e).modReach k.reach fun rc =>
          { rc with repliesIn := rc.repliesIn ++ [(k, e)] })).eq

end Sys2Proof.Machine
end

section
/-!
# Tile pulls (R71, R118): settles O29
-/
namespace Sys2Proof.Machine

/-- Taking a tile changes the list record and the pool of its reach alone. -/
theorem Reach.takeTile_frame {rc rc' : Reach} {t : TaskRef} {n k : Nat} (h : rc.takeTile t n = some (k, rc')) :
    rc' = { rc with listRecs := rc'.listRecs, pool := rc'.pool } := by
  unfold takeTile at h
  dsimp only at h
  split at h
  · cases h
    rfl
  · split at h
    · cases h
      rfl
    · cases h

namespace Blk

/-- A change that leaves the counters leaves each of them. -/
theorem Within.ctr {l : List Part} {b c : Blk} (h : Within l b c) (out : .counters ∉ l) (x : Ctr) (i : Nat) :
    c.ctr x i = b.ctr x i := by
  rw [Blk.ctr, Blk.ctr, show _ = _ from h .counters out]

/-- A change of one reach leaves the others, and so does one of a task. -/
theorem reach_modTask_other {t : TaskRef} {j : Nat} (other : j ≠ t.reach) (b : Blk) (f : Task → Task) :
    (b.modTask t f).reach j = b.reach j := by
  unfold modTask
  split
  · exact reach_modReach_other _ _ other
  · rfl

variable {b : Blk} {e : Nat}

/-- The tile is charged, LAST is written and the pull counted (R71, R109). -/
def tileTaken (e : Nat) (t : TaskRef) (x : Task) (amount : Nat) (rc : Reach) (b : Blk) : Blk :=
  (((b.modReach t.reach fun _ => rc).charge t.reach x.chargeClass amount).setLast t e).bump .tilePull t.reach

/-- A tile goes to the agent that pulled, where the permit and the allowance let it in (R118). -/
theorem answerPull_gives (v : Env) {d : DWord} {x : Task} {k : Nat} {rc : Reach} (list : (b.agent e).listWord = some d)
    (pull : (b.agent e).pull = .tile) (moving : b.frozen = false) (running : b.coreHalted = false)
    (live : b.torn d.ref.ctx = false) (now : b.isLate d.ref.ctx d.epoch = false) (task : b.task? d.ref = some x)
    (state : x.state = .ready ∨ x.state = .dispatched) (dsp : b.dspEn = true) (be : x.be = true → b.beEn = true)
    (charge : b.chargeOk d.ref.reach (if (b.agent e).fedFirst then energyPj x.energy else 0) = true)
    (tile : (b.reach d.ref.reach).takeTile d.ref x.tiles.toNat = some (k, rc)) :
    b.answerPull v e = (b.tileTaken e d.ref x (if (b.agent e).fedFirst then energyPj x.energy else 0) rc).giveTile v e k d := by
  simp only [answerPull, list]
  rw [if_neg (by simp [pull, moving, running]), if_neg (by simp [live]), if_neg (by simp [now]), task]
  dsimp only
  rw [if_neg (by rcases state with h | h <;> simp [h]), if_neg (by cases e : x.be <;> simp [dsp, be, e]), tile]
  dsimp only
  rw [if_neg (by simp [charge])]
  rfl

/-- What the taking of a tile leaves. -/
theorem tileTaken_leaves {t : TaskRef} {n k amount : Nat} {x : Task} {rc : Reach} (task : b.task? t = some x)
    (tile : (b.reach t.reach).takeTile t n = some (k, rc)) :
    let c := b.tileTaken e t x amount rc
    (c.task? t).map Task.last = some (BitVec.ofNat 11 e) ∧ c.ctr .tilePull t.reach = b.ctr .tilePull t.reach + 1 ∧
      (c.reach t.reach).listRecs = rc.listRecs ∧ (c.reach t.reach).pool = rc.pool ∧
      (∀ j, j ≠ t.reach → c.reach j = b.reach j) ∧ Within [.reaches, .blocks, .counters] b c := by
  dsimp only
  let d := (b.modReach t.reach fun _ => rc).charge t.reach x.chargeClass amount
  have frame := Reach.takeTile_frame tile
  have there : (b.modReach t.reach fun _ => rc).reach t.reach = rc := reach_modReach_same ..
  have blocks : (d.reach t.reach).blocks = (b.reach t.reach).blocks :=
    (keeps_modReach Reach.blocks (by intro _; rfl) ..).trans (by rw [there, frame])
  have found : d.task? t = some x := by
    rw [← task, Blk.task?, Blk.task?, Blk.locate, Blk.locate, Reach.find, Reach.find, blocks]
  have reach (j : Nat) : (b.tileTaken e t x amount rc).reach j = (d.setLast t e).reach j :=
    reach_congr (bump_reaches ..) j
  have counted : Within [.counters] (d.setLast t e) (b.tileTaken e t x amount rc) := by simp [tileTaken, d]
  refine ⟨?_, ?_, ?_, ?_, fun j other => ?_, by simp [tileTaken]⟩
  · rw [counted.task? (by simp), setLast, task?_modTask found]
    rfl
  · rw [tileTaken, ctr_bump_same]
    have uncounted : Within [.reaches, .blocks] b (d.setLast t e) := by simp [d]
    rw [show ((b.modReach t.reach fun _ => rc).charge t.reach x.chargeClass amount).setLast t e = d.setLast t e from rfl,
      uncounted.ctr (by simp)]
  · rw [reach]
    exact (keeps_modTask Reach.listRecs (fun _ _ => rfl) ..).trans
      ((keeps_modReach Reach.listRecs (by intro _; rfl) ..).trans (by rw [there]))
  · rw [reach]
    exact (keeps_modTask Reach.pool (fun _ _ => rfl) ..).trans
      ((keeps_modReach Reach.pool (by intro _; rfl) ..).trans (by rw [there]))
  · rw [reach, setLast, reach_modTask_other other]
    exact (reach_modReach_other _ _ other).trans (reach_modReach_other _ _ other)

/-- What an agent that is given a tile leaves: the answer, and the tile runs or is held in advance. -/
theorem giveTile_leaves (v : Env) (b : Blk) (e k : Nat) (d : DWord) (idle : (b.agent e).advance = none) :
    let c := b.giveTile v e k d
    c.out = b.out ++ [.pullAnswer e (BitVec.ofNat 32 k)] ∧
      ((b.agent e).run = none → (c.agent e).run.map Run.tile = some k ∧ (c.agent e).advance = none) ∧
      ((b.agent e).run ≠ none → (c.agent e).run = (b.agent e).run ∧ (c.agent e).advance = some k) ∧
      (c.agent e).pull = .none ∧ (c.agent e).fedFirst = true ∧ OtherAgents e b c ∧ Within [.agents, .out] b c := by
  dsimp only
  let c := (b.emit (.pullAnswer e (BitVec.ofNat 32 k))).modAgent e fun a => { a with pull := .none, fedFirst := true }
  have agent : c.agent e = { b.agent e with pull := .none, fedFirst := true } := agent_modAgent_same b e _
  have others : OtherAgents e b c := otherAgents_modAgent b e _
  have starts : b.giveTile v e k d = if (c.agent e).run.isNone then c.startRun v v.n e k { d with tile := some k }
      else c.modAgent e fun a => { a with advance := some k } := rfl
  cases run : (b.agent e).run with
  | none =>
    have starts : b.giveTile v e k d = c.startRun v v.n e k { d with tile := some k } := by
      rw [starts, agent, run]
      rfl
    obtain ⟨g, m, last⟩ := c.startRun_agent v v.n e k { d with tile := some k }
    rw [starts, last, agent]
    refine ⟨rfl, fun _ => ⟨rfl, idle⟩, fun some => absurd rfl some, rfl, rfl, fun j other => ?_, ?_⟩
    · exact (agent_modAgent_other _ _ other).trans (others j other)
    · exact (by simp [c] : Within [.agents, .out] b (c.startRun v v.n e k { d with tile := some k }))
  | some r =>
    have waits : b.giveTile v e k d = c.modAgent e fun a => { a with advance := some k } := by
      rw [starts, agent, run]
      rfl
    rw [waits, agent_modAgent_same, agent]
    refine ⟨rfl, ?_, fun _ => ⟨run, rfl⟩, rfl, rfl, fun j other => ?_, ?_⟩
    · intro h
      cases h
    · exact (agent_modAgent_other _ _ other).trans (others j other)
    · exact (by simp [c] : Within [.agents, .out] b (c.modAgent e fun a => { a with advance := some k }))

end Blk
/-- What a pull that is answered with tile `k` leaves (R71, R118). -/
structure TileGiven (e k : Nat) (t : TaskRef) (rc : Reach) (b c : Blk) : Prop where
  answer  : c.out = b.out ++ [.pullAnswer e (BitVec.ofNat 32 k)]
  starts  : (b.agent e).run = none → (c.agent e).run.map Run.tile = some k ∧ (c.agent e).advance = none
  held    : (b.agent e).run ≠ none → (c.agent e).run = (b.agent e).run ∧ (c.agent e).advance = some k
  pull    : (c.agent e).pull = .none
  fed     : (c.agent e).fedFirst = true
  others  : OtherAgents e b c
  last    : (c.task? t).map Task.last = some (BitVec.ofNat 11 e)
  count   : c.ctr .tilePull t.reach = b.ctr .tilePull t.reach + 1
  recs    : (c.reach t.reach).listRecs = rc.listRecs
  pool    : (c.reach t.reach).pool = rc.pool
  reaches : ∀ j, j ≠ t.reach → c.reach j = b.reach j
  within  : Blk.Within [.reaches, .blocks, .agents, .counters, .out] b c

/-- The agent's own pull makes no difference to what is left. -/
theorem TileGiven.of_pulled {e k : Nat} {t : TaskRef} {rc : Reach} {b c : Blk}
    (h : TileGiven e k t rc (b.modAgent e fun a => { a with pull := .tile }) c) : TileGiven e k t rc b c := by
  have agent := Blk.agent_modAgent_same b e fun a => { a with pull := .tile }
  obtain ⟨answer, starts, held, pull, fed, others, last, count, recs, pool, reaches, within⟩ := h
  rw [agent] at starts held
  exact ⟨answer, starts, held, pull, fed, fun j other => (others j other).trans (Blk.agent_modAgent_other _ _ other), last,
    count, recs, pool, reaches, .trans (by simp) within⟩

/-- A pull that waits for its tile is answered where the permit and the allowance let it in. -/
theorem tileGiven_answerPull (v : Env) {b : Blk} {e k : Nat} {d : DWord} {x : Task} {rc : Reach}
    (list : (b.agent e).listWord = some d) (idle : (b.agent e).advance = none)
    (pull : (b.agent e).pull = .tile) (moving : b.frozen = false) (running : b.coreHalted = false)
    (live : b.torn d.ref.ctx = false) (now : b.isLate d.ref.ctx d.epoch = false) (task : b.task? d.ref = some x)
    (state : x.state = .ready ∨ x.state = .dispatched) (dsp : b.dspEn = true) (be : x.be = true → b.beEn = true)
    (charge : b.chargeOk d.ref.reach (if (b.agent e).fedFirst then energyPj x.energy else 0) = true)
    (tile : (b.reach d.ref.reach).takeTile d.ref x.tiles.toNat = some (k, rc)) :
    TileGiven e k d.ref rc b (b.answerPull v e) := by
  rw [Blk.answerPull_gives v list pull moving running live now task state dsp be charge tile]
  generalize (if (b.agent e).fedFirst then energyPj x.energy else 0) = amount
  obtain ⟨last, count, recs, pool, reaches, within⟩ := Blk.tileTaken_leaves (e := e) (amount := amount) task tile
  have agents := within .agents (by simp)
  have agent := Blk.agent_congr agents
  obtain ⟨answer, starts, held, none, fed, others, given⟩ := (b.tileTaken e d.ref x amount rc).giveTile_leaves v e k d
    (by rw [agent]; exact idle)
  rw [agent] at starts held
  refine ⟨?_, starts, held, none, fed, fun j other => (others j other).trans (agent j), ?_, ?_, ?_, ?_, fun j other => ?_,
    (within.mono (by simp)).trans (given.mono (by simp))⟩
  · rw [answer, show _ = _ from within .out (by simp)]
  · rw [given.task? (by simp), last]
  · rw [given.ctr (by simp), count]
  · rw [given.reach (by simp), recs]
  · rw [given.reach (by simp), pool]
  · rw [given.reach (by simp), reaches j other]

theorem exec_tilePull {s : State} {e : Nat} {d : DWord} (known : e < s.aon.grade.engines)
    (list : (s.blk.agent e).listWord = some d) (idle : (s.blk.agent e).advance = none)
    (full : (s.blk.agent e).pullEmpty = false) (quiet : (s.blk.agent e).abort = none) (free : (s.blk.agent e).pull = .none) :
    exec (.tilePull e) s = .next { s with
      blk := (s.blk.modAgent e fun a => { a with pull := .tile }).answerPull s.env e } := by
  simp only [exec, execTilePull]
  rw [atEngine_acts _ known, if_neg (by simp [list, idle, full, quiet, free])]

/-- Once its tile is given an agent waits for no chunk. -/
theorem exec_tilePullRetry {s : State} {e : Nat} (known : e < s.aon.grade.engines)
    (given : ((s.blk.answerPull s.env e).agent e).pull = .none) :
    exec (.tilePullRetry e) s = .next { s with blk := s.blk.answerPull s.env e } := by
  have still : (s.blk.answerPull s.env e).answerChunk e = s.blk.answerPull s.env e := by
    unfold Blk.answerChunk
    dsimp only
    split
    · rfl
    · rw [if_pos (by simp [given])]
  simp only [exec, execTilePullRetry]
  rw [atEngine_acts _ known, still]

/-- Settles O29: `tileGiven_answerPull`, with `Blk.tileTaken_leaves` and `Blk.giveTile_leaves`. -/
theorem tilePullGivesTheNextTile : Obligations.TilePullGivesTheNextTile := by
  intro s e k d x rc known list idle full quiet moving running live now task state dsp be charge tile
  have given (t : State) (only : OnlyBlk s t) (h : TileGiven e k d.ref rc s.blk t.blk) :=
    And.intro only (And.intro h.answer (And.intro h.starts (And.intro h.held (And.intro h.pull (And.intro h.fed
      (And.intro h.others (And.intro h.last (And.intro h.count (And.intro h.recs (And.intro h.pool
        (And.intro h.reaches h.within.eq)))))))))))
  refine ⟨fun free => ?_, fun waits => ?_⟩
  · have agent := Blk.agent_modAgent_same s.blk e fun a => { a with pull := .tile }
    refine ⟨_, exec_tilePull known list idle full quiet free, given _ ⟨rfl, rfl, rfl⟩ (.of_pulled ?_)⟩
    exact tileGiven_answerPull s.env (by rw [agent]; exact list) (by rw [agent]; exact idle) (by rw [agent]) moving running live
      now task state dsp be (by rw [agent]; exact charge) tile
  · have answered := tileGiven_answerPull s.env list idle waits moving running live now task state dsp be charge tile
    exact ⟨_, exec_tilePullRetry known answered.pull, given _ ⟨rfl, rfl, rfl⟩ answered⟩

end Sys2Proof.Machine
end

section
/-!
# Dispatch select and the cyclic tables (R106-R112, R125, R132, R136, R163): settles O30
-/
namespace Sys2Proof.Machine

/-! ### The order of the walk (R107) -/

/-- A reach that sends no gang's words examines its lists in turn. -/
theorem Blk.select_walks (v : Env) (b : Blk) (r : Nat) (running : b.coreHalted = false) (idle : (b.reach r).gangs = []) :
    let b0 := b.modReach r fun rc => { rc with clkUsed := 0, chosen := [] }
    let walk (p : SelectFrom) (l : List TaskRef) (b : Blk) : Blk := b.forEach l fun k b => b.examine v p k 64
    let b1 := walk .plain (b.reach r).plainList
      (walk .fill (b.reach r).fillList (walk .lc (b.reach r).lc b0))
    b.select v r = walk .shadow (b1.shadowCandidates v r) b1 := by
  have none : (b.reach r).sending = none := by simp [Reach.sending, idle]
  have start : ((b.modReach r fun rc =>
      { rc with clkUsed := 0, chosen := (rc.sending.map GangSend.engines).getD [] }).modReach r fun rc =>
      { rc with gangs := rc.gangs.map fun (g : GangSend) => { g with unsent := [] } }) =
      b.modReach r fun rc => { rc with clkUsed := 0, chosen := [] } := by
    rw [modReach_modReach_same]
    refine modReach_congr ?_
    dsimp only
    rw [none, idle, List.map_nil, ← idle]
    rfl
  unfold select
  simp only [none]
  rw [start]
  exact if_neg (ne_true_of_eq_false running)

/-! ### The engine (R110-R112) -/

/-- Home, then last, then the first of the scan. -/
theorem Env.chooseFrom_some {v : Env} {r : Nat} {x : Task} {pool : Nat → Bool} {e : Nat}
    (h : v.chooseFrom r x pool = some e) : pool e = true ∧
      (e = x.home.toNat ∨ (pool x.home.toNat = false ∧ (e = x.last.toNat ∨ (pool x.last.toNat = false ∧
        ∃ pre post, v.scan r = pre ++ e :: post ∧ ∀ k ∈ pre, pool k = false)))) := by
  unfold chooseFrom at h
  by_cases home : pool x.home.toNat = true
  · rw [if_pos home, Option.some.injEq] at h
    exact ⟨h ▸ home, .inl h.symm⟩
  rw [if_neg home] at h
  rw [Bool.not_eq_true] at home
  by_cases last : pool x.last.toNat = true
  · rw [if_pos last, Option.some.injEq] at h
    exact ⟨h ▸ last, .inr ⟨home, .inl h.symm⟩⟩
  rw [if_neg last] at h
  rw [Bool.not_eq_true] at last
  obtain ⟨here, pre, post, split, before⟩ := List.find?_eq_some_iff_append.1 h
  exact ⟨here, .inr ⟨home, .inr ⟨last, pre, post, split, fun k mem => by simpa using before k mem⟩⟩⟩

theorem Env.chooseFrom_none {v : Env} {r : Nat} {x : Task} {pool : Nat → Bool} (h : v.chooseFrom r x pool = none) :
    ∀ k ∈ v.scan r, pool k = false := by
  unfold chooseFrom at h
  split at h
  · cases h
  split at h
  · cases h
  · exact fun k mem => by simpa using List.find?_eq_none.1 h k mem

/-- A free-open engine is taken before one that is open to pre-emption. -/
theorem Blk.chooseEngine_cases (v : Env) (b : Blk) (r c : Nat) (x : Task) :
    (∀ e, b.chooseEngine v r c x = some (e, false) → v.chooseFrom r x (b.freeOpen v r c x) = some e) ∧
    (∀ e, b.chooseEngine v r c x = some (e, true) →
      v.chooseFrom r x (b.freeOpen v r c x) = none ∧ v.chooseFrom r x (b.preemptOpen v r c x) = some e) ∧
    (b.chooseEngine v r c x = none →
      v.chooseFrom r x (b.freeOpen v r c x) = none ∧ v.chooseFrom r x (b.preemptOpen v r c x) = none) := by
  unfold chooseEngine
  cases v.chooseFrom r x (b.freeOpen v r c x) with
  | some e => simp
  | none => cases v.chooseFrom r x (b.preemptOpen v r c x) <;> simp

/-! ### What a selection leaves (R31, R109, R112) -/

namespace Blk

variable {b : Blk} {k : TaskRef} {x : Task}

/-- The word of a selection. -/
def wordFor (b : Blk) (r : Nat) (t : TaskRef) (x : Task) (a : DispatchArgs) (tile gang : Option Nat) : DWord :=
  { ref := t, word := dispatchWord t x a, tile := tile, preempting := a.preempting
    shadow := a.shadow, gangMember := gang, held := gang.isSome, clk := (b.reach r).clkUsed }

theorem only_countSelect (v : Env) (p : SelectFrom) (t : TaskRef) (n e tile : Nat) (b : Blk) :
    Within [.fe, .db, .counters] b (b.countSelect v p t n e tile) := by simp

/-- A word on its way: its agent has it, and a clk is used. -/
theorem sendWord_leaves (r e : Nat) (t : TaskRef) (x : Task) (a : DispatchArgs) (tile gang : Option Nat) (b : Blk) :
    let c := b.sendWord r e t x a tile gang
    (c.agent e = { b.agent e with inWords := (b.agent e).inWords ++ [b.wordFor r t x a tile gang] }) ∧
      OtherAgents e b c ∧ (∀ u, c.task? u = b.task? u) ∧ c.reach r = { b.reach r with clkUsed := (b.reach r).clkUsed + 1 } := by
  have blocks : Within [.agents, .reaches] b (b.sendWord r e t x a tile gang) := by simp
  have sent : (b.sendWord r e t x a tile gang).agents =
      (b.modAgent e fun g => { g with inWords := g.inWords ++ [b.wordFor r t x a tile gang] }).agents := rfl
  exact ⟨(agent_congr sent e).trans (agent_modAgent_same ..), (otherAgents_modAgent b e _).congr sent, fun u => blocks.task? (by simp) u, reach_modReach_same ..⟩

theorem selectOn_of_kind (v : Env) (p : SelectFrom) (kind : x.kind ≠ .list) (e : Nat) (pre : Bool) :
    b.selectOn v p k x e pre =
      let c := (((b.choose k.reach e).charge k.reach x.chargeClass x.selectCharge).setLast k e).takeTask k
      (c.sendWord k.reach e k x { c.wordArgs k x e with preempting := pre } none none).countSelect v p k x.readyEdge e 0 := by
  simp [selectOn, kind]

/-- A task selected on an engine is dispatched there. -/
theorem selectOn_leaves (v : Env) (p : SelectFrom) (h : b.task? k = some x) (kind : x.kind = .plain ∨ x.kind = .expert)
    (e : Nat) (pre : Bool) :
    let d := b.selectOn v p k x e pre
    d.task? k = some { x with state := .dispatched, last := BitVec.ofNat 11 e } ∧
      (d.reach k.reach).clkUsed = (b.reach k.reach).clkUsed + 1 ∧
      (d.reach k.reach).chosen = (b.reach k.reach).chosen ++ [e] ∧
      k ∉ (d.reach k.reach).lc ∧ k ∉ (d.reach k.reach).fillList ∧ k ∉ (d.reach k.reach).plainList ∧
      (d.reach k.reach).allowLeft = (b.reach k.reach).allowLeft - energyPj x.energy ∧
      (∃ w, d.agent e = { b.agent e with inWords := (b.agent e).inWords ++ [w] } ∧ w.ref = k ∧ w.preempting = pre ∧
        w.shadow = false ∧ w.gangMember = none) ∧ OtherAgents e b d := by
  have single : x.kind ≠ .gang := by rcases kind with h | h <;> simp [h]
  have listed : x.kind ≠ .list := by rcases kind with h | h <;> simp [h]
  let c0 := (b.choose k.reach e).charge k.reach x.chargeClass x.selectCharge
  let c1 := c0.setLast k e
  let c := c1.takeTask k
  have charged : Within [.reaches] b c0 := by simp [c0]
  have found : c1.task? k = some { x with last := BitVec.ofNat 11 e } :=
    task?_modTask ((charged.task? (by simp) k).trans h) _
  have state : c1.setState k .dispatched = c1.modTask k fun x => { x with state := .dispatched } :=
    setState_of_kind found single _
  have taken : c = (c1.modTask k fun x => { x with state := .dispatched }).modReach k.reach fun rc => rc.unlist k :=
    congrArg (fun d : Blk => d.modReach k.reach fun rc => rc.unlist k) state
  have unlisted (d : Blk) : Within [.reaches] d (d.modReach k.reach fun rc => rc.unlist k) := by simp [Reach.unlist]
  have task : c.task? k = some { x with state := .dispatched, last := BitVec.ofNat 11 e } := by
    rw [taken, (unlisted _).task? (by simp), task?_modTask found]
  have reach : c.reach k.reach = { (c0.reach k.reach).unlist k with blocks := (c.reach k.reach).blocks } := by
    have last : c1.reach k.reach = { c0.reach k.reach with blocks := (c1.reach k.reach).blocks } := reach_modTask ..
    rw [taken, reach_modReach_same, reach_modTask, last]
    rfl
  have start : c0.reach k.reach = { b.reach k.reach with
      chosen := (c0.reach k.reach).chosen, allowLeft := (b.reach k.reach).allowLeft - energyPj x.energy
      charged := (c0.reach k.reach).charged, charges := (c0.reach k.reach).charges } ∧
      (c0.reach k.reach).chosen = (b.reach k.reach).chosen ++ [e] := by
    have amount : x.selectCharge = energyPj x.energy := if_neg single
    have chosen : (b.choose k.reach e).reach k.reach = { b.reach k.reach with chosen := (b.reach k.reach).chosen ++ [e] } :=
      reach_modReach_same ..
    have charge : c0.reach k.reach = { (b.choose k.reach e).reach k.reach with
        allowLeft := ((b.choose k.reach e).reach k.reach).allowLeft - x.selectCharge
        charged := (c0.reach k.reach).charged, charges := (c0.reach k.reach).charges } := by
      rw [show c0.reach k.reach = _ from reach_modReach_same ..]
    rw [charge, chosen, amount]
    exact ⟨rfl, rfl⟩
  have agents : c.agents = b.agents := (by simp [c, c1, c0] : Within [.reaches, .blocks] b c) .agents (by simp)
  obtain ⟨agent, others, tasks, clk⟩ := c.sendWord_leaves k.reach e k x { c.wordArgs k x e with preempting := pre } none none
  have counted := only_countSelect v p k x.readyEdge e 0
    (c.sendWord k.reach e k x { c.wordArgs k x e with preempting := pre } none none)
  dsimp only
  rw [selectOn_of_kind v p listed, show _ = _ from counted.task? (by simp) k, counted.reach (by simp), clk, reach,
    show _ = _ from agent_congr (counted .agents (by simp)) e, agent, agent_congr agents, tasks, task]
  refine ⟨rfl, ?_, ?_, ?_, ?_, ?_, ?_, ⟨_, rfl, rfl, rfl, rfl, rfl⟩, ?_⟩
  · rw [start.1]
    rfl
  · exact start.2
  · simp [Reach.unlist]
  · simp [Reach.unlist]
  · simp [Reach.unlist]
  · rw [start.1]
    rfl
  · exact fun j other => (agent_congr (counted .agents (by simp)) j).trans ((others j other).trans (agent_congr agents j))

/-! ### One candidate (R107, R109, R132, R163) -/

/-- What becomes of a candidate that every rule admits, by its place in the order and its kind. -/
def selects (v : Env) (p : SelectFrom) (k : TaskRef) (x : Task) (b : Blk) : Blk × Bool :=
  match p, x.kind with
  | .shadow, _ => match b.chooseShadow v k.reach k.ctx x with
    | some e => (b.selectShadow v k x e, true)
    | none => (b, false)
  | _, .gang => match b.chooseGang v k x with
    | some es => (b.selectGang v p k x es, true)
    | none => (b, false)
  | _, .marker | _, .step | _, .combineClose => (b.selectBare v p k x, true)
  | _, .plain | _, .list | _, .expert => match b.chooseEngine v k.reach k.ctx x with
    | some (e, pre) => (b.selectOn v p k x e pre, true)
    | none => (b, false)

/-- A candidate of a context that goes on, that no rule but the permit holds back. -/
theorem trySelect_of_task (v : Env) (p : SelectFrom) (h : b.task? k = some x) (live : b.torn k.ctx = false)
    (launched : b.launchAborted k.ctx = false) (single : x.kind ≠ .list)
    (state : p ≠ .shadow → x.state = .ready) (shadow : p = .shadow → b.shadowCandidate v k x = true ∧
      (b.reach k.reach).shadowOk v k.reach k = true) (released : x.kind = .expert → x.released = true) :
    b.trySelect v p k =
      if !b.permits k x p then (b.bump .permitPass k.reach, false) else b.selects v p k x := by
  have open_ : (b.torn k.ctx || b.launchAborted k.ctx || (p != .shadow && x.state != .ready)
      || (p == .shadow && !(b.shadowCandidate v k x && (b.reach k.reach).shadowOk v k.reach k))
      || (x.kind == .expert && !x.released) || (x.kind == .list && !(b.reach k.reach).listOk k x p)) = false := by
    have e1 : (p != .shadow && x.state != .ready) = false := by
      by_cases e : p = .shadow
      · simp [e]
      · simp [state e]
    have e2 : (p == .shadow && !(b.shadowCandidate v k x && (b.reach k.reach).shadowOk v k.reach k)) = false := by
      by_cases e : p = .shadow
      · simp [(shadow e).1, (shadow e).2]
      · simp [e]
    have e3 : (x.kind == .expert && !x.released) = false := by
      by_cases e : x.kind = .expert
      · simp [released e]
      · simp [e]
    rw [live, launched, e1, e2, e3, beq_false_of_ne single]
    rfl
  unfold trySelect
  rw [h]
  dsimp only
  rw [open_, if_neg Bool.false_ne_true]
  rfl

/-- An expert tile that is not released is passed over. -/
theorem trySelect_unreleased (v : Env) (p : SelectFrom) (h : b.task? k = some x) (kind : x.kind = .expert)
    (waits : x.released = false) : b.trySelect v p k = (b, false) := by
  unfold trySelect
  rw [h]
  dsimp only
  rw [if_pos (by simp [kind, waits])]

/-- A plain or expert task goes to the engine that is chosen for it. -/
theorem selects_engine (v : Env) {p : SelectFrom} (from_ : p ≠ .shadow) (kind : x.kind = .plain ∨ x.kind = .expert) :
    (b.chooseEngine v k.reach k.ctx x = none → b.selects v p k x = (b, false)) ∧
      ∀ e pre, b.chooseEngine v k.reach k.ctx x = some (e, pre) → b.selects v p k x = (b.selectOn v p k x e pre, true) := by
  unfold selects
  constructor
  · intro none
    rcases kind with kind | kind <;> cases p <;> simp_all
  · intro e pre some
    rcases kind with kind | kind <;> cases p <;> simp_all

theorem selects_shadow (v : Env) {e : Nat} (chosen : b.chooseShadow v k.reach k.ctx x = some e) :
    b.selects v .shadow k x = (b.selectShadow v k x e, true) := by
  simp [selects, chosen]

/-- A shadow candidate is launched on its engine, with its record. -/
theorem selectShadow_leaves (v : Env) (h : b.task? k = some x) (kind : x.kind = .plain) (e : Nat)
    (new : ∀ q ∈ (b.reach k.reach).shadowRecs, q.ref ≠ k) :
    let d := b.selectShadow v k x e
    d.task? k = some { x with state := .shadow, depcnt := x.depcnt + x.kept, kept := 0 } ∧
      (d.reach k.reach).shadowRecs = (b.reach k.reach).shadowRecs ++ [{ ref := k, engines := [(0, e)] }] ∧
      (∃ w, d.agent e = { b.agent e with inWords := (b.agent e).inWords ++ [w] } ∧ w.ref = k ∧ w.shadow = true) ∧
      OtherAgents e b d := by
  let c0 := (b.choose k.reach e).charge k.reach x.chargeClass x.selectCharge
  let c1 := c0.modTask k fun x => { x with state := .shadow }
  let c2 := c1.modTask k Task.takeBank
  let c := c2.modReach k.reach fun rc => rc.addShadow k 0 e
  have charged : Within [.reaches] b c0 := by simp [c0]
  have found : c0.task? k = some x := (charged.task? (by simp) k).trans h
  have state : c0.setState k .shadow = c1 := setState_of_kind found (by simp [kind]) _
  have banked : c2.task? k = some { x with state := .shadow, depcnt := x.depcnt + x.kept, kept := 0 } :=
    task?_modTask (task?_modTask found _) _
  have noted : Within [.reaches] c2 c :=
    (within_modReach_blocks k.reach _ (fun rc => by unfold Reach.addShadow; split <;> rfl) (by simp)).2 (.refl _ _)
  have recs : (c2.reach k.reach).shadowRecs = (b.reach k.reach).shadowRecs := by
    rw [show (c2.reach k.reach).shadowRecs = _ from keeps_modTask Reach.shadowRecs (fun _ _ => rfl) ..,
      show (c1.reach k.reach).shadowRecs = _ from keeps_modTask Reach.shadowRecs (fun _ _ => rfl) ..]
    exact (keeps_modReach Reach.shadowRecs (by intro _; rfl) ..).trans (keeps_modReach Reach.shadowRecs (by intro _; rfl) ..)
  have unrecorded : (c2.reach k.reach).shadowRecs.any (fun s => s.ref == k) = false := by
    rw [recs, List.any_eq_false]
    intro q mem
    simpa using new q mem
  have added : (c.reach k.reach).shadowRecs = (b.reach k.reach).shadowRecs ++ [{ ref := k, engines := [(0, e)] }] := by
    rw [show c.reach k.reach = _ from reach_modReach_same .., Reach.addShadow, unrecorded, ← recs]
    rfl
  let a : DispatchArgs := { c.wordArgs k x e with shadow := true, tile := 0 }
  have whole : b.selectShadow v k x e = (c.sendWord k.reach e k x a none none).countSelect v .shadow k 0 e 0 := by
    have plain : ¬ x.kind = .list := by simp [kind]
    have single : ¬ x.kind = .expert := by simp [kind]
    unfold selectShadow
    simp only [if_neg plain, if_neg single, Option.map_none, Option.getD_none]
    rw [show (b.choose k.reach e).charge k.reach x.chargeClass x.selectCharge = c0 from rfl, state]
  obtain ⟨agent, others, tasks, clk⟩ := c.sendWord_leaves k.reach e k x a none none
  have counted := only_countSelect v .shadow k 0 e 0 (c.sendWord k.reach e k x a none none)
  have agents : c.agents = b.agents := (by
    refine .trans (charged.mono (by simp)) (.trans (?_ : Within [.reaches, .blocks] c0 c2) (noted.mono (by simp)))
    simp [c1, c2] : Within [.reaches, .blocks] b c) .agents (by simp)
  dsimp only
  rw [whole, show _ = _ from counted.task? (by simp) k, counted.reach (by simp), clk,
    show _ = _ from agent_congr (counted .agents (by simp)) e, agent, agent_congr agents, tasks, noted.task? (by simp), banked]
  exact ⟨rfl, added, ⟨_, rfl, rfl, rfl⟩, fun j other =>
    (agent_congr (counted .agents (by simp)) j).trans ((others j other).trans (agent_congr agents j))⟩

end Blk

/-! ### The cyclic tables (R125) -/

theorem Fe.switchTables_due {n : Nat} {fe : Fe} (armed : fe.cycStandby.arm = true) (due : fe.cycStandby.dueAt ≤ n + 1) :
    (fe.switchTables n).cycActive = { fe.cycStandby with arm := false } ∧ (fe.switchTables n).cycStandby = fe.cycActive ∧
      (fe.switchTables n).cycBase = fe.cycStandby.dueAt ∧
      fe.switchTables n = { fe with
        cycA := (fe.switchTables n).cycA, cycB := (fe.switchTables n).cycB
        cycActiveB := (fe.switchTables n).cycActiveB, cycBase := (fe.switchTables n).cycBase } := by
  have acts : (fe.cycStandby.arm && decide (fe.cycStandby.dueAt ≤ n + 1)) = true := by simp [armed, due]
  unfold switchTables
  dsimp only
  rw [if_pos acts]
  unfold modStandby cycActive cycStandby
  cases fe.cycActiveB <;> exact ⟨rfl, rfl, rfl, rfl⟩

theorem Fe.switchTables_stays {n : Nat} {fe : Fe} (stays : fe.cycStandby.arm = false ∨ n + 1 < fe.cycStandby.dueAt) :
    fe.switchTables n = fe := by
  refine if_neg ?_
  rcases stays with h | h
  · simp [h]
  · simp [Nat.not_le.2 h]

/-- Settles O30: `Blk.select_walks`, `Env.chooseFrom_some`, `Blk.trySelect_of_task` with `Blk.selectOn_leaves` and
`Blk.selectShadow_leaves`, and `Fe.switchTables_due`. -/
theorem selectionFollowsItsOrder : Obligations.SelectionFollowsItsOrder := by
  refine ⟨fun v b r running idle => Blk.select_walks v b r running idle, fun v b r c x => ⟨fun e chosen => ?_, fun e chosen => ?_,
    fun none => ?_⟩, fun v b p k x h live launched from_ state single => ⟨fun expert waits => ?_, fun released full => ?_,
    fun kind permits => ⟨fun none => ?_, fun e pre chosen => ?_⟩⟩,
    fun v b k x e h live launched kind candidate state room permits chosen new => ?_, fun s armed due => ?_, fun s stays => ?_⟩
  · exact Env.chooseFrom_some ((Blk.chooseEngine_cases v b r c x).1 e chosen)
  · obtain ⟨none, some⟩ := (Blk.chooseEngine_cases v b r c x).2.1 e chosen
    exact ⟨Env.chooseFrom_some some, Env.chooseFrom_none none⟩
  · obtain ⟨free, preempt⟩ := (Blk.chooseEngine_cases v b r c x).2.2 none
    exact fun k mem => ⟨Env.chooseFrom_none free k mem, Env.chooseFrom_none preempt k mem⟩
  · exact Blk.trySelect_unreleased v p h expert waits
  · rw [Blk.trySelect_of_task v p h live launched single (fun _ => state) (fun e => absurd e from_) released, full]
    rfl
  · have released : x.kind = .expert → x.released = true := fun e => kind.elim (fun h => by simp [h] at e) (·.2)
    rw [Blk.trySelect_of_task v p h live launched single (fun _ => state) (fun e => absurd e from_) released, permits]
    exact (Blk.selects_engine v from_ (kind.imp_right (·.1))).1 none
  · have released : x.kind = .expert → x.released = true := fun e => kind.elim (fun h => by simp [h] at e) (·.2)
    have selected : b.trySelect v p k = (b.selectOn v p k x e pre, true) := by
      rw [Blk.trySelect_of_task v p h live launched single (fun _ => state) (fun e => absurd e from_) released, permits]
      exact (Blk.selects_engine v from_ (kind.imp_right (·.1))).2 e pre chosen
    rw [selected]
    exact ⟨rfl, Blk.selectOn_leaves v p h (kind.imp_right (·.1)) e pre⟩
  · have selected : b.trySelect v .shadow k = (b.selectShadow v k x e, true) := by
      rw [Blk.trySelect_of_task v .shadow h live launched (by simp [kind]) (fun e => absurd rfl e)
        (fun _ => ⟨candidate, room⟩) (by simp [kind]), permits]
      exact Blk.selects_shadow v chosen
    rw [selected]
    exact ⟨rfl, Blk.selectShadow_leaves v h kind e new⟩
  · obtain ⟨active, standby, base, frame⟩ := Fe.switchTables_due armed due
    exact ⟨_, rfl, ⟨rfl, rfl, rfl⟩, active, standby, base, congrArg (fun fe => { s.blk with fe := fe }) frame⟩
  · refine ⟨_, rfl, ?_⟩
    have same : s.blk.fe.switchTables s.aon.pulse = s.blk.fe := Fe.switchTables_stays stays
    exact congrArg (fun fe => { s with blk := { s.blk with fe := fe } }) same

end Sys2Proof.Machine
end

section
/-!
# The write-hold buffer (R139, R140, R142, R143): settles O31
-/
namespace Sys2Proof.Machine

/-- What is drained of an agent's committed tasks leaves what it holds. -/
theorem Agent.foldl_drained_keeps (l : List TaskRef) (a : Agent) :
    (l.foldl Agent.drained a).ackDue = a.ackDue ∧ (l.foldl Agent.drained a).items = a.items := by
  have one (a : Agent) (t : TaskRef) : (a.drained t).ackDue = a.ackDue ∧ (a.drained t).items = a.items := by
    unfold Agent.drained
    split
    · exact ⟨rfl, rfl⟩
    · dsimp only
      split <;> exact ⟨rfl, rfl⟩
  induction l generalizing a with
  | nil => exact ⟨rfl, rfl⟩
  | cons t l ih =>
    obtain ⟨due, items⟩ := ih (a.drained t)
    exact ⟨due.trans (one a t).1, items.trans (one a t).2⟩

namespace Blk

variable {b : Blk} {e : Nat}

/-! ### Release of what may go (R142) -/

theorem unstall_none (h : (b.agent e).stalled = none) : b.unstall e = b := by
  simp [unstall, h]

/-- An item that does not fit stays where it stalls its engine. -/
theorem unstall_full {t : TaskRef} {i : HoldItem} (h : (b.agent e).stalled = some (t, i))
    (full : 65536 < (b.agent e).held + itemBytes i) : b.unstall e = b := by
  simp [unstall, h, full]

/-- While a write awaits its acknowledgement nothing more goes. -/
theorem pump_awaits (v : Env) (n : Nat) (same : b.unstall e = b) (due : (b.agent e).ackDue.isSome = true) :
    b.pump v e n = b := by
  cases n with
  | zero => rfl
  | succ n => simp [pump, same, due]

/-- Where no committed task has an item nothing goes. -/
theorem pump_none (v : Env) {n : Nat} (same : b.unstall e = b) (due : (b.agent e).ackDue = none)
    (none : (b.agent e).items.find? (fun i => (b.agent e).committed.contains i.1) = none) :
    b.pump v e (n + 1) = b.modAgent e fun a => a.committed.foldl Agent.drained a := by
  simp only [pump, same, due, none]
  rfl

/-- A release changes nothing where no task is committed. -/
theorem release_uncommitted (v : Env) (moving : b.frozen = false) (same : b.unstall e = b)
    (committed : (b.agent e).committed = []) : b.release v e = b ∨ b.release v e = b.modAgent e id := by
  rw [release, moving]
  simp only [Bool.false_eq_true, if_false]
  cases due : (b.agent e).ackDue with
  | some k => exact .inl (pump_awaits v _ same (by rw [due]; rfl))
  | none =>
    refine .inr ((pump_none v same due ?_).trans (modAgent_congr ?_))
    · rw [committed]
      exact List.find?_eq_none.2 fun _ _ => by simp
    · rw [committed]
      rfl

end Blk

theorem exec_holdItem {s : State} {e : Nat} {r : Run} {i : HoldItem} (at_ : RunsAt s e r) (shadow : r.shadow = true)
    (ok : itemOk i = true) :
    exec (.holdItem e i) s = .next { s with blk := (s.blk.park e r.ref i).release s.env e } := by
  obtain ⟨engine, moving, run, active, nowait, nostall⟩ := at_
  simp only [exec, execHoldItem]
  rw [if_neg (by omega), if_neg (by simp [moving, nowait, nostall]), run]
  dsimp only
  rw [if_neg (by simp [shadow, active, ok])]
  rfl

theorem Blk.park_fits {b : Blk} {e : Nat} {t : TaskRef} {i : HoldItem} (fits : (b.agent e).held + itemBytes i ≤ 65536) :
    b.park e t i = b.modAgent e fun a => { a with items := a.items ++ [(t, i)] } := if_pos fits

theorem Blk.park_full {b : Blk} {e : Nat} {t : TaskRef} {i : HoldItem} (full : 65536 < (b.agent e).held + itemBytes i) :
    b.park e t i = (b.modAgent e fun a => { a with stalled := some (t, i) }).emit (.holdRefused e) := if_neg (by omega)

/-! ### A commit notice (R142) -/

namespace Blk

variable {b : Blk} {e : Nat} {k : TaskRef}

/-- The write at the head of the buffer of a task that is committed alone goes to the engine. -/
theorem release_write (v : Env) {a : BitVec 64} {d : List Byte} {more : List (TaskRef × HoldItem)} (moving : b.frozen = false)
    (stalled : (b.agent e).stalled = none) (due : (b.agent e).ackDue = none)
    (items : (b.agent e).items = (k, .memWrite a d) :: more) (committed : (b.agent e).committed = [k]) :
    b.release v e = ((b.modAgent e fun a => { a with items := more, ackDue := some k }).bump .heldBytesReleased e
      (itemBytes (.memWrite a d))).emit (.itemRelease e (.memWrite a d)) := by
  have taken : b.takeItem e (k, .memWrite a d) =
      (b.modAgent e fun x => { x with items := more }).bump .heldBytesReleased e (itemBytes (.memWrite a d)) := by
    unfold takeItem
    refine congrArg (fun c : Blk => c.bump .heldBytesReleased e (itemBytes (.memWrite a d))) (modAgent_congr ?_)
    rw [items, ldrop1, List.eraseP_cons_of_pos (by simp)]
  have sent : (b.takeItem e (k, .memWrite a d)).releaseItem v e k (.memWrite a d) =
      ((b.modAgent e fun a => { a with items := more, ackDue := some k }).bump .heldBytesReleased e
        (itemBytes (.memWrite a d))).emit (.itemRelease e (.memWrite a d)) := by
    rw [taken]
    show ((((b.modAgent e _).bump _ _ _).emit _).modAgent e _) = _
    rw [modAgent_emit, modAgent_bump, modAgent_modAgent]
  have last : (((b.modAgent e fun a => { a with items := more, ackDue := some k }).bump .heldBytesReleased e
      (itemBytes (.memWrite a d))).emit (.itemRelease e (.memWrite a d))).agent e =
      { b.agent e with items := more, ackDue := some k } :=
    (agent_congr (bump_agents ..) e).trans (agent_modAgent_same ..)
  have first : (b.agent e).items.find? (fun i => (b.agent e).committed.contains i.1) = some (k, .memWrite a d) := by
    rw [items, committed, List.find?_cons_of_pos (by simp)]
  unfold release
  rw [moving, if_neg Bool.false_ne_true, pump, unstall_none stalled]
  rw [due, first]
  dsimp only [Option.isSome]
  rw [if_neg Bool.false_ne_true, sent, pump_awaits v _ (unstall_none (by rw [last]; exact stalled)) (by rw [last]; rfl)]

/-! ### A squash notice (R143) -/

theorem discardItems_squash (b : Blk) (e : Nat) (t : TaskRef) :
    b.discardItems e t true =
      ((b.modAgent e (Agent.discards t)).bump .heldBytesDiscarded e (b.heldBytes e t)).bump .shadowFaultDiscard t.reach
        ((b.agent e).faultsHeld t) := by
  rw [← discardItems_eq]
  rfl

/-- What a discard changes of a block whose agent had been changed before. -/
theorem discarded_leaves (b : Blk) (e : Nat) (t : TaskRef) (f : Agent → Agent) {n m : Nat} :
    let c := (((b.modAgent e f).modAgent e (Agent.discards t)).bump .heldBytesDiscarded e n).bump .shadowFaultDiscard t.reach m
    c.agent e = (f (b.agent e)).discards t ∧ OtherAgents e b c ∧
      c = { b with agents := c.agents, counters := c.counters } := by
  intro c
  have agents : c.agents = (b.modAgent e fun a => (f a).discards t).agents := by
    simp only [c, bump_agents, modAgent_modAgent]
  exact ⟨(agent_congr agents e).trans (agent_modAgent_same ..), (otherAgents_modAgent b e _).congr agents,
    Within.eq (l := [.agents, .counters]) (by simp [c])⟩

/-- Items of a task with no run and no offered word go at once. -/
theorem squashAt_idle (run : (b.agent e).run = none) (present : (b.agent e).present = none) :
    b.squashAt e k = (b.modAgent e fun a => { a with
      queue := a.queue.filter fun d => d.ref != k || a.present == some d }).discardItems e k true := by
  simp only [squashAt, agent_modAgent_same, Agent.runOf, run, present]
  simp

/-- The run of a squashed task is aborted. -/
theorem squashAt_run {r : Run} (run : (b.agent e).run = some r) (own : r.ref = k) (quiet : (b.agent e).abort = none) :
    b.squashAt e k = (b.modAgent e fun a => { a with
      queue := a.queue.filter fun d => d.ref != k || a.present == some d, abort := some .squash }).emit (.abort e) := by
  have mine : (r.ref == k) = true := by simp [own]
  simp only [squashAt, agent_modAgent_same, Agent.runOf, run, quiet, Option.filter_some, mine]
  simp only [if_true, Option.isSome_some, Bool.true_or, Option.isNone_none]
  rw [modAgent_emit, modAgent_modAgent]
  refine congrArg (fun c : Blk => c.emit (.abort e)) (modAgent_congr ?_)
  dsimp only
  rw [quiet]
  rfl

end Blk

/-- The oldest commit notice at an agent. -/
def Blk.noteCommit (e : Nat) (rest : List TaskRef) (k : TaskRef) (b : Blk) : Blk :=
  b.modAgent e fun a => { a with inCommits := rest, committed := [k] }

theorem exec_commitNotice {s : State} {e : Nat} {k : TaskRef} {rest : List TaskRef} (known : e < s.aon.grade.engines)
    (moving : s.blk.frozen = false) (notices : (s.blk.agent e).inCommits = k :: rest)
    (held : (s.blk.agent e).items.any (fun i => i.1 == k) = true) (committed : (s.blk.agent e).committed = []) :
    exec (.commitNotice e) s = .next { s with blk := (s.blk.noteCommit e rest k).release s.env e } := by
  have noted : ((s.blk.modAgent e fun a => { a with inCommits := rest }).modAgent e fun a =>
      { a with committed := if a.committed.contains k then a.committed else a.committed ++ [k] }) =
      s.blk.noteCommit e rest k := by
    rw [Blk.modAgent_modAgent]
    refine Blk.modAgent_congr ?_
    dsimp only
    rw [committed]
    rfl
  have has : ((s.blk.modAgent e fun a => { a with inCommits := rest }).agent e).has k = true := by
    rw [Blk.agent_modAgent_same]
    simp [Agent.has, held]
  simp only [exec, execCommitNotice]
  rw [atEngine_acts _ known, notices]
  dsimp only
  rw [if_neg (by simp [moving]), Blk.commitAt, if_pos has, noted]

theorem exec_releaseItemAck {s : State} {e : Nat} {k : TaskRef} (known : e < s.aon.grade.engines)
    (moving : s.blk.frozen = false) (due : (s.blk.agent e).ackDue = some k) :
    exec (.releaseItemAck e) s = .next { s with
      blk := (s.blk.modAgent e fun a => { a with ackDue := none }).release s.env e } := by
  simp only [exec, execReleaseItemAck]
  rw [atEngine_acts _ known, due]
  dsimp only [Option.isNone]
  rw [if_neg Bool.false_ne_true]
  exact congrArg (fun c : Blk => Host.Outcome.next { s with blk := c }) (if_neg (ne_true_of_eq_false moving))

theorem exec_squashNotice {s : State} {e : Nat} {k : TaskRef} {rest : List TaskRef} (known : e < s.aon.grade.engines)
    (moving : s.blk.frozen = false) (notices : (s.blk.agent e).inSquashes = k :: rest) :
    exec (.squashNotice e) s = .next { s with
      blk := (s.blk.modAgent e fun a => { a with inSquashes := rest }).squashAt e k } := by
  simp only [exec, execSquashNotice]
  rw [atEngine_acts _ known, notices]
  dsimp only
  rw [if_neg (by simp [moving])]

/-- Settles O31: `Blk.release_uncommitted` and `Blk.release_write` for what is released, `Blk.squashAt_idle` and
`Blk.squashAt_run` for what is discarded. -/
theorem heldItemsFollowTheirTask : Obligations.HeldItemsFollowTheirTask := by
  refine ⟨fun s e r i at_ shadow ok committed fits => ?_, fun s e r i at_ shadow ok committed full => ?_,
    fun s e k rest a d more known moving notices items committed due stalled => ?_,
    fun s e k known moving due stalled none => ?_, fun s e k rest known moving notices run present => ?_,
    fun s e k rest r known moving notices run own quiet => ?_⟩
  · refine ⟨_, exec_holdItem at_ shadow ok, ⟨rfl, rfl, rfl⟩, ?_⟩
    have parked := Blk.park_fits (e := e) (t := r.ref) fits
    have agent : ((s.blk.park e r.ref i).agent e) = { s.blk.agent e with items := (s.blk.agent e).items ++ [(r.ref, i)] } := by
      rw [parked, Blk.agent_modAgent_same]
    obtain same | same := Blk.release_uncommitted s.env (b := s.blk.park e r.ref i) (e := e) (by rw [parked]; exact at_.moving)
      (Blk.unstall_none (by rw [agent]; exact at_.nostall)) (by rw [agent]; exact committed)
    all_goals
      rw [same, parked]
      simp only [Blk.modAgent_modAgent]
      exact ⟨Blk.agent_modAgent_same .., Blk.otherAgents_modAgent _ _ _, rfl⟩
  · refine ⟨_, exec_holdItem at_ shadow ok, ⟨rfl, rfl, rfl⟩, ?_⟩
    have parked := Blk.park_full (e := e) (t := r.ref) full
    have agent : ((s.blk.park e r.ref i).agent e) = { s.blk.agent e with stalled := some (r.ref, i) } := by
      rw [parked, Blk.agent_emit, Blk.agent_modAgent_same]
    obtain same | same := Blk.release_uncommitted s.env (b := s.blk.park e r.ref i) (e := e) (by rw [parked]; exact at_.moving)
      (Blk.unstall_full (t := r.ref) (i := i) (by rw [agent]) (by rw [agent]; exact full)) (by rw [agent]; exact committed)
    all_goals
      rw [same, parked]
      simp only [Blk.modAgent_emit, Blk.modAgent_modAgent]
      exact ⟨(Blk.agent_emit ..).trans (Blk.agent_modAgent_same ..), rfl, (Blk.otherAgents_modAgent s.blk e _).emit _, rfl⟩
  · refine ⟨_, exec_commitNotice known moving notices (by simp [items]) committed, ⟨rfl, rfl, rfl⟩, ?_⟩
    have agent : (s.blk.noteCommit e rest k).agent e = { s.blk.agent e with inCommits := rest, committed := [k] } :=
      Blk.agent_modAgent_same s.blk e _
    have fused : ((s.blk.noteCommit e rest k).modAgent e fun a => { a with items := more, ackDue := some k }) =
        s.blk.modAgent e fun a => { a with inCommits := rest, committed := [k], items := more, ackDue := some k } :=
      Blk.modAgent_modAgent ..
    rw [Blk.release_write s.env (b := s.blk.noteCommit e rest k) moving (by rw [agent]; exact stalled) (by rw [agent]; exact due)
      (by rw [agent]; exact items) (by rw [agent]), fused]
    refine ⟨?_, ?_, ?_, ?_, ?_⟩
    · exact ((Blk.agent_emit ..).trans (Blk.agent_congr (Blk.bump_agents ..) e)).trans (Blk.agent_modAgent_same ..)
    · exact congrArg (· ++ _) (Blk.bump_out ..)
    · exact Blk.ctr_bump_same ..
    · exact ((Blk.otherAgents_modAgent s.blk e _).congr (Blk.bump_agents ..)).emit _
    · exact Blk.Within.eq (l := [.agents, .out, .counters]) (by simp)
  · refine ⟨_, exec_releaseItemAck known moving due, ⟨rfl, rfl, rfl⟩, ?_⟩
    have agent := Blk.agent_modAgent_same s.blk e fun a => { a with ackDue := Option.none }
    have released : (s.blk.modAgent e fun a => { a with ackDue := Option.none }).release s.env e =
        s.blk.modAgent e fun a => a.committed.foldl Agent.drained { a with ackDue := Option.none } := by
      rw [Blk.release, if_neg (show ¬ (s.blk.modAgent e fun a => { a with ackDue := Option.none }).frozen = true from ne_true_of_eq_false moving), Blk.pump_none s.env (Blk.unstall_none (by rw [agent]; exact stalled))
        (by rw [agent]) (by rw [agent]; exact none)]
      exact Blk.modAgent_modAgent ..
    rw [released]
    obtain ⟨due, items⟩ := Agent.foldl_drained_keeps (s.blk.agent e).committed { s.blk.agent e with ackDue := Option.none }
    exact ⟨(congrArg Agent.ackDue (Blk.agent_modAgent_same ..)).trans due,
      (congrArg Agent.items (Blk.agent_modAgent_same ..)).trans items, Blk.otherAgents_modAgent _ _ _, rfl⟩
  · refine ⟨_, exec_squashNotice known moving notices, ⟨rfl, rfl, rfl⟩, ?_⟩
    have agent := Blk.agent_modAgent_same s.blk e fun a => { a with inSquashes := rest }
    rw [Blk.squashAt_idle (b := s.blk.modAgent e fun a => { a with inSquashes := rest }) (by rw [agent]; exact run)
      (by rw [agent]; exact present), Blk.modAgent_modAgent, Blk.discardItems_squash]
    obtain ⟨same, others, frame⟩ := Blk.discarded_leaves s.blk e k (fun a => { a with
      inSquashes := rest
      queue := a.queue.filter fun d => d.ref != k || a.present == some d })
    refine ⟨congrArg Agent.inSquashes same, congrArg Agent.items same, (congrArg Agent.queue same).trans ?_, others, frame⟩
    simp [Agent.discards, present]
  · refine ⟨_, exec_squashNotice known moving notices, ⟨rfl, rfl, rfl⟩, ?_⟩
    have agent := Blk.agent_modAgent_same s.blk e fun a => { a with inSquashes := rest }
    rw [Blk.squashAt_run (b := s.blk.modAgent e fun a => { a with inSquashes := rest }) (by rw [agent]; exact run) own
      (by rw [agent]; exact quiet), Blk.modAgent_modAgent]
    have squashed (f : Agent → Agent) : ((s.blk.modAgent e f).emit (.abort e)).agent e = f (s.blk.agent e) :=
      (Blk.agent_emit ..).trans (Blk.agent_modAgent_same ..)
    exact ⟨congrArg Agent.abort (squashed _), (congrArg Agent.items (squashed _)).trans rfl, rfl,
      (Blk.otherAgents_modAgent s.blk e _).emit _, rfl⟩

end Sys2Proof.Machine
end

section
/-!
# Sync objects and the operations of CLASS 0 (R212-R218): settles O32, O33 and O34
-/
namespace Sys2Proof.Machine

/-! ### Sync objects after an operation -/

theorem OnlySync.refl (b : Blk) : OnlySync b b := ⟨fun _ => rfl, rfl⟩

theorem OnlySync.emit {b b' : Blk} (h : OnlySync b b') (o : Out) : OnlySync b (b'.emit o) := by
  obtain ⟨agents, frame⟩ := h
  refine ⟨agents, ?_⟩
  conv => lhs; rw [frame]
  rfl

/-- An object after an operation that gives it a value, noted as touched where `track` has it. -/
def SyncObj.operated (v : Env) (src : SyncSrc) (value : BitVec 32) (clamped track : Bool) (o : SyncObj) : SyncObj :=
  { o with value := value, sat := o.sat || clamped
           start := if track && !o.touched then o.value else o.start
           touched := o.touched || track
           lastKind := src.kind, lastSrc := src.src, lastEdge := v.n }

theorem syncAdd_eq (x d : BitVec 32) :
    ((syncAdd x d).1.toNat : Int) = max 0 (min 0xFFFFFFFF ((x.toNat : Int) + d.toInt)) ∧
    (syncAdd x d).2 = decide ((x.toNat : Int) + d.toInt < 0 ∨ 0xFFFFFFFF < (x.toNat : Int) + d.toInt) := by
  unfold syncAdd
  dsimp only
  split
  next low => exact ⟨by simp; omega, by simp [low]⟩
  next low =>
    split
    next high => exact ⟨by simp; omega, by simp [high]⟩
    next high =>
      refine ⟨?_, by simp; omega⟩
      rw [BitVec.toNat_ofInt]
      omega

/-- An ADD within the range of 32 bits. -/
theorem syncAdd_inRange {x d : BitVec 32} (low : 0 ≤ (x.toNat : Int) + d.toInt) (high : (x.toNat : Int) + d.toInt < 2 ^ 32) :
    syncAdd x d = (x + d, false) := by
  unfold syncAdd
  dsimp only
  rw [if_neg (by omega), if_neg (by omega), BitVec.ofInt_add, BitVec.ofInt_natCast, BitVec.ofNat_toNat, BitVec.setWidth_eq,
    BitVec.ofInt_toInt]

namespace Blk

variable {b b' : Blk} {l k : SyncLoc}

theorem syncObj_congr (agents : b'.agents = b.agents) (gsync : b'.hb.gsync = b.hb.gsync) (k : SyncLoc) :
    b'.syncObj k = b.syncObj k := by
  cases k with
  | ofAgent e i => exact congrArg (fun a => tgetD {} (Agent.locals a) i) (agent_congr agents e)
  | ofHub i => exact congrArg (fun t => tgetD {} t i) gsync

theorem waitsOn_congr (agents : ∀ k, (b'.agent k).wait = (b.agent k).wait) (gwaits : b'.hb.gwaits = b.hb.gwaits) (k : SyncLoc) :
    b'.waitsOn k = b.waitsOn k := by
  cases k with
  | ofAgent e i => simp only [waitsOn, agents e]
  | ofHub i => exact congrArg (fun t => tgetD [] t i) gwaits

theorem syncSet_ofAgent (v : Env) (src : SyncSrc) (x : BitVec 32) (cl : Bool) (b : Blk) (e i : Nat) :
    b.syncSet v (.ofAgent e i) src x cl = ((b.modAgent e fun a => { a with
      locals := tmod {} a.locals i (SyncObj.operated v src x cl (b.runActive e)) }).bump .syncOp e).bump .syncSat e (b2n cl) :=
  (rfl)

theorem syncSet_ofHub (v : Env) (src : SyncSrc) (x : BitVec 32) (cl : Bool) (b : Blk) (i : Nat) :
    b.syncSet v (.ofHub i) src x cl = ((b.modHb fun h => { h with
      gsync := tmod {} h.gsync i (SyncObj.operated v src x cl false) }).bump .globalOp).bump .hubSyncSat 0 (b2n cl) :=
  (rfl)

/-- The object operated on. -/
theorem syncObj_syncSet_same (v : Env) (src : SyncSrc) (x : BitVec 32) (cl : Bool) (b : Blk) (l : SyncLoc) :
    ∃ track, (b.syncSet v l src x cl).syncObj l = (b.syncObj l).operated v src x cl track := by
  cases l with
  | ofAgent e i =>
    refine ⟨b.runActive e, ?_⟩
    have agents : (b.syncSet v (.ofAgent e i) src x cl).agent e = _ :=
      (agent_congr (by rw [syncSet_ofAgent, bump_agents, bump_agents]) e).trans (agent_modAgent_same b e _)
    simp only [syncObj, agents, tgetD_tmod_same]
  | ofHub i =>
    refine ⟨false, ?_⟩
    simp only [syncObj, syncSet_ofHub, bump_hb, modHb_hb, tgetD_tmod_same]

/-- Any other object is as it was. -/
theorem syncObj_syncSet_other (v : Env) (src : SyncSrc) (x : BitVec 32) (cl : Bool) (b : Blk) (other : k ≠ l) :
    (b.syncSet v l src x cl).syncObj k = b.syncObj k := by
  cases l with
  | ofAgent e i =>
    rw [syncSet_ofAgent]
    rw [syncObj_congr (b := b.modAgent e _) (by rw [bump_agents, bump_agents]) (by rw [bump_hb, bump_hb])]
    cases k with
    | ofHub j => rfl
    | ofAgent e' j =>
      by_cases same : e' = e
      · subst same
        rw [syncObj, agent_modAgent_same]
        exact tgetD_tmod_other _ _ _ _ fun h => other (by rw [h])
      · rw [syncObj, agent_modAgent_other _ _ same]
        rfl
  | ofHub i =>
    rw [syncSet_ofHub]
    rw [syncObj_congr (b := b.modHb _) (by rw [bump_agents, bump_agents]) (by rw [bump_hb, bump_hb])]
    cases k with
    | ofAgent e j => rfl
    | ofHub j => exact tgetD_tmod_other _ _ _ _ fun h => other (by rw [h])

theorem onlySync_syncSet (v : Env) (src : SyncSrc) (x : BitVec 32) (cl : Bool) (b : Blk) (l : SyncLoc) :
    OnlySync b (b.syncSet v l src x cl) := by
  cases l with
  | ofAgent e i =>
    refine ⟨fun k => ?_, ?_⟩
    · rw [syncSet_ofAgent, agent_congr (b := b.modAgent e _) (by rw [bump_agents, bump_agents])]
      by_cases same : k = e
      · subst same
        rw [agent_modAgent_same]
      · rw [agent_modAgent_other _ _ same]
    · rw [syncSet_ofAgent]
      unfold bump
      split <;> split <;> rfl
  | ofHub i =>
    refine ⟨fun k => ?_, ?_⟩
    · rw [syncSet_ofHub, agent_congr (b := b) (by rw [bump_agents, bump_agents, modHb_agents])]
    · rw [syncSet_ofHub]
      unfold bump
      split <;> split <;> rfl

theorem syncSet_out (v : Env) (src : SyncSrc) (x : BitVec 32) (cl : Bool) (b : Blk) (l : SyncLoc) :
    (b.syncSet v l src x cl).out = b.out := by
  cases l with
  | ofAgent e i => rw [syncSet_ofAgent, bump_out, bump_out]; rfl
  | ofHub i => rw [syncSet_ofHub, bump_out, bump_out]; rfl

theorem waitsOn_syncSet (v : Env) (src : SyncSrc) (x : BitVec 32) (cl : Bool) (b : Blk) (l k : SyncLoc) :
    (b.syncSet v l src x cl).waitsOn k = b.waitsOn k := by
  obtain ⟨agents, frame⟩ := onlySync_syncSet v src x cl b l
  exact waitsOn_congr (fun k => by rw [agents k]) (by rw [frame]) k

/-! ### Operations on an object on which nothing waits -/

theorem testWaits_quiet (v : Env) (n : Nat) (quiet : b.waitsOn l = []) : b.testWaits v l n = b := by
  cases n with
  | zero => rfl
  | succ n => simp [testWaits, quiet, forEach]

theorem syncApply_quiet (v : Env) (src : SyncSrc) (x : BitVec 32) (cl : Bool) (quiet : b.waitsOn l = []) :
    b.syncApply v l src x cl = b.syncSet v l src x cl :=
  testWaits_quiet v _ (by rw [waitsOn_syncSet]; exact quiet)

/-! ### Faults of a run -/

theorem syncObj_modAgent {f : Agent → Agent} (b : Blk) (e : Nat) (k : SyncLoc) (keep : ∀ a, (f a).locals = a.locals) :
    (b.modAgent e f).syncObj k = b.syncObj k := by
  cases k with
  | ofHub j => rfl
  | ofAgent e' j =>
    by_cases same : e' = e
    · subst same
      rw [syncObj, agent_modAgent_same, keep]
      rfl
    · rw [syncObj, agent_modAgent_other _ _ same]
      rfl

/-- A task fault of an active run is in its completion word. -/
theorem taskFault_run {e : Nat} {r : Run} (run : (b.agent e).run = some r) (st : BitVec 8) :
    b.taskFault e r.ref st = b.modAgent e fun a => { a with run := some (r.faulted st) } := by
  rw [taskFault, if_pos (by rw [run]; rfl), runFault, faultRun]
  refine modAgent_congr ?_
  rw [run]
  rfl

theorem opFault_run {e : Nat} {r : Run} (run : (b.agent e).run = some r) (st : BitVec 8) :
    b.opFault e r.ref st = (b.modAgent e fun a => { a with run := some (r.faulted st) }).emit (.opResult e st 0 []) := by
  rw [opFault, taskFault_run run]
  rfl

/-- A run is the same behind operations on sync objects. -/
theorem run_syncSet (v : Env) (src : SyncSrc) (x : BitVec 32) (cl : Bool) (b : Blk) (l : SyncLoc) (e : Nat) :
    ((b.syncSet v l src x cl).agent e).run = (b.agent e).run := by
  rw [(onlySync_syncSet v src x cl b l).1 e]

/-- An ADD of a run on an object on which nothing waits. -/
theorem runAdd_quiet (v : Env) {e : Nat} {r : Run} (src : SyncSrc) (d : BitVec 32) (run : (b.agent e).run = some r)
    (quiet : b.waitsOn l = []) :
    let a := syncAdd (b.syncObj l).value d
    let c := b.syncSet v l src a.1 a.2
    b.runAdd v e r.ref l src d =
      if a.2 then c.modAgent e fun a => { a with run := some (r.faulted stSaturated) } else c := by
  intro a c
  have applied : b.syncApply v l src a.1 a.2 = c := syncApply_quiet v src a.1 a.2 quiet
  have added : b.runAdd v e r.ref l src d = if a.2 then (b.syncApply v l src a.1 a.2).taskFault e r.ref stSaturated else
      b.syncApply v l src a.1 a.2 := rfl
  rw [added, applied, taskFault_run (by rw [run_syncSet]; exact run)]

/-- What an ADD of a run on an object on which nothing waits changes (R213, R216). -/
theorem runAdd_leaves (v : Env) {e : Nat} {r : Run} (src : SyncSrc) (d : BitVec 32) (run : (b.agent e).run = some r)
    (quiet : b.waitsOn l = []) :
    let c := b.runAdd v e r.ref l src d
    let x : Int := (b.syncObj l).value.toNat + d.toInt
    ((c.syncObj l).value.toNat : Int) = max 0 (min 0xFFFFFFFF x) ∧
    (c.syncObj l).sat = ((b.syncObj l).sat || decide (x < 0 ∨ 0xFFFFFFFF < x)) ∧
    (c.agent e).run = some (if x < 0 ∨ 0xFFFFFFFF < x then r.faulted stSaturated else r) ∧
    (∀ k, k ≠ l → c.syncObj k = b.syncObj k) ∧
    (∀ k, k ≠ e → c.agent k = { b.agent k with locals := (c.agent k).locals }) ∧
    c.out = b.out ∧
    c = { b with agents := c.agents, hb := { b.hb with gsync := c.hb.gsync }, counters := c.counters } := by
  intro c x
  obtain ⟨value, clamped⟩ := syncAdd_eq (b.syncObj l).value d
  obtain ⟨track, same⟩ := syncObj_syncSet_same v src (syncAdd (b.syncObj l).value d).1 (syncAdd (b.syncObj l).value d).2 b l
  have others (k : SyncLoc) (other : k ≠ l) :=
    syncObj_syncSet_other v src (syncAdd (b.syncObj l).value d).1 (syncAdd (b.syncObj l).value d).2 b other
  have out := syncSet_out v src (syncAdd (b.syncObj l).value d).1 (syncAdd (b.syncObj l).value d).2 b l
  have ran := (run_syncSet v src (syncAdd (b.syncObj l).value d).1 (syncAdd (b.syncObj l).value d).2 b l e).trans run
  obtain ⟨agents, frame⟩ := onlySync_syncSet v src (syncAdd (b.syncObj l).value d).1 (syncAdd (b.syncObj l).value d).2 b l
  have added : c = _ := runAdd_quiet v src d run quiet
  generalize b.syncSet v l src (syncAdd (b.syncObj l).value d).1 (syncAdd (b.syncObj l).value d).2 = y at *
  have only : y = { b with agents := y.agents, hb := { b.hb with gsync := y.hb.gsync }, counters := y.counters } := by
    conv => lhs; rw [frame, out]
  rw [added, clamped]
  have sat := congrArg SyncObj.sat same
  have val : ((y.syncObj l).value.toNat : Int) = _ := (congrArg (fun o => (SyncObj.value o).toNat : SyncObj → Int) same).trans value
  simp only [SyncObj.operated, clamped] at sat
  by_cases clamp : x < 0 ∨ 0xFFFFFFFF < x
  · have keep (k : SyncLoc) := syncObj_modAgent (f := fun a => { a with run := some (r.faulted stSaturated) }) y e k
      (by intro _; rfl)
    rw [if_pos (decide_eq_true clamp), if_pos clamp, keep]
    refine ⟨val, sat, congrArg Agent.run (agent_modAgent_same y e _), fun k other => (keep k).trans (others k other),
      fun k other => (agent_modAgent_other _ _ other).trans ?_, out, ?_⟩
    · rw [agent_modAgent_other _ _ other]
      exact agents k
    · exact congrArg (fun c : Blk => c.modAgent e fun a => { a with run := some (r.faulted stSaturated) }) only
  · rw [if_neg (by simpa using clamp), if_neg clamp]
    exact ⟨val, sat, ran, others, fun k _ => agents k, out, only⟩

/-- A wait of a run whose condition holds, on an object on which nothing waits. -/
theorem beginWait_quiet (v : Env) {e : Nat} {t : TaskRef} {id : BitVec 32} {w : Wait}
    (loc : b.syncLoc v e t.ctx id = some l) (own : ∀ k i, l = .ofAgent k i → k = e) (holds : w.holds (b.syncObj l).value = true)
    (quiet : b.waitsOn l = []) :
    b.beginWait v e t id w = (b.syncSet v l { kind := 0, src := e }
      (if w.op = .take then (b.syncObj l).value - w.operand else (b.syncObj l).value) false).emit (.opResult e stOk 0 []) := by
  cases l with
  | ofAgent k i =>
    obtain rfl := own k i rfl
    simp [beginWait, loc, holds, syncApply_quiet v _ _ _ quiet, opReply]
  | ofHub i => simp [beginWait, loc, holds, syncApply_quiet v _ _ _ quiet, opReply]

end Blk

/-! ### Operations on an object on which nothing waits: O32 -/

section
variable {s : State} {e : Nat} {r : Run}

theorem RunsAt.acts (at_ : RunsAt s e r) (f : Env → Run → Blk → Blk) :
    atRun s e f = .next { s with blk := f s.env r s.blk } :=
  atRun_acts at_.engine at_.moving at_.nowait at_.nostall at_.run at_.active

theorem exec_syncRead {id : BitVec 32} {l : SyncLoc} (at_ : RunsAt s e r) (loc : s.blk.syncLoc s.env e r.ref.ctx id = some l)
    (quiet : s.blk.waitsOn l = []) :
    exec (.syncRead e id) s = .next { s with
      blk := (s.blk.syncSet s.env l { kind := 0, src := e } (s.blk.syncObj l).value false).emit
        (.opResult e stOk (s.blk.syncObj l).value []) } := by
  refine (at_.acts _).trans ?_
  rw [loc]
  dsimp only
  rw [Blk.syncApply_quiet s.env _ _ _ quiet]
  rfl

theorem exec_syncAdd {id d : BitVec 32} {l : SyncLoc} (at_ : RunsAt s e r) (open_ : r.parks = false)
    (loc : s.blk.syncLoc s.env e r.ref.ctx id = some l) :
    exec (.syncAdd e id d) s = .next { s with
      blk := (s.blk.runAdd s.env e r.ref l { kind := 0, src := e } d).emit (.opResult e stOk 0 []) } := by
  refine (at_.acts _).trans ?_
  rw [loc]
  dsimp only
  rw [open_]
  rfl

/-- What an operation that is answered on an object shows: the object's value, no other object, and the answer. -/
theorem syncAnswered {c : Instr} {l : SyncLoc} {x y : BitVec 32}
    (ran : exec c s = .next { s with
      blk := (s.blk.syncSet s.env l { kind := 0, src := e } x false).emit (.opResult e stOk y []) }) :
    Does c s fun t => OnlyBlk s t ∧
      (t.blk.syncObj l).value = x ∧ (t.blk.syncObj l).sat = (s.blk.syncObj l).sat ∧
      (∀ k, k ≠ l → t.blk.syncObj k = s.blk.syncObj k) ∧
      t.blk.out = s.blk.out ++ [.opResult e stOk y []] ∧ OnlySync s.blk t.blk := by
  obtain ⟨track, same⟩ := Blk.syncObj_syncSet_same s.env { kind := 0, src := e } x false s.blk l
  refine ⟨_, ran, ⟨rfl, rfl, rfl⟩, congrArg SyncObj.value same, (congrArg SyncObj.sat same).trans ?_,
    fun k other => Blk.syncObj_syncSet_other _ _ _ _ _ other, congrArg (· ++ _) (Blk.syncSet_out ..),
    (Blk.onlySync_syncSet ..).emit _⟩
  exact Bool.or_false _

end

/-- Settles O32: `Blk.syncApply_quiet`, then what `Blk.syncSet` does to each object. -/
theorem syncOperationsAct : Obligations.SyncOperationsAct := by
  refine ⟨fun s e r id l at_ loc quiet => syncAnswered (exec_syncRead at_ loc quiet),
    fun s e r id delta l at_ open_ loc quiet => ?_, fun s e r id x l at_ loc quiet own => ⟨fun ge => ?_, fun eq => ?_, fun ge => ?_⟩⟩
  · refine ⟨_, exec_syncAdd at_ open_ loc, ⟨rfl, rfl, rfl⟩, ?_⟩
    obtain ⟨value, sat, ran, others, agents, out, frame⟩ :=
      Blk.runAdd_leaves s.env { kind := 0, src := e } delta at_.run quiet
    refine ⟨⟨value, sat, ran⟩, others, agents, congrArg (· ++ _) out, ?_⟩
    exact (congrArg (fun c : Blk => c.emit (.opResult e stOk 0 [])) frame).trans (by simp only [Blk.emit, out])
  · obtain ⟨t, ran, only, val, -, rest⟩ := syncAnswered (s := s) (e := e) (l := l) (x := (s.blk.syncObj l).value) (y := 0)
      (c := .syncWaitGe e id x) ((at_.acts _).trans (by rw [Blk.beginWait_quiet s.env loc own (by simpa [Wait.holds] using ge) quiet]; rfl))
    exact ⟨t, ran, only, val, rest⟩
  · obtain ⟨t, ran, only, val, -, rest⟩ := syncAnswered (s := s) (e := e) (l := l) (x := (s.blk.syncObj l).value) (y := 0)
      (c := .syncWaitEq e id x) ((at_.acts _).trans (by rw [Blk.beginWait_quiet s.env loc own (by simp [Wait.holds, eq]) quiet]; rfl))
    exact ⟨t, ran, only, val, rest⟩
  · obtain ⟨t, ran, only, val, -, rest⟩ := syncAnswered (s := s) (e := e) (l := l) (x := (s.blk.syncObj l).value - x) (y := 0)
      (c := .syncTake e id x) ((at_.acts _).trans (by rw [Blk.beginWait_quiet s.env loc own (by simpa [Wait.holds] using ge) quiet]; rfl))
    exact ⟨t, ran, only, val, rest⟩

/-! ### Waits and faults: O33 -/

/-- An object that a run has touched. -/
def SyncObj.touch (o : SyncObj) : SyncObj := { o with touched := true, start := if o.touched then o.start else o.value }

namespace Blk

variable {b : Blk} {l : SyncLoc} {e : Nat}

/-- A touch keeps every value. -/
theorem value_touchObj (b : Blk) (l k : SyncLoc) : ((b.touchObj l).syncObj k).value = (b.syncObj k).value := by
  cases l with
  | ofHub i => rfl
  | ofAgent e i =>
    rw [touchObj]
    split
    case isFalse => rfl
    case isTrue =>
      cases k with
      | ofHub j => rfl
      | ofAgent e' j =>
        by_cases engine : e' = e
        · subst engine
          rw [syncObj, agent_modAgent_same]
          by_cases index : j = i
          · subst index
            exact (congrArg SyncObj.value (tgetD_tmod_same {} (b.agent e').locals j SyncObj.touch)).trans rfl
          · exact congrArg SyncObj.value (tgetD_tmod_other {} {} (b.agent e').locals SyncObj.touch index)
        · rw [syncObj, agent_modAgent_other _ _ engine]
          rfl

/-- An operation of an active run on a local object touches it (R217). -/
theorem touched_touchObj {i : Nat} (active : b.runActive e = true) :
    ((b.touchObj (.ofAgent e i)).syncObj (.ofAgent e i)).touched = true := by
  rw [touchObj, if_pos active, syncObj, agent_modAgent_same]
  exact (congrArg SyncObj.touched (tgetD_tmod_same {} (b.agent e).locals i SyncObj.touch)).trans rfl

theorem otherAgents_touchObj (own : ∀ k i, l = .ofAgent k i → k = e) : OtherAgents e b (b.touchObj l) := by
  cases l with
  | ofHub i => exact fun _ _ => rfl
  | ofAgent k i =>
    obtain rfl := own k i rfl
    rw [touchObj]
    split
    · exact otherAgents_modAgent b k _
    · exact fun _ _ => rfl

theorem touchObj_frame (b : Blk) (l : SyncLoc) : b.touchObj l = { b with agents := (b.touchObj l).agents } := by
  cases l with
  | ofHub i => rfl
  | ofAgent k i =>
    rw [touchObj]
    split <;> rfl

/-- The agent of an engine that begins to wait: its object is touched, and the engine is gated. -/
def gated (l : SyncLoc) (e : Nat) (w : Wait) (b : Blk) : Blk :=
  ((b.touchObj l).modAgent e fun a => { a with wait := some (l.number, w) }).emit (.gate e true)

/-- What a gated engine shows. -/
theorem gated_leaves (b : Blk) (w : Wait) (own : ∀ k i, l = .ofAgent k i → k = e) :
    ((b.gated l e w).agent e).wait = some (l.number, w) ∧ OtherAgents e b (b.gated l e w) ∧
      (∀ k, ((b.gated l e w).syncObj k) = (b.touchObj l).syncObj k) ∧
      (b.gated l e w).out = b.out ++ [.gate e true] ∧
      b.gated l e w = { b with agents := (b.gated l e w).agents, out := (b.gated l e w).out } := by
  have frame := touchObj_frame b l
  refine ⟨congrArg Agent.wait ((agent_emit ..).trans (agent_modAgent_same ..)), fun k other => ?_,
    fun k => syncObj_modAgent (f := fun a => { a with wait := some (l.number, w) }) _ e k (by intro _; rfl), ?_,
    Within.eq (l := [.agents, .out]) (by simp [gated])⟩
  · exact ((agent_emit ..).trans (agent_modAgent_other _ _ other)).trans (otherAgents_touchObj own k other)
  · exact congrArg (fun c : Blk => c.out ++ [.gate e true]) frame

/-- A wait whose condition does not hold gates its engine (R215, R217). -/
theorem beginWait_gates (v : Env) {t : TaskRef} {id : BitVec 32} {w : Wait}
    (loc : b.syncLoc v e t.ctx id = some l) (own : ∀ k i, l = .ofAgent k i → k = e)
    (fails : w.holds (b.syncObj l).value = false) (active : b.runActive e = true) :
    let c := b.beginWait v e t id w
    (c.agent e).wait = some (l.number, w) ∧ OtherAgents e b c ∧ (∀ k, (c.syncObj k).value = (b.syncObj k).value) ∧
      (∀ i, l = .ofAgent e i → (c.syncObj l).touched = true) ∧
      (∀ i, l = .ofHub i → c.waitsOn l = b.waitsOn l ++ [w]) ∧ c.out = b.out ++ [.gate e true] ∧
      c = { b with agents := c.agents, hb := { b.hb with gwaits := c.hb.gwaits }, out := c.out } := by
  intro c
  obtain ⟨wait, others, objs, out, frame⟩ := gated_leaves b w own
  cases l with
  | ofAgent k i =>
    obtain rfl := own k i rfl
    have same : c = b.gated (.ofAgent k i) k w := by simp [c, beginWait, loc, fails, gated]
    rw [same]
    refine ⟨wait, others, fun j => by rw [objs, value_touchObj], fun j _ => ?_, fun j h => (by cases h), out, ?_⟩
    · rw [objs]
      exact touched_touchObj active
    · have hb := congrArg Blk.hb frame
      conv => lhs; rw [frame]
      rw [hb]
  | ofHub i =>
    have same : c = (b.gated (.ofHub i) e w).modHb fun h => { h with gwaits := tmod [] h.gwaits i (· ++ [w]) } := by
      simp [c, beginWait, loc, fails, gated]
    rw [same]
    refine ⟨wait, others, fun j => ?_, fun j h => (by cases h), fun j _ => ?_, out, ?_⟩
    · rw [← value_touchObj b (.ofHub i) j, ← objs]
      exact congrArg SyncObj.value (syncObj_congr (modHb_agents ..) rfl j)
    · exact tgetD_tmod_same [] b.hb.gwaits i (· ++ [w])
    · exact congrArg (fun c : Blk => c.modHb fun h => { h with gwaits := tmod [] h.gwaits i (· ++ [w]) }) frame

/-- What a satisfied wait on a global object shows, where it is the only one. -/
theorem satisfy_leaves (v : Env) {i : Nat} {w : Wait} (x : BitVec 32) (one : b.waitsOn (.ofHub i) = [w]) :
    let c := b.satisfy v (.ofHub i) x w
    (c.syncObj (.ofHub i)).value = (if w.op = .take then x - w.operand else x) ∧
      (∀ k, k ≠ .ofHub i → c.syncObj k = b.syncObj k) ∧ (c.agent w.engine).wait = none ∧ c.waitsOn (.ofHub i) = [] ∧
      c.out = b.out ++ [.gate w.engine false, .opResult w.engine stOk 0 []] := by
  intro c
  obtain ⟨track, same⟩ := syncObj_syncSet_same v { kind := 0, src := w.engine } (if w.op = .take then x - w.operand else x)
    false (b.wake (.ofHub i) w) (.ofHub i)
  have woken (k : SyncLoc) : (b.wake (.ofHub i) w).syncObj k = b.syncObj k :=
    syncObj_modAgent (f := fun a => { a with wait := none }) b w.engine k (by intro _; rfl)
  refine ⟨congrArg SyncObj.value same, fun k other => (syncObj_syncSet_other _ _ _ _ _ other).trans (woken k), ?_, ?_, ?_⟩
  · have agent := agent_modAgent_same b w.engine fun a => { a with wait := none }
    exact (congrArg Agent.wait ((onlySync_syncSet ..).1 w.engine)).trans ((congrArg Agent.wait agent).trans rfl)
  · refine (waitsOn_syncSet ..).trans ?_
    show tgetD [] (tmod [] b.hb.gwaits i fun ws => ws.filter fun x => x.engine != w.engine) i = []
    rw [tgetD_tmod_same]
    have : tgetD [] b.hb.gwaits i = [w] := one
    simp [this]
  · exact (syncSet_out ..).trans (List.append_assoc ..)

/-- The only wait on a global object ends where its condition holds; a TAKE subtracts (R215). -/
theorem testWaits_one (v : Env) {i n : Nat} {w : Wait} (one : b.waitsOn (.ofHub i) = [w])
    (holds : w.holds (b.syncObj (.ofHub i)).value = true) :
    b.testWaits v (.ofHub i) (n + 1) = b.satisfy v (.ofHub i) (b.syncObj (.ofHub i)).value w := by
  obtain ⟨-, -, -, done, -⟩ := satisfy_leaves v (b.syncObj (.ofHub i)).value one
  by_cases take : w.op = .take
  · have none : (b.waitsOn (.ofHub i)).filter (fun w => w.op != .take && w.holds (b.syncObj (.ofHub i)).value) = [] := by
      simp [one, take]
    have first : (b.waitsOn (.ofHub i)).find? (fun w => w.op == .take && w.holds (b.syncObj (.ofHub i)).value) = some w := by
      simp [one, take, holds]
    simp only [testWaits, none, forEach, List.foldl_nil, first]
    exact testWaits_quiet v n done
  · have all : (b.waitsOn (.ofHub i)).filter (fun w => w.op != .take && w.holds (b.syncObj (.ofHub i)).value) = [w] := by
      simp [one, take, holds]
    simp only [testWaits, all, forEach, List.foldl_cons, List.foldl_nil, done, List.find?_nil]

end Blk

section
variable {s : State} {e : Nat} {r : Run}

theorem RunsAt.runActive (at_ : RunsAt s e r) : s.blk.runActive e = true := by
  rw [Blk.runActive, at_.run]
  exact at_.active

/-- What an operation shows that is turned away with a fault. -/
theorem turnedAway {c : Instr} {st : BitVec 8} (at_ : RunsAt s e r)
    (ran : exec c s = .next { s with blk := s.blk.opFault e r.ref st }) :
    Does c s fun t => OnlyBlk s t ∧ t.blk.agent e = { s.blk.agent e with run := some (r.faulted st) } ∧
      OtherAgents e s.blk t.blk ∧ t.blk.out = s.blk.out ++ [.opResult e st 0 []] ∧
      t.blk = { s.blk with agents := t.blk.agents, out := t.blk.out } := by
  rw [Blk.opFault_run at_.run] at ran
  exact ⟨_, ran, ⟨rfl, rfl, rfl⟩, (Blk.agent_emit ..).trans (Blk.agent_modAgent_same ..),
    (Blk.otherAgents_modAgent s.blk e _).emit _, rfl, rfl⟩

/-- A wait on an object that the run may not wait on, or on none, is a fault (R213). -/
theorem Blk.beginWait_refused (v : Env) {b : Blk} {t : TaskRef} {id : BitVec 32} (w : Wait)
    (bad : b.syncLoc v e t.ctx id = none ∨ ∃ k i, b.syncLoc v e t.ctx id = some (.ofAgent k i) ∧ k ≠ e) :
    b.beginWait v e t id w = b.opFault e t := by
  obtain none | ⟨k, i, loc, other⟩ := bad
  · simp [beginWait, none]
  · simp [beginWait, loc, other]

/-- What an ADD shows after which the only wait on its object ends. -/
theorem Blk.runAdd_ends (v : Env) {b : Blk} {src : SyncSrc} {d : BitVec 32} {i : Nat} {w : Wait}
    (one : b.waitsOn (.ofHub i) = [w])
    (low : 0 ≤ ((b.syncObj (.ofHub i)).value.toNat : Int) + d.toInt)
    (high : ((b.syncObj (.ofHub i)).value.toNat : Int) + d.toInt < 2 ^ 32)
    (holds : w.holds ((b.syncObj (.ofHub i)).value + d) = true) :
    b.runAdd v e r.ref (.ofHub i) src d =
      (b.syncSet v (.ofHub i) src ((b.syncObj (.ofHub i)).value + d) false).satisfy v (.ofHub i)
        ((b.syncObj (.ofHub i)).value + d) w := by
  obtain ⟨track, same⟩ := syncObj_syncSet_same v src ((b.syncObj (.ofHub i)).value + d) false b (.ofHub i)
  have value : ((b.syncSet v (.ofHub i) src ((b.syncObj (.ofHub i)).value + d) false).syncObj (.ofHub i)).value = _ :=
    congrArg SyncObj.value same
  simp only [runAdd, syncAddAt, syncAdd_inRange low high, syncApply]
  rw [testWaits_one v (w := w) (by rw [waitsOn_syncSet]; exact one) (by rw [value]; exact holds), value]
  rfl

end

/-- Settles O33: `Blk.beginWait_gates` for the wait that begins, `Blk.testWaits_one` for the one that ends, and
`turnedAway` for what may not be done. -/
theorem waitsGateTheirEngine : Obligations.WaitsGateTheirEngine := by
  refine ⟨fun s e r id x l at_ loc own => ?_, fun s e r id delta i w at_ open_ loc one low high holds => ?_, fun s e r at_ => ?_⟩
  · have gates (op : WaitOp) (fails : ({ engine := e, op := op, operand := x } : Wait).holds (s.blk.syncObj l).value = false) :=
      Blk.beginWait_gates s.env loc own fails at_.runActive
    exact ⟨fun less => ⟨⟨_, at_.acts _, ⟨rfl, rfl, rfl⟩, gates .ge (by simpa [Wait.holds] using less)⟩,
        ⟨_, at_.acts _, ⟨rfl, rfl, rfl⟩, gates .take (by simpa [Wait.holds] using less)⟩⟩,
      fun ne => ⟨_, at_.acts _, ⟨rfl, rfl, rfl⟩, gates .eq (by simpa [Wait.holds] using ne)⟩⟩
  · refine ⟨_, exec_syncAdd at_ open_ loc, ⟨rfl, rfl, rfl⟩, ?_⟩
    dsimp only
    rw [Blk.runAdd_ends s.env one low high holds]
    have one' := (Blk.waitsOn_syncSet s.env { kind := 0, src := e } ((s.blk.syncObj (.ofHub i)).value + delta) false s.blk
      (.ofHub i) (.ofHub i)).trans one
    obtain ⟨value, others, wait, waits, out⟩ := Blk.satisfy_leaves s.env ((s.blk.syncObj (.ofHub i)).value + delta) one'
    refine ⟨value.trans ?_, fun k other => (others k other).trans (Blk.syncObj_syncSet_other _ _ _ _ _ other), wait, waits, ?_⟩
    · split <;> simp
    · exact congrArg (· ++ [_]) (out.trans (by rw [Blk.syncSet_out])) |>.trans (List.append_assoc ..)
  · exact ⟨turnedAway at_ (at_.acts _), turnedAway at_ (at_.acts _), turnedAway at_ (at_.acts _),
      fun x bad => turnedAway at_ ((at_.acts _).trans (by rw [bad]; rfl)),
      fun id x none => ⟨turnedAway at_ ((at_.acts _).trans (by rw [none])), turnedAway at_ ((at_.acts _).trans (by rw [none])),
        turnedAway at_ ((at_.acts _).trans (by rw [Blk.beginWait_refused s.env _ (.inl none)])),
        turnedAway at_ ((at_.acts _).trans (by rw [Blk.beginWait_refused s.env _ (.inl none)])),
        turnedAway at_ ((at_.acts _).trans (by rw [Blk.beginWait_refused s.env _ (.inl none)]))⟩,
      fun id x k i loc other => ⟨
        turnedAway at_ ((at_.acts _).trans (by rw [Blk.beginWait_refused s.env _ (.inr ⟨k, i, loc, other⟩)])),
        turnedAway at_ ((at_.acts _).trans (by rw [Blk.beginWait_refused s.env _ (.inr ⟨k, i, loc, other⟩)])),
        turnedAway at_ ((at_.acts _).trans (by rw [Blk.beginWait_refused s.env _ (.inr ⟨k, i, loc, other⟩)]))⟩⟩

/-! ### Remote signals and the completion signal of a DMA run: O34 -/

/-- A stream that no other context owns is or becomes the context's own (R223). -/
theorem Blk.bindStream_own {b : Blk} {c : Nat} {x : BitVec 16}
    (own : (tgetD {} b.hb.streams x.toNat).owner = none ∨ (tgetD {} b.hb.streams x.toNat).owner = some c) :
    ∃ l, b.bindStream c x = some { b with hb := { b.hb with streams := l } } ∧ (tgetD {} l x.toNat).owner = some c ∧
      ((tgetD {} b.hb.streams x.toNat).owner = some c → l = b.hb.streams) := by
  obtain free | mine := own
  · refine ⟨_, by rw [bindStream, free]; rfl, congrArg SendRec.owner (tgetD_tput_same ..), fun h => ?_⟩
    rw [free] at h
    cases h
  · exact ⟨_, by simp only [bindStream, mine, if_pos], mine, fun _ => rfl⟩

/-- A stream of another context is not bound (R223). -/
theorem Blk.bindStream_other {b : Blk} {c o : Nat} {x : BitVec 16} (owner : (tgetD {} b.hb.streams x.toNat).owner = some o)
    (other : o ≠ c) : b.bindStream c x = none := by
  simp only [bindStream, owner, if_neg other]

/-- Settles O34: `Blk.bindStream_own` for the stream of a remote signal, `Blk.runAdd_leaves` for the signal of a DMA run,
and `Blk.park_fits` for what a shadow run parks. -/
theorem runsKeepTheirSignals : Obligations.RunsKeepTheirSignals := by
  refine ⟨fun s e r x at_ open_ room ok own => ?_, fun s e r x at_ open_ bad => ?_,
    fun s e r id delta l at_ open_ loc quiet low high => ?_, fun s e r id delta x l at_ parks room loc => ?_⟩
  · obtain ⟨l, bound, mine, same⟩ := Blk.bindStream_own own
    let d : Blk := { s.blk with hb := { s.blk.hb with streams := l } }
    have ran : exec (.syncRsig e x) s = .next { s with
        blk := (keepInRun e (r.rsig ++ [x]) d).emit (.opResult e stOk 0 []) } := by
      refine (at_.acts _).trans ?_
      simp only [ok, open_, Blk.pendSignal, bound, Blk.opReply]
      simp [Nat.not_le.2 room, d]
    have run : (keepInRun e (r.rsig ++ [x]) d).agent e = _ := Blk.agent_modAgent_same d e _
    refine ⟨_, ran, ⟨rfl, rfl, rfl⟩, (congrArg Agent.run ((Blk.agent_emit ..).trans run)).trans ?_,
      (Blk.otherAgents_modAgent d e _).emit _, mine, fun h => ?_, rfl, rfl⟩
    · exact congrArg (Option.map fun q : Run => { q with rsig := r.rsig ++ [x] }) at_.run
    · exact congrArg (fun l => { s.blk.hb with streams := l }) (same h)
  · have ran : exec (.syncRsig e x) s = .next { s with blk := s.blk.opFault e r.ref } := by
      refine (at_.acts _).trans ?_
      by_cases ok : rsigOk x = true
      · have none : 16 ≤ r.rsig.length ∨ s.blk.bindStream r.ref.ctx x.stream = none :=
          bad.imp id fun ⟨c, owner, other⟩ => Blk.bindStream_other owner other
        have faulted : s.blk.pendSignal e r.ref r.rsig (keepInRun e) x = s.blk.taskFault e r.ref stContextFault := by
          by_cases full : 16 ≤ r.rsig.length
          · simp [Blk.pendSignal, full]
          · simp [Blk.pendSignal, ok, none.resolve_left full]
        have refused : 16 ≤ r.rsig.length ∨ (s.blk.bindStream r.ref.ctx x.stream).isNone = true := by
          simpa using none
        simp only [ok, open_, faulted, if_pos refused]
        rfl
      · simp [ok]
    obtain ⟨t, ran, only, agent, -, out, frame⟩ := turnedAway at_ ran
    exact ⟨t, ran, only, congrArg Agent.run agent, (congrArg Blk.hb frame).trans rfl, out⟩
  · have ran : exec (.dmaCompletionSignal e id delta) s = .next { s with
        blk := s.blk.runAdd s.env e r.ref l { kind := 1, src := e } delta } := by
      refine (at_.acts _).trans ?_
      rw [loc]
      dsimp only
      rw [open_]
      rfl
    rw [Blk.runAdd_quiet s.env _ delta at_.run quiet, syncAdd_inRange low high] at ran
    obtain ⟨track, same⟩ := Blk.syncObj_syncSet_same s.env { kind := 1, src := e } ((s.blk.syncObj l).value + delta) false
      s.blk l
    exact ⟨_, ran, ⟨rfl, rfl, rfl⟩, congrArg SyncObj.value same, (congrArg SyncObj.sat same).trans (Bool.or_false _),
      fun k other => Blk.syncObj_syncSet_other _ _ _ _ _ other, Blk.syncSet_out .., Blk.onlySync_syncSet ..⟩
  · have parked {c : Instr} (i : HoldItem) (small : itemBytes i ≤ 32)
        (ran : exec c s = .next { s with blk := s.blk.park e r.ref i }) :
        ∃ t, exec c s = .next t ∧ OnlyBlk s t ∧
          t.blk.agent e = { s.blk.agent e with items := (s.blk.agent e).items ++ [(r.ref, i)] } ∧
          OtherAgents e s.blk t.blk ∧ t.blk = { s.blk with agents := t.blk.agents } := by
      rw [Blk.park_fits (by omega)] at ran
      exact ⟨_, ran, ⟨rfl, rfl, rfl⟩, Blk.agent_modAgent_same s.blk e _, Blk.otherAgents_modAgent s.blk e _, rfl⟩
    refine ⟨parked _ (by simp [itemBytes]) ((at_.acts _).trans ?_), fun ok => parked _ (by simp [itemBytes]) ((at_.acts _).trans ?_),
      parked _ (by simp [itemBytes]) ((at_.acts _).trans ?_)⟩
    · rw [loc]
      dsimp only
      rw [if_pos parks]
    · rw [ok]
      dsimp only
      rw [if_pos parks]
      rfl
    · rw [loc]
      dsimp only
      rw [if_pos parks]

end Sys2Proof.Machine
end

section
/-!
# Remote signals: the sender (R226), the receiver (R227, R228): settles O35 and O36
-/
namespace Sys2Proof.Machine

/-! ### The journal's acknowledgements (R27) -/

/-- What the journal's channel has acknowledged, and whether it has halted. -/
def Rel.channel (l : Rel) : Nat × Bool := (l.acked, l.jHalted)

namespace Blk

variable {b c : Blk}

theorem channel_writeLog (v : Env) (r : ELogRec) (b : Blk) : (b.writeLog v r).rel.channel = b.rel.channel := rfl

theorem channel_elogReturn (v : Env) (b : Blk) : (b.elogReturn v).rel.channel = b.rel.channel := by
  rw [elogReturn]
  split <;> rfl

theorem channel_logError (v : Env) (r : ELogRec) (b : Blk) : (b.logError v r).rel.channel = b.rel.channel := by
  have queued : ((b.queueLog v r).elogReturn v).rel.channel = b.rel.channel :=
    (channel_elogReturn ..).trans (congrArg Rel.channel
      ((by simp : Within [.mc, .counters, .fresh] b (b.queueLog v r)) .rel (by simp)))
  rw [logError]
  split
  · exact (channel_writeLog ..).trans queued
  · exact (congrArg Rel.channel (bump_rel ..)).trans queued

theorem channel_storedRead (v : Env) (p : Place) (n : Nat) (x : Ecc) (b : Blk) :
    (b.storedRead v p n x).rel.channel = b.rel.channel := by
  rw [storedRead]
  dsimp only
  split
  · rfl
  · split
    · exact congrArg Rel.channel (bump_rel ..)
    · refine (channel_logError ..).trans ?_
      exact (congrArg Rel.channel (bump_rel b .wordCorrected 0 1) :)
  · exact (channel_logError ..).trans (congrArg Rel.channel (bump_rel ..))
  · exact (channel_logError ..).trans (congrArg Rel.channel (bump_rel ..))

theorem channel_haltChannel (v : Env) (ctx : Option Nat) (b : Blk) : (b.haltChannel v ctx).rel.channel = b.rel.channel :=
  ((congrArg Rel.channel (bump_rel ..)).trans (channel_storedRead ..)).trans rfl

/-- Asking for a block reset: a cause is pending then. -/
theorem askReset_leaves (b : Blk) (cause : Cause) :
    (b.askReset cause).rel.pendingCause.isSome = true ∧ (b.askReset cause).rel.channel = b.rel.channel := by
  rw [askReset]
  split
  next pending => exact ⟨pending, rfl⟩
  next => exact ⟨rfl, rfl⟩

/-- What the acknowledgement of the journal lets go at the rings takes no record of it. -/
theorem releaseEffects_eq (v : Env) (b : Blk) :
    ∃ c w, Within [.fe, .out] b c ∧ b.releaseEffects v = c.modRel fun l => { l with waiting := w } :=
  ⟨_, _, within_foldl_fst (l := [.fe, .out]) (fun p x => by dsimp only; split <;> simp) b.rel.waiting (b, []), rfl⟩

/-- An outstanding signal that is sent now if its record is written and it was not sent before (R224). -/
def firstSent (v : Env) (b : Blk) (o : Outstanding) : Outstanding :=
  if o.sentAt.isNone && b.ticketWritten o.ticket then { o with sentAt := some v.n } else o

theorem hb_transmitSignals (v : Env) (b : Blk) :
    (b.transmitSignals v).hb = { b.hb with outstanding := b.hb.outstanding.map (b.firstSent v) } := by
  have sent : Within [.out, .counters] (b.modHb fun h => { h with
      outstanding := h.outstanding.map (b.firstSent v) }) (b.transmitSignals v) := by
    unfold transmitSignals
    rw [within_bump _ _ _ (by simp)]
    exact Within.forEach _ (fun o c => by simp) _
  exact sent .hb (by simp)

theorem hb_ackReleased (v : Env) (b : Blk) : ∃ l, (b.ackReleased v).hb = { b.hb with ackDue := l } := by
  refine ⟨b.hb.ackDue.filter fun p => !b.ticketWritten p.1, ?_⟩
  have sent : Within [.out, .counters] (b.modHb fun h => { h with
      ackDue := h.ackDue.filter fun p => !b.ticketWritten p.1 }) (b.ackReleased v) := by
    unfold ackReleased
    exact Within.forEach _ (fun o c => by simp) _
  exact sent .hb (by simp)

/-- What the acknowledgement of the journal lets go sends and writes only. -/
theorem afterAck_leaves (v : Env) (b : Blk) :
    (∃ w, (b.afterAck v).rel = { b.rel with waiting := w }) ∧ (b.afterAck v).reaches = b.reaches ∧
      (b.afterAck v).agents = b.agents ∧ (b.afterAck v).hb.channels = b.hb.channels ∧
      (b.afterAck v).hb.gsync = b.hb.gsync ∧ (b.afterAck v).hb.outstanding.length = b.hb.outstanding.length := by
  obtain ⟨c, w, kept, released⟩ := releaseEffects_eq v b
  have sent := hb_transmitSignals v (b.releaseEffects v)
  obtain ⟨l, acked⟩ := hb_ackReleased v ((b.releaseEffects v).transmitSignals v)
  have fences : Within [.fe, .out] (((b.releaseEffects v).transmitSignals v).ackReleased v) (b.afterAck v) := by
    simp [afterAck]
  have signals : Within [.hb, .out, .counters] (b.releaseEffects v)
      (((b.releaseEffects v).transmitSignals v).ackReleased v) := by simp
  have all : Within [.fe, .rel, .out, .hb, .counters] b (b.afterAck v) := by simp [afterAck]
  have hb : (b.afterAck v).hb = { b.hb with ackDue := l, outstanding := b.hb.outstanding.map ((b.releaseEffects v).firstSent v) } := by
    rw [fences .hb (by simp), acked, sent, (by simp : Within [.fe, .rel, .out] b (b.releaseEffects v)) .hb (by simp)]
  refine ⟨⟨w, ?_⟩, all .reaches (by simp), all .agents (by simp), (congrArg Hb.channels hb).trans rfl,
    (congrArg Hb.gsync hb).trans rfl, ?_⟩
  · rw [((signals.mono (k := [.hb, .out, .counters]) (l := [.fe, .hb, .out, .counters]) (by simp)).trans (fences.mono (k := [.fe, .out]) 
      (by simp))) .rel (by simp)]
    rw [released]
    exact congrArg (fun l : Rel => { l with waiting := w }) (kept .rel (by simp))
  · rw [hb]
    exact List.length_map ..

end Blk

theorem exec_journalAck {s : State} (n : Nat) (err : Bool) (running : s.blk.rel.jHalted = false) :
    exec (.journalAck n err) s = .next { s with
      blk := if err then ((s.blk.modRel fun l => { l with jHalted := true }).haltChannel s.env none).askReset .journalHalt
        else
          let b := s.blk.modRel fun l => { l with acked := min l.slots (l.acked + n) }
          if s.blk.frozen then b.releaseEffects s.env else b.afterAck s.env } := by
  simp only [exec, execJournalAck, onBlk]
  rw [if_neg (ne_true_of_eq_false running)]
  rfl

/-! ### Resending and acknowledgements (R226) -/

/-- The low bits of a word that is cut. -/
theorem bits_setWidth {w v n : Nat} (x : BitVec w) (le : n ≤ v) : bits (x.setWidth v) 0 n = bits x 0 n := by
  simp [bits, BitVec.toNat_setWidth, Nat.mod_mod_of_dvd _ (Nat.pow_dvd_pow 2 le)]

/-- An acknowledgement that matches the only entry of the outstanding table. -/
theorem Blk.receiveAck_matched {b : Blk} {pkt : BitVec 128} {o : Outstanding} (ok : ackWellFormed pkt = true)
    (table : b.hb.outstanding = [o]) (matched : o.matches pkt = true) :
    b.receiveAck pkt =
      let st := BitVec.ofNat 8 (bits pkt 8 8)
      let c := b.bump .rsAckRefused 0 (if st = stOk then 0 else 1)
      if st = stOk ∨ st = stPeerReset ∨ st = stContextFault then
        (c.modHb fun h => { h with outstanding := [] }).bump .rsAcked else c := by
  rw [receiveAck, if_neg (by simp [ok, table, matched])]
  dsimp only
  have refused : b2n (BitVec.ofNat 8 (bits pkt 8 8) != stOk) = if BitVec.ofNat 8 (bits pkt 8 8) = stOk then 0 else 1 := by
    by_cases h : BitVec.ofNat 8 (bits pkt 8 8) = stOk <;> simp [b2n, h]
  simp [modHb, table, ldrop1, matched, refused]

/-- What an acknowledgement that frees its entry leaves. -/
theorem Blk.ackFreed_leaves (b : Blk) (n : Nat) :
    let c := ((b.bump .rsAckRefused 0 n).modHb fun h => { h with outstanding := [] }).bump .rsAcked
    (c.hb.outstanding = [] ∧ c.ctr .rsAckRefused = b.ctr .rsAckRefused + n) ∧
      c = { b with hb := { b.hb with outstanding := c.hb.outstanding }, counters := c.counters } := by
  intro c
  have freed : c.hb = { b.hb with outstanding := [] } :=
    (bump_hb ..).trans (congrArg (fun h : Hb => { h with outstanding := [] }) (bump_hb ..))
  have counted : c.ctr .rsAckRefused = b.ctr .rsAckRefused + n :=
    (ctr_bump_other _ _ (by simp)).trans (ctr_bump_same b .rsAckRefused 0 n)
  have frame := Within.eq (l := [.hb, .counters]) (b := b) (c := c) (by simp [c])
  refine ⟨⟨congrArg Hb.outstanding freed, counted⟩, frame.trans ?_⟩
  exact congrArg (fun h : Hb => { b with hb := h, counters := c.counters }) (show c.hb = { b.hb with outstanding := c.hb.outstanding } by rw [freed])

/-- A packet alone in its beat. -/
theorem exec_signalAckReceive {s : State} {beat : FbBeat} {w : BitVec 256} (on : s.env.hubOn = true)
    (one : packetsOf beat = [w]) :
    exec (.signalAckReceive beat) s = .next { s with blk := s.blk.receivePacket s.env w } := by
  simp only [exec, execSignalAckReceive, onBlk, Blk.receiveBeat, on, one]
  rfl

/-- Settles O35: `Blk.afterAck_leaves` for what the journal's acknowledgement lets go. -/
theorem signalsAreResentAndFreed : Obligations.SignalsAreResentAndFreed := by
  refine ⟨fun s n running => ?_, fun s n running => ?_, fun s n err halted => ?_, fun s o p moving one sent => ⟨fun due => ?_, fun early => ?_⟩,
    fun s beat w pkt o on moving one zeros same ok table matched => ?_, fun s beat w on one ack bad => ?_⟩
  · refine ⟨_, exec_journalAck n false running, ⟨rfl, rfl, rfl⟩, ?_⟩
    by_cases stopped : s.blk.frozen = true
    · obtain ⟨c, w, kept, released⟩ := Blk.releaseEffects_eq s.env (s.blk.modRel fun l => { l with acked := min l.slots (l.acked + n) })
      have rel : ((s.blk.modRel fun l => { l with acked := min l.slots (l.acked + n) }).releaseEffects s.env).rel =
          { s.blk.rel with acked := min s.blk.rel.slots (s.blk.rel.acked + n), waiting := w } := by
        rw [released]
        exact congrArg (fun l : Rel => { l with waiting := w }) (kept .rel (by simp))
      have all : Blk.Within [.fe, .rel, .out] s.blk
        ((s.blk.modRel fun l => { l with acked := min l.slots (l.acked + n) }).releaseEffects s.env) := by simp
      have hb := all .hb (by simp)
      simp only [Bool.false_eq_true, if_false, stopped, if_true, rel]
      exact ⟨trivial, trivial, trivial, all .reaches (by simp), all .agents (by simp), congrArg Hb.channels hb,
        congrArg Hb.gsync hb, congrArg (fun h : Hb => h.outstanding.length) hb, fun _ => hb⟩
    · obtain ⟨⟨w, rel⟩, reaches, agents, channels, gsync, outs⟩ :=
        Blk.afterAck_leaves s.env (s.blk.modRel fun l => { l with acked := min l.slots (l.acked + n) })
      simp only [Bool.false_eq_true, if_false, stopped, rel]
      exact ⟨rfl, rfl, rfl, reaches, agents, channels, gsync, outs, fun h => absurd h (by simp)⟩
  · obtain ⟨pending, channel⟩ :=
      Blk.askReset_leaves ((s.blk.modRel fun l => { l with jHalted := true }).haltChannel s.env none) .journalHalt
    have same := channel.trans (Blk.channel_haltChannel ..)
    exact ⟨_, exec_journalAck n true running, ⟨rfl, rfl, rfl⟩, congrArg Prod.snd same, congrArg Prod.fst same, pending⟩
  · refine ⟨s, ?_, rfl⟩
    simp only [exec, execJournalAck, onBlk, if_pos halted]
  · have ran : exec (.signalResend o.stream o.seq) s = .next { s with
        blk := ((s.blk.modHb fun h => { h with outstanding := [{ o with sentAt := some s.env.n }] }).emit
          (.fabric (fabricBeat (some o.packet.toNat) none))).bump .rsResend } := by
      have later : p + s.env.resend ≤ s.env.n := due
      simp [exec, execSignalResend, onBlk, moving, one, sent, later, lreplace, Blk.modHb]
    refine ⟨_, ran, ⟨rfl, rfl, rfl⟩, Blk.bump_hb .., Blk.bump_out .., (Blk.ctr_bump_same ..).trans rfl, ?_⟩
    exact Blk.Within.eq (l := [.hb, .out, .counters]) (by simp)
  · refine ⟨s, ?_, rfl⟩
    have before : ¬ p + s.env.resend ≤ s.env.n := Nat.not_le.2 early
    simp [exec, execSignalResend, onBlk, moving, one, sent, before]
  · have ran := exec_signalAckReceive on one
    have received : s.blk.receivePacket s.env w = s.blk.receiveAck pkt := by
      have type : bits w 0 8 = 2 := by
        rw [ackWellFormed, ← same] at ok
        simp only [Bool.and_eq_true, beq_iff_eq] at ok
        exact (bits_setWidth w (by omega)).symm.trans ok.1.1
      simp [Blk.receivePacket, moving, type, zeros, same]
    rw [received, Blk.receiveAck_matched ok table matched] at ran
    refine ⟨_, ran, ⟨rfl, rfl, rfl⟩, ?_⟩
    dsimp only
    generalize (if BitVec.ofNat 8 (bits pkt 8 8) = stOk then 0 else 1) = n
    split
    · exact Blk.ackFreed_leaves s.blk n
    · have hb := Blk.bump_hb s.blk .rsAckRefused 0 n
      have frame := Blk.Within.eq (l := [.counters]) (b := s.blk) (c := s.blk.bump .rsAckRefused 0 n) (by simp)
      refine ⟨⟨(congrArg Hb.outstanding hb).trans table, Blk.ctr_bump_same ..⟩, frame.trans ?_⟩
      exact congrArg (fun h : Hb => { s.blk with hb := h, counters := (s.blk.bump .rsAckRefused 0 n).counters })
        (show s.blk.hb = { s.blk.hb with outstanding := (s.blk.bump .rsAckRefused 0 n).hb.outstanding } by rw [hb])
  · have discarded : s.blk.receivePacket s.env w = s.blk.bump .rsDiscard := by
      rw [Blk.receivePacket]
      split
      · rfl
      · rw [if_neg (by simp [ack])]
        split
        next zeros =>
          refine if_pos ?_
          obtain gap | malformed | unknown := bad
          · exact absurd zeros gap
          · simp [malformed]
          · simpa using .inr unknown
        next => rfl
    rw [← discarded]
    exact ⟨_, exec_signalAckReceive on one, ⟨rfl, rfl, rfl⟩, rfl⟩

/-! ### The receiver (R227, R228): O36 -/

theorem exec_signalReceive (beat : FbBeat) (s : State) :
    exec (.signalReceive beat) s = .next { s with blk := s.blk.receiveBeat s.env beat } := rfl

theorem exec_signalReceive_one {s : State} {beat : FbBeat} {w : BitVec 256} (on : s.env.hubOn = true)
    (one : packetsOf beat = [w]) :
    exec (.signalReceive beat) s = .next { s with blk := s.blk.receivePacket s.env w } := by
  rw [exec_signalReceive, Blk.receiveBeat, on, one]
  rfl

/-- A beat with two packets acts as two beats, slot 0 first (R271). -/
theorem Blk.receiveBeat_two (v : Env) (x : BitVec 512) (b : Blk) :
    b.receiveBeat v { mask := 3, bits := x } =
      (b.receiveBeat v { mask := 1, bits := x }).receiveBeat v { mask := 2, bits := x } := by
  have two : packetsOf { mask := 3, bits := x } =
    packetsOf { mask := 1, bits := x } ++ packetsOf { mask := 2, bits := x } := by
    simp [packetsOf]
  simp only [receiveBeat, two]
  split
  · rfl
  · exact List.foldl_append

namespace Blk

variable {b : Blk} {st k : BitVec 16}

theorem recv_putRecv_other (b : Blk) (r : RecvRec) (other : k ≠ st) : (b.putRecv st r).recv k = b.recv k :=
  tgetD_tput_other _ _ _ fun h => other (BitVec.eq_of_toNat_eq h)

theorem recv_congr {c : Blk} (h : c.hb.recvs = b.hb.recvs) (st : BitVec 16) : c.recv st = b.recv st := by
  rw [recv, recv, h]

/-- Nothing is released while nothing is held. -/
theorem releaseStream_none (n : Nat) (empty : b.hb.held = []) : b.releaseStream st n = b := by
  cases n with
  | zero => rfl
  | succ n => simp [releaseStream, empty]

/-- The only signal held waits for its count. -/
theorem releaseStream_waits {x : Signal} (n : Nat) (one : b.hb.held = [x]) (base : (b.recv x.stream).base = x.seq)
    (waits : 2 ^ 31 ≤ ((b.recv x.stream).count - x.expect).toNat) : b.releaseStream x.stream n = b := by
  cases n with
  | zero => rfl
  | succ n =>
    have first : b.hb.held.find? (fun s => s.stream == x.stream && s.seq == (b.recv x.stream).base) = some x := by
      simp [one, base]
    simp only [releaseStream, first]
    exact if_neg (Nat.not_lt.2 waits)

/-- The only signal held is released where its count covers it. -/
theorem releaseStream_goes {x : Signal} (n : Nat) (one : b.hb.held = [x]) (base : (b.recv x.stream).base = x.seq)
    (covered : ((b.recv x.stream).count - x.expect).toNat < 2 ^ 31) :
    b.releaseStream x.stream (n + 1) = ((b.putRecv x.stream (b.recv x.stream).advance).modHb fun h => { h with
      held := [], newHeld := h.newHeld.filter (· != x), releasing := h.releasing ++ [x] }).bump .rsReleased := by
  have first : b.hb.held.find? (fun s => s.stream == x.stream && s.seq == (b.recv x.stream).base) = some x := by
    simp [one, base]
  have empty : b.hb.held.filter (· != x) = [] := by simp [one]
  simp only [releaseStream, first]
  rw [if_pos covered, releaseStream_none n ((congrArg Hb.held (bump_hb ..)).trans empty)]
  exact congrArg (fun l => ((b.putRecv x.stream (b.recv x.stream).advance).modHb fun h => { h with
    held := l, newHeld := h.newHeld.filter (· != x), releasing := h.releasing ++ [x] }).bump .rsReleased) empty

/-- A block that holds a signal at the base of its window. -/
def holding (x : Signal) (b : Blk) : Blk :=
  ((b.putRecv x.stream { b.recv x.stream with held := BitVec.ofNat 64 1 }).modHb fun h => { h with
    held := [x], newHeld := h.newHeld ++ [x] }).bump .rsAccepted

theorem recv_holding (x : Signal) (b : Blk) :
    (b.holding x).recv x.stream = { b.recv x.stream with held := BitVec.ofNat 64 1 } :=
  (recv_congr (congrArg Hb.recvs (bump_hb ..)) _).trans (recv_putRecv_same b x.stream _)

/-- A signal of the epoch of its stream's record, at the base of an empty window, is held and released if covered (Table
9.7). -/
theorem receivePacket_accepts {v : Env} {w : BitVec 256} (moving : b.frozen = false) (ok : signalWellFormed w = true)
    (node : (signalOf w).dst = v.node) (accept : v.rsAccept = true) (used : (b.recv (signalOf w).stream).used = true)
    (src : (b.recv (signalOf w).stream).src = (signalOf w).src)
    (epoch : (b.recv (signalOf w).stream).epoch = (signalOf w).epoch) (alive : b.torn (signalOf w).ctx.toNat = false)
    (base : (b.recv (signalOf w).stream).base = (signalOf w).seq) (done : (b.recv (signalOf w).stream).done = 0)
    (window : (b.recv (signalOf w).stream).held = 0) (empty : b.hb.held = []) :
    b.receivePacket v w = (b.holding (signalOf w)).releaseStream (signalOf w).stream 64 := by
  have type : bits w 0 8 ≠ 2 := by
    intro two
    simp [signalWellFormed, two] at ok
  rw [receivePacket, if_neg (ne_true_of_eq_false moving), if_pos type, receiveSignal]
  simp only [ok, node, accept, used, src, epoch]
  simp [acceptSignal, alive, base, done, window, empty, holding, modHb, putRecv]

end Blk

theorem exec_fabricCountPush {s : State} (push : BitVec 56) (on : s.env.hubOn = true) (empty : s.blk.hb.held = []) :
    exec (.fabricCountPush push) s = .next { s with
      blk := s.blk.recordCount (BitVec.ofNat 16 (bits push 0 16)) (BitVec.ofNat 8 (bits push 16 8))
        (BitVec.ofNat 32 (bits push 24 32)) } := by
  have quiet (st : BitVec 16) (r : RecvRec) : (s.blk.putRecv st r).releaseStream st 64 = s.blk.putRecv st r :=
    Blk.releaseStream_none 64 empty
  simp [exec, execFabricCountPush, onBlk, on, quiet, Blk.recordCount]

namespace Blk

/-- The record of a stream whose count is pushed. -/
theorem recv_recordCount (b : Blk) (st : BitVec 16) (ep : BitVec 8) (n : BitVec 32) :
    (b.recordCount st ep n).recv st = if ep = (b.recv st).epoch then { b.recv st with count := n }
      else if ep = (b.recv st).epoch + 1 then { b.recv st with countN := n } else b.recv st := by
  rw [recordCount]
  split
  · exact recv_putRecv_same ..
  · split
    · exact recv_putRecv_same ..
    · rfl

theorem recv_recordCount_other {b : Blk} {st k : BitVec 16} (ep : BitVec 8) (n : BitVec 32) (other : k ≠ st) :
    (b.recordCount st ep n).recv k = b.recv k := by
  rw [recordCount]
  split
  · exact recv_putRecv_other b _ other
  · split
    · exact recv_putRecv_other b _ other
    · rfl

end Blk

/-- Settles O36: `Blk.receiveBeat_two` for a beat with two packets, `Blk.receivePacket_accepts` for a signal that is held. -/
theorem signalsWaitForTheirCount : Obligations.SignalsWaitForTheirCount := by
  refine ⟨fun s beat pkt on moving one ok node accept used src epoch alive base done window empty => ?_,
    fun s beat pkt on one type bad => ?_, fun s x => ?_, fun s push on empty => ?_⟩
  · have ran := exec_signalReceive_one on one
    rw [Blk.receivePacket_accepts moving ok node accept used src epoch alive base done window empty] at ran
    generalize signalOf pkt = x at *
    have hb := Blk.bump_hb ((s.blk.putRecv x.stream { s.blk.recv x.stream with held := BitVec.ofNat 64 1 }).modHb fun h =>
      { h with held := [x], newHeld := h.newHeld ++ [x] }) .rsAccepted 0 1
    have held : (s.blk.holding x).hb.held = [x] := congrArg Hb.held hb
    have releasing : (s.blk.holding x).hb.releasing = s.blk.hb.releasing :=
      (congrArg Hb.releasing hb).trans rfl
    have record := Blk.recv_holding x s.blk
    have base' : ((s.blk.holding x).recv x.stream).base = x.seq := by rw [record]; exact base
    have within : Blk.Within [.hb, .counters] s.blk (s.blk.holding x) := by simp [Blk.holding, Blk.putRecv]
    refine ⟨fun waits => ⟨_, ran, ⟨rfl, rfl, rfl⟩, ?_⟩, fun covered => ⟨_, ran, ⟨rfl, rfl, rfl⟩, ?_⟩⟩
    · dsimp only
      rw [Blk.releaseStream_waits 64 held base' (by rw [record]; exact waits)]
      exact ⟨held, releasing, base', Blk.ctr_bump_same .., within.eq⟩
    · dsimp only
      rw [Blk.releaseStream_goes 63 held base' (by rw [record]; exact covered)]
      have counted := Blk.ctr_bump_other ((s.blk.putRecv x.stream { s.blk.recv x.stream with held := BitVec.ofNat 64 1 }).modHb
        fun h => { h with held := [x], newHeld := h.newHeld ++ [x] }) (c := .rsAccepted) (c' := .rsReleased) (i := 0) (i' := 0)
        1 (by simp)
      have counted : (s.blk.holding x).ctr .rsReleased = s.blk.ctr .rsReleased := counted
      generalize s.blk.holding x = c at held releasing record base' within counted ⊢
      have released := Blk.bump_hb ((c.putRecv x.stream (c.recv x.stream).advance).modHb fun h => { h with
        held := [], newHeld := h.newHeld.filter (· != x), releasing := h.releasing ++ [x] }) .rsReleased 0 1
      refine ⟨congrArg Hb.held released, (congrArg Hb.releasing released).trans (congrArg (· ++ [x]) releasing), ?_,
        (Blk.ctr_bump_same ..).trans (congrArg (· + 1) counted),
        (within.trans (Blk.Within.trans (c := c.putRecv x.stream (c.recv x.stream).advance) ?_ ?_)).eq⟩
      · rw [Blk.recv_congr (b := c.putRecv x.stream (c.recv x.stream).advance) ((congrArg Hb.recvs released).trans rfl),
          Blk.recv_putRecv_same]
        exact congrArg (· + 1) base'
      · simp [Blk.putRecv]
      · simp
  · have discarded : s.blk.receivePacket s.env pkt = s.blk.bump .rsDiscard := by
      rw [Blk.receivePacket]
      by_cases stopped : s.blk.frozen = true
      · rw [if_pos stopped]
      · rw [if_neg stopped, if_pos type, Blk.receiveSignal]
        refine if_pos ?_
        simpa [or_assoc] using bad
    rw [← discarded]
    exact ⟨_, exec_signalReceive_one on one, ⟨rfl, rfl, rfl⟩, rfl⟩
  · refine ⟨_, exec_signalReceive .., _, exec_signalReceive .., ?_, ?_⟩
    · rw [exec_signalReceive, Blk.receiveBeat_two]
      rfl
    · refine Eq.trans (b := exec (.signalReceive { mask := 3, bits := x }) s) rfl ?_
      rw [exec_signalReceive, Blk.receiveBeat_two]
      rfl
  · refine ⟨_, exec_fabricCountPush push on empty, ⟨rfl, rfl, rfl⟩, ⟨?_, fun k other => ?_⟩, Blk.recordCount_frame ..⟩
    · exact Blk.recv_recordCount ..
    · exact Blk.recv_recordCount_other _ _ other

end Sys2Proof.Machine
end

section
/-!
# Effects of released signals (R229): settles O38
-/
namespace Sys2Proof.Machine

/-- No effect of a released signal is due any more. -/
def Blk.noEffects (b : Blk) : Blk := b.modHb fun h => { h with effects := [] }

/-- A released signal that is due alone and takes effect. -/
theorem exec_releaseEffect {s : State} {x : Signal} {c : Blk} (moving : s.blk.frozen = false) (one : s.blk.hb.effects = [x])
    (acts : s.blk.noEffects.signalEffect s.env x = some c) : exec .releaseEffect s = .next { s with blk := c } := by
  have acts' : (s.blk.modHb fun h => { h with effects := [] }).signalEffect s.env x = some c := acts
  simp only [exec, execReleaseEffect, onBlk, moving, Bool.false_eq_true, if_false, Blk.signalEffects, one, Blk.forEach,
    List.foldl_cons, List.foldl_nil, acts']

/-- A sync signal for an object of its context on which nothing waits, without a clamp. -/
theorem Blk.syncSignal_adds (v : Env) {b : Blk} {x : Signal} {k : Ctx} (ctx : b.ctx? x.ctx.toNat = some k)
    (alive : k.faulted = false) (mine : x.target.toNat < k.record.gsyncQ)
    (quiet : b.waitsOn (.ofHub (gsyncKey x.ctx.toNat x.target.toNat)) = [])
    (low : 0 ≤ ((b.syncObj (.ofHub (gsyncKey x.ctx.toNat x.target.toNat))).value.toNat : Int) + x.value.toInt)
    (high : ((b.syncObj (.ofHub (gsyncKey x.ctx.toNat x.target.toNat))).value.toNat : Int) + x.value.toInt < 2 ^ 32) :
    b.syncSignal v x = b.syncSet v (.ofHub (gsyncKey x.ctx.toNat x.target.toNat)) { kind := 2, src := x.stream.toNat }
      ((b.syncObj (.ofHub (gsyncKey x.ctx.toNat x.target.toNat))).value + x.value) false := by
  simp only [syncSignal, ctx, alive, syncAddAt, syncAdd_inRange low high]
  rw [if_neg Bool.false_ne_true, if_neg (by omega), syncApply_quiet v _ _ _ quiet]
  rfl

theorem Blk.signalEffect_announce (v : Env) (b : Blk) {x : Signal} (kind : 2 ≤ x.kind.toNat) :
    b.signalEffect v x = some (b.announced x.ctx.toNat x) := by
  rw [signalEffect]
  split
  next h => omega
  next h => omega
  next => rfl

/-- Settles O38: `Blk.syncSignal_adds` for a SYNC signal, `Blk.hubDecrement` for a TASK signal, `Blk.announced` for an
ANNOUNCE signal. -/
theorem releasedSignalsTakeEffect : Obligations.ReleasedSignalsTakeEffect := by
  refine ⟨fun s x k moving one kind ctx alive mine quiet low high => ?_, fun s x k moving one kind name room => ?_,
    fun s x moving one kind => ⟨fun first => ?_, fun again => ?_⟩, fun s moving none => ?_, fun s e st known => ?_⟩
  · have added := Blk.syncSignal_adds s.env (b := s.blk.noEffects) ctx alive mine quiet low high
    have ran := exec_releaseEffect moving one (c := s.blk.noEffects.syncSignal s.env x) (by simp [Blk.signalEffect, kind])
    rw [added] at ran
    refine ⟨_, ran, ⟨rfl, rfl, rfl⟩, ?_⟩
    obtain ⟨track, same⟩ := Blk.syncObj_syncSet_same s.env { kind := 2, src := x.stream.toNat }
      ((s.blk.noEffects.syncObj (.ofHub (gsyncKey x.ctx.toNat x.target.toNat))).value + x.value) false s.blk.noEffects
      (.ofHub (gsyncKey x.ctx.toNat x.target.toNat))
    refine ⟨?_, congrArg SyncObj.value same, fun l other => Blk.syncObj_syncSet_other _ _ _ _ _ other, ?_⟩
    · exact (congrArg (fun b : Blk => b.hb.effects) (Blk.onlySync_syncSet ..).2).trans rfl
    · have frame : Blk.Within [.hb, .counters] s.blk (s.blk.noEffects.syncSet s.env
          (.ofHub (gsyncKey x.ctx.toNat x.target.toNat)) { kind := 2, src := x.stream.toNat }
          ((s.blk.noEffects.syncObj (.ofHub (gsyncKey x.ctx.toNat x.target.toNat))).value + x.value) false) := by
        rw [Blk.syncSet_ofHub]
        simp [Blk.noEffects]
      exact frame.eq
  · have ran := exec_releaseEffect moving one (c := (s.blk.noEffects.hubDecrement k).modReach k.reach fun rc =>
      { rc with hubSent := rc.hubSent + 1 }) (by
        have few : ¬ 16 ≤ (s.blk.noEffects.reach k.reach).hubSent := Nat.not_le.2 room
        subst name
        simp only [Blk.signalEffect, kind]
        exact if_neg few)
    rw [Blk.hubDecrement, Blk.modReach_modReach_same] at ran
    exact ⟨_, ran, ⟨rfl, rfl, rfl⟩, rfl, Blk.reach_modReach_same .., fun r other => Blk.reach_modReach_other _ _ other, rfl⟩
  · have ran := exec_releaseEffect moving one (Blk.signalEffect_announce s.env s.blk.noEffects kind)
    have new : ¬ s.blk.noEffects.rt.heard.contains (x.ctx.toNat, x.target, x.stream, x.round) = true :=
      ne_true_of_eq_false first
    rw [Blk.announced, if_neg new] at ran
    refine ⟨_, ran, ⟨rfl, rfl, rfl⟩, ?_, rfl⟩
    simp [Blk.modRt]
  · have ran := exec_releaseEffect moving one (Blk.signalEffect_announce s.env s.blk.noEffects kind)
    have known : s.blk.noEffects.rt.heard.contains (x.ctx.toNat, x.target, x.stream, x.round) = true := again
    rw [Blk.announced, if_pos known] at ran
    exact ⟨_, ran, ⟨rfl, rfl, rfl⟩, Blk.ctr_bump_same ..,
      (Blk.bump_frame s.blk.noEffects .rsDuplicate 0 1).trans rfl⟩
  · refine ⟨s, ?_, rfl⟩
    have same : (s.blk.modHb fun h => { h with effects := [] }) = s.blk := by
      rw [← none]
      rfl
    simp only [exec, execReleaseEffect, onBlk, moving, Bool.false_eq_true, if_false, Blk.signalEffects, none, same]
    rfl
  · have ran : exec (.epochQuery e st) s = .next { s with
        blk := s.blk.emit (.epoch e (tgetD {} s.blk.hb.streams st.toNat).epoch) } := by
      simp only [exec, execEpochQuery]
      exact atEngine_acts _ known
    exact ⟨_, ran, ⟨rfl, rfl, rfl⟩, rfl⟩

end Sys2Proof.Machine
end

section
/-!
# Channels (R233-R249): the opening of their ends (R235, R247): settles O39
-/
namespace Sys2Proof.Machine

/-! ### Tables -/

/-- What is kept by its number is found as before. -/
theorem tget_filter {ν : Type} (t : Tbl ν) (p : Nat → Bool) (k : Nat) :
    tget (t.filter fun x => p x.1) k = if p k then tget t k else none := by
  induction t with
  | nil => simp [tget]
  | cons x t ih =>
    obtain ⟨j, v⟩ := x
    by_cases same : j = k
    · subst same
      by_cases kept : p j = true
      · simp [tget, kept]
      · simp [kept, ih]
    · by_cases kept : p j = true
      · simp [tget, kept, same, ih]
      · simp [tget, kept, same, ih]

theorem le_ceilDiv_mul (a : Nat) {b : Nat} (pos : 0 < b) : a ≤ ceilDiv a b * b := by
  have whole := Nat.div_add_mod (a + b - 1) b
  have rest := Nat.mod_lt (a + b - 1) pos
  rw [ceilDiv, Nat.mul_comm]
  omega

/-! ### A channel and its status words (R245) -/

namespace Blk

variable {b : Blk} {c i k : Nat} {x y : Channel}

@[simp] theorem chan?_putChan (b : Blk) (c i : Nat) (x : Channel) : (b.putChan c i x).chan? c i = some x := tget_tput_same ..

theorem channels_putChan_other (b : Blk) (x : Channel) (other : k ≠ chKey c i) :
    tget (b.putChan c i x).hb.channels k = tget b.hb.channels k := tget_tput_other _ _ other

/-- The status word of an end that is taken is written. -/
theorem writeEnd_eq (b : Blk) (x : Channel) (own other : Option ChEnd) :
    ∃ w, b.writeEnd x own other = { b with out := b.out ++ w } ∧ w.length = b2n own.isSome := by
  unfold writeEnd
  split
  · exact ⟨[], by rw [List.append_nil], rfl⟩
  · dsimp only
    split
    · exact ⟨[_], rfl, rfl⟩
    · exact ⟨[_], rfl, rfl⟩

/-- An operation on a channel stores it and writes status words. -/
theorem update_eq (b : Blk) (c i : Nat) (old new : Channel) (toSend toRecv : Bool) :
    ∃ w, b.update c i old new toSend toRecv = { b.putChan c i new with out := b.out ++ w } ∧
      (toSend = true → toRecv = true → w.length = b2n new.sendEnd.isSome + b2n new.recvEnd.isSome) := by
  obtain ⟨ws, sent, ns⟩ := writeEnd_eq (b.putChan c i new) new new.sendEnd new.recvEnd
  obtain ⟨wr, received, nr⟩ := writeEnd_eq (b.putChan c i new) new new.recvEnd new.sendEnd
  obtain ⟨wb, both, nb⟩ := writeEnd_eq { b.putChan c i new with out := (b.putChan c i new).out ++ ws } new new.recvEnd new.sendEnd
  unfold update
  dsimp only
  by_cases send : (toSend || decide (old.shown ≠ new.shown)) = true
  · rw [if_pos send, sent]
    by_cases recv : (toRecv || decide (old.shown ≠ new.shown)) = true
    · rw [if_pos recv, both]
      exact ⟨ws ++ wb, by rw [← List.append_assoc]; rfl, fun _ _ => by rw [List.length_append, ns, nb]⟩
    · rw [if_neg recv]
      exact ⟨ws, rfl, fun _ h => absurd (by rw [h]; rfl) recv⟩
  · rw [if_neg send]
    by_cases recv : (toRecv || decide (old.shown ≠ new.shown)) = true
    · rw [if_pos recv, received]
      exact ⟨wr, rfl, fun h => absurd (by rw [h]; rfl) send⟩
    · rw [if_neg recv]
      exact ⟨[], by rw [List.append_nil]; rfl, fun h => absurd (by rw [h]; rfl) send⟩

/-- A channel one of whose ends has been taken: it is open when both are, and then both status words are written (R235). -/
theorem openIfBoth_eq (b : Blk) (c i : Nat) (old : Channel) {new : Channel} (waits : new.state = .pending) {taken : Bool}
    (both : (new.sendEnd.isSome && new.recvEnd.isSome) = taken) :
    ∃ w, b.openIfBoth c i old new =
        ({ b.putChan c i { new with state := if taken then .opened else .pending } with out := b.out ++ w }).bump .chOpen 0
          (b2n taken) ∧ w.length = if taken then 2 else 0 := by
  unfold openIfBoth
  rw [both]
  cases taken with
  | false =>
    refine ⟨[], ?_, rfl⟩
    rw [if_neg Bool.false_ne_true, if_neg Bool.false_ne_true, ← waits, List.append_nil]
    rfl
  | true =>
    obtain ⟨w, eq, n⟩ := update_eq b c i old { new with state := .opened } true true
    obtain ⟨send, recv⟩ := Bool.and_eq_true_iff.1 both
    refine ⟨w, ?_, ?_⟩
    · rw [if_pos rfl, if_pos rfl, eq]
      rfl
    · rw [n rfl rfl, send, recv]
      rfl

/-- A block with channel `i` of context `c` stored, and more on the ports. -/
def stored (c i : Nat) (x : Channel) (w : List Out) (b : Blk) : Blk := { b.putChan c i x with out := b.out ++ w }

/-- What is different where a channel is stored, and a counter raised. -/
theorem stored_leaves (b : Blk) (c i : Nat) (x : Channel) (w : List Out) (j : Ctr) (n : Nat) :
    let d := (b.stored c i x w).bump j 0 n
    d.chan? c i = some x ∧ (∀ k, k ≠ chKey c i → tget d.hb.channels k = tget b.hb.channels k) ∧
      d.hb.chanMem = b.hb.chanMem ∧ d.ctr j = b.ctr j + n ∧ d.out = b.out ++ w ∧
      d = { b with hb := { b.hb with channels := d.hb.channels }, counters := d.counters, out := d.out } := by
  intro d
  have hb : d.hb = { b.hb with channels := tput b.hb.channels (chKey c i) x } := bump_hb ..
  have frame : d = { b.stored c i x w with counters := d.counters } := bump_frame ..
  refine ⟨?_, fun k other => ?_, (congrArg Hb.chanMem hb).trans rfl, ctr_bump_same (b.stored c i x w) .., bump_out .., ?_⟩
  · rw [chan?, hb]
    exact tget_tput_same ..
  · rw [hb]
    exact tget_tput_other _ _ other
  · have out : d.out = b.out ++ w := bump_out ..
    rw [hb, out]
    exact frame

end Blk

/-! ### The place of a ring (R235) -/

/-- A ring is aligned and lies in its context's region, apart from the other rings of the context. -/
theorem Blk.ringPlace_sound {b : Blk} {c rlog a : Nat} (place : b.ringPlace c rlog = some a) :
    a % (8 * 2 ^ rlog) = 0 ∧
      (∃ k, b.ctx? c = some k ∧ k.chanBase ≤ a ∧ a + 8 * 2 ^ rlog ≤ k.chanBase + 1024 * k.record.chanKib) ∧
      ∀ k y, tget b.hb.channels k = some y → y.ctx = c → y.recvEnd.isSome = true →
        a + 8 * 2 ^ rlog ≤ y.base ∨ y.base + 8 * 2 ^ y.rlog ≤ a := by
  unfold ringPlace at place
  split at place
  · cases place
  next x ctx =>
    dsimp only at place
    obtain ⟨k, -, rfl⟩ := List.mem_map.1 (List.mem_of_find?_eq_some place)
    have fits := List.find?_some place
    simp only [Bool.and_eq_true, decide_eq_true_eq, List.all_eq_true, Bool.or_eq_true] at fits
    obtain ⟨⟨inside, -⟩, apart⟩ := fits
    refine ⟨Nat.mul_mod_left .., ⟨x, ctx, ?_, inside⟩, fun j y listed mine taken => ?_⟩
    · exact Nat.le_trans (le_ceilDiv_mul x.chanBase (Nat.mul_pos (by decide) (Nat.two_pow_pos _)))
        (Nat.mul_le_mul_right _ (Nat.le_add_right ..))
    · exact apart (y.base, 8 * 2 ^ y.rlog) (List.mem_map.2 ⟨(j, y), List.mem_filter.2 ⟨mem_of_tget listed, by simp [mine, taken]⟩, rfl⟩)

/-- Outside the bytes that are cleared channel memory reads as before. -/
theorem Hb.readByte_clearBytes (h : Hb) {lo n a : Nat} (out : a < lo ∨ lo + n ≤ a) :
    (h.clearBytes lo n).readByte a = h.readByte a := by
  have kept := tget_filter h.chanMem (fun k => !(decide (lo ≤ k) && decide (k < lo + n))) a
  rw [if_pos (by simp; omega)] at kept
  simp only [Hb.readByte, tgetD, Hb.clearBytes, kept]

/-- A ring's pages are noted as written, and nothing else. -/
theorem Blk.validate_eq (b : Blk) (mem lo n : Nat) :
    ∃ vs ps, b.validate mem lo n = { b with rel := { b.rel with validPages := vs, partPages := ps } } := by
  have one (page : Nat) (l : Rel) : ∃ vs ps, l.pageWritten mem lo n page = { l with validPages := vs, partPages := ps } := by
    unfold Rel.pageWritten
    split
    · exact ⟨l.validPages, l.partPages, rfl⟩
    · dsimp only
      split
      · exact ⟨_, l.partPages.filter _, rfl⟩
      · exact ⟨l.validPages, _, rfl⟩
  have all (ps : List Nat) (l : Rel) :
      ∃ vs qs, ps.foldl (fun l p => l.pageWritten mem lo n p) l = { l with validPages := vs, partPages := qs } := by
    induction ps generalizing l with
    | nil => exact ⟨l.validPages, l.partPages, rfl⟩
    | cons p ps ih =>
      obtain ⟨v, q, first⟩ := one p l
      obtain ⟨vs, qs, rest⟩ := ih (l.pageWritten mem lo n p)
      refine ⟨vs, qs, ?_⟩
      rw [List.foldl_cons, rest, first]
  unfold validate
  split
  · exact ⟨b.rel.validPages, b.rel.partPages, rfl⟩
  · obtain ⟨vs, qs, whole⟩ := all ((List.range ((lo + n - 1) / 2048 - lo / 2048 + 1)).map (lo / 2048 + ·)) b.rel
    exact ⟨vs, qs, congrArg (fun l => { b with rel := l }) whole⟩

/-- What an ACCEPT may change: the channels and channel memory, the pages that were written, counters and ports. -/
theorem Blk.opened_frame {b d z : Blk} {lo n : Nat} {vs : List (Nat × Nat)} {ps : List (Nat × Nat × BitVec 32)} {o : Out}
    (written : d = { b.modHb fun h => h.clearBytes lo n with rel := { b.rel with validPages := vs, partPages := ps } })
    (frame : z = { d with hb := { d.hb with channels := z.hb.channels }, counters := z.counters, out := z.out })
    (mem : z.hb.chanMem = d.hb.chanMem) (rel : z.rel = d.rel) :
    z.emit o = { b with
      hb := { b.hb with channels := (z.emit o).hb.channels, chanMem := (z.emit o).hb.chanMem }
      rel := { b.rel with validPages := (z.emit o).rel.validPages, partPages := (z.emit o).rel.partPages }
      counters := (z.emit o).counters, out := (z.emit o).out } := by
  show _ = { b with
    hb := { b.hb with channels := z.hb.channels, chanMem := z.hb.chanMem }
    rel := { b.rel with validPages := z.rel.validPages, partPages := z.rel.partPages }
    counters := z.counters, out := z.out ++ [o] }
  refine (congrArg (fun c : Blk => c.emit o) frame).trans ?_
  rw [mem, rel, written]
  rfl

/-! ### The operations that open: O39 -/

section
variable {s : State} {e : Nat} {r : Run}

/-- An operation that is answered and does nothing else. -/
theorem answered {c : Instr} {st : BitVec 8} (ran : exec c s = .next { s with blk := s.blk.emit (.opResult e st 0 []) }) :
    Does c s fun t => OnlyBlk s t ∧ t.blk = s.blk.emit (.opResult e st 0 []) := ⟨_, ran, ⟨rfl, rfl, rfl⟩, rfl⟩

theorem openIndex_some {b : Blk} {index : Nat} (open_ : r.parks = false) (index_ : index < b.chanQ r.ref.ctx) :
    b.openIndex r index = some index := by
  rw [Blk.openIndex, if_neg (by simp [open_, index_])]

end

/-- Settles O39: `Blk.ringPlace_sound` for the ring of an ACCEPT, `Blk.openIfBoth_eq` for a channel whose end is taken. -/
theorem channelsOpenInPairs : Obligations.ChannelsOpenInPairs := by
  refine ⟨fun s e r index rlog a persist autorel stat x at_ open_ mine low high isX waits free single scope place => ?_,
    fun s e r index stat x at_ open_ mine isX waits free single scope => ?_,
    fun s e r index rlog persist autorel stat at_ open_ mine low high fresh full => ?_,
    fun s e r index stat x at_ open_ mine isX taken => ⟨?_, fun rlog persist autorel low high => ?_⟩,
    fun s e r index ids is at_ open_ mine fresh nonempty few members usable => ?_⟩
  · obtain ⟨aligned, inside, apart⟩ := Blk.ringPlace_sound place
    let c := (s.blk.headOf r.ref).ctx
    let y : Channel := { x with
      persist := persist, autorel := autorel, rlog := rlog, base := a
      recvEnd := some { engine := e, statEngine := e, ref := s.blk.headOf r.ref, stat := stat } }
    have mineOnly : (!persist && (match x.sendEnd with | some z => z.ref != s.blk.headOf r.ref | none => false)) = false := by
      obtain kept | own := scope
      · rw [kept]
        rfl
      · cases taken : x.sendEnd with
        | none => exact Bool.and_false _
        | some z => simp [own z taken]
    obtain ⟨d, isD, vs, ps, written⟩ : ∃ d, d = (s.blk.modHb fun h => h.clearBytes a (8 * 2 ^ rlog)).validate 32 a (8 * 2 ^ rlog) ∧
        ∃ vs ps, d = { s.blk.modHb fun h => h.clearBytes a (8 * 2 ^ rlog) with
          rel := { s.blk.rel with validPages := vs, partPages := ps } } := ⟨_, rfl, Blk.validate_eq ..⟩
    have ran : exec (.accept e index rlog persist autorel stat) s = .next { s with
        blk := (d.openIfBoth c index x y).emit (.opResult e stOk (mkChId 1 index) []) } := by
      refine (at_.acts _).trans ?_
      dsimp only
      rw [← isX]
      rw [if_neg (by simp [openIndex_some open_ mine, Nat.not_lt.2 low, Nat.not_lt.2 high]), if_neg (by simp [waits, free, single])]
      rw [place, isD]
      exact congrArg (fun b : Blk => Host.Outcome.next { s with blk := b }) (if_neg (ne_true_of_eq_false mineOnly))
    obtain ⟨w, opened, -⟩ := d.openIfBoth_eq c index x (new := y) waits (taken := x.sendEnd.isSome) (by simp [y])
    obtain ⟨chan, others, mem, -, out, frame⟩ := d.stored_leaves c index { y with
      state := if x.sendEnd.isSome then .opened else .pending } w .chOpen (b2n x.sendEnd.isSome)
    rw [opened] at ran
    refine ⟨_, ran, ⟨rfl, rfl, rfl⟩, chan, aligned, inside, apart, fun k other => ?_, fun z outside => ?_,
      List.getLast?_concat .., ?_⟩
    · refine (others k other).trans ?_
      rw [written]
      rfl
    · refine ((congrArg (fun m => tgetD 0 m z) mem).trans ?_).trans (Hb.readByte_clearBytes s.blk.hb outside)
      rw [written]
      rfl
    · have rel : ((d.stored c index { y with state := if x.sendEnd.isSome then .opened else .pending } w).bump .chOpen 0
        (b2n x.sendEnd.isSome)).rel = d.rel := Blk.bump_rel ..
      exact Blk.opened_frame written frame mem rel
  · have ran : exec (.connect e index stat) s = .next { s with
        blk := (s.blk.openIfBoth (s.blk.headOf r.ref).ctx index x { x with
          sendEnd := some { engine := e, statEngine := e, ref := s.blk.headOf r.ref, stat := stat } }).emit
            (.opResult e stOk (mkChId 0 index) []) } := by
      refine (at_.acts _).trans ?_
      dsimp only
      rw [← isX]
      simp [openIndex_some open_ mine, waits, free, single, scope, Blk.opReply]
    obtain ⟨w, opened, len⟩ := s.blk.openIfBoth_eq (s.blk.headOf r.ref).ctx index x (new := { x with
      sendEnd := some { engine := e, statEngine := e, ref := s.blk.headOf r.ref, stat := stat } }) waits
      (taken := x.recvEnd.isSome) (by simp)
    obtain ⟨chan, others, mem, counted, out, frame⟩ := s.blk.stored_leaves (s.blk.headOf r.ref).ctx index { x with
      state := if x.recvEnd.isSome then .opened else .pending
      sendEnd := some { engine := e, statEngine := e, ref := s.blk.headOf r.ref, stat := stat } } w .chOpen
      (b2n x.recvEnd.isSome)
    rw [opened] at ran
    refine ⟨_, ran, ⟨rfl, rfl, rfl⟩, chan, others, fun a => ?_, counted, ⟨w, len, congrArg (· ++ _) out⟩, ?_⟩
    · exact congrArg (fun m => tgetD 0 m a) mem
    · exact congrArg (fun b : Blk => b.emit (.opResult e stOk (mkChId 0 index) [])) frame
  · refine answered ((at_.acts _).trans ?_)
    simp [openIndex_some open_ mine, fresh, full, Nat.not_lt.2 low, Nat.not_lt.2 high, Blk.opReply]
  · refine answered ((at_.acts _).trans ?_)
    simp [openIndex_some open_ mine, isX, taken, Blk.opReply]
  · refine answered ((at_.acts _).trans ?_)
    simp [openIndex_some open_ mine, isX, taken, Nat.not_lt.2 low, Nat.not_lt.2 high, Blk.opReply]
  · have valid : (ids.map (s.blk.chanIndex (s.blk.headOf r.ref).ctx 0)).any Option.isNone = false := by
      rw [members]
      simp
    have listed : (ids.map (s.blk.chanIndex (s.blk.headOf r.ref).ctx 0)).filterMap id = is := by
      rw [members]
      simp
    have ran : exec (.fanout e index ids) s = .next { s with
        blk := (s.blk.putChan (s.blk.headOf r.ref).ctx index
          { ctx := (s.blk.headOf r.ref).ctx, state := .opened, fan := some is }).emit
            (.opResult e stOk (mkChId 2 index) []) } := by
      refine (at_.acts _).trans ?_
      dsimp only
      rw [if_neg (by simp [openIndex_some open_ mine, nonempty, Nat.not_lt.2 few, valid]), listed, if_neg, if_neg]
      · rfl
      · rw [fresh, List.all_eq_true.2 fun i member => ?_]
        · exact Bool.false_ne_true
        · obtain ⟨x, found, state, send, fan, -⟩ := usable i member
          obtain state | state := state <;> simp [found, state, send, fan]
      · rw [List.all_eq_true.2 fun i member => ?_]
        · exact Bool.false_ne_true
        · obtain ⟨x, found, -, -, -, scope⟩ := usable i member
          simpa only [found] using scope
    exact ⟨_, ran, ⟨rfl, rfl, rfl⟩, Blk.chan?_putChan .., fun k other => Blk.channels_putChan_other _ _ other, fun _ => rfl,
      rfl, rfl⟩

end Sys2Proof.Machine
end

section
/-!
# SEND (R239-R241, R247): settles O40
-/
namespace Sys2Proof.Machine

/-! ### Words of channel memory -/

theorem leNat_leBytes (n v : Nat) : leNat (leBytes n v) = v % 256 ^ n := by
  induction n generalizing v with
  | zero => simp [leBytes, leNat, Nat.mod_one]
  | succ n ih =>
    rw [leBytes, leNat, ih, BitVec.toNat_ofNat, Nat.pow_succ' (n := n), Nat.mod_mul]

namespace Hb

variable {h : Hb} {a k : Nat}

/-- A byte that was written is read. -/
theorem readByte_writeBytes_in (l : List Byte) {j : Nat} (inside : j < l.length) :
    (h.writeBytes a l).readByte (a + j) = l[j] := by
  induction l generalizing h a j with
  | nil => simp at inside
  | cons x l ih =>
    rw [writeBytes]
    cases j with
    | zero => rw [readByte_writeBytes_outside _ _ _ _ (by omega), Nat.add_zero, readByte_writeByte_same]; rfl
    | succ j =>
      have := ih (h := h.writeByte a x) (a := a + 1) (j := j) (by simpa using inside)
      rwa [Nat.add_assoc, Nat.add_comm 1] at this

theorem readWord_congr {g : Hb} (same : ∀ j, j < 8 → g.readByte (a + j) = h.readByte (a + j)) : g.readWord a = h.readWord a := by
  unfold readWord
  rw [List.map_congr_left fun j inside => same j (List.mem_range.1 inside)]

theorem readWord_writeWord_same (h : Hb) (a : Nat) (w : BitVec 64) : (h.writeWord a w).readWord a = w := by
  have bytes : (List.range 8).map (fun j => (h.writeWord a w).readByte (a + j)) = leBytes 8 w.toNat := by
    refine List.ext_getElem (by rw [leBytes_length]; rfl) fun j inside _ => ?_
    rw [List.getElem_map, List.getElem_range]
    exact readByte_writeBytes_in _ _
  rw [readWord, bytes, leNat_leBytes]
  exact BitVec.eq_of_toNat_eq (by simpa using w.isLt)

/-! ### Words of a ring (R238, R239) -/

variable {c : Channel} {p : Nat}

theorem ptrAdd_mod (rlog p n : Nat) : ptrAdd rlog p n % 2 ^ rlog = (p + n) % 2 ^ rlog :=
  Nat.mod_mod_of_dvd _ (Nat.pow_dvd_pow 2 (Nat.le_succ rlog))

/-- The pointer after a word that is not the last of the ring. -/
theorem ptrAdd_one_mod {rlog p : Nat} (more : p % 2 ^ rlog + 1 < 2 ^ rlog) :
    ptrAdd rlog p 1 % 2 ^ rlog = p % 2 ^ rlog + 1 := by
  rw [ptrAdd_mod, Nat.add_mod, Nat.mod_eq_of_lt (a := 1) (by omega), Nat.mod_eq_of_lt more]

/-- Outside the words stored, which do not pass the ring's end, channel memory reads as before. -/
theorem readByte_putWords_out (ws : List (BitVec 64)) (fits : p % 2 ^ c.rlog + ws.length ≤ 2 ^ c.rlog)
    (out : k < c.addr p ∨ c.addr p + 8 * ws.length ≤ k) : (putWords c p ws h).readByte k = h.readByte k := by
  induction ws generalizing h p with
  | nil => rfl
  | cons w ws ih =>
    rw [List.length_cons] at fits out
    rw [putWords]
    have first : (h.writeWord (c.addr p) w).readByte k = h.readByte k := readByte_writeWord_outside _ _ _ _ (by omega)
    cases ws with
    | nil => exact first
    | cons w' ws =>
      rw [List.length_cons] at fits out
      have next := ptrAdd_one_mod (rlog := c.rlog) (p := p) (by omega)
      have addr : c.addr (ptrAdd c.rlog p 1) = c.addr p + 8 := by
        rw [Channel.addr, next, Channel.addr]
        omega
      rw [ih (by rw [next, List.length_cons]; omega) (by rw [addr, List.length_cons]; omega), first]

/-- A word that was stored is read at its place. -/
theorem readWord_putWords (ws : List (BitVec 64)) (fits : p % 2 ^ c.rlog + ws.length ≤ 2 ^ c.rlog) {j : Nat} {w : BitVec 64}
    (has : ws[j]? = some w) : (putWords c p ws h).readWord (c.addr p + 8 * j) = w := by
  induction ws generalizing h p j with
  | nil => simp at has
  | cons x ws ih =>
    rw [List.length_cons] at fits
    rw [putWords]
    have next (more : ws ≠ []) : c.addr (ptrAdd c.rlog p 1) = c.addr p + 8 ∧
        ptrAdd c.rlog p 1 % 2 ^ c.rlog + ws.length ≤ 2 ^ c.rlog := by
      have := List.length_pos_iff.2 more
      have next := ptrAdd_one_mod (rlog := c.rlog) (p := p) (by omega)
      exact ⟨by rw [Channel.addr, next, Channel.addr]; omega, by rw [next]; omega⟩
    cases j with
    | zero =>
      obtain rfl : x = w := by simpa using has
      rw [Nat.mul_zero, Nat.add_zero]
      refine (readWord_congr fun j inside => ?_).trans (readWord_writeWord_same h (c.addr p) x)
      by_cases more : ws = []
      · rw [more]
        rfl
      · obtain ⟨addr, fits⟩ := next more
        exact readByte_putWords_out ws fits (by rw [addr]; omega)
    | succ j =>
      have has : ws[j]? = some w := has
      obtain ⟨addr, fits⟩ := next fun none => by simp [none] at has
      have := ih (h := h.writeWord (c.addr p) x) fits has
      rwa [addr, Nat.add_assoc, Nat.add_comm 8, ← Nat.mul_succ] at this

/-- Storing words changes channel memory alone. -/
theorem putWords_frame (c : Channel) (p : Nat) (ws : List (BitVec 64)) (h : Hb) :
    putWords c p ws h = { h with chanMem := (putWords c p ws h).chanMem } := by
  have bytes (l : List Byte) (a : Nat) (h : Hb) : h.writeBytes a l = { h with chanMem := (h.writeBytes a l).chanMem } := by
    induction l generalizing h a with
    | nil => rfl
    | cons x l ih => exact ih (a + 1) (h.writeByte a x)
  induction ws generalizing h p with
  | nil => rfl
  | cons w ws ih =>
    refine (ih (ptrAdd c.rlog p 1) (h.writeWord (c.addr p) w)).trans ?_
    rw [putWords]
    exact congrArg (fun g : Hb => { g with chanMem := (putWords c (ptrAdd c.rlog p 1) ws (h.writeWord (c.addr p) w)).chanMem })
      (bytes (leBytes 8 w.toNat) (c.addr p) h)

end Hb

namespace Hb

theorem readByte_of_chanMem {g h : Hb} (mem : g.chanMem = h.chanMem) (a : Nat) : g.readByte a = h.readByte a :=
  congrArg (fun m => tgetD 0 m a) mem

theorem readWord_of_chanMem {g h : Hb} (mem : g.chanMem = h.chanMem) (a : Nat) : g.readWord a = h.readWord a :=
  readWord_congr fun _ _ => readByte_of_chanMem mem _

/-- The address of a ring word that does not pass the ring's end. -/
theorem addr_add (c : Channel) {p q j : Nat} (same : p % 2 ^ c.rlog = q % 2 ^ c.rlog) (inside : q % 2 ^ c.rlog + j < 2 ^ c.rlog) :
    c.addr (q + j) = c.addr p + 8 * j := by
  have small : j % 2 ^ c.rlog = j := Nat.mod_eq_of_lt (by omega)
  rw [Channel.addr, Channel.addr, Nat.add_mod, small, Nat.mod_eq_of_lt inside, same]
  omega

/-- The words from a pointer to the ring's end lead to its start. -/
theorem add_room_mod (p : Nat) {n : Nat} (pos : 0 < n) : (p + (n - p % n)) % n = 0 := by
  have whole := Nat.div_add_mod p n
  have rest := Nat.mod_lt p pos
  rw [show p + (n - p % n) = n * (p / n + 1) by rw [Nat.mul_succ]; omega]
  exact Nat.mul_mod_right ..

end Hb

/-! ### What an operation on one channel leaves -/

/-- Channel `i` of context `c`, channel memory, counters and the ports alone may differ. -/
def OnlyChan (c i : Nat) (b d : Blk) : Prop :=
  (∀ k, k ≠ chKey c i → tget d.hb.channels k = tget b.hb.channels k) ∧
    d = { b with
      hb := { b.hb with channels := d.hb.channels, chanMem := d.hb.chanMem }, counters := d.counters, out := d.out }

namespace OnlyChan

variable {c i : Nat} {b d f : Blk}

theorem refl (c i : Nat) (b : Blk) : OnlyChan c i b b := ⟨fun _ _ => rfl, rfl⟩

theorem trans (h : OnlyChan c i b d) (k : OnlyChan c i d f) : OnlyChan c i b f := by
  obtain ⟨others, frame⟩ := h
  obtain ⟨others', frame'⟩ := k
  refine ⟨fun k other => (others' k other).trans (others k other), ?_⟩
  rw [frame', frame]

theorem putChan (h : OnlyChan c i b d) (x : Channel) : OnlyChan c i b (d.putChan c i x) :=
  h.trans ⟨fun _ other => tget_tput_other _ _ other, rfl⟩

theorem emit (h : OnlyChan c i b d) (o : Out) : OnlyChan c i b (d.emit o) := h.trans ⟨fun _ _ => rfl, rfl⟩

theorem wrote (h : OnlyChan c i b d) (w : List Out) : OnlyChan c i b { d with out := d.out ++ w } :=
  h.trans ⟨fun _ _ => rfl, rfl⟩

theorem bump (h : OnlyChan c i b d) (j : Ctr) (k n : Nat) : OnlyChan c i b (d.bump j k n) := by
  refine h.trans ⟨fun k _ => by rw [Blk.bump_hb], ?_⟩
  rw [Blk.bump_hb, Blk.bump_out]
  exact Blk.bump_frame ..

theorem putWords (h : OnlyChan c i b d) (x : Channel) (p : Nat) (ws : List (BitVec 64)) :
    OnlyChan c i b (d.modHb (Hb.putWords x p ws)) := by
  refine h.trans ⟨fun k _ => by rw [Blk.modHb_hb, Hb.putWords_channels], ?_⟩
  have frame : Hb.putWords x p ws d.hb = { d.hb with
      channels := (Hb.putWords x p ws d.hb).channels, chanMem := (Hb.putWords x p ws d.hb).chanMem } := by
    rw [Hb.putWords_channels]
    exact Hb.putWords_frame ..
  exact congrArg (fun g : Hb => { d with hb := g }) frame

theorem update (h : OnlyChan c i b d) (old new : Channel) (toSend toRecv : Bool) :
    OnlyChan c i b (d.update c i old new toSend toRecv) := by
  obtain ⟨w, eq, -⟩ := Blk.update_eq d c i old new toSend toRecv
  rw [eq]
  exact (h.putChan new).wrote w

/-- Where channel memory is as it was, the frame does not name it. -/
theorem frame (h : OnlyChan c i b d) (mem : d.hb.chanMem = b.hb.chanMem) :
    d = { b with hb := { b.hb with channels := d.hb.channels }, counters := d.counters, out := d.out } := by
  refine h.2.trans ?_
  rw [mem]

end OnlyChan

namespace Blk

variable {b d : Blk} {c i : Nat} {x : Channel}

theorem chan?_congr (h : d.hb.channels = b.hb.channels) (c i : Nat) : d.chan? c i = b.chan? c i := by
  rw [chan?, chan?, h]

/-- A channel that was stored after an operation; channel memory is as before. -/
theorem update_leaves (b : Blk) (c i : Nat) (old new : Channel) (toSend toRecv : Bool) :
    (b.update c i old new toSend toRecv).chan? c i = some new ∧
      (b.update c i old new toSend toRecv).hb.chanMem = b.hb.chanMem ∧
      (b.update c i old new toSend toRecv).counters = b.counters := by
  obtain ⟨w, eq, -⟩ := update_eq b c i old new toSend toRecv
  rw [eq]
  exact ⟨chan?_putChan .., rfl, rfl⟩

/-- A channel with a message more that begins `skip` words past its write pointer. -/
def messageStored (x : Channel) (skip n : Nat) : Channel :=
  { x with wp := ptrAdd x.rlog x.wp (skip + n), gapCount := 0, seqNext := x.seqNext + 1, sent := x.sent + 1 }

/-- The words of a message: the gap marker that is pending, the header, the payload. -/
def messageWords (x : Channel) (payload : List (BitVec 64)) : List (BitVec 64) :=
  x.gapWords ++ chHeader 0 payload.length x.seqNext :: payload

/-- A block with the words of a message stored, behind a PAD or not. -/
def storeMessage (c i : Nat) (x : Channel) (payload pad : List (BitVec 64)) (skip : Nat) (b : Blk) : Blk :=
  (((b.modHb fun h => Hb.putWords x (ptrAdd x.rlog x.wp skip) (messageWords x payload) (Hb.putWords x x.wp pad h)).update c i x
    (messageStored x skip (messageWords x payload).length) false true).bump .chMsg).bump .chPad 0 (b2n (decide (0 < skip)))

theorem offer_fits (b : Blk) (c i : Nat) {x : Channel} {payload : List (BitVec 64)}
    (ring : (messageWords x payload).length ≤ 2 ^ x.rlog - x.wp % 2 ^ x.rlog)
    (room : (messageWords x payload).length ≤ x.freeWords) :
    b.offer c i x payload = (b.storeMessage c i x payload [] 0, stOk) := by
  rw [offer]
  exact if_pos ⟨ring, room⟩

theorem offer_wraps (b : Blk) (c i : Nat) {x : Channel} {payload : List (BitVec 64)}
    (ring : 2 ^ x.rlog - x.wp % 2 ^ x.rlog < (messageWords x payload).length)
    (room : 2 ^ x.rlog - x.wp % 2 ^ x.rlog + (messageWords x payload).length ≤ x.freeWords) :
    b.offer c i x payload = (b.storeMessage c i x payload [chHeader 2 (2 ^ x.rlog - x.wp % 2 ^ x.rlog - 1) 0]
      (2 ^ x.rlog - x.wp % 2 ^ x.rlog), stOk) := by
  rw [offer]
  exact (if_neg fun h => absurd h.1 (Nat.not_le.2 ring)).trans (if_pos ⟨ring, room⟩)

theorem offer_drops (b : Blk) (c i : Nat) {x : Channel} {payload : List (BitVec 64)}
    (full : x.freeWords < if (messageWords x payload).length ≤ 2 ^ x.rlog - x.wp % 2 ^ x.rlog then
      (messageWords x payload).length else 2 ^ x.rlog - x.wp % 2 ^ x.rlog + (messageWords x payload).length) :
    b.offer c i x payload = ((b.update c i x x.dropped true false).bump .chLost, stGap) := by
  rw [offer]
  refine (if_neg fun h => ?_).trans (if_neg fun h => ?_)
  · have h : (messageWords x payload).length ≤ _ ∧ (messageWords x payload).length ≤ _ := h
    rw [if_pos h.1] at full
    omega
  · have h : _ < (messageWords x payload).length ∧ _ + (messageWords x payload).length ≤ _ := h
    rw [if_neg (by omega)] at full
    omega

/-- What a stored message leaves: the channel, the frame, and channel memory with its words. -/
theorem storeMessage_leaves (b : Blk) (c i : Nat) (x : Channel) (payload pad : List (BitVec 64)) (skip : Nat) :
    let d := b.storeMessage c i x payload pad skip
    d.chan? c i = some (messageStored x skip (messageWords x payload).length) ∧ OnlyChan c i b d ∧
      d.hb.chanMem =
        (Hb.putWords x (ptrAdd x.rlog x.wp skip) (messageWords x payload) (Hb.putWords x x.wp pad b.hb)).chanMem := by
  intro d
  let f := b.modHb fun h => Hb.putWords x (ptrAdd x.rlog x.wp skip) (messageWords x payload) (Hb.putWords x x.wp pad h)
  obtain ⟨chan, mem, -⟩ := update_leaves f c i x (messageStored x skip (messageWords x payload).length) false true
  have hb : d.hb = (f.update c i x (messageStored x skip (messageWords x payload).length) false true).hb :=
    (bump_hb ..).trans (bump_hb ..)
  refine ⟨?_, ?_, (congrArg Hb.chanMem hb).trans mem⟩
  · rw [chan?_congr (congrArg Hb.channels hb)]
    exact chan
  · have words : OnlyChan c i b f :=
      ((OnlyChan.refl c i b).putWords x x.wp pad).putWords x (ptrAdd x.rlog x.wp skip) (messageWords x payload)
    exact ((words.update ..).bump ..).bump ..

/-! ### A SEND to one channel (R235, R237, R240, R246) -/

/-- A channel on whose send end engine `e` operates. -/
def sentBy (x : Channel) (e : Nat) : Channel := { x with sendEnd := x.sendEnd.map fun z => { z with engine := e } }

theorem sendChan_opened {e : Nat} {t : TaskRef} {payload : List (BitVec 64)} (chan : b.chan? c i = some x)
    (scope : x.inScope t = true) (single : x.fan = none) (opened : x.state = .opened) (sending : endClosed x.sendEnd = false)
    (receiving : endClosed x.recvEnd = false) (short : payload.length ≤ 2 ^ x.rlog - 2) :
    b.sendChan e c i t payload = (((b.putChan c i (sentBy x e)).offer c i (sentBy x e) payload).1,
      some ((b.putChan c i (sentBy x e)).offer c i (sentBy x e) payload).2) := by
  rw [sendChan, chan]
  dsimp only
  rw [if_neg (by simp [scope, single])]
  unfold sentBy
  rw [opened]
  dsimp only
  rw [if_neg (by simp [sending]; omega)]
  exact if_neg (ne_true_of_eq_false receiving)

end Blk

/-! ### A SEND on a fan-out (R247) -/

/-- Two blocks with the same hub and the same counters. -/
def Alike (b d : Blk) : Prop := d.hb = b.hb ∧ d.counters = b.counters

namespace Alike

variable {b d : Blk}

theorem bump (h : Alike b d) (j : Ctr) (k n : Nat) : Alike (b.bump j k n) (d.bump j k n) := by
  refine ⟨by rw [Blk.bump_hb, Blk.bump_hb, h.1], ?_⟩
  unfold Blk.bump
  split
  · exact h.2
  · exact congrArg (fun t => tmod 0 t (ctrKey j k) (· + n)) h.2

theorem modHb (h : Alike b d) (f : Hb → Hb) : Alike (b.modHb f) (d.modHb f) := ⟨congrArg f h.1, h.2⟩

theorem update (h : Alike b d) (c i : Nat) (old new : Channel) (toSend toRecv : Bool) :
    Alike (b.update c i old new toSend toRecv) (d.update c i old new toSend toRecv) := by
  obtain ⟨w, eq, -⟩ := Blk.update_eq b c i old new toSend toRecv
  obtain ⟨w', eq', -⟩ := Blk.update_eq d c i old new toSend toRecv
  rw [eq, eq']
  exact h.modHb fun h => { h with channels := tput h.channels (chKey c i) new }

theorem offer (h : Alike b d) (c i : Nat) (x : Channel) (payload : List (BitVec 64)) :
    Alike (b.offer c i x payload).1 (d.offer c i x payload).1 ∧
      (d.offer c i x payload).2 = (b.offer c i x payload).2 := by
  unfold Blk.offer
  dsimp only
  split
  · exact ⟨(((h.modHb _).update ..).bump ..).bump .., rfl⟩
  · split
    · exact ⟨(((h.modHb _).update ..).bump ..).bump .., rfl⟩
    · exact ⟨(h.update ..).bump .., rfl⟩

/-- What a SEND does to the hub, and how it is answered, does not depend on the ports. -/
theorem sendChan (h : Alike b d) (e c i : Nat) (t : TaskRef) (payload : List (BitVec 64)) :
    Alike (b.sendChan e c i t payload).1 (d.sendChan e c i t payload).1 ∧
      (d.sendChan e c i t payload).2 = (b.sendChan e c i t payload).2 := by
  unfold Blk.sendChan
  rw [show d.chan? c i = b.chan? c i from Blk.chan?_congr (congrArg Hb.channels h.1) c i]
  split
  · exact ⟨h, rfl⟩
  · split
    · exact ⟨h, rfl⟩
    · split
      · exact ⟨h, rfl⟩
      · exact ⟨h, rfl⟩
      · exact ⟨h.bump .., rfl⟩
      · split
        · exact ⟨h, rfl⟩
        · dsimp only
          split
          · exact ⟨(h.modHb _).bump .., rfl⟩
          · obtain ⟨alike, same⟩ := (h.modHb _).offer c i _ payload
            exact ⟨alike, congrArg some same⟩

end Alike

section
variable {s : State} {e : Nat} {r : Run}

theorem exec_send {id : BitVec 32} {payload : List (BitVec 64)} (at_ : RunsAt s e r) (open_ : r.parks = false) :
    exec (.send e id payload) s = .next { s with
      blk := Blk.answer e r.ref (s.blk.sendOn e (s.blk.headOf r.ref) id payload) } := by
  refine (at_.acts _).trans ?_
  rw [open_]
  rfl

theorem exec_send_chan {id : BitVec 32} {payload : List (BitVec 64)} {i : Nat} {d : Blk} {st : BitVec 8} (at_ : RunsAt s e r)
    (open_ : r.parks = false) (index : s.blk.chanIndex (s.blk.headOf r.ref).ctx 0 id = some i)
    (sent : s.blk.sendChan e (s.blk.headOf r.ref).ctx i (s.blk.headOf r.ref) payload = (d, some st)) :
    exec (.send e id payload) s = .next { s with blk := d.emit (.opResult e st 0 []) } := by
  rw [exec_send at_ open_, Blk.sendOn, index]
  dsimp only
  rw [sent]
  rfl

end

/-- One member of a fan-out: the SEND to it, and the rank of the results so far. -/
def fanStep (e : Nat) (t : TaskRef) (payload : List (BitVec 64)) (acc : Blk × Option (BitVec 8)) (m : Nat) :
    Blk × Option (BitVec 8) :=
  ((acc.1.sendChan e t.ctx m t payload).1,
    match acc.2, (acc.1.sendChan e t.ctx m t payload).2 with | some x, some y => some (rankMax x y) | _, _ => none)

/-- A SEND on a send end that is answered with another status than CONTEXT_FAULT. -/
theorem send_answered {s u : State} {e : Nat} {r : Run} {id : BitVec 32} {payload : List (BitVec 64)} {m : Nat} {st : BitVec 8}
    (at_ : RunsAt s e r) (open_ : r.parks = false) (index : s.blk.chanIndex (s.blk.headOf r.ref).ctx 0 id = some m)
    (sent : exec (.send e id payload) s = .next u) (answered : u.blk.out.getLast? = some (.opResult e st 0 []))
    (served : st ≠ stContextFault) :
    ∃ d, s.blk.sendChan e (s.blk.headOf r.ref).ctx m (s.blk.headOf r.ref) payload = (d, some st) ∧
      u = { s with blk := d.emit (.opResult e st 0 []) } := by
  rw [exec_send at_ open_, Blk.sendOn, index] at sent
  obtain rfl := Host.Outcome.next.inj sent
  dsimp only at answered ⊢
  clear sent
  generalize s.blk.sendChan e (s.blk.headOf r.ref).ctx m (s.blk.headOf r.ref) payload = p at answered ⊢
  obtain ⟨d, result⟩ := p
  cases result with
  | none =>
    have last : (Blk.answer e r.ref (d, none)).out.getLast? = some (.opResult e stContextFault 0 []) := List.getLast?_concat ..
    rw [last] at answered
    cases answered
    exact absurd rfl served
  | some x =>
    have last : (Blk.answer e r.ref (d, some x)).out.getLast? = some (.opResult e x 0 []) := List.getLast?_concat ..
    rw [last] at answered
    cases answered
    exact ⟨d, rfl, rfl⟩

/-- The fields by which an operation of a run acts are the same where none of them may differ. -/
theorem RunsAt.of_within {s : State} {e : Nat} {r : Run} {d : Blk} (at_ : RunsAt s e r)
    (within : Blk.Within [.hb, .chanMem, .counters, .out] s.blk d) : RunsAt { s with blk := d } e r := by
  have agent := Blk.agent_congr (within .agents (by simp)) e
  exact ⟨at_.engine, (Blk.frozen_of_within within).trans at_.moving, by rw [agent]; exact at_.run, at_.active,
    by rw [agent]; exact at_.nowait, by rw [agent]; exact at_.nostall⟩

theorem Blk.chanIndex_congr {b d : Blk} (fe : d.fe = b.fe) (c type : Nat) (id : BitVec 32) :
    d.chanIndex c type id = b.chanIndex c type id := by
  unfold chanIndex chanQ ctx?
  rw [fe]

/-- SENDs on the send ends of a fan-out's members do to the hub what the SEND on the fan-out does. -/
theorem SendsEach.fan {s u : State} {e : Nat} {r : Run} {payload : List (BitVec 64)} {ids : List (BitVec 32)} {ms : List Nat}
    {sts : List (BitVec 8)} (sends : SendsEach e payload ids s u sts) (at_ : RunsAt s e r) (open_ : r.parks = false)
    (members : ids.map (s.blk.chanIndex (s.blk.headOf r.ref).ctx 0) = ms.map some) {b : Blk} (alike : Alike s.blk b)
    (st : BitVec 8) :
    ∃ d, ms.foldl (fanStep e (s.blk.headOf r.ref) payload) (b, some st) = (d, some (sts.foldl rankMax st)) ∧
      Alike u.blk d := by
  induction sends generalizing ms b st with
  | nil s =>
    obtain rfl : ms = [] := by simpa using members.symm
    exact ⟨b, rfl, alike⟩
  | cons id ids s u t x sts sent answered served rest ih =>
    obtain _ | ⟨m, ms⟩ := ms
    · simp at members
    simp only [List.map_cons, List.cons.injEq] at members
    obtain ⟨index, members⟩ := members
    obtain ⟨d, one, rfl⟩ := send_answered at_ open_ index sent answered served
    obtain ⟨alike', same⟩ := alike.sendChan e (s.blk.headOf r.ref).ctx m (s.blk.headOf r.ref) payload
    rw [one] at alike' same
    have within : Blk.Within [.hb, .chanMem, .counters, .out] s.blk (d.emit (.opResult e x 0 [])) := by
      have only : Blk.Within [.hb, .chanMem, .counters, .out] s.blk
        (s.blk.sendChan e (s.blk.headOf r.ref).ctx m (s.blk.headOf r.ref) payload).1 := by simp
      rw [one] at only
      simpa using only
    have head := within.headOf (by simp) r.ref
    have members' : ids.map ((d.emit (.opResult e x 0 [])).chanIndex ((d.emit (.opResult e x 0 [])).headOf r.ref).ctx 0) =
        ms.map some := by
      rw [head, funext (Blk.chanIndex_congr (within .fe (by simp)) _ _)]
      exact members
    obtain ⟨f, whole, same'⟩ := ih (at_.of_within within) members' (b := (b.sendChan e (s.blk.headOf r.ref).ctx m (s.blk.headOf r.ref) payload).1)
      alike' (rankMax st x)
    refine ⟨f, ?_, same'⟩
    rw [List.foldl_cons, fanStep, same]
    rw [head] at whole
    exact whole

/-- Settles O40: `Blk.storeMessage_leaves` for a message that fits, `Blk.offer_drops` for one that does not. -/
theorem sendStoresItsMessage : Obligations.SendStoresItsMessage := by
  refine ⟨fun s e r id payload i x z at_ open_ index chan opened end_ sending receiving single scope short => ?_,
    fun s e r id payload i x at_ open_ index chan single scope => ⟨fun waits sending => ?_, fun reset => ?_,
      fun opened sending receiving short => ?_⟩,
    fun s u e r id payload i x ids ms sts at_ open_ plain index chan fan members sends => ?_,
    fun s e r id payload at_ parks room => ?_⟩
  · have sent := Blk.sendChan_opened (e := e) (t := s.blk.headOf r.ref) (payload := payload) chan scope single opened
      (by rw [end_]; exact sending) receiving short
    have by_ : Blk.sentBy x e = { x with sendEnd := some { z with engine := e } } := by
      rw [Blk.sentBy, end_]
      rfl
    have first := (OnlyChan.refl (s.blk.headOf r.ref).ctx i s.blk).putChan (Blk.sentBy x e)
    let y : Channel := Blk.sentBy x e
    have free : x.freeWords ≤ 2 ^ x.rlog := Nat.sub_le ..
    refine ⟨fun ring room => ?_, fun ring room => ?_, fun full => ?_⟩
    · rw [Blk.offer_fits (x := y) _ _ _ ring room] at sent
      obtain ⟨now, only, mem⟩ := Blk.storeMessage_leaves (s.blk.putChan (s.blk.headOf r.ref).ctx i y)
        (s.blk.headOf r.ref).ctx i y payload [] 0
      obtain ⟨others, frame⟩ := (first.trans only).emit (.opResult e stOk 0 [])
      have fits : ptrAdd y.rlog y.wp 0 % 2 ^ y.rlog + (Blk.messageWords y payload).length ≤ 2 ^ y.rlog := by
        have ring : (Blk.messageWords y payload).length ≤ 2 ^ y.rlog - y.wp % 2 ^ y.rlog := ring
        have pos : 0 < (Blk.messageWords y payload).length := by
          rw [Blk.messageWords, List.length_append, List.length_cons]
          omega
        rw [Hb.ptrAdd_mod, Nat.add_zero]
        omega
      have start : y.addr (ptrAdd y.rlog y.wp 0) = x.addr x.wp := by
        rw [Channel.addr, Hb.ptrAdd_mod]
        rfl
      refine ⟨_, exec_send_chan at_ open_ index sent, ⟨⟨⟨rfl, rfl, rfl⟩, others, frame⟩, now.trans ?_, fun j w has => ?_,
        List.getLast?_concat ..⟩, fun a out => ?_⟩
      · simp only [y, by_]
        rfl
      · rw [show x.addr (x.wp + 0 + j) = y.addr (ptrAdd y.rlog y.wp 0) + 8 * j from
          Hb.addr_add y (Hb.ptrAdd_mod ..) ?_]
        · exact (Hb.readWord_of_chanMem mem _).trans (Hb.readWord_putWords _ fits has)
        · have inside : j < (Blk.messageWords y payload).length := (List.getElem?_eq_some_iff.1 has).1
          rw [Hb.ptrAdd_mod] at fits
          exact Nat.lt_of_lt_of_le (Nat.add_lt_add_left inside _) fits
      · exact (Hb.readByte_of_chanMem mem a).trans (Hb.readByte_putWords_out _ fits (by rw [start]; exact out))
    · rw [Blk.offer_wraps (x := y) _ _ _ ring room] at sent
      let room' := 2 ^ y.rlog - y.wp % 2 ^ y.rlog
      obtain ⟨now, only, mem⟩ := Blk.storeMessage_leaves (s.blk.putChan (s.blk.headOf r.ref).ctx i y)
        (s.blk.headOf r.ref).ctx i y payload [chHeader 2 (room' - 1) 0] room'
      obtain ⟨others, frame⟩ := (first.trans only).emit (.opResult e stOk 0 [])
      have rest : y.wp % 2 ^ y.rlog < 2 ^ y.rlog := Nat.mod_lt _ (Nat.two_pow_pos _)
      have zero : (y.wp + room') % 2 ^ y.rlog = 0 := Hb.add_room_mod _ (Nat.two_pow_pos _)
      have zero' : ptrAdd y.rlog y.wp room' % 2 ^ y.rlog = 0 := (Hb.ptrAdd_mod ..).trans zero
      have whole : room' + (Blk.messageWords y payload).length ≤ 2 ^ y.rlog := Nat.le_trans room free
      have fits : ptrAdd y.rlog y.wp room' % 2 ^ y.rlog + (Blk.messageWords y payload).length ≤ 2 ^ y.rlog := by
        rw [zero']
        omega
      have start : y.addr (ptrAdd y.rlog y.wp room') = x.base := by
        rw [Channel.addr, zero']
        rfl
      have padFits : y.wp % 2 ^ y.rlog + [chHeader 2 (room' - 1) 0].length ≤ 2 ^ y.rlog := by
        rw [List.length_singleton]
        omega
      have padAt : y.addr y.wp = y.base + 8 * (y.wp % 2 ^ y.rlog) := rfl
      refine ⟨_, exec_send_chan at_ open_ index sent, ⟨⟨⟨rfl, rfl, rfl⟩, others, frame⟩, now.trans ?_, fun j w has => ?_,
        List.getLast?_concat ..⟩, ?_, fun a out out' => ?_⟩
      · simp only [y, by_]
        rfl
      · have inside : j < (Blk.messageWords y payload).length := (List.getElem?_eq_some_iff.1 has).1
        have inRing : (y.wp + room') % 2 ^ y.rlog + j < 2 ^ y.rlog := by
          rw [zero]
          omega
        rw [show x.addr (x.wp + (2 ^ x.rlog - x.wp % 2 ^ x.rlog) + j) = y.addr (ptrAdd y.rlog y.wp room') + 8 * j from
          Hb.addr_add y (Hb.ptrAdd_mod ..) inRing]
        exact (Hb.readWord_of_chanMem mem _).trans (Hb.readWord_putWords _ fits has)
      · refine (Hb.readWord_of_chanMem mem _).trans ?_
        refine (Hb.readWord_congr fun j inside => Hb.readByte_putWords_out _ fits (.inr ?_)).trans
          (Hb.readWord_putWords (j := 0) _ padFits rfl)
        rw [start]
        show y.base + _ ≤ y.addr y.wp + j
        omega
      · refine (Hb.readByte_of_chanMem mem a).trans ((Hb.readByte_putWords_out _ fits (by rw [start]; exact out')).trans ?_)
        exact Hb.readByte_putWords_out _ padFits out
    · rw [Blk.offer_drops (x := y) _ _ _ full] at sent
      obtain ⟨now, mem, counters⟩ := Blk.update_leaves (s.blk.putChan (s.blk.headOf r.ref).ctx i y) (s.blk.headOf r.ref).ctx i y
        y.dropped true false
      have hb := Blk.bump_hb ((s.blk.putChan (s.blk.headOf r.ref).ctx i y).update (s.blk.headOf r.ref).ctx i y y.dropped true
        false) .chLost 0 1
      obtain ⟨others, frame⟩ := ((first.update y y.dropped true false).bump .chLost 0 1).emit (.opResult e stGap 0 [])
      refine ⟨_, exec_send_chan at_ open_ index sent, ⟨⟨rfl, rfl, rfl⟩, others, frame⟩, ?_, fun a => ?_, ?_, List.getLast?_concat ..⟩
      · refine ((Blk.chan?_congr (congrArg Hb.channels hb) ..).trans now).trans ?_
        simp only [y, by_]
        rfl
      · exact Hb.readByte_of_chanMem ((congrArg Hb.chanMem hb).trans mem) a
      · exact (Blk.ctr_bump_same ..).trans (congrArg (fun t : Tbl Nat => tgetD 0 t (ctrKey .chLost 0) + 1) counters)
  · have sent : s.blk.sendChan e (s.blk.headOf r.ref).ctx i (s.blk.headOf r.ref) payload = (s.blk, some stBusy) := by
      simp [Blk.sendChan, chan, scope, single, waits, sending]
    exact answered (exec_send_chan at_ open_ index sent)
  · have sent : s.blk.sendChan e (s.blk.headOf r.ref).ctx i (s.blk.headOf r.ref) payload =
        (s.blk.bump .chPeerDrop, some stPeerReset) := by
      simp [Blk.sendChan, chan, scope, single, reset]
    exact ⟨_, exec_send_chan at_ open_ index sent, ⟨rfl, rfl, rfl⟩, rfl⟩
  · have sent : s.blk.sendChan e (s.blk.headOf r.ref).ctx i (s.blk.headOf r.ref) payload =
        ((s.blk.putChan (s.blk.headOf r.ref).ctx i { Blk.sentBy x e with seqNext := x.seqNext + 1 }).bump .chPeerDrop,
          some stPeerClosed) := by
      simp [Blk.sendChan, chan, scope, single, opened, sending, receiving, Nat.not_lt.2 short, Blk.sentBy]
    have hb := Blk.bump_hb (s.blk.putChan (s.blk.headOf r.ref).ctx i { Blk.sentBy x e with seqNext := x.seqNext + 1 })
      .chPeerDrop 0 1
    refine ⟨_, exec_send_chan at_ open_ index sent, ⟨rfl, rfl, rfl⟩, ?_, congrArg (· ++ _) (Blk.bump_out ..),
      (Blk.ctr_bump_same ..).trans rfl, ?_⟩
    · exact (Blk.chan?_congr (congrArg Hb.channels hb) ..).trans (Blk.chan?_putChan ..)
    · exact ((((OnlyChan.refl (s.blk.headOf r.ref).ctx i s.blk).putChan _).bump ..).emit (.opResult e stPeerClosed 0 [])).frame
        ((congrArg Hb.chanMem hb).trans rfl)
  · obtain ⟨d, whole, hub, counters⟩ := sends.fan at_ open_ members ⟨rfl, rfl⟩ stOk
    have ran : exec (.send e id payload) s = .next { s with blk := d.emit (.opResult e (sts.foldl rankMax stOk) 0 []) } := by
      have fanned : s.blk.sendOn e (s.blk.headOf r.ref) id payload =
          ms.foldl (fanStep e (s.blk.headOf r.ref) payload) (s.blk, some stOk) := by
        simp only [Blk.sendOn, plain, index, chan, Option.bind_some, fan]
        rfl
      rw [exec_send at_ open_, fanned, whole]
      rfl
    have within : Blk.Within [.hb, .chanMem, .counters, .out] s.blk d := by
      have only := Blk.within_foldl_fst (l := [.hb, .chanMem, .counters, .out]) (g := fanStep e (s.blk.headOf r.ref) payload)
        (fun p m => by simp [fanStep]) ms (s.blk, some stOk)
      rw [whole] at only
      exact only
    refine ⟨_, ran, ⟨rfl, rfl, rfl⟩, hub, counters, List.getLast?_concat .., ?_⟩
    exact congrArg (fun b : Blk => b.emit (.opResult e (sts.foldl rankMax stOk) 0 [])) within.eq
  · have ran : exec (.send e id payload) s = .next { s with blk := s.blk.park e r.ref (.chanSend id payload) } := by
      refine (at_.acts _).trans ?_
      rw [parks]
      rfl
    rw [Blk.park_fits room] at ran
    exact ⟨_, ran, ⟨rfl, rfl, rfl⟩, Blk.agent_modAgent_same s.blk e _, Blk.otherAgents_modAgent s.blk e _, rfl⟩

end Sys2Proof.Machine
end

section
/-!
# A count of corrected words beyond its bound (R248): refutes O41

The statement gives the count of corrected words after a READ as the least of 0xFFFF and the sum, of every state and every
list of words, the empty one among them.  The model caps the count where it raises it; a READ that corrects nothing leaves
it, and a state in which it stands above 0xFFFF, which no run builds, keeps it there.
-/
namespace Sys2Proof.Machine

/-- The task that runs on engine 0. -/
def readerRun : Run := { dw := { ref := { ctx := 0, id := 0 }, word := 0 } }

/-- A channel with one word to read, whose count of corrected words is above its bound. -/
def overcounted : Channel :=
  { ctx := 0, state := .opened, persist := true, rlog := 4, wp := 1, corr := 0x10000
    recvEnd := some { engine := 0, statEngine := 0, ref := { ctx := 0, id := 0 }, stat := 0 } }

/-- A block in which the run may read the channel. -/
def overcountedState : State :=
  { State.reset with
    aon := { State.reset.aon with grade := .o1 }
    blk := {
      agents := [(0, { run := some readerRun })]
      fe := { ctxs := [(0, { record := { chanQ := 1 } })] }
      hb := { channels := [(chKey 0 0, overcounted)] } } }

theorem overcountedState_runs : RunsAt overcountedState 0 readerRun :=
  ⟨by decide, by decide +kernel, by decide +kernel, rfl, by decide +kernel, by decide +kernel⟩

theorem exec_read (e : Nat) (id : BitVec 32) (ecc : List (Nat × Ecc)) (s : State) :
    exec (.read e id ecc) s = execRead e id ecc s := rfl

/-- The READ leaves the count of corrected words above its bound. -/
theorem overcountedState_reads : ∃ t, exec (.read 0 (mkChId 1 0) []) overcountedState = .next t ∧
    (t.blk.chan? 0 0).map Channel.corr = some 0x10000 := by
  rw [exec_read, execRead]
  exact ⟨_, overcountedState_runs.acts _, by decide +kernel⟩

/-- Refutes O41: a READ that corrects nothing does not bring a count above 0xFFFF down to it. -/
theorem not_readsMoveThePointers : ¬ Obligations.ReadsMoveThePointers := by
  unfold Obligations.ReadsMoveThePointers
  rintro ⟨moves, -⟩
  obtain ⟨-, -, corrects, -⟩ := moves overcountedState 0 readerRun (mkChId 1 0) 0 overcounted overcountedState_runs rfl
    (by decide +kernel) (by decide) (.inl rfl)
  obtain ⟨t, ran, -, -, ⟨y, found, -, count⟩, -⟩ := corrects _ [] (Option.get_of_mem (by decide +kernel) rfl) (by simp)
  obtain ⟨t', ran', kept⟩ := overcountedState_reads
  cases ran.symm.trans ran'
  have head : (overcountedState.blk.headOf readerRun.ref).ctx = 0 := by decide +kernel
  rw [head] at found
  rw [found, Option.map_some, count] at kept
  exact absurd kept (by decide)

end Sys2Proof.Machine
end

section
/-!
# Combining queues (R250-R254): settles O43
-/
namespace Sys2Proof.Machine

/-! ### A contribution that is recorded (R252) -/

/-- A slot with a contribution more. -/
def CbSlot.put (s : CbSlot) (p : PutOp) : CbSlot := { s with puts := tput s.puts p.pos p }

/-- A queue with a contribution more. -/
def CombQ.put (q : CombQ) (p : PutOp) : CombQ := { q with slots := tput q.slots p.slot ((tgetD {} q.slots p.slot).put p) }

/-- A contribution stands at its position of its slot; nothing else of the queue is different. -/
theorem CombQ.put_leaves (q : CombQ) (p : PutOp) :
    tget (tgetD {} (q.put p).slots p.slot).puts p.pos = some p ∧
      (∀ j, j ≠ p.pos → tget (tgetD {} (q.put p).slots p.slot).puts j = tget (tgetD {} q.slots p.slot).puts j) ∧
      ∀ k, k ≠ p.slot → tgetD {} (q.put p).slots k = tgetD {} q.slots k := by
  have slot : tgetD {} (q.put p).slots p.slot = (tgetD {} q.slots p.slot).put p := tgetD_tput_same ..
  rw [slot]
  exact ⟨tget_tput_same .., fun j other => tget_tput_other _ _ other, fun k other => tgetD_tput_other _ _ _ other⟩

/-- The combining queues, counters and the ports alone may differ. -/
def OnlyQueues (b d : Blk) : Prop :=
  d = { b with hb := { b.hb with cqs := d.hb.cqs }, counters := d.counters, out := d.out }

namespace OnlyQueues

variable {b d f : Blk}

theorem refl (b : Blk) : OnlyQueues b b := rfl

theorem trans (h : OnlyQueues b d) (k : OnlyQueues d f) : OnlyQueues b f := by
  unfold OnlyQueues at *
  rw [k, h]

theorem putCq (h : OnlyQueues b d) (c k : Nat) (q : CombQ) : OnlyQueues b (d.putCq c k q) := h.trans rfl

theorem emit (h : OnlyQueues b d) (o : Out) : OnlyQueues b (d.emit o) := h.trans rfl

theorem bump (h : OnlyQueues b d) (j : Ctr) (k n : Nat) : OnlyQueues b (d.bump j k n) := by
  refine h.trans ?_
  unfold OnlyQueues
  rw [Blk.bump_hb, Blk.bump_out]
  exact Blk.bump_frame ..

end OnlyQueues

namespace Blk

variable {b : Blk} {c k : Nat} {q : CombQ} {p : PutOp}

theorem cq?_putCq (b : Blk) (c k : Nat) (q : CombQ) : (b.putCq c k q).cq? c k = some q := tget_tput_same ..

theorem cq?_congr {d : Blk} (h : d.hb.cqs = b.hb.cqs) (c k : Nat) : d.cq? c k = b.cq? c k := by
  rw [cq?, cq?, h]

/-- A block with a contribution recorded: its record and the header of its slot are written, and it is counted. -/
def recordPut (c : Nat) (q : CombQ) (p : PutOp) (b : Blk) : Blk :=
  (((b.putCq c p.queue (q.put p)).emit
    (.dmWrite (q.headerAddr p.slot + BitVec.ofNat 64 (16 * (p.pos + 1))) (putRecord p))).emit
    (.dmWrite (q.headerAddr p.slot) ((tgetD {} q.slots p.slot).put p).header)).bump .cbPut

theorem record_new (c : Nat) (found : b.cq? c p.queue = some q) (fits : q.refuses p = false)
    (new : tget (tgetD {} q.slots p.slot).puts p.pos = none) : b.record c p = (b.recordPut c q p, false) := by
  rw [record, found]
  dsimp only
  rw [if_neg (ne_true_of_eq_false fits), new]
  rfl

theorem recordPut_leaves (c : Nat) (q : CombQ) (p : PutOp) (b : Blk) :
    (b.recordPut c q p).cq? c p.queue = some (q.put p) ∧ (b.recordPut c q p).ctr .cbPut = b.ctr .cbPut + 1 ∧
      (b.recordPut c q p).ctr .cbOpen = b.ctr .cbOpen ∧
      (b.recordPut c q p).out = b.out ++ [.dmWrite (q.headerAddr p.slot + BitVec.ofNat 64 (16 * (p.pos + 1))) (putRecord p),
        .dmWrite (q.headerAddr p.slot) ((tgetD {} q.slots p.slot).put p).header] ∧ OnlyQueues b (b.recordPut c q p) := by
  have hb : (b.recordPut c q p).hb = (b.putCq c p.queue (q.put p)).hb := bump_hb ..
  refine ⟨(cq?_congr (congrArg Hb.cqs hb) ..).trans (cq?_putCq ..), (ctr_bump_same ..).trans rfl,
    (ctr_bump_other _ _ (by simp)).trans rfl, (bump_out ..).trans (List.append_assoc ..),
    ((((OnlyQueues.refl b).putCq ..).emit _).emit _).bump ..⟩

/-- A contribution that its operands, or its set before it closes, refuse (R252). -/
theorem contribute_refused (src : Option (Nat × TaskRef)) (found : b.cq? c p.queue = some q) (open_ : q.state ≠ .closing)
    (bad : b.cqQ c ≤ p.queue ∨ 6 ≤ p.fmt.toNat ∨ 4 ≤ p.cfl.toNat ∨ q.refuses p = true) :
    b.contribute c src p = (b, true) := by
  by_cases operands : b.cqQ c ≤ p.queue ∨ 6 ≤ p.fmt.toNat ∨ 4 ≤ p.cfl.toNat
  · rw [contribute, if_pos (by simpa [or_assoc] using operands)]
  · rw [contribute, if_neg (by simpa [or_assoc] using operands), found]
    have refused : q.refuses p = true := by
      obtain h | h | h | h := bad
      · exact absurd (.inl h) operands
      · exact absurd (.inr (.inl h)) operands
      · exact absurd (.inr (.inr h)) operands
      · exact h
    cases state : q.state with
    | opening => simp [state, refused]
    | opened => simp [state, record, found, refused]
    | closing => exact absurd state open_

/-- A contribution to an open set. -/
theorem contribute_opened (src : Option (Nat × TaskRef)) (mine : p.queue < b.cqQ c) (fmt : p.fmt.toNat < 6)
    (cfl : p.cfl.toNat < 4) (found : b.cq? c p.queue = some q) (opened : q.state = .opened) :
    b.contribute c src p = b.record c p := by
  rw [contribute, if_neg (by simp; omega), found]
  simp [opened]

end Blk

/-! ### The queues' commands -/

theorem exec_cbOpen {s : State} {e : Nat} {r : Run} {argix : BitVec 32} {d : BitVec 512} {f : Blk × Bool} (at_ : RunsAt s e r)
    (open_ : r.parks = false) (opens : s.blk.combOpen r.ref.ctx argix d = f) :
    exec (.cbOpen e argix d) s = .next { s with blk := Blk.answerFault e r.ref f } := by
  refine (at_.acts _).trans ?_
  rw [open_, opens]
  rfl

theorem exec_cbPut {s : State} {e : Nat} {r : Run} {p : PutOp} {f : Blk × Bool} (at_ : RunsAt s e r)
    (open_ : r.parks = false) (puts : s.blk.contribute r.ref.ctx (some (e, r.ref)) p = f) :
    exec (.cbPut e p) s = .next { s with blk := Blk.answerFault e r.ref f } := by
  refine (at_.acts _).trans ?_
  rw [open_, puts]
  rfl

/-- A set that opens, without what it held. -/
def Blk.openSet (c k : Nat) (q : CombQ) (b : Blk) : Blk :=
  (b.putCq c k { q with state := .opened, held := [] }).bump .cbOpen

theorem Blk.openSet_leaves (c k : Nat) (q : CombQ) (b : Blk) :
    (b.openSet c k q).cq? c k = some { q with state := .opened, held := [] } ∧ (b.openSet c k q).ctr .cbOpen = b.ctr .cbOpen + 1 ∧
      (b.openSet c k q).ctr .cbPut = b.ctr .cbPut ∧ (b.openSet c k q).out = b.out ∧ OnlyQueues b (b.openSet c k q) :=
  ⟨(cq?_congr (congrArg Hb.cqs (bump_hb ..)) ..).trans (cq?_putCq ..), (ctr_bump_same ..).trans rfl,
    (ctr_bump_other _ _ (by simp)).trans rfl, bump_out .., ((OnlyQueues.refl b).putCq ..).bump ..⟩

theorem exec_cbQueueOpen {s : State} {c k : Nat} {q : CombQ} (known : c < s.aon.grade.contexts) (moving : s.blk.frozen = false)
    (found : s.blk.cq? c k = some q) (state : q.state = .opening) :
    exec (.cbQueueOpen c k) s = .next { s with
      blk := (s.blk.openSet c k q).forEach q.held fun x b => Blk.putFault c x.1 (b.record c x.2) } := by
  simp only [exec, execCbQueueOpen]
  rw [atContext_acts _ known, found]
  dsimp only
  rw [if_neg (by simp [state, moving])]
  rfl

/-- A block in which a slot of a queue has been combined, with its sums and saturations. -/
def Blk.combined (c k : Nat) (q : CombQ) (slot : Nat) (y : CbSlot) (sums : List Byte × Nat) (b : Blk) : Blk :=
  ((((b.emit (.dmWrite (q.outBase + BitVec.ofNat 64 (q.outStride * slot)) sums.1)).putCq c k
    { q with slots := tput q.slots slot y }).emit (.dmWrite (q.headerAddr slot) y.header)).bump .cbSlot).bump .cbIntSat 0 sums.2

theorem Blk.combined_leaves (b : Blk) (c k : Nat) (q : CombQ) (slot : Nat) (y : CbSlot) (sums : List Byte × Nat) :
    (b.combined c k q slot y sums).cq? c k = some { q with slots := tput q.slots slot y } ∧
      (b.combined c k q slot y sums).ctr .cbSlot = b.ctr .cbSlot + 1 ∧
      (b.combined c k q slot y sums).out = b.out ++ [.dmWrite (q.outBase + BitVec.ofNat 64 (q.outStride * slot)) sums.1,
        .dmWrite (q.headerAddr slot) y.header] ∧ OnlyQueues b (b.combined c k q slot y sums) :=
  ⟨(cq?_congr (congrArg Hb.cqs ((bump_hb ..).trans (bump_hb ..))) ..).trans (cq?_putCq ..),
    (ctr_bump_other _ _ (by simp)).trans ((ctr_bump_same ..).trans rfl),
    ((bump_out ..).trans (bump_out ..)).trans (List.append_assoc ..),
    (((((OnlyQueues.refl b).emit _).putCq ..).emit _).bump ..).bump ..⟩

theorem exec_slotCombine {s : State} {c k slot : Nat} {rows : List (List (BitVec 32))} {q : CombQ}
    (known : c < s.aon.grade.contexts) (moving : s.blk.frozen = false) (found : s.blk.cq? c k = some q)
    (ripe : q.ripe slot = true) (count : rows.length = (q.terms (tgetD {} q.slots slot)).length)
    (widths : ∀ x ∈ rows, x.length = q.elems) :
    exec (.slotCombine c k slot rows) s = .next { s with
      blk :=
        s.blk.combined c k q slot { tgetD {} q.slots slot with done := true, miss := q.state == .closing }
          (q.combine (q.terms (tgetD {} q.slots slot)) rows) } := by
  simp only [exec, execSlotCombine]
  rw [if_neg (by simp [moving]; omega), found]
  dsimp only
  rw [if_neg (by simp [ripe]), if_neg (by simpa [count] using widths)]
  rfl

/-- Settles O43: `Blk.record_new` for a contribution that is recorded, `Blk.contribute_refused` for one that is not. -/
theorem combiningFollowsPositions : Obligations.CombiningFollowsPositions := by
  refine ⟨fun s e r argix d at_ open_ mine new ok => ?_, fun s e r argix d x at_ open_ mine found state same launch => ?_,
    fun s c k q src p known moving found state held queue fits new => ?_, fun s c k q known moving found state held => ?_,
    fun s e r p q at_ open_ mine fmt cfl found state fits new => ?_, fun s e r p q at_ open_ found state bad => ?_,
    fun s c k slot rows q known moving found ripe count widths => ?_,
    fun s c k q x known moving found closer state fresh done => ?_⟩
  · have opens : s.blk.combOpen r.ref.ctx argix d =
        let x := combOf r.ref.ctx (((s.blk.ctx? r.ref.ctx).map Ctx.launchCount).getD 0) argix d
        ((s.blk.putCq r.ref.ctx (dField d 0 2) x).emit (.deviceZero x.orderBase (16 * (x.orderN + 1)) x.slotN), false) := by
      simp [Blk.combOpen, Nat.not_le.2 mine, new, ok]
    exact ⟨_, exec_cbOpen at_ open_ opens, ⟨rfl, rfl, rfl⟩, ⟨_, Blk.cq?_putCq .., rfl, rfl, rfl, rfl, rfl, rfl, rfl,
      List.append_assoc ..⟩, fun j other => tget_tput_other _ _ other, rfl⟩
  · have same : s.blk.combOpen r.ref.ctx argix d = (s.blk, false) := by
      cases x with
      | mk => simp_all [Blk.combOpen, Nat.not_le.2 mine]
    exact answered (exec_cbOpen at_ open_ same)
  · have ran := exec_cbQueueOpen known moving found state
    rw [held] at ran
    obtain ⟨opened, opens, idle, -, first⟩ := s.blk.openSet_leaves c k q
    have recorded := Blk.record_new c (q := { q with state := .opened, held := [] }) (by rw [queue]; exact opened) fits new
    have whole : (s.blk.openSet c k q).forEach [(src, p)] (fun x b => Blk.putFault c x.1 (b.record c x.2)) =
        Blk.putFault c src ((s.blk.openSet c k q).record c p) := rfl
    rw [whole, recorded] at ran
    obtain ⟨there, -, slots⟩ := ({ q with state := .opened, held := [] } : CombQ).put_leaves p
    obtain ⟨now, counted, same, -, second⟩ :=
      (s.blk.openSet c k q).recordPut_leaves c { q with state := .opened, held := [] } p
    rw [queue] at now
    exact ⟨_, ran, ⟨rfl, rfl, rfl⟩, ⟨_, now, rfl, there, slots⟩, same.trans opens, counted.trans (congrArg (· + 1) idle),
      first.trans second⟩
  · have ran := exec_cbQueueOpen known moving found state
    rw [held] at ran
    obtain ⟨opened, opens, -, out, frame⟩ := s.blk.openSet_leaves c k q
    refine ⟨_, ran, ⟨rfl, rfl, rfl⟩, ?_, opens, Eq.trans frame ?_⟩
    · rw [held]
      exact opened
    · rw [out]
      rfl
  · obtain ⟨there, others, slots⟩ := q.put_leaves p
    have puts := (Blk.contribute_opened (some (e, r.ref)) mine fmt cfl found state).trans (Blk.record_new _ found fits new)
    obtain ⟨now, counted, -, out, frame⟩ := s.blk.recordPut_leaves r.ref.ctx q p
    exact ⟨_, exec_cbPut at_ open_ puts, ⟨rfl, rfl, rfl⟩, ⟨_, now, rfl, there, others, slots⟩, counted,
      ⟨_, (congrArg (· ++ [_]) out).trans (List.append_assoc ..)⟩, OnlyQueues.emit frame _⟩
  · exact turnedAway at_ (exec_cbPut at_ open_ (Blk.contribute_refused _ found state bad))
  · let y : CbSlot := { tgetD {} q.slots slot with done := true, miss := q.state == .closing }
    have now : tgetD {} (tput q.slots slot y) slot = y := tgetD_tput_same ..
    obtain ⟨cq, counted, out, frame⟩ := s.blk.combined_leaves c k q slot y (q.combine (q.terms (tgetD {} q.slots slot)) rows)
    refine ⟨_, exec_slotCombine known moving found ripe count widths, ⟨rfl, rfl, rfl⟩, ⟨_, cq, rfl, ?_, ?_, ?_, ?_,
      fun j other => tgetD_tput_other _ _ _ other⟩, ⟨_, out⟩, counted, frame⟩
    · simp [CombQ.ripe, now, y]
    · rw [now]
    · rw [now]
    · rw [now]
      exact beq_iff_eq
  · have ran : exec (.combineCloseDone c k) s = .next { s with
        blk := (s.blk.putCq c k { q with reported := true }).modReach x.reach fun rc =>
          { rc with selfDone := rc.selfDone ++ [x] } } := by
      simp only [exec, execCombineCloseDone]
      rw [atContext_acts _ known, found]
      dsimp only
      rw [closer]
      dsimp only
      rw [if_neg (by simp [state, fresh, done, moving])]
    exact ⟨_, ran, ⟨rfl, rfl, rfl⟩, Blk.cq?_putCq .., Blk.reach_modReach_same .., fun j other => Blk.reach_modReach_other _ _ other,
      rfl⟩

end Sys2Proof.Machine
end

section
/-!
# Score vectors and tokens (R148-R161): settles O44
-/
namespace Sys2Proof.Machine

/-! ### What routing leaves of a session and of intake -/

/-- Session `k`, the count of routed tokens, intake and the vectors held are as before, but for what a session has besides
the tokens it has processed. -/
structure Settles (k : Nat) (b c : Blk) : Prop where
  processed : ∀ n, (b.session? k).map Session.processed = some n → (c.session? k).map Session.processed = some n
  routed : c.ctr .tokensRouted = b.ctr .tokensRouted
  intake : c.rt.intake = b.rt.intake
  waiting : c.rt.waiting = b.rt.waiting

/-- What intake takes goes behind what it holds; the session has processed as many tokens as before. -/
structure Intakes (k : Nat) (b c : Blk) : Prop where
  processed : ∀ n, (b.session? k).map Session.processed = some n → (c.session? k).map Session.processed = some n
  routed : c.ctr .tokensRouted = b.ctr .tokensRouted
  intake : ∃ more, c.rt.intake = b.rt.intake ++ more

namespace Settles

variable {k : Nat} {b c d : Blk}

theorem refl (k : Nat) (b : Blk) : Settles k b b := ⟨fun _ h => h, rfl, rfl, rfl⟩

theorem trans (h : Settles k b c) (j : Settles k c d) : Settles k b d :=
  ⟨fun n now => j.processed n (h.processed n now), j.routed.trans h.routed, j.intake.trans h.intake, j.waiting.trans h.waiting⟩

/-- A change that leaves the router and the counters settles any session. -/
theorem of_rt (rt : c.rt = b.rt) (routed : c.ctr .tokensRouted = b.ctr .tokensRouted) : Settles k b c :=
  ⟨fun n h => by rwa [Blk.session?, rt], routed, by rw [rt], by rw [rt]⟩

theorem of_within {l : List Part} (within : Blk.Within l b c) (rt : .rt ∉ l) (counters : .counters ∉ l) : Settles k b c :=
  of_rt (within .rt rt) (within.ctr counters ..)

theorem bump (h : Settles k b c) {x : Ctr} (i n : Nat) (other : Ctr.tokensRouted ≠ x) : Settles k b (c.bump x i n) :=
  h.trans (of_rt (Blk.bump_rt ..) (Blk.ctr_bump_other _ _ (.inl other)))

theorem tearDown (h : Settles k b c) (ctx : Nat) (cause : BitVec 8) : Settles k b (c.tearDown ctx cause) := by
  have within : Blk.Within [.fe] c (c.tearDown ctx cause) := by simp
  exact h.trans (of_within within (by simp) (by simp))

theorem putSession (h : Settles k b c) {j : Nat} {s t : Session} (found : c.session? j = some s)
    (same : t.processed = s.processed) : Settles k b (c.putSession j t) := by
  refine h.trans ⟨fun n now => ?_, rfl, rfl, rfl⟩
  by_cases mine : k = j
  · subst mine
    rw [found] at now
    rw [Blk.session?, Blk.putSession, Blk.modRt, tget_tput_same]
    exact (congrArg some same).trans now
  · rwa [Blk.session?, Blk.putSession, Blk.modRt, tget_tput_other _ _ mine]

theorem emit (h : Settles k b c) (o : Out) : Settles k b (c.emit o) := h.trans (of_rt rfl rfl)

theorem modAgent (h : Settles k b c) (e : Nat) (f : Agent → Agent) : Settles k b (c.modAgent e f) := h.trans (of_rt rfl rfl)

theorem resolveExpert (h : Settles k b c) (j e : Nat) (value : Bool) : Settles k b (c.resolveExpert j e value) := by
  unfold Blk.resolveExpert
  split
  · exact h
  next s found =>
    split
    · exact h
    · exact (h.putSession found (t := { s with resolved := s.resolved ++ [e] }) rfl).trans (of_rt rfl rfl)

theorem forEach {α : Type} {f : α → Blk → Blk} (xs : List α) (h : ∀ x c, Settles k c (f x c)) (b : Blk) :
    Settles k b (b.forEach xs f) := by
  induction xs generalizing b with
  | nil => exact refl k b
  | cons x xs ih => exact (h x b).trans (ih _)

theorem settleChoice (j tok rank e : Nat) (choice : Choice) (w : BitVec 32 × Bool) (b : Blk) :
    Settles k b (b.settleChoice j tok rank e choice w) := by
  unfold Blk.settleChoice
  cases found : b.session? j with
  | none => exact refl k b
  | some s =>
    have start := (refl k b).emit (.dmWrite (s.rsd.recBase + BitVec.ofNat 64 (16 * (tok * s.rsd.k + rank)))
      (routeBytes (recordOf tok rank e choice w)))
    cases choice with
    | placed row chunk index pool =>
      have put := ((start.emit (.dmWrite (s.rsd.slotAddr row chunk index)
        (routeBytes (recordOf tok rank e (.placed row chunk index pool) w)))).putSession found
          (t := { s with placed := s.placed ++ [{ row := row, chunk := chunk, index := index
                                                  record := recordOf tok rank e (.placed row chunk index pool) w
                                                  sent := false, done := false }] }) rfl).bump
          (x := if pool then .choicesPooled else .choicesAdmitted) 0 1 (by cases pool <;> decide)
      have resolved := iteInduction (motive := Settles k b)
        (c := (((s.rsd.rows[row]?).map fun x => x.type == 0).getD false) = true) (fun _ => put.resolveExpert j e true) fun _ => put
      exact iteInduction (motive := Settles k b) (fun _ => resolved.bump 0 1 (by decide)) fun _ =>
        resolved.trans ⟨fun _ now => now, rfl, rfl, rfl⟩
    | exhausted row =>
      exact ((start.trans (d := (b.emit _).modRt fun t => t.raise 2) ⟨fun _ now => now, rfl, rfl, rfl⟩).tearDown
        s.ctx stContextFault).bump 0 1 (by decide)
    | dropped row => exact start.bump 0 1 (by decide)
    | bind row => exact start

theorem issueSend (v : Env) {j row index : Nat} {chunk : Bool} (h : b.issueSend v j row chunk index = some c) : Settles k b c := by
  unfold Blk.issueSend at h
  split at h
  · cases h
    exact refl k b
  next s found =>
    dsimp only at h
    split at h
    · split at h
      · cases h
      next e agent =>
        split at h
        · cases h
        · cases h
          refine Settles.emit ?_ _
          refine Settles.modAgent (Settles.bump (x := .sendIssued) ?_ _ _ (by simp)) _ _
          exact ((refl k b).putSession found (by rfl)).trans ⟨fun _ now => now, rfl, rfl, rfl⟩
    · cases h
      exact refl k b

theorem issueUnsent (v : Env) (n : Nat) (b : Blk) : Settles k b (b.issueUnsent v n) := by
  induction n generalizing b with
  | zero => exact refl k b
  | succ n ih =>
    unfold Blk.issueUnsent
    split
    · exact refl k b
    next j row chunk index rest unsent =>
      split
      · exact refl k b
      next d sent =>
        exact ((issueSend v sent).trans (d := d.modRt fun t => { t with unsent := rest }) ⟨fun _ now => now, rfl, rfl, rfl⟩).trans
          (ih _)

theorem intakes (h : Settles k b c) : Intakes k b c := ⟨h.processed, h.routed, [], by rw [h.intake, List.append_nil]⟩

end Settles

namespace Intakes

variable {k : Nat} {b c d : Blk}

theorem trans (h : Intakes k b c) (j : Intakes k c d) : Intakes k b d := by
  obtain ⟨more, first⟩ := h.intake
  obtain ⟨rest, second⟩ := j.intake
  exact ⟨fun n now => j.processed n (h.processed n now), j.routed.trans h.routed, more ++ rest,
    by rw [second, first, List.append_assoc]⟩

theorem acceptVector (v : Env) (j : Nat) (x : Vector) (b : Blk) : Intakes k b (b.acceptVector v j x) := by
  unfold Blk.acceptVector
  split
  · exact (Settles.refl k b).intakes
  · split
    · exact ((Settles.refl k b).tearDown ..).intakes
    · exact ⟨fun _ now => now, rfl, _, rfl⟩

theorem openSession (v : Env) {j : Nat} (x : Vector) (rsd : List Byte) (b : Blk) (empty : b.session? j = none) :
    Intakes k b (b.openSession v j x rsd) := by
  unfold Blk.openSession
  split
  · exact (Settles.refl k b).intakes
  · split
    · exact ((Settles.refl k b).trans (d := b.modRt fun t => t.raise 0) ⟨fun _ now => now, rfl, rfl, rfl⟩ |>.tearDown
        x.ctx stContextFault).intakes
    · let s : Session := { ctx := x.ctx, rsdIx := x.rsdIx, round := x.round, rsd := rsdOf rsd }
      have put : Settles k b (b.putSession j s) := by
        refine ⟨fun n now => ?_, rfl, rfl, rfl⟩
        have other : k ≠ j := by
          rintro rfl
          simp [empty] at now
        rwa [Blk.session?, Blk.putSession, Blk.modRt, tget_tput_other _ _ other]
      have bound (d : Blk) : Blk.Within [.fe, .hb] d (d.bindRows x.ctx (rsdOf rsd)) := by simp
      have settled := (put.bump 0 1 (x := .sessionOpen) (by decide)).trans (Settles.of_within (bound _) (by simp) (by simp))
      exact settled.intakes.trans (acceptVector v j x _)

theorem intakeVector (v : Env) (x : Vector) (rsd : List Byte) (b : Blk) : Intakes k b (b.intakeVector v x rsd) := by
  have held : Intakes k b (b.modRt fun t => { t with waiting := t.waiting ++ [(x, rsd)] }) :=
    ⟨fun _ now => now, rfl, [], (List.append_nil _).symm⟩
  unfold Blk.intakeVector
  split
  · exact (Settles.refl k b).intakes
  · split
    · exact held
    · split
      · exact acceptVector ..
      · split
        · exact ((Settles.refl k b).tearDown ..).intakes
        · split
          next j free => exact openSession v x rsd b (by simpa using List.find?_some free)
          · exact held

theorem drainWaiting (v : Env) (b : Blk) : Intakes k b (b.drainWaiting v) := by
  have all (xs : List (Vector × List Byte)) (c : Blk) :
      Intakes k c (c.forEach xs fun p b => b.intakeVector v p.1 p.2) := by
    induction xs generalizing c with
    | nil => exact (Settles.refl k c).intakes
    | cons x xs ih => exact (intakeVector v x.1 x.2 c).trans (ih _)
  exact Intakes.trans (c := b.modRt fun t => { t with waiting := [] }) ⟨fun _ now => now, rfl, [], (List.append_nil _).symm⟩
    (all ..)

end Intakes

/-! ### Vectors (R148, R152) -/

/-- A score vector as its operation carries it. -/
def scoreVector (e : Nat) (hdr : BitVec 128) (beats : List (BitVec 512)) : Vector :=
  { engine := e, ctx := bits hdr 80 6, rsdIx := BitVec.ofNat 32 (bits hdr 32 32)
    round := BitVec.ofNat 16 (bits hdr 64 16), token := bits hdr 0 32, words := beats.flatMap beatWords }

theorem length_beatWords (beats : List (BitVec 512)) : (beats.flatMap beatWords).length = 16 * beats.length := by
  induction beats with
  | nil => rfl
  | cons x xs ih =>
    rw [List.flatMap_cons, List.length_append, ih, List.length_cons]
    simp [beatWords]
    omega

section
variable {s : State} {e : Nat} {r : Run} {hdr : BitVec 128} {beats : List (BitVec 512)} {rsd : List Byte}

theorem exec_scoreVector (at_ : RunsAt s e r) (router : s.aon.grade.hasRouter = true) :
    exec (.scoreVector e hdr beats rsd) s = .next { s with
      blk := s.blk.intakeVector s.env (scoreVector e hdr beats) rsd } := by
  refine (at_.acts _).trans ?_
  have has : s.env.aon.grade.hasRouter = true := router
  rw [if_neg (by simp [has])]
  rfl

end

namespace Blk

variable {b : Blk} {x : Vector} {rsd : List Byte} {k : Nat} {y : Session}

theorem intakeVector_held (v : Env) (live : b.torn x.ctx = false) (full : b.rt.holds x.engine = true) :
    b.intakeVector v x rsd = b.modRt fun t => { t with waiting := t.waiting ++ [(x, rsd)] } := by
  rw [intakeVector, if_neg (by simp [live]), if_pos full]

theorem intakeVector_open (v : Env) (live : b.torn x.ctx = false) (room : b.rt.holds x.engine = false)
    (slot : b.rt.slotOf x.ctx x.rsdIx x.round = some k) (found : b.session? k = some y) :
    b.intakeVector v x rsd =
      if x.words.length ≠ 16 * y.rsd.beats then b.tearDown x.ctx stContextFault
      else b.modRt fun t => { t with intake := t.intake ++ [{ x with pulse := v.n }] } := by
  rw [intakeVector, if_neg (by simp [live]), if_neg (by simp [room]), slot]
  dsimp only
  rw [acceptVector, found]

theorem intakeVector_opens (v : Env) {c : Ctx} (live : b.torn x.ctx = false) (room : b.rt.holds x.engine = false)
    (slot : b.rt.slotOf x.ctx x.rsdIx x.round = none) (enabled : v.rtEn = true) (ctx : b.ctx? x.ctx = some c)
    (free : (List.range 4).find? (fun k => (b.session? k).isNone) = some k) (good : Rsd.ok c x.ctx rsd = true) :
    b.intakeVector v x rsd = (((b.putSession k { ctx := x.ctx, rsdIx := x.rsdIx, round := x.round, rsd := rsdOf rsd }).bump
      .sessionOpen).bindRows x.ctx (rsdOf rsd)).acceptVector v k x := by
  rw [intakeVector, if_neg (by simp [live]), if_neg (by simp [room]), slot]
  dsimp only
  rw [if_neg (by simp [enabled]), free]
  dsimp only
  rw [openSession, ctx]
  dsimp only
  rw [if_neg (by simp [good])]

/-- A vector that its session takes, or that tears its context down, changes no session and no counter. -/
theorem acceptVector_leaves (v : Env) (k : Nat) (x : Vector) (b : Blk) :
    (b.acceptVector v k x).rt.sessions = b.rt.sessions ∧ (b.acceptVector v k x).counters = b.counters := by
  unfold acceptVector
  split
  · exact ⟨rfl, rfl⟩
  · split
    · have within : Within [.fe] b (b.tearDown x.ctx stContextFault) := by simp
      exact ⟨congrArg Rt.sessions (within .rt (by simp)), within .counters (by simp)⟩
    · exact ⟨rfl, rfl⟩

/-- A session that has been opened stands in its slot, and no other slot is different. -/
theorem opened_leaves (v : Env) (k : Nat) (s : Session) (x : Vector) (c : Nat) (d : Rsd) (b : Blk) :
    let after := (((b.putSession k s).bump .sessionOpen).bindRows c d).acceptVector v k x
    after.session? k = some s ∧ (∀ j, j ≠ k → after.session? j = b.session? j) ∧
      after.ctr .sessionOpen = b.ctr .sessionOpen + 1 := by
  have within : Within [.fe, .hb] ((b.putSession k s).bump .sessionOpen) (((b.putSession k s).bump .sessionOpen).bindRows c d) := by
    simp
  obtain ⟨sessions, counters⟩ := acceptVector_leaves v k x (((b.putSession k s).bump .sessionOpen).bindRows c d)
  have rt : (((b.putSession k s).bump .sessionOpen).bindRows c d).rt = (b.putSession k s).rt :=
    Eq.trans (within .rt (by simp)) (bump_rt ..)
  rw [rt] at sessions
  refine ⟨(congrArg (tget · k) sessions).trans (tget_tput_same ..), fun j other =>
    (congrArg (tget · j) sessions).trans (tget_tput_other _ _ other), ?_⟩
  rw [ctr, counters]
  exact (within.ctr (by simp) .sessionOpen 0).trans (ctr_bump_same ..)

end Blk

/-! ### Tokens (R148, R155) -/

namespace Blk

variable {b : Blk} {k : Nat} {y : Session} {x : Vector} {rest : List Vector}

/-- The choices of a token with what each needs to settle it. -/
def choicesOf (s : Session) (x : Vector) : List (Nat × Nat × Choice × BitVec 32 × Bool) :=
  let scores := x.scores s.rsd
  let top := topK s.rsd.k scores
  let ranks := List.range top.length
  let d := s.admitAll x.token (ranks.zip (top.map (·.1)))
  ranks.zip ((top.map (·.1)).zip (d.2.1.zip (renormed s.rsd (d.2.1.zip (weightsOf s.rsd.wraw (top.map (·.2)))))))

/-- A session that has routed a token more. -/
def routedSession (s : Session) (x : Vector) : Session :=
  let top := topK s.rsd.k (x.scores s.rsd)
  { (s.admitAll x.token ((List.range top.length).zip (top.map (·.1)))).1 with
    processed := s.processed + 1, lastTok := tput s.lastTok (s.rsd.source x.token) x.token, wantChunk := none }

/-- A block in which the choices of a token are settled. -/
def settledToken (k : Nat) (s : Session) (x : Vector) (b : Blk) : Blk :=
  (b.putSession k (routedSession s x)).forEach (choicesOf s x) fun p b =>
    b.settleChoice k x.token p.1 p.2.1 p.2.2.1 p.2.2.2

theorem routeToken_routes (v : Env) (quota : y.rsd.quota = false)
    (decided : (y.admitAll x.token ((List.range (topK y.rsd.k (x.scores y.rsd)).length).zip
      ((topK y.rsd.k (x.scores y.rsd)).map (·.1)))).2.2 = none) :
    b.routeToken v k y x = some (((((b.settledToken k y x).modRt fun t => { t with intake := t.intake.drop 1 }).bump
      .tokensRouted).bump .nanScore 0 ((x.scores y.rsd).filter isNanFp).length).retryUnsent v) := by
  unfold routeToken
  dsimp only
  rw [if_neg (by simp [quota]), decided]
  rfl

/-- What a routed token leaves. -/
theorem routedToken_leaves (v : Env) (k : Nat) (y : Session) (x : Vector) (b : Blk) (n : Nat) :
    let after := ((((b.settledToken k y x).modRt fun t => { t with intake := t.intake.drop 1 }).bump
      .tokensRouted).bump .nanScore 0 n).retryUnsent v
    (after.session? k).map Session.processed = some (y.processed + 1) ∧
      after.ctr .tokensRouted = b.ctr .tokensRouted + 1 ∧ after.rt.intake = b.rt.intake.drop 1 ∧
      after.rt.waiting = b.rt.waiting ∧ Within [.predNext, .agents, .fe, .rt, .counters, .out] b after := by
  have first : Settles k (b.putSession k (routedSession y x)) (b.settledToken k y x) :=
    Settles.forEach _ (fun p c => Settles.settleChoice ..) _
  have now : ((b.settledToken k y x).session? k).map Session.processed = some (y.processed + 1) :=
    first.processed _ (by rw [session?, putSession, modRt, tget_tput_same]; rfl)
  let left := ((b.settledToken k y x).modRt fun t => { t with intake := t.intake.drop 1 }).bump .tokensRouted
  have second : Settles k left ((left.bump .nanScore 0 n).retryUnsent v) :=
    ((Settles.refl k left).bump 0 n (by decide)).trans (Settles.issueUnsent v _ _)
  have leftRt : left.rt = { (b.settledToken k y x).rt with intake := (b.settledToken k y x).rt.intake.drop 1 } := bump_rt ..
  refine ⟨second.processed _ ?_, second.routed.trans ((ctr_bump_same ..).trans (congrArg (· + 1) first.routed)),
    second.intake.trans ?_, second.waiting.trans ?_, ?_⟩
  · rw [session?, leftRt]
    exact now
  · rw [leftRt]
    exact congrArg (List.drop 1) first.intake
  · rw [leftRt]
    exact first.waiting
  · simp [settledToken]

/-- A step of the capacity stage whose token is routed. -/
theorem routeNext_routes (v : Env) {c : Blk} (sent : b.rt.unsent = []) (intake : b.rt.intake = x :: rest)
    (slot : b.rt.slotOf x.ctx x.rsdIx x.round = some k) (found : b.session? k = some y) (live : b.torn y.ctx = false)
    (more : y.processed < y.rsd.tokenN) (routes : b.routeToken v k y x = some c) (left : c.rt.intake = rest) :
    b.routeNext v = c.drainWaiting v := by
  have idle : b.retryUnsent v = b := by simp [retryUnsent, sent, issueUnsent]
  unfold routeNext
  dsimp only
  rw [idle, if_neg (by simp [sent]), intake]
  dsimp only
  rw [slot]
  dsimp only
  rw [found]
  dsimp only
  rw [if_neg (by simp [live]; omega), routes]
  dsimp only
  rw [if_pos (by simp [left])]

theorem drainWaiting_none (v : Env) (h : b.rt.waiting = []) : b.drainWaiting v = b := by
  have same : (b.modRt fun t => { t with waiting := [] }) = b := by
    unfold modRt
    rw [← h]
  unfold drainWaiting
  rw [h]
  exact same

end Blk

/-- Settles O44: `Blk.intakeVector_open` for vectors, `Blk.routedToken_leaves` for the next token. -/
theorem tokensAreRoutedInOrder : Obligations.TokensAreRoutedInOrder := by
  refine ⟨fun s e r hdr beats rsd k x at_ router live slot found => ⟨fun room long => ?_, fun full => ?_,
      fun room short host quiet => ?_⟩,
    fun s e r hdr beats rsd k x at_ router enabled ctx _ live room slot free good => ?_, fun s e r hdr beats rsd at_ router => ?_,
    fun s x rest k y moving sent intake slot found live more quota decided => ?_, fun s idle => ?_⟩
  · refine ⟨_, exec_scoreVector at_ router, ⟨rfl, rfl, rfl⟩, ?_⟩
    have taken := Blk.intakeVector_open (rsd := rsd) s.env (x := scoreVector e hdr beats) live room slot found
    rw [if_neg (by rw [scoreVector, length_beatWords, long]; simp)] at taken
    exact taken
  · exact ⟨_, exec_scoreVector at_ router, ⟨rfl, rfl, rfl⟩, Blk.intakeVector_held s.env (x := scoreVector e hdr beats) live full⟩
  · have taken := Blk.intakeVector_open (rsd := rsd) s.env (x := scoreVector e hdr beats) live room slot found
    rw [if_pos (by rw [scoreVector, length_beatWords]; omega)] at taken
    have ran := exec_scoreVector (hdr := hdr) (beats := beats) (rsd := rsd) at_ router
    rw [taken] at ran
    have within : Blk.Within [.fe] s.blk (s.blk.tearDown (bits hdr 80 6) stContextFault) := by simp
    have can : s.blk.canTearDown (bits hdr 80 6) = true := by simp [Blk.canTearDown, live, host, quiet]
    exact ⟨_, ran, ⟨rfl, rfl, rfl⟩, within .rt (by simp), (Blk.tearDown_asks can ..).trans (by rw [quiet]; rfl)⟩
  · have opens := Blk.intakeVector_opens s.env (x := scoreVector e hdr beats) live room slot enabled ctx free good
    have ran := exec_scoreVector (hdr := hdr) (beats := beats) (rsd := rsd) at_ router
    rw [opens] at ran
    exact ⟨_, ran, ⟨rfl, rfl, rfl⟩, Blk.opened_leaves ..⟩
  · have ran : exec (.scoreVector e hdr beats rsd) s = .next { s with blk := s.blk.runFault e stContextFault } := by
      refine (at_.acts _).trans ?_
      have hasNot : s.env.aon.grade.hasRouter = false := router
      rw [if_pos (by simp [hasNot])]
    have faulted : s.blk.runFault e stContextFault =
        s.blk.modAgent e fun a => { a with run := some (r.faulted stContextFault) } := by
      refine Blk.modAgent_congr ?_
      rw [at_.run]
      rfl
    rw [faulted] at ran
    exact ⟨_, ran, ⟨rfl, rfl, rfl⟩, Blk.agent_modAgent_same .., Blk.otherAgents_modAgent s.blk e _, rfl⟩
  · have routes := Blk.routeToken_routes (b := s.blk) (k := k) s.env quota decided
    obtain ⟨processed, routed, left, waiting, within⟩ :=
      Blk.routedToken_leaves s.env k y x s.blk ((x.scores y.rsd).filter isNanFp).length
    have left' := left.trans (congrArg (List.drop 1) intake)
    have next := Blk.routeNext_routes s.env sent intake slot found live more routes left'
    have ran : exec .tokenRoute s = .next { s with blk := s.blk.routeNext s.env } := by
      simp only [exec, execTokenRoute, onBlk]
      rw [if_neg (by simp [moving])]
    rw [next] at ran
    have drains := fun c => Intakes.drainWaiting (k := k) s.env c
    refine ⟨_, ran, ⟨rfl, rfl, rfl⟩, ?_, (drains _).processed _ processed, (drains _).routed.trans routed, fun held => ?_⟩
    · obtain ⟨after, same⟩ := (drains _).intake
      exact ⟨after, same.trans (congrArg (· ++ after) left')⟩
    · have still := Blk.drainWaiting_none s.env (waiting.trans held)
      exact ⟨(congrArg (fun c : Blk => c.rt.intake) still).trans left',
        (still.symm ▸ within.eq : _)⟩
  · have ran : exec .tokenRoute s = .next s := by
      simp only [exec, execTokenRoute, onBlk]
      obtain frozen | ⟨sent, intake⟩ := idle
      · rw [if_pos frozen]
      · have same : s.blk.routeNext s.env = s.blk := by
          have idle : s.blk.retryUnsent s.env = s.blk := by simp [Blk.retryUnsent, sent, Blk.issueUnsent]
          unfold Blk.routeNext
          dsimp only
          rw [idle, if_neg (by simp [sent]), intake]
        rw [same, ite_self]
    exact ⟨_, ran, rfl⟩

end Sys2Proof.Machine
end

section
/-!
# Chunks and sends (R161-R166): settles O45 and O46
-/
namespace Sys2Proof.Machine

namespace Blk

variable {b : Blk} {k : Nat} {x : Session}

theorem session?_putSession_same (b : Blk) (k : Nat) (s : Session) : (b.putSession k s).session? k = some s :=
  tget_tput_same ..

theorem session?_putSession_other (b : Blk) {k j : Nat} (s : Session) (other : j ≠ k) :
    (b.putSession k s).session? j = b.session? j := tget_tput_other _ _ other

theorem session?_congr {c : Blk} (h : c.rt.sessions = b.rt.sessions) (k : Nat) : c.session? k = b.session? k := by
  rw [session?, session?, h]

theorem Within.agent {l : List Part} {c : Blk} (h : Within l b c) (out : .agents ∉ l) (e : Nat) : c.agent e = b.agent e :=
  congrArg (fun l => tgetD ({} : Agent) l e) (h .agents out)

theorem retryUnsent_none (v : Env) (sent : b.rt.unsent = []) : b.retryUnsent v = b := by
  simp [retryUnsent, sent, issueUnsent]

end Blk

theorem Session.row_modRow_same (s : Session) (r : Nat) (f : RowSt → RowSt) : (s.modRow r f).row r = f (s.row r) :=
  tgetD_tmod_same ..

theorem Session.row_modRow_other (s : Session) {r j : Nat} (f : RowSt → RowSt) (other : j ≠ r) :
    (s.modRow r f).row j = s.row j := tgetD_tmod_other _ _ _ _ other

/-! ### Chunks (R165, R166) -/

/-- A session that has bound its next chunk to row `r`. -/
def Session.bindChunk (s : Session) (r : Nat) : Session :=
  { s with chunks := tput s.chunks s.nextChunk { row := some r }, nextChunk := s.nextChunk + 1, wantChunk := none }.modRow r
    fun st => { st with openChunk := some s.nextChunk, bound := st.bound + 1 }

theorem exec_chunkBind {s : State} {k r : Nat} {x : Session} (found : s.blk.session? k = some x) (wants : x.wantChunk = some r)
    (moving : s.blk.frozen = false) (running : s.blk.db.rcHalted = false) (live : s.blk.torn x.ctx = false)
    (room : x.nextChunk < x.rsd.chunkN) :
    exec (.chunkBind k) s = .next { s with
      blk :=
        ((s.blk.putSession k (x.bindChunk r)).emit (.dmWrite (x.rsd.cmdBase + BitVec.ofNat 64 (16 * x.nextChunk))
          (chunkCommand x.rsd x.nextChunk { row := some r }))).bump .chunkBind } := by
  simp only [exec, execChunkBind, onBlk]
  rw [found]
  dsimp only
  rw [wants]
  dsimp only
  rw [if_neg (by simp [moving, running, live]; omega)]
  rfl

theorem exec_chunkClaimable {s : State} {k c : Nat} {x : Session} {y : Chunk} (found : s.blk.session? k = some x)
    (chunk : tget x.chunks c = some y) (moving : s.blk.frozen = false) (running : s.blk.db.rcHalted = false)
    (fresh : y.claimable = false) (full : y.count = x.rsd.tileT) (sent : x.chunkSent c = true) :
    exec (.chunkClaimable k c) s = .next { s with
      blk :=
        (s.blk.putSession k { x with chunks := tput x.chunks c { y with claimable := true } }).emit
          (.dmWrite (x.rsd.cmdBase + BitVec.ofNat 64 (16 * c + 4)) (leBytes 4 x.rsd.tileT)) } := by
  simp only [exec, execChunkClaimable, onBlk]
  rw [found]
  dsimp only
  rw [chunk]
  dsimp only
  rw [if_neg (by simp [moving, running, fresh, full, sent]), full]

namespace Blk

variable {b : Blk} {e : Nat}

/-- A block in which an agent's pull has taken chunk `c` of a session, at a charge. -/
def chunkTaken (k : Option Nat) (y : Session) (c : Nat) (t : TaskRef) (x : Task) (b : Blk) : Blk :=
  (((b.modRt fun rt => rt.putPull k { y with chunks := tmod {} y.chunks c fun z => { z with claimed := true } }).bump
    .chunkPull).modReach t.reach fun rc => { rc with
      allowLeft := rc.allowLeft - energyPj x.energy, charged := rc.charged || decide (0 < energyPj x.energy) }).modPg
    fun p => { p with chunkCharges := tmod 0 p.chunkCharges x.chargeClass (· + energyPj x.energy) }

/-- A chunk pull that the pulse admits (R166). -/
theorem answerChunk_takes {r : Run} {x : Task} {k : Option Nat} {y : Session} {c row tile : Nat}
    (run : (b.agent e).run = some r) (pulls : (b.agent e).pull = .chunk) (moving : b.frozen = false)
    (running : b.coreHalted = false) (live : b.torn r.ref.ctx = false) (now : b.isLate r.ref.ctx r.dw.epoch = false)
    (task : b.task? r.ref = some x) (dsp : b.dspEn = true) (be : x.be = true → b.beEn = true)
    (session : b.rt.pullSession r.ref = some (k, y, row, tile))
    (last : y.phase = .closed ∨ ∀ z, y.rsd.rows[row]? = some z → tile + 1 ≠ z.tileN) (free : y.freeChunk row = some c)
    (charge : b.chargeOk r.ref.reach (energyPj x.energy) = true) :
    b.answerChunk e = (b.chunkTaken k y c r.ref x).answerTo e (BitVec.ofNat 32 c) := by
  unfold answerChunk
  dsimp only
  rw [run]
  dsimp only
  rw [if_neg (by simp [pulls, moving, running]), if_neg (by simp [live]), if_neg (by simp [now]), task]
  dsimp only
  rw [if_neg (by cases hb : x.be <;> simp_all), session]
  dsimp only
  rw [if_neg, free]
  · dsimp only
    rw [if_neg (by simp [charge])]
    rfl
  · obtain closed | inner := last
    · simp [closed]
    · cases at_ : y.rsd.rows[row]? with
      | none => simp
      | some z => simp [inner z at_]

/-- What an answered chunk pull leaves. -/
theorem chunkAnswered_leaves (k : Option Nat) (y : Session) (c : Nat) (t : TaskRef) (x : Task) (b : Blk) (e : Nat)
    (w : BitVec 32) :
    let after := (b.chunkTaken k y c t x).answerTo e w
    after.agent e = { b.agent e with pull := .none } ∧ OtherAgents e b after ∧
      after.out = b.out ++ [.pullAnswer e w] ∧
      after.rt = b.rt.putPull k { y with chunks := tmod {} y.chunks c fun z => { z with claimed := true } } ∧
      after.ctr .chunkPull = b.ctr .chunkPull + 1 ∧
      after = { b with agents := after.agents, reaches := after.reaches, rt := after.rt, pg := after.pg
                       counters := after.counters, out := after.out } := by
  have taken : Within [.reaches, .rt, .pg, .counters] b (b.chunkTaken k y c t x) := by simp [chunkTaken]
  have agents : (b.chunkTaken k y c t x).agents = b.agents := taken .agents (by simp)
  have out : (b.chunkTaken k y c t x).out = b.out := taken .out (by simp)
  have whole : Within [.agents, .reaches, .rt, .pg, .counters, .out] b ((b.chunkTaken k y c t x).answerTo e w) := by
    simp [chunkTaken]
  have other := otherAgents_modAgent (b.chunkTaken k y c t x) e fun a => { a with pull := .none }
  refine ⟨(agent_modAgent_same ..).trans ?_, fun j differs => (other j differs).trans ?_, congrArg (· ++ [_]) out, ?_,
    ?_, whole.eq⟩
  · exact congrArg (fun l => { tgetD {} l e with pull := .none }) agents
  · exact congrArg (fun l => tgetD {} l j) agents
  · exact bump_rt ..
  · exact ctr_bump_same ..

end Blk

/-- Settles O45: `Blk.answerChunk_takes` for a pull, and the equations of the two commands on chunks. -/
theorem chunksAreBoundAndClaimedOnce : Obligations.ChunksAreBoundAndClaimedOnce := by
  refine ⟨fun s k r x found wants moving running live room => ?_, fun s k c x y found chunk moving running fresh full sent => ?_,
    fun s e c row tile r x k y at_ kind quiet list running live now task dsp be session last free charge => ⟨fun idle => ?_,
      fun waits => ?_⟩⟩
  · refine ⟨_, exec_chunkBind found wants moving running live room, ⟨rfl, rfl, rfl⟩, ⟨x.bindChunk r, ?_, rfl, tget_tput_same x.chunks ..,
      ?_, ?_, fun j other => Session.row_modRow_other _ _ other⟩, ⟨_, Blk.bump_out ..⟩, Blk.ctr_bump_same .., ?_⟩
    · exact (Blk.session?_congr (congrArg Rt.sessions (Blk.bump_rt ..)) k).trans (Blk.session?_putSession_same ..)
    · exact congrArg RowSt.openChunk (Session.row_modRow_same ..)
    · exact congrArg RowSt.bound (Session.row_modRow_same ..)
    · have within : Blk.Within [.rt, .counters, .out] s.blk (((s.blk.putSession k (x.bindChunk r)).emit
          (.dmWrite (x.rsd.cmdBase + BitVec.ofNat 64 (16 * x.nextChunk))
            (chunkCommand x.rsd x.nextChunk { row := some r }))).bump .chunkBind) := by simp
      refine within.eq.trans ?_
      rw [Blk.bump_rt]
      rfl
  · exact ⟨_, exec_chunkClaimable found chunk moving running fresh full sent, ⟨rfl, rfl, rfl⟩,
      Blk.session?_putSession_same .., rfl, rfl⟩
  · have agent := Blk.agent_modAgent_same s.blk e fun a => { a with pull := .chunk }
    have ran : exec (.chunkPull e) s = .next { s with
        blk := (s.blk.modAgent e fun a => { a with pull := .chunk }).answerChunk e } := by
      refine (at_.acts _).trans ?_
      rw [if_neg (by simp [kind, idle, quiet])]
    have takes := Blk.answerChunk_takes (b := s.blk.modAgent e fun a => { a with pull := .chunk }) (e := e) (r := r)
      (by rw [agent]; exact at_.run) (by rw [agent]) at_.moving running live now task dsp be session last free charge
    rw [takes] at ran
    obtain ⟨after, others, out, rt, count, frame⟩ :=
      Blk.chunkAnswered_leaves k y c r.ref x (s.blk.modAgent e fun a => { a with pull := .chunk }) e (BitVec.ofNat 32 c)
    refine ⟨_, ran, ⟨rfl, rfl, rfl⟩, after.trans (by rw [agent]), fun j other => (others j other).trans ?_, out, rt, count,
      frame⟩
    exact Blk.otherAgents_modAgent s.blk e _ j other
  · have ran : exec (.tilePullRetry e) s = .next { s with blk := s.blk.answerChunk e } := by
      have still : s.blk.answerPull s.env e = s.blk := by
        unfold Blk.answerPull
        dsimp only
        rw [list]
      simp only [exec, execTilePullRetry]
      rw [atEngine_acts _ at_.engine, still]
    rw [Blk.answerChunk_takes at_.run waits at_.moving running live now task dsp be session last free charge] at ran
    exact ⟨_, ran, ⟨rfl, rfl, rfl⟩, Blk.chunkAnswered_leaves ..⟩

/-! ### Sends and notices (R161-R164) -/

/-- A session whose send has been done. -/
def Session.sendEnds (s : Session) (w : SendWord) : Session :=
  { s with
    placed := lreplace (fun (p : Placed) => p.row == w.row && p.chunk == w.chunk && p.index == w.index)
      (fun p => { p with done := true }) s.placed
    sendsOut := s.sendsOut - 1 }

theorem Blk.sendFinished_leaves {b : Blk} {w : SendWord} {x : Session} (found : b.session? w.slot = some x) :
    (b.sendFinished w).rt = (b.putSession w.slot (x.sendEnds w)).rt ∧ Blk.Within [.rt, .out] b (b.sendFinished w) := by
  refine ⟨?_, by simp⟩
  unfold Blk.sendFinished
  rw [found]
  exact iteInduction (motive := fun c : Blk => c.rt = _) (fun _ => rfl) fun _ => rfl

theorem exec_sendDone {s : State} {e : Nat} {id : BitVec 32} {w : SendWord} (known : e < s.aon.grade.engines)
    (out : (s.blk.agent e).sends.find? (fun w => w.id == id) = some w) (sent : s.blk.rt.unsent = []) :
    exec (.sendDone e id) s = .next { s with blk := (s.blk.dropSend e id).sendFinished w } := by
  have still : ((s.blk.dropSend e id).sendFinished w).rt.unsent = [] := by
    unfold Blk.sendFinished
    split
    · exact sent
    · exact iteInduction (motive := fun c : Blk => c.rt.unsent = []) (fun _ => sent) fun _ => sent
  simp only [exec, execSendDone, onBlk]
  rw [if_neg (by omega), out]
  dsimp only
  rw [Blk.retryUnsent_none _ still, ite_self]

/-- The word of a deferred send's slot. -/
def sendWordOf (k : Nat) (s : Session) (y : RsdRow) (p : Placed) (b : Blk) : SendWord :=
  let fab := y.type == 1
  { id := BitVec.ofNat 32 b.rt.nextSend
    src := s.rsd.actBase + BitVec.ofNat 64 (s.rsd.rowBytes * p.record.token.toNat)
    dst := (if p.chunk then s.rsd.chunkBuf else y.buf) + BitVec.ofNat 64 (s.rsd.rowBytes * p.index)
    len := BitVec.ofNat 32 s.rsd.rowBytes, stream := if fab then y.stream else 0
    epoch := if fab then (tgetD {} b.hb.streams y.stream.toNat).epoch else 0
    fab := fab, slot := k, row := p.row, chunk := p.chunk, index := p.index }

/-- A session whose only placed slot is sent. -/
def Session.sendsOnly (s : Session) (p : Placed) : Session :=
  { s with placed := [{ p with sent := true }], sendsOut := s.sendsOut + 1 }.modRow p.row fun st =>
    { st with sent := st.sent + 1 }

/-- A block in which the send of a session's only placed slot is issued. -/
def Blk.onlySent (k e : Nat) (s : Session) (y : RsdRow) (p : Placed) (b : Blk) : Blk :=
  ((((b.putSession k (s.sendsOnly p)).modRt fun t => { t with nextSend := t.nextSend + 1 }).bump .sendIssued).modAgent e
    fun a => { a with sends := a.sends ++ [sendWordOf k s y p b] }).emit (.sendWord e (sendWordOf k s y p b).bits256)

theorem Blk.issueSend_only (v : Env) {b : Blk} {k e : Nat} {s : Session} {y : RsdRow} {p : Placed}
    (found : b.session? k = some s) (only : s.placed = [p]) (row : s.rsd.rows[p.row]? = some y)
    (engine : s.rsd.sendEngine v p.row p.index = some e) (credit : (b.agent e).sends.length < v.sendCredit) :
    b.issueSend v k p.row p.chunk p.index = some (b.onlySent k e s y p) := by
  have first : s.placed.find? (fun q => q.row == p.row && q.chunk == p.chunk && q.index == p.index) = some p := by
    simp [only]
  have replaced : lreplace (fun q : Placed => q.row == p.row && q.chunk == p.chunk && q.index == p.index)
      (fun q => { q with sent := true }) s.placed = [{ p with sent := true }] := by
    simp [only, lreplace, List.findIdx_cons]
  unfold Blk.issueSend
  rw [found]
  dsimp only
  rw [first, row]
  dsimp only
  rw [engine]
  dsimp only
  rw [if_neg (by omega), replaced]
  rfl

/-- A session's only placed slot, deferred, is issued with credit (R162). -/
theorem Blk.issueDeferred_only (v : Env) {b : Blk} {k e : Nat} {s : Session} {y : RsdRow} {p : Placed}
    (found : b.session? k = some s) (sent : b.rt.unsent = []) (only : s.placed = [p]) (due : p.sent = false)
    (row : s.rsd.rows[p.row]? = some y) (engine : s.rsd.sendEngine v p.row p.index = some e)
    (credit : (b.agent e).sends.length < v.sendCredit) :
    b.issueDeferred v k =
      ((b.modRt fun t => { t with unsent := [(k, p.row, p.chunk, p.index)] }).onlySent k e s y p).modRt fun t =>
        { t with unsent := [] } := by
  have issued := Blk.issueSend_only v (b := b.modRt fun t => { t with unsent := [(k, p.row, p.chunk, p.index)] }) found only row
    engine credit
  have sorted : lsort (fun p : Placed => p.row * 2 ^ 32 + b2n p.chunk * 2 ^ 31 + p.index)
      (s.placed.filter fun p => !p.sent && !b.rt.unsent.contains (k, p.row, p.chunk, p.index)) = [p] := by
    simp [only, due, sent, lsort, linsert]
  have one (c d : Blk) (unsent : c.rt.unsent = [(k, p.row, p.chunk, p.index)])
      (issue : c.issueSend v k p.row p.chunk p.index = some d) :
      c.retryUnsent v = d.modRt fun t => { t with unsent := [] } := by
    rw [Blk.retryUnsent, unsent]
    rw [List.length_singleton, Blk.issueUnsent, unsent]
    dsimp only
    rw [issue]
    rfl
  unfold Blk.issueDeferred
  rw [found]
  dsimp only
  have listed : (b.modRt fun t => { t with unsent := t.unsent ++ [p].map fun p => (k, p.row, p.chunk, p.index) }) =
      b.modRt fun t => { t with unsent := [(k, p.row, p.chunk, p.index)] } := by
    simp only [Blk.modRt, sent, List.nil_append, List.map]
  rw [sorted, listed]
  exact one _ _ rfl issued

/-- What the issue of that send leaves. -/
theorem Blk.onlySent_leaves (k e : Nat) (s : Session) (y : RsdRow) (p : Placed) (b : Blk) :
    let after := (b.onlySent k e s y p).modRt fun t => { t with unsent := [] }
    after.agent e = { b.agent e with sends := (b.agent e).sends ++ [sendWordOf k s y p b] } ∧ OtherAgents e b after ∧
      after.out = b.out ++ [.sendWord e (sendWordOf k s y p b).bits256] ∧ after.ctr .sendIssued = b.ctr .sendIssued + 1 ∧
      after.session? k = some (s.sendsOnly p) ∧
      after = { b with agents := after.agents, rt := after.rt, counters := after.counters, out := after.out } := by
  let issued := ((b.putSession k (s.sendsOnly p)).modRt fun t => { t with nextSend := t.nextSend + 1 }).bump .sendIssued
  have within : Within [.rt, .counters] b issued := by simp [issued]
  have whole : Within [.agents, .rt, .counters, .out] b ((b.onlySent k e s y p).modRt fun t => { t with unsent := [] }) := by
    simp [onlySent]
  have agent := within.agent (by simp)
  have sessions : issued.rt.sessions = (b.putSession k (s.sendsOnly p)).rt.sessions :=
    (congrArg Rt.sessions (bump_rt ..)).trans rfl
  let send (a : Agent) : Agent := { a with sends := a.sends ++ [sendWordOf k s y p b] }
  refine ⟨(agent_modAgent_same issued e send).trans (congrArg send (agent e)),
    fun j other => (agent_modAgent_other issued send other).trans (agent j),
    congrArg (· ++ [_]) (within .out (by simp)), (ctr_bump_same ..).trans rfl,
    (session?_congr sessions k).trans (session?_putSession_same ..), whole.eq⟩

/-- Settles O46: an equation of each command, and what `Blk.onlySent` and `Session.sendEnds` leave. -/
theorem sendsReleaseTheirTiles : Obligations.SendsReleaseTheirTiles := by
  refine ⟨fun s e id w x known out sent found => ?_, fun s k e x y p found moving live enabled sent only due row engine credit => ?_,
    fun s k row tile x y found row_ moving live phase ready => ?_, fun s r x release rest known notes moving live => ?_⟩
  · obtain ⟨rt, within⟩ := Blk.sendFinished_leaves (b := s.blk.dropSend e id) (w := w) found
    have agent := within.agent (by simp)
    have sessions := congrArg Rt.sessions rt
    refine ⟨_, exec_sendDone known out sent, ⟨rfl, rfl, rfl⟩, ?_, fun j other => ?_, ⟨x.sendEnds w, ?_, rfl, ?_⟩, fun j other => ?_,
      ?_⟩
    · exact (agent e).trans (Blk.agent_modAgent_same ..)
    · exact (agent j).trans (Blk.agent_modAgent_other _ _ other)
    · exact (Blk.session?_congr sessions _).trans (Blk.session?_putSession_same ..)
    · exact List.length_modify ..
    · exact (Blk.session?_congr sessions _).trans (Blk.session?_putSession_other _ _ other)
    · have whole : Blk.Within [.agents, .rt, .out] s.blk ((s.blk.dropSend e id).sendFinished w) := by simp
      have sessions : ((s.blk.dropSend e id).sendFinished w).rt =
          { s.blk.rt with sessions := ((s.blk.dropSend e id).sendFinished w).rt.sessions } := by
        rw [rt]
        rfl
      exact whole.eq.trans (congrArg (fun t : Rt => ({ s.blk with
        agents := ((s.blk.dropSend e id).sendFinished w).agents, rt := t
        out := ((s.blk.dropSend e id).sendFinished w).out } : Blk)) sessions)
  · have ran : exec (.deferredSendIssue k) s = .next { s with blk := s.blk.issueDeferred s.env k } := by
      simp only [exec, execDeferredSendIssue, onBlk]
      rw [found]
      dsimp only
      rw [if_neg (by simp [moving, live, enabled])]
    rw [Blk.issueDeferred_only s.env found sent only due row engine credit] at ran
    obtain ⟨agent, others, out, count, session, frame⟩ := Blk.onlySent_leaves k e x y p
      (s.blk.modRt fun t => { t with unsent := [(k, p.row, p.chunk, p.index)] })
    exact ⟨_, ran, ⟨rfl, rfl, rfl⟩, ⟨_, agent, rfl, rfl, rfl, rfl, rfl, out⟩, others, count, ⟨_, session, rfl, rfl⟩, frame⟩
  · have ran : exec (.tileRelease k row tile) s = .next { s with
        blk :=
          (s.blk.putSession k (x.modRow row fun st => { st with released := st.released ++ [tile] })).notice
            (y.tile x.ctx tile) true } := by
      simp only [exec, execTileRelease, onBlk]
      rw [found]
      dsimp only
      rw [row_]
      dsimp only
      rw [if_neg (by simp [moving, live, phase, ready])]
    let put := s.blk.putSession k (x.modRow row fun st => { st with released := st.released ++ [tile] })
    have rt : (put.notice (y.tile x.ctx tile) true).rt = _ := Blk.bump_rt ..
    have within : Blk.Within [.rt, .counters] s.blk (put.notice (y.tile x.ctx tile) true) := by simp [put]
    refine ⟨_, ran, ⟨rfl, rfl, rfl⟩, ?_, ?_, (Blk.ctr_bump_same ..).trans rfl, ?_⟩
    · rw [Blk.session?_congr (congrArg Rt.sessions rt) k]
      refine (congrArg (Option.map _) (Blk.session?_putSession_same ..)).trans ?_
      exact congrArg (fun z : RowSt => some z.released) (Session.row_modRow_same ..)
    · exact (congrArg (fun t : Rt => tgetD [] t.notices (y.tile x.ctx tile).reach) rt).trans
        (tgetD_tmod_same [] s.blk.rt.notices (y.tile x.ctx tile).reach fun l => l ++ [(y.tile x.ctx tile, true)])
    · refine within.eq.trans ?_
      rw [rt]
      rfl
  · have ran : exec (.routerNoticeLand r) s = .next { s with
        blk :=
          (s.blk.modRt fun t => { t with notices := tput t.notices r rest }).modReach r fun rc =>
            if release then { rc with relNotes := rc.relNotes ++ [x] } else { rc with landed := rc.landed ++ [.skip x] } } := by
      simp only [exec, execRouterNoticeLand]
      rw [atReach_acts _ known, notes]
      dsimp only
      rw [if_neg (ne_true_of_eq_false moving)]
      have lives {c d : Blk} (h : c = d) : (.next { s with blk := c } : Host.Outcome State Fault Refusal) =
          .next { s with blk := d } := by rw [h]
      cases release <;> exact lives ((if_neg (ne_true_of_eq_false live)).trans rfl)
    exact ⟨_, ran, ⟨rfl, rfl, rfl⟩, tgetD_tput_same .., (Blk.reach_modReach_same ..).trans rfl,
      fun j other => Blk.reach_modReach_other _ _ other, rfl⟩

end Sys2Proof.Machine
end

section
/-!
# The close of a session and announcements (R167-R169): settles O47
-/
namespace Sys2Proof.Machine

/-! ### The close point (R168) -/

namespace Blk

variable {b c : Blk} {k : Nat}

/-- A send that is issued changes its own session alone. -/
theorem issueSend_leaves (v : Env) {j row index : Nat} {chunk : Bool} (h : b.issueSend v j row chunk index = some c) :
    c.rt.unsent = b.rt.unsent ∧ ∀ i, i ≠ j → c.session? i = b.session? i := by
  unfold issueSend at h
  split at h
  · cases h
    exact ⟨rfl, fun _ _ => rfl⟩
  next s found =>
    dsimp only at h
    split at h
    · split at h
      · cases h
      · split at h
        · cases h
        · cases h
          refine ⟨(congrArg Rt.unsent (bump_rt ..)).trans rfl, fun i other => ?_⟩
          refine (session?_congr ((congrArg Rt.sessions (bump_rt ..)).trans rfl) i).trans ?_
          exact session?_putSession_other b _ other
    · cases h
      exact ⟨rfl, fun _ _ => rfl⟩

/-- Sends that wait for credit and are not the session's leave it. -/
theorem issueUnsent_leaves (v : Env) (n : Nat) (b : Blk) (others : ∀ u ∈ b.rt.unsent, u.1 ≠ k) :
    (b.issueUnsent v n).session? k = b.session? k := by
  induction n generalizing b with
  | zero => rfl
  | succ n ih =>
    unfold issueUnsent
    split
    · rfl
    next j row chunk index rest unsent =>
      split
      · rfl
      next d sent =>
        rw [unsent] at others
        obtain ⟨-, sessions⟩ := issueSend_leaves v sent
        refine (ih (d.modRt fun t => { t with unsent := rest }) fun u mem => others u (List.mem_cons_of_mem _ mem)).trans ?_
        exact sessions k (others _ (List.mem_cons_self ..)).symm

theorem issueDeferred_sent (v : Env) {x : Session} (found : b.session? k = some x) (sent : ∀ p ∈ x.placed, p.sent = true) :
    b.issueDeferred v k = b.retryUnsent v := by
  have none_ : x.placed.filter (fun p => !p.sent && !b.rt.unsent.contains (k, p.row, p.chunk, p.index)) = [] := by
    rw [List.filter_eq_nil_iff]
    intro p mem
    simp [sent p mem]
  unfold issueDeferred
  rw [found]
  dsimp only
  rw [none_]
  have same : (b.modRt fun t => { t with unsent := t.unsent ++ [] }) = b := by
    unfold modRt
    simp only [List.append_nil]
  exact congrArg (retryUnsent v) same

/-! ### The end of a session (R168 steps 3 and 4) -/

theorem tget_of_mem {ν : Type} {t : Tbl ν} {j : Nat} {x : ν} (h : (j, x) ∈ t) : tget t j ≠ none := by
  induction t with
  | nil => cases h
  | cons p t ih =>
    obtain ⟨i, y⟩ := p
    by_cases same : i = j
    · simp [tget, same]
    · rw [tget, if_neg same]
      obtain first | h := List.mem_cons.1 h
      · cases first
        exact absurd rfl same
      · exact ih h

theorem lreplace_cons {ν : Type} (p : ν → Bool) (f : ν → ν) (x : ν) (l : List ν) :
    lreplace p f (x :: l) = if p x then f x :: l else x :: lreplace p f l := by
  unfold lreplace
  rw [List.findIdx_cons]
  cases p x <;> rfl

theorem mem_lreplace {ν : Type} {p : ν → Bool} {a y : ν} {l : List ν} (h : y ∈ lreplace p (fun _ => a) l) : y = a ∨ y ∈ l := by
  induction l with
  | nil => exact .inr h
  | cons x l ih =>
    rw [lreplace_cons] at h
    split at h
    · exact (List.mem_cons.1 h).imp_right (List.mem_cons_of_mem _)
    · obtain rfl | h := List.mem_cons.1 h
      · exact .inr (List.mem_cons_self ..)
      · exact (ih h).imp_right (List.mem_cons_of_mem _)

/-- A member stays, or is the one that is replaced. -/
theorem mem_lreplace_of_mem {ν : Type} (p : ν → Bool) (a : ν) {y : ν} {l : List ν} (h : y ∈ l) :
    y ∈ lreplace p (fun _ => a) l ∨ (p y = true ∧ a ∈ lreplace p (fun _ => a) l) := by
  induction l with
  | nil => cases h
  | cons x l ih =>
    rw [lreplace_cons]
    obtain rfl | h := List.mem_cons.1 h
    · split
      next hit => exact .inr ⟨hit, List.mem_cons_self ..⟩
      · exact .inl (List.mem_cons_self ..)
    · split
      · exact .inl (List.mem_cons_of_mem _ h)
      · exact (ih h).imp (List.mem_cons_of_mem _) fun ⟨hit, mem⟩ => ⟨hit, List.mem_cons_of_mem _ mem⟩

end Blk

/-- A session has ended: its slot is free, what is latest of it is closed, and its close task is told. -/
structure SessionEnded (k : Nat) (x : Session) (b : Blk) : Prop where
  gone : b.session? k = none
  phase : ∀ y ∈ b.rt.closed, y.is x.ctx x.rsdIx x.round = true → y.phase = .closed
  kept : ∃ y ∈ b.rt.closed, y.is x.ctx x.rsdIx x.round = true
  told : x.rsd.closeTask ≠ 0xFFFFFFFF →
    let t : TaskRef := { ctx := x.ctx, id := x.rsd.closeTask }
    t ∈ (b.reach t.reach).closeDecs

theorem Session.is_iff {s : Session} {c : Nat} {ix : BitVec 32} {round : BitVec 16} :
    s.is c ix round = true ↔ s.ctx = c ∧ s.rsdIx = ix ∧ s.round = round := by
  simp [Session.is, and_assoc]

namespace SessionEnded

variable {k : Nat} {x : Session} {b c : Blk}

theorem congr (h : SessionEnded k x b) (rt : c.rt = b.rt) (reaches : c.reaches = b.reaches) : SessionEnded k x c := by
  obtain ⟨gone, phase, kept, told⟩ := h
  refine ⟨?_, ?_, ?_, ?_⟩
  · rwa [Blk.session?, rt]
  · rwa [rt]
  · rwa [rt]
  · simpa [Blk.reach, reaches] using told

theorem modReach (h : SessionEnded k x b) (r : Nat) {f : Reach → Reach} (keep : ∀ rc, (f rc).closeDecs = rc.closeDecs) :
    SessionEnded k x (b.modReach r f) := by
  refine ⟨h.gone, h.phase, h.kept, fun task => ?_⟩
  have told := h.told task
  dsimp only at told ⊢
  rwa [Blk.keeps_modReach Reach.closeDecs keep]

/-- A pull that is answered from a session that is open, or closed. -/
theorem putPull (h : SessionEnded k x b) {t : TaskRef} {j : Option Nat} {s : Session} {row tile : Nat}
    (pulls : b.rt.pullSession t = some (j, s, row, tile)) (chunks : Tbl Chunk) :
    SessionEnded k x (b.modRt fun rt => rt.putPull j { s with chunks := chunks }) := by
  unfold Rt.pullSession at pulls
  split at pulls
  next i y first =>
    obtain ⟨z, tileOf, made⟩ := Option.map_eq_some_iff.1 pulls
    cases made
    have other : k ≠ i := by
      rintro rfl
      exact Blk.tget_of_mem (List.mem_of_find?_eq_some first) h.gone
    exact ⟨(tget_tput_other _ _ other).trans h.gone, h.phase, h.kept, h.told⟩
  · obtain ⟨y, first, made⟩ := Option.bind_eq_some_iff.1 pulls
    obtain ⟨z, tileOf, made⟩ := Option.map_eq_some_iff.1 made
    cases made
    refine ⟨h.gone, fun u mem mine => ?_, ?_, h.told⟩
    · obtain rfl | mem := Blk.mem_lreplace mem
      · exact h.phase s (List.mem_of_find?_eq_some first) mine
      · exact h.phase u mem mine
    · obtain ⟨u, mem, mine⟩ := h.kept
      obtain stays | ⟨hit, stands⟩ := Blk.mem_lreplace_of_mem (fun u : Session => u.is s.ctx s.rsdIx s.round)
        { s with chunks := chunks } mem
      · exact ⟨u, stays, mine⟩
      · obtain ⟨ctx, ix, round⟩ := Session.is_iff.1 hit
        rw [Session.is_iff, ctx, ix, round] at mine
        exact ⟨_, stands, Session.is_iff.2 mine⟩

theorem chunkTaken (h : SessionEnded k x b) {t : TaskRef} {j : Option Nat} {s : Session} {row tile : Nat}
    (pulls : b.rt.pullSession t = some (j, s, row, tile)) (i : Nat) (y : Task) : SessionEnded k x (b.chunkTaken j s i t y) := by
  have put := h.putPull pulls (tmod {} s.chunks i fun z => { z with claimed := true })
  have counted := put.congr (c := Blk.bump _ .chunkPull 0 1) (Blk.bump_rt ..) (Blk.bump_reaches ..)
  exact (counted.modReach t.reach (f := fun rc => { rc with
    allowLeft := rc.allowLeft - energyPj y.energy, charged := rc.charged || decide (0 < energyPj y.energy) }) fun _ => rfl).congr
    rfl rfl

theorem answerTo (h : SessionEnded k x b) (e : Nat) (w : BitVec 32) : SessionEnded k x (b.answerTo e w) := h.congr rfl rfl

theorem answerChunk (h : SessionEnded k x b) (e : Nat) : SessionEnded k x (b.answerChunk e) := by
  unfold Blk.answerChunk
  dsimp only
  split
  · exact h
  next r run =>
    refine iteInduction (fun _ => h) fun _ => iteInduction (fun _ => h.answerTo ..) fun _ => iteInduction (fun _ => ?_) fun _ => ?_
    · have within (d : Blk) : Blk.Within [.counters] d (d.bump .lateCompletion) := by simp
      exact (h.answerTo e 0xFFFFFFFF).congr (within _ .rt (by simp)) (within _ .reaches (by simp))
    · split
      · exact h.answerTo ..
      · refine iteInduction (fun _ => h) fun _ => ?_
        split
        · exact h.answerTo ..
        next j s row tile pulls =>
          refine iteInduction (fun _ => h) fun _ => ?_
          split
          · exact h.answerTo ..
          · refine iteInduction (fun _ => h) fun _ => ?_
            exact (h.chunkTaken pulls ..).answerTo e _

theorem answerChunks (h : SessionEnded k x b) : SessionEnded k x b.answerChunks := by
  have all (l : List (Nat × Agent)) (c : Blk) (h : SessionEnded k x c) :
      SessionEnded k x (c.forEach l fun p b => b.answerChunk p.1) := by
    induction l generalizing c with
    | nil => exact h
    | cons p l ih => exact ih _ (h.answerChunk p.1)
  exact all _ b h

end SessionEnded

namespace Blk

variable {b : Blk} {k : Nat} {x : Session}

theorem waiting_notice (t : TaskRef) (release : Bool) (b : Blk) : (b.notice t release).rt.waiting = b.rt.waiting :=
  (congrArg Rt.waiting (bump_rt ..)).trans rfl

theorem rt_resolveExpert (k e : Nat) (value : Bool) (b : Blk) :
    (b.resolveExpert k e value).rt = { b.rt with sessions := (b.resolveExpert k e value).rt.sessions } := by
  unfold resolveExpert
  split
  · rfl
  · split <;> rfl

/-- The records, notices and resolutions of a session that closes leave the vectors that are held. -/
theorem waiting_closeSteps (s : Session) (k : Nat) (b : Blk) :
    let rows := (List.range s.rsd.rows.length).zip s.rsd.rows
    ((((b.emptyPuts s).forEach (rows.filter fun p => p.2.type == 0) fun p b => b.closeNotices s p.1 p.2).forEach
      (List.range (s.rsd.expM1 + 1)) fun e b => b.resolveExpert k e false).forEach (rows.filter fun p => p.2.type == 1)
        fun p b => b.announceRow s p.1 p.2).rt.waiting = b.rt.waiting := by
  intro rows
  have puts : Within [.agents, .fe, .hb, .counters, .out] b (b.emptyPuts s) := by simp
  have keeps {α : Type} (f : α → Blk → Blk) (h : ∀ x c, (f x c).rt.waiting = c.rt.waiting) (l : List α) (c : Blk) :
      (c.forEach l f).rt.waiting = c.rt.waiting := forEach_keeps (fun b => b.rt.waiting) f h l c
  have notices (p : Nat × RsdRow) (c : Blk) : (c.closeNotices s p.1 p.2).rt.waiting = c.rt.waiting :=
    keeps _ (fun t c => waiting_notice ..) _ c
  refine (keeps _ ?_ _ _).trans ((keeps _ ?_ _ _).trans ((keeps _ notices _ _).trans
    (congrArg Rt.waiting (puts .rt (by simp)))))
  · exact fun p c => rfl
  · exact fun e c => (congrArg Rt.waiting (rt_resolveExpert k e false c)).trans rfl

theorem closeSession_ends (v : Env) (s : Session) (held : b.rt.waiting = []) : SessionEnded k s (b.closeSession v k s) := by
  have waits := (waiting_closeSteps s k b).trans held
  unfold closeSession
  dsimp only
  have ends (c : Blk) (waits : c.rt.waiting = []) (told : s.rsd.closeTask ≠ 0xFFFFFFFF →
      let t : TaskRef := { ctx := s.ctx, id := s.rsd.closeTask }
      t ∈ (c.reach t.reach).closeDecs) :
      SessionEnded k s (((c.modRt fun rt => { rt with
        sessions := tdel rt.sessions k
        closed := rt.closed.filter (fun x => !(x.ctx == s.ctx && x.rsdIx == s.rsdIx)) ++
          [{ s with phase := .closed, placed := [] }] }).drainWaiting v).answerChunks) := by
    rw [drainWaiting_none v (by exact waits)]
    refine SessionEnded.answerChunks ⟨tget_tdel_same .., fun y mem mine => ?_, ⟨{ s with phase := .closed, placed := [] },
      List.mem_append_right _ (List.mem_singleton.2 rfl), Session.is_iff.2 ⟨rfl, rfl, rfl⟩⟩, told⟩
    obtain ⟨ctx, ix, -⟩ := Session.is_iff.1 mine
    obtain old | new := List.mem_append.1 mem
    · simp [ctx, ix] at old
    · rw [List.mem_singleton.1 new]
  split
  next noTask => exact ends _ waits fun task => absurd noTask task
  · refine ends _ waits fun _ => ?_
    dsimp only
    rw [reach_modReach_same]
    exact List.mem_append_right _ (List.mem_singleton.2 rfl)

/-! ### Announcements (R169) -/

theorem resolveExpert_leaves (e : Nat) (value : Bool) (found : b.session? k = some x) :
    ∃ l, (b.resolveExpert k e value).session? k = some { x with resolved := l } := by
  unfold resolveExpert
  rw [found]
  dsimp only
  split
  · exact ⟨_, found⟩
  · exact ⟨_, session?_putSession_same ..⟩

/-- An announcement within its row's capacity is kept in its row. -/
theorem announcedRow_takes {row : Nat} {y : RsdRow} {l : BitVec 32} (fits : l.toNat ≤ y.cap) :
    ((b.announcedRow k row x y l).session? k).map (fun z => ((z.row row).announced, (z.row row).len)) = some (true, l) ∧
      (b.announcedRow k row x y l).rt.deliver = b.rt.deliver ∧
      Within [.rt, .predNext, .counters, .out] b (b.announcedRow k row x y l) := by
  let s := x.modRow row fun st => { st with announced := true, len := l }
  let fill (t : Nat) : Nat := min s.rsd.tileT (l.toNat - t * s.rsd.tileT)
  let tell (t : Nat) (b : Blk) : Blk :=
    (b.emit (.dmWrite (s.fillAddr row t) (leBytes 4 (fill t)))).notice (y.tile s.ctx t) (decide (0 < fill t))
  let told := (b.putSession k s).forEach (List.range y.tileN) tell
  have sessions : told.rt.sessions = (b.putSession k s).rt.sessions :=
    forEach_keeps (fun b => b.rt.sessions) tell (fun t b => (congrArg Rt.sessions (bump_rt ..)).trans rfl) _ _
  have deliver : told.rt.deliver = b.rt.deliver :=
    (forEach_keeps (fun b => b.rt.deliver) tell (fun t b => (congrArg Rt.deliver (bump_rt ..)).trans rfl) _ _).trans rfl
  have within : Within [.rt, .predNext, .counters, .out] b told := by
    have each (t : Nat) (c : Blk) : Within [.rt, .predNext, .counters, .out] c (tell t c) := by simp [tell]
    have put : Within [.rt, .predNext, .counters, .out] b (b.putSession k s) := by simp
    exact put.trans (Within.forEach _ each _)
  have found : told.session? k = some s := (session?_congr sessions k).trans (session?_putSession_same ..)
  have row_ : s.row row = { x.row row with announced := true, len := l } := Session.row_modRow_same ..
  have whole : b.announcedRow k row x y l = if l = 0 then told else told.resolveExpert k y.expert true := by
    unfold announcedRow
    rw [if_neg (by omega)]
  rw [whole]
  split
  · rw [found]
    exact ⟨by simp [row_], deliver, within⟩
  · obtain ⟨list, resolved⟩ := resolveExpert_leaves y.expert true found
    rw [resolved, rt_resolveExpert]
    exact ⟨by simpa [Session.row] using congrArg (fun z : RowSt => (z.announced, z.len)) row_, deliver,
      within.trans (by simp)⟩

theorem announcement_at {c row : Nat} {ix : BitVec 32} {round stream : BitVec 16} {l : BitVec 32} {y : RsdRow}
    (live : b.torn c = false) (session : b.rt.sessions.find? (fun p => p.2.is c ix round) = some (k, x))
    (row_ : ((List.range x.rsd.rows.length).zip x.rsd.rows).find? (fun p => p.2.type == 2 && p.2.stream == stream) =
      some (row, y)) :
    b.announcement (c, ix, round, stream, l) =
      if (x.row row).announced then some (b.bump .rsDuplicate) else some (b.announcedRow k row x y l) := by
  unfold announcement
  dsimp only
  rw [if_neg (by simp [live]), session]
  dsimp only
  rw [row_]

end Blk

theorem exec_announcementReceive {s : State} {a : Nat × BitVec 32 × BitVec 16 × BitVec 16 × BitVec 32} {c : Blk}
    (moving : s.blk.frozen = false) (one : s.blk.rt.deliver = [a]) (taken : s.blk.announcement a = some c)
    (still : c.rt.deliver = [a]) :
    exec .announcementReceive s = .next { s with blk := { c with rt := { c.rt with deliver := [] } } } := by
  have first : s.blk.rt.deliver.find? (fun a => (s.blk.announcement a).isSome) = some a := by simp [one, taken]
  simp only [exec, execAnnouncementReceive, onBlk]
  rw [if_neg (by simp [moving]), first]
  dsimp only
  rw [taken, Blk.modRt, Option.getD_some, still]
  simp [ldrop1]

/-- Settles O47: `Blk.closeSession_ends` for the close, `Blk.announcedRow_takes` for announcements. -/
theorem sessionsCloseInSteps : Obligations.SessionsCloseInSteps := by
  refine ⟨fun s k x found moving live phase processed idle others sent => ?_,
    fun s k x found moving running live phase idle done announced => ?_,
    fun s k x found moving running live phase => ⟨fun held => ?_, fun host quiet => ?_⟩,
    fun s c k row ix round stream l x y moving one live session row_ => ⟨fun fresh fits => ?_, fun again => ?_⟩, fun s idle => ?_⟩
  · have at_ : x.atClosePoint s.blk k = true := by
      simpa [Session.atClosePoint, processed, idle] using fun a b c d mem => others (a, b, c, d) mem
    let put := s.blk.putSession k { x with phase := .closePoint }
    have now : put.session? k = some { x with phase := .closePoint } := Blk.session?_putSession_same ..
    have ran : exec (.sessionClosePoint k) s = .next { s with blk := put.retryUnsent s.env } := by
      simp only [exec, execSessionClosePoint, onBlk]
      rw [found]
      dsimp only
      rw [if_neg (by simp [moving, live, phase, at_]), Blk.issueDeferred_sent s.env now sent]
    refine ⟨_, ran, ⟨rfl, rfl, rfl⟩, (Blk.issueUnsent_leaves s.env _ put others).trans now, fun none_ => ?_⟩
    have still : put.retryUnsent s.env = put := Blk.retryUnsent_none s.env none_
    rw [still]
    exact ⟨fun j other => Blk.session?_putSession_other _ _ other, rfl⟩
  · have ran : exec (.sessionClose k) s = .next { s with
        blk := (s.blk.putSession k { x with phase := .closing }).closeWrites x } := by
      simp only [exec, execSessionClose, onBlk]
      rw [found]
      dsimp only
      rw [if_neg (by simpa [moving, running, live, phase, idle, announced] using done)]
    have within : Blk.Within [.out, .fresh] (s.blk.putSession k { x with phase := .closing })
        ((s.blk.putSession k { x with phase := .closing }).closeWrites x) := by simp
    have sessions := congrArg Rt.sessions (within .rt (by simp))
    refine ⟨_, ran, ⟨rfl, rfl, rfl⟩, (Blk.session?_congr sessions k).trans (Blk.session?_putSession_same ..),
      fun j other => (Blk.session?_congr sessions j).trans (Blk.session?_putSession_other _ _ other), within.eq.trans ?_⟩
    rw [show _ = _ from within .rt (by simp)]
    rfl
  · have ran : exec (.closeWritesAcked k true) s = .next { s with blk := s.blk.closeSession s.env k x } := by
      simp only [exec, execCloseWritesAcked, onBlk]
      rw [found]
      dsimp only
      rw [if_neg (by simp [moving, running, live, phase]), if_neg (by simp)]
    have ends := Blk.closeSession_ends (k := k) s.env x held
    obtain ⟨y, mem, mine⟩ := ends.kept
    exact ⟨_, ran, ⟨rfl, rfl, rfl⟩, ends.gone, ⟨y, mem, mine, ends.phase y mem mine⟩, ends.told⟩
  · have ran : exec (.closeWritesAcked k false) s = .next { s with
        blk := (s.blk.deviceError s.env (some x.ctx)).tearDown x.ctx stUncorrectable } := by
      simp only [exec, execCloseWritesAcked, onBlk]
      rw [found]
      dsimp only
      rw [if_neg (by simp [moving, running, live, phase]), if_pos (by simp)]
    have errs : Blk.Within [.rel, .mc, .counters, .out, .fresh] s.blk (s.blk.deviceError s.env (some x.ctx)) := by simp
    have whole : Blk.Within [.fe, .rel, .mc, .counters, .out, .fresh] s.blk
        ((s.blk.deviceError s.env (some x.ctx)).tearDown x.ctx stUncorrectable) := by simp
    have fe : (s.blk.deviceError s.env (some x.ctx)).fe = s.blk.fe := errs .fe (by simp)
    have can : (s.blk.deviceError s.env (some x.ctx)).canTearDown x.ctx = true := by
      rw [Blk.canTearDown_congr (b := s.blk) (congrArg Fe.ctxs fe) (congrArg Fe.teardownsIn fe)]
      simp [Blk.canTearDown, live, host, quiet]
    refine ⟨_, ran, ⟨rfl, rfl, rfl⟩, ?_, ?_⟩
    · exact (Blk.session?_congr (congrArg Rt.sessions (whole .rt (by simp))) k).trans found
    · refine (Blk.tearDown_asks can ..).trans ?_
      rw [fe, quiet]
      rfl
  · have taken := Blk.announcement_at (l := l) live session row_
    rw [if_neg (ne_true_of_eq_false fresh)] at taken
    obtain ⟨kept, deliver, within⟩ := Blk.announcedRow_takes (b := s.blk) (k := k) (x := x) (row := row) fits
    have ran := exec_announcementReceive moving one taken (deliver.trans one)
    exact ⟨_, ran, ⟨rfl, rfl, rfl⟩, rfl, kept, within .reaches (by simp), within .agents (by simp), within .hb (by simp),
      within .fe (by simp)⟩
  · have taken := Blk.announcement_at (l := l) live session row_
    rw [if_pos again] at taken
    have ran := exec_announcementReceive moving one taken ((congrArg Rt.deliver (Blk.bump_rt ..)).trans one)
    refine ⟨_, ran, ⟨rfl, rfl, rfl⟩, ?_⟩
    rw [Blk.bump_rt]
  · have ran : exec .announcementReceive s = .next s := by
      simp only [exec, execAnnouncementReceive, onBlk]
      obtain frozen | none_ := idle
      · rw [if_pos frozen]
      · rw [none_]
        dsimp only [List.find?]
        rw [ite_self]
    exact ⟨_, ran, rfl⟩

end Sys2Proof.Machine
end

section
/-!
# Requests to host memory and polls (R179, R181, R260): settles O48, refutes O49

The last but one clause of O49 says that the write response to a result record leaves the queue with the rest of its
result records that are out.  The response also writes a status record, with which every effect that waits for a record
of the journal and has it leaves, in the model: a result record of the queue that waits so is out after it too.
-/
namespace Sys2Proof.Machine

/-! ### Requests (R260) -/

namespace Blk

variable {b c : Blk} {r : HostReq}

theorem asked_ask (r : HostReq) (b : Blk) : Asked b (b.ask r) r := by
  unfold ask
  split
  next t free =>
    refine .inl ⟨t, List.mem_range.1 (List.mem_of_find?_eq_some free), ?_, rfl, rfl, rfl⟩
    simpa using List.find?_some free
  next busy =>
    refine .inr ⟨fun tag low => ?_, rfl, rfl, rfl⟩
    have taken := List.find?_eq_none.1 busy tag (List.mem_range.2 low)
    simpa using taken

/-- What a request is from and what it leaves are no more than the requests of the host-memory port. -/
theorem asked_congr {b' c' : Blk} (h : Asked b c r) (out : b'.out = b.out)
    (hostOut : b'.fe.hostOut = b.fe.hostOut) (hostWait : b'.fe.hostWait = b.fe.hostWait) (out' : c'.out = c.out)
    (hostOut' : c'.fe.hostOut = c.fe.hostOut) (hostWait' : c'.fe.hostWait = c.fe.hostWait) : Asked b' c' r := by
  unfold Asked at *
  rwa [out, hostOut, hostWait, out', hostOut', hostWait']

/-- A request changes the requests of the host-memory port and the ports. -/
theorem ask_frame (r : HostReq) (b : Blk) :
    b.ask r = { b with fe := { b.fe with hostOut := (b.ask r).fe.hostOut, hostWait := (b.ask r).fe.hostWait }
                       out := (b.ask r).out } := by
  unfold ask
  split <;> rfl

theorem fe_ask (r : HostReq) (b : Blk) :
    (b.ask r).fe = { b.fe with hostOut := (b.ask r).fe.hostOut, hostWait := (b.ask r).fe.hostWait } :=
  (congrArg Blk.fe (ask_frame r b)).trans rfl

theorem ctr_ask (r : HostReq) (b : Blk) (x : Ctr) (i : Nat) : (b.ask r).ctr x i = b.ctr x i :=
  (congrArg (fun c : Blk => c.ctr x i) (ask_frame r b)).trans rfl

end Blk

/-! ### Polls (R179, R181) -/

/-- The poll that starts at an edge. -/
def Poll.start (v : Env) (p : Poll) : Poll :=
  { busy := true, reading := true, polledAt := v.n, hints := p.hints.filter fun k => decide (v.n ≤ k) }

/-- What the start of a poll leaves while no last look is to be made again. -/
theorem Blk.startPoll_leaves (v : Env) (alone : Bool) {b : Blk} (looks : ∀ p ∈ b.fe.queues, p.2.look ≠ .again) :
    let after := b.startPoll v alone
    after.fe.poll = b.fe.poll.start v ∧ Asked b after (.summaryRead ((v.pair 0x100008).setWidth 63)) ∧
      after.ctr .poll = b.ctr .poll + 1 ∧
      after = { b with
        fe := { b.fe with poll := after.fe.poll, hostOut := after.fe.hostOut, hostWait := after.fe.hostWait }
        out := after.out, counters := after.counters } := by
  let begun := b.modFe fun fe => { fe with poll := fe.poll.start v }
  let asked := begun.ask (.summaryRead ((v.pair 0x100008).setWidth 63))
  have none_ : b.fe.queues.filter (fun p => p.2.look == .again && p.2.isOpen) = [] := by
    rw [List.filter_eq_nil_iff]
    intro p mem
    simp [looks p mem]
  have whole : b.startPoll v alone = (asked.bump .poll).bump .wmHint 0 (b2n alone) := by
    unfold Blk.startPoll
    dsimp only
    rw [show (b.modFe _).fe.queues = b.fe.queues from rfl, none_]
    rfl
  have fe : (b.startPoll v alone).fe = asked.fe := by rw [whole, Blk.bump_fe, Blk.bump_fe]
  have out : (b.startPoll v alone).out = asked.out := by rw [whole, Blk.bump_out, Blk.bump_out]
  have poll : asked.fe.poll = b.fe.poll.start v := (congrArg Fe.poll (Blk.fe_ask _ begun)).trans rfl
  have within : Blk.Within [.fe, .out, .counters] b (b.startPoll v alone) := by simp
  refine ⟨(congrArg Fe.poll fe).trans poll, ?_, ?_, within.eq.trans ?_⟩
  · exact Blk.asked_congr (Blk.asked_ask _ begun) rfl rfl rfl out (congrArg Fe.hostOut fe) (congrArg Fe.hostWait fe)
  · rw [whole, Blk.ctr_bump_other _ _ (by simp), Blk.ctr_bump_same]
    exact congrArg (· + 1) (Blk.ctr_ask ..)
  · have same : (b.startPoll v alone).fe = { b.fe with
        poll := (b.startPoll v alone).fe.poll, hostOut := (b.startPoll v alone).fe.hostOut
        hostWait := (b.startPoll v alone).fe.hostWait } := by
      rw [fe, poll]
      exact (Blk.fe_ask _ begun).trans rfl
    exact congrArg (fun f : Fe => ({ b with
      fe := f, out := (b.startPoll v alone).out, counters := (b.startPoll v alone).counters } : Blk)) same

theorem eraseP_append_cons {α : Type} {p : α → Bool} {x : α} {pre post : List α} (hit : p x = true)
    (first : ∀ y ∈ pre, p y = false) : (pre ++ x :: post).eraseP p = pre ++ post := by
  rw [List.eraseP_append_right _ fun y mem => by simp [first y mem], List.eraseP_cons_of_pos hit]

/-- Settles O48: `Blk.startPoll_leaves` for polls, `Blk.asked_ask` for requests. -/
theorem pollsBeginWhenDue : Obligations.PollsBeginWhenDue := by
  refine ⟨fun s runs fresh due => ⟨fun free ended looks => ?_, fun busy => ?_⟩, fun s runs free fresh ended due looks => ?_,
    fun s => ?_, fun b p tag r pre post out hit first => ?_⟩
  · have ran : ∃ alone, exec .doorbellPollDue s = .next { s with blk := s.blk.startPoll s.env alone } := by
      refine ⟨!(s.env.pollTimer || s.blk.fe.poll.timerDue), ?_⟩
      simp only [exec, execDoorbellPollDue, onBlk]
      have due' : (s.env.pollTimer || s.blk.fe.poll.hints.any fun k => decide (k < s.env.n)) = true := by
        rw [Bool.or_eq_true, List.any_eq_true]
        exact due.imp_right fun ⟨k, mem, low⟩ => ⟨k, mem, decide_eq_true low⟩
      have fresh' : s.blk.fe.poll.polledAt ≠ s.env.n := fresh
      have ended' : s.blk.fe.poll.endedAt ≠ some s.env.n := ended
      rw [if_neg (by simpa [runs, due'] using fresh'), if_neg (by simpa [free] using ended')]
    obtain ⟨alone, ran⟩ := ran
    exact ⟨_, ran, ⟨rfl, rfl, rfl⟩, Blk.startPoll_leaves s.env alone looks⟩
  · have ran : exec .doorbellPollDue s = .next { s with
        blk := s.blk.modFe fun fe => { fe with poll := { fe.poll with
          timerDue := s.blk.fe.poll.timerDue || s.env.pollTimer
          hintDue := s.blk.fe.poll.hintDue || s.blk.fe.poll.hints.any fun k => decide (k < s.aon.pulse)
          hints := s.blk.fe.poll.hints.filter fun k => decide (s.aon.pulse ≤ k), polledAt := s.aon.pulse } } } := by
      simp only [exec, execDoorbellPollDue, onBlk]
      have due' : (s.env.pollTimer || s.blk.fe.poll.hints.any fun k => decide (k < s.env.n)) = true := by
        rw [Bool.or_eq_true, List.any_eq_true]
        exact due.imp_right fun ⟨k, mem, low⟩ => ⟨k, mem, decide_eq_true low⟩
      have fresh' : s.blk.fe.poll.polledAt ≠ s.env.n := fresh
      have busy' : s.blk.fe.poll.busy = true ∨ s.blk.fe.poll.endedAt = some s.env.n := busy
      rw [if_neg (by simpa [runs, due'] using fresh'), if_pos (by simpa using busy')]
      rfl
    exact ⟨_, ran, ⟨rfl, rfl, rfl⟩, rfl⟩
  · have ran : ∃ alone, exec .deferredPollStart s = .next { s with blk := s.blk.startPoll s.env alone } := by
      refine ⟨!(s.env.pollTimer || s.blk.fe.poll.timerDue), ?_⟩
      simp only [exec, execDeferredPollStart, onBlk]
      have due' : (s.blk.fe.poll.timerDue || s.blk.fe.poll.hintDue) = true := by simpa using due
      have fresh' : s.blk.fe.poll.polledAt ≠ s.env.n := fresh
      have ended' : s.blk.fe.poll.endedAt ≠ some s.env.n := ended
      rw [if_neg (by simpa [runs, free, due'] using And.intro fresh' ended')]
    obtain ⟨alone, ran⟩ := ran
    obtain ⟨poll, asked, -, frame⟩ := Blk.startPoll_leaves s.env alone looks
    exact ⟨_, ran, ⟨rfl, rfl, rfl⟩, poll, asked, frame⟩
  · have ran : exec .writeMonitorHint s = .next { s with
        blk := s.blk.modFe fun fe => { fe with poll := { fe.poll with
          hints := if s.env.domainUp 16 && s.env.wmEn && !s.blk.fe.poll.hints.contains s.aon.pulse
            then s.blk.fe.poll.hints ++ [s.aon.pulse] else s.blk.fe.poll.hints } } } := by
      simp only [exec, execWriteMonitorHint, onBlk]
      by_cases notes : (s.env.domainUp 16 && s.env.wmEn && !s.blk.fe.poll.hints.contains s.aon.pulse) = true
      · rw [if_pos notes]
        exact congrArg (fun c : Blk => Host.Outcome.next { s with blk := c }) (if_pos notes)
      · rw [if_neg notes]
        exact congrArg (fun c : Blk => Host.Outcome.next { s with blk := c }) (if_neg notes)
    exact ⟨_, ran, ⟨rfl, rfl, rfl⟩, rfl⟩
  · have asks : b.fe.hostOut.any (fun x => p x.2) = true := by
      rw [out]
      simp [hit]
    have left : ldrop1 (fun x : Nat × HostReq => p x.2) b.fe.hostOut = pre ++ post := by
      rw [out]
      exact eraseP_append_cons hit first
    refine ⟨fun waits => ?_, fun w rest waits => ?_⟩
    · unfold Blk.answered
      rw [if_pos asks]
      dsimp only
      rw [waits, left]
    · have answers : b.answered p = ({ b with fe := { b.fe with hostOut := pre ++ post, hostWait := rest } }).ask w := by
        unfold Blk.answered
        rw [if_pos asks]
        dsimp only
        rw [waits, left]
      rw [answers]
      exact Blk.asked_ask ..

/-! ### A result record that leaves with a status record -/

/-- A queue with one result record out. -/
def resultQueue : Queue :=
  { ctx := 0, prio := 0, slot := 0, log2n := 6, ring := 0, statAddr := 0, timeout := 0, resOut := [(0, 0)] }

/-- A block in which a second result record of the queue may leave. -/
def resultState : State :=
  { State.reset with
    aon := { State.reset.aon with grade := .o1 }
    blk := {
      fe := { queues := [(0, resultQueue)] }
      rel := { waiting := [(none, .result 0 none (1#64 <<< 63) [0])] } } }

theorem resultState_responds : ∃ t, exec (.statusRecordWriteResponse 0 true false) resultState = .next t ∧
    (t.blk.queue? 0).map Queue.resOut = some [(0, 0)] := by
  have run (s : State) : exec (.statusRecordWriteResponse 0 true false) s = execStatusRecordWriteResponse 0 true false s := rfl
  rw [run, execStatusRecordWriteResponse]
  exact ⟨_, atQueue_acts _ (by decide), by decide +kernel⟩

/-- Refutes O49: a result record that waits and may leave is out after the response to the one before it. -/
theorem not_bellsLeadToDescriptors : ¬ Obligations.BellsLeadToDescriptors := by
  unfold Obligations.BellsLeadToDescriptors
  rintro ⟨-, -, -, -, results, -⟩
  obtain ⟨t, ran, -, u, found, -, out, -⟩ := results resultState 0 resultQueue 0 0 [] (by decide) rfl rfl (by
    intro x mem
    cases mem)
  obtain ⟨t', ran', kept⟩ := resultState_responds
  cases ran.symm.trans ran'
  rw [found, Option.map_some, out] at kept
  exact absurd kept (by decide)

end Sys2Proof.Machine
end

section
/-!
# Descriptors that start (R185-R197): settles O50
-/
namespace Sys2Proof.Machine

/-! ### Queues and requests -/

namespace Blk

variable {b c : Blk} {q k : Nat}

theorem queue?_congr (h : c.fe.queues = b.fe.queues) (q : Nat) : c.queue? q = b.queue? q := by
  rw [queue?, queue?, h]

theorem queue?_modQueue_other (b : Blk) (f : Queue → Queue) (other : k ≠ q) : (b.modQueue q f).queue? k = b.queue? k := by
  unfold modQueue
  split
  · exact tget_tput_other _ _ other
  · rfl

theorem ctx?_congr (h : c.fe.ctxs = b.fe.ctxs) (k : Nat) : c.ctx? k = b.ctx? k := by
  rw [ctx?, ctx?, h]

/-- The record about a descriptor that is staged. -/
theorem stageDesc_leaves (b : Blk) (type : JType) (c q index : Nat) (status : BitVec 8) (aux : Nat)
    (second : Option (BitVec 128)) (desc : BitVec 512) :
    ∃ r, (b.stageDesc type c q index status aux second desc).rel.staged = b.rel.staged ++ [(19, r)] ∧ r.type = type ∧
      r.ticket = b.rel.tickets ∧ r.ctx = c ∧ r.id = descId q index := ⟨_, rfl, rfl, rfl, rfl, rfl⟩

theorem modCtx_fe {x : Ctx} (known : b.ctx? k = some x) (f : Ctx → Ctx) :
    (b.modCtx k f).fe = { b.fe with ctxs := tput b.fe.ctxs k (f x) } := by
  unfold modCtx
  rw [known]
  rfl

theorem tearDown_fe (k : Nat) (cause : BitVec 8) (desc : Option (Nat × Nat)) (b : Blk) :
    ∃ l, (b.tearDown k cause desc).fe = { b.fe with teardownsIn := l } := by
  unfold tearDown
  split <;> exact ⟨_, rfl⟩

theorem freeTag_congr {f g : Fe} (h : g.hostOut = f.hostOut) : g.freeTag = f.freeTag := by
  rw [Fe.freeTag, Fe.freeTag, h]

end Blk

theorem length_pruneFetched (started : List Nat) (i : Nat) (l : List (Option (BitVec 512))) :
    (pruneFetched started i l).length ≤ l.length := by
  induction l generalizing i with
  | nil => simp [pruneFetched]
  | cons x l ih =>
    rw [pruneFetched]
    split
    · exact Nat.le_trans (ih (i + 1)) (Nat.le_succ _)
    · exact Nat.le_refl _

/-- A change of an entry that keeps what is asked of it. -/
theorem any_tput {ν : Type} {g : Nat × ν → Bool} {t : Tbl ν} {k : Nat} {x y : ν} (found : tget t k = some x)
    (same : g (k, y) = g (k, x)) : (tput t k y).any g = t.any g := by
  induction t with
  | nil => cases found
  | cons p t ih =>
    obtain ⟨j, z⟩ := p
    by_cases here : j = k
    · subst here
      rw [tget, if_pos rfl] at found
      cases found
      simp [tput, same]
    · rw [tget, if_neg here] at found
      rw [tput]
      split
      · have among : t.any g = (g (k, y) || t.any g) := by
          have := ih found
          rw [same]
          cases hit : g (k, x) with
          | false => simp
          | true =>
            rw [Bool.true_or, List.any_eq_true]
            refine ⟨(k, x), ?_, hit⟩
            clear this ih same hit
            induction t with
            | nil => cases found
            | cons p t ih =>
              obtain ⟨i, w⟩ := p
              rw [tget] at found
              split at found
              next eq =>
                cases found
                subst eq
                exact List.mem_cons_self ..
              · exact List.mem_cons_of_mem _ (ih found)
        rw [List.any_cons, List.any_cons, among]
        cases g (k, y) <;> simp
      · rw [if_neg (Ne.symm here), List.any_cons, List.any_cons, ih found]

/-! ### The head descriptor is taken (R185) -/

/-- A queue with a started descriptor more. -/
def Queue.push (x : Started) (u : Queue) : Queue :=
  { u with progress := u.progress || !x.head, started := u.started ++ [x] }

/-- The head fetched descriptor of queue `q`, which was `u`, has been taken, and nothing else of the queues changed. -/
structure Took (q : Nat) (u : Queue) (b c : Blk) : Prop where
  queue : ∃ fs, c.queue? q = some { u with fetched := fs } ∧ fs.length < u.fetched.length
  others : ∀ k, k ≠ q → c.queue? k = b.queue? k
  pulse : c.fe.startedPulse = b.fe.startedPulse + 1
  count : c.ctr .descStarted = b.ctr .descStarted + 1

namespace Took

variable {q : Nat} {u : Queue} {b c d : Blk}

theorem congr (h : Took q u b c) (queues : d.fe.queues = c.fe.queues) (pulse : d.fe.startedPulse = c.fe.startedPulse)
    (count : d.ctr .descStarted = c.ctr .descStarted) : Took q u b d := by
  obtain ⟨fs, now, short⟩ := h.queue
  exact ⟨⟨fs, (Blk.queue?_congr queues q).trans now, short⟩, fun k other => (Blk.queue?_congr queues k).trans (h.others k other),
    pulse.trans h.pulse, count.trans h.count⟩

theorem takeHead {x : Option (BitVec 512)} {rest : List (Option (BitVec 512))} (queue : b.queue? q = some u)
    (fetched : u.fetched = x :: rest) : Took q u b (b.takeHead q u) := by
  have queues : (b.takeHead q u).fe.queues = (b.modQueue q fun u => Queue.prune { u with fetched := u.fetched.drop 1 }).fe.queues :=
    (congrArg Fe.queues (Blk.bump_fe ..)).trans rfl
  obtain ⟨qs, fe⟩ := Blk.modQueue_fe b q fun u => Queue.prune { u with fetched := u.fetched.drop 1 }
  refine ⟨⟨pruneFetched (u.started.map Started.index) (u.ci - (u.fetched.drop 1).length) (u.fetched.drop 1), ?_, ?_⟩,
    fun k other => (Blk.queue?_congr queues k).trans (Blk.queue?_modQueue_other _ _ other), ?_, ?_⟩
  · rw [Blk.queue?_congr queues, Blk.queue?_modQueue_same, queue]
    rfl
  · refine Nat.lt_of_le_of_lt (length_pruneFetched ..) ?_
    simp [fetched]
  · refine (congrArg Fe.startedPulse (Blk.bump_fe ..)).trans ?_
    exact (congrArg (fun f : Fe => f.startedPulse + 1) fe).trans rfl
  · refine (Blk.ctr_bump_same ..).trans (congrArg (· + 1) ?_)
    exact (congrArg (fun l => tgetD 0 l _) (Blk.modQueue_counters b q _) :)

theorem emit (h : Took q u b c) (o : Out) : Took q u b (c.emit o) := h.congr rfl rfl rfl

theorem ask (h : Took q u b c) (r : HostReq) : Took q u b (c.ask r) :=
  h.congr ((congrArg Fe.queues (Blk.fe_ask r c)).trans rfl) ((congrArg Fe.startedPulse (Blk.fe_ask r c)).trans rfl)
    (Blk.ctr_ask r c ..)

theorem tearDown (h : Took q u b c) (k : Nat) (cause : BitVec 8) (desc : Option (Nat × Nat)) :
    Took q u b (c.tearDown k cause desc) := by
  obtain ⟨l, fe⟩ := Blk.tearDown_fe k cause desc c
  have within : Blk.Within [.fe] c (c.tearDown k cause desc) := by simp
  exact h.congr ((congrArg Fe.queues fe).trans rfl) ((congrArg Fe.startedPulse fe).trans rfl) (within.ctr (by simp) ..)

theorem of_within (h : Took q u b c) {l : List Part} (within : Blk.Within l c d) (fe : .fe ∉ l) (counters : .counters ∉ l) :
    Took q u b d := by
  have same : d.fe = c.fe := within .fe fe
  exact h.congr (congrArg Fe.queues same) (congrArg Fe.startedPulse same) (within.ctr counters ..)

/-- A descriptor that was taken starts. -/
theorem push {s : State} (h : Took q u s.blk c) (d : BitVec 512) (p : Phase) (head : Bool) :
    StartedAs s { s with
      blk := Begun.push s.env q (u.ci - u.fetched.length) d { blk := c, phase := p, head := head } } q u d p head := by
  obtain ⟨fs, now, short⟩ := h.queue
  let f : Queue → Queue := Queue.push { index := u.ci - u.fetched.length, desc := d, phase := p, head := head, start := s.env.n }
  obtain ⟨qs, fe⟩ := Blk.modQueue_fe c q f
  refine ⟨⟨rfl, rfl, rfl⟩, ⟨_, (Blk.queue?_modQueue_same ..).trans (congrArg (Option.map _) now), rfl, short, rfl⟩,
    fun k other => (Blk.queue?_modQueue_other c f other).trans (h.others k other), Eq.trans ?_ h.pulse, Eq.trans ?_ h.count⟩
  · exact (congrArg Fe.startedPulse fe).trans rfl
  · exact congrArg (fun l => tgetD 0 l _) (Blk.modQueue_counters c q f)

end Took

/-! ### The commands (R185, R188, R190) -/

section
variable {s : State} {q op : Nat} {u : Queue} {d : BitVec 512}

theorem Starts.took (h : Starts s q u d) : Took q u s.blk (s.blk.takeHead q u) := by
  obtain ⟨rest, fetched⟩ := List.head?_eq_some_iff.1 h.head
  exact .takeHead h.queue fetched

theorem Starts.plain {accepts : Nat → Bool} (h : Starts s q u d) (opcode : accepts (dOpcode d) = true)
    (plain : verdict s.env u d = none) (run : Queue → Nat → BitVec 512 → Blk → Begun) :
    s.blk.startDesc s.env q accepts run =
      (run u (u.ci - u.fetched.length) d (s.blk.takeHead q u)).push s.env q (u.ci - u.fetched.length) d := by
  obtain ⟨rest, fetched⟩ := List.head?_eq_some_iff.1 h.head
  unfold Blk.startDesc
  rw [h.queue]
  dsimp only
  rw [fetched]
  dsimp only
  rw [if_neg (by simp [h.turn, opcode]), ← fetched, Option.map_some, plain]
  rfl

/-- A descriptor that fails a test of R190 or R191 completes with that test's status. -/
theorem Starts.fails {accepts : Nat → Bool} {st : BitVec 8} {bad : Bool} (h : Starts s q u d)
    (opcode : accepts (dOpcode d) = true) (fails : verdict s.env u d = some (st, bad))
    (run : Queue → Nat → BitVec 512 → Blk → Begun) :
    StartedAs s { s with blk := s.blk.startDesc s.env q accepts run } q u d (.finishing st) true := by
  obtain ⟨rest, fetched⟩ := List.head?_eq_some_iff.1 h.head
  have whole : s.blk.startDesc s.env q accepts run =
      ((if bad then (s.blk.takeHead q u).tearDown u.ctx stContextFault (some (q, u.ci - u.fetched.length))
        else s.blk.takeHead q u).ends st).push s.env q (u.ci - u.fetched.length) d := by
    unfold Blk.startDesc
    rw [h.queue]
    dsimp only
    rw [fetched]
    dsimp only
    rw [if_neg (by simp [h.turn, opcode]), ← fetched, Option.map_some, fails]
    rfl
  rw [whole]
  refine Took.push ?_ d (.finishing st) true
  exact iteInduction (fun _ => h.took.tearDown ..) fun _ => h.took

/-- A command that starts the descriptor whose turn it is. -/
theorem startRow_acts (h : Starts s q u d) (opcode : dOpcode d = op) (plain : verdict s.env u d = none)
    (run : Env → Queue → Nat → BitVec 512 → Blk → Begun) :
    startRow q op run s = .next { s with
      blk :=
        (run s.env u (u.ci - u.fetched.length) d (s.blk.takeHead q u)).push s.env q (u.ci - u.fetched.length) d } := by
  rw [startRow, atQueue_acts _ h.number, h.plain (by simp [opcode]) plain]

theorem startRow_fails {st : BitVec 8} {bad : Bool} (h : Starts s q u d) (opcode : dOpcode d = op)
    (fails : verdict s.env u d = some (st, bad)) (run : Env → Queue → Nat → BitVec 512 → Blk → Begun) :
    ∃ t, startRow q op run s = .next t ∧ StartedAs s t q u d (.finishing st) true := by
  rw [startRow, atQueue_acts _ h.number]
  exact ⟨_, rfl, h.fails (by simp [opcode]) fails _⟩

theorem Starts.area (h : Starts s q u d) :
    ((((s.blk.queue? q).map Queue.fetched).bind List.head?).bind id).getD 0 = d := by
  rw [h.queue, Option.map_some, Option.bind_some, h.head]
  rfl

/-- What a descriptor reads when it starts is in device memory, or a tag is free for it (R260). -/
def TagFor (s : State) (a : BitVec 64 × Nat) : Prop := a.1.getLsbD 63 = true → a.2 ≠ 0 → s.blk.fe.freeTag ≠ none

theorem startRead_tagged {area : BitVec 512 → BitVec 64 × Nat} (h : Starts s q u d) (tag : TagFor s (area d))
    (run : Env → Queue → Nat → BitVec 512 → Blk → Begun) :
    startRead q op area run s = .next { s with blk := s.blk.startDesc s.env q (· == op) (run s.env) } := by
  have free : ¬ ((area d).1.getLsbD 63 && (area d).2 != 0 && s.blk.fe.freeTag.isNone) = true := by
    simpa [TagFor, and_assoc] using tag
  rw [startRead, atQueue_acts _ h.number, h.area, if_neg free]

theorem startRead_acts {area : BitVec 512 → BitVec 64 × Nat} (h : Starts s q u d) (opcode : dOpcode d = op)
    (plain : verdict s.env u d = none) (tag : TagFor s (area d)) (run : Env → Queue → Nat → BitVec 512 → Blk → Begun) :
    startRead q op area run s = .next { s with
      blk :=
        (run s.env u (u.ci - u.fetched.length) d (s.blk.takeHead q u)).push s.env q (u.ci - u.fetched.length) d } := by
  rw [startRead_tagged h tag, h.plain (by simp [opcode]) plain]

theorem startRead_waits {area : BitVec 512 → BitVec 64 × Nat} (h : Starts s q u d) (busy : ¬ TagFor s (area d))
    (run : Env → Queue → Nat → BitVec 512 → Blk → Begun) : startRead q op area run s = .next s := by
  have taken : ((area d).1.getLsbD 63 && (area d).2 != 0 && s.blk.fe.freeTag.isNone) = true := by
    simpa [TagFor, and_assoc] using busy
  rw [startRead, atQueue_acts _ h.number, h.area, if_pos taken]

end

/-! ### What the opcodes read and change -/

namespace Blk

variable {b c : Blk} {q : Nat} {u : Queue}

theorem takeHead_fe (q : Nat) (u : Queue) (b : Blk) : ∃ qs n l m,
    (b.takeHead q u).fe = { b.fe with queues := qs, startedPulse := n, lastSlot := l, lastQueue := m } := by
  obtain ⟨qs, fe⟩ := modQueue_fe b q fun u => Queue.prune { u with fetched := u.fetched.drop 1 }
  refine ⟨qs, b.fe.startedPulse + 1, tput b.fe.lastSlot u.prio u.slot, tput b.fe.lastQueue u.slot q, (bump_fe ..).trans ?_⟩
  unfold modFe
  dsimp only
  rw [fe]

theorem takeHead_out (q : Nat) (u : Queue) (b : Blk) : (b.takeHead q u).out = b.out := by
  have within : Within [.fe, .counters] b (b.takeHead q u) := by simp
  exact within .out (by simp)

/-- The reads of a descriptor that starts. -/
def readsNow (q : Nat) (a : BitVec 64 × Nat) (f : Fe) : List Out :=
  if a.2 = 0 then [] else if a.1.getLsbD 63 = false then [.dmRead a.1 a.2]
  else f.freeTag.toList.map fun k => .host k (.descRead q (a.1.setWidth 63) a.2)

theorem readNow_eq (q : Nat) (a : BitVec 64 × Nat) (b : Blk) :
    b.readNow q a.1 a.2 = { b with out := b.out ++ readsNow q a b.fe } := by
  unfold readNow readsNow
  by_cases empty : a.2 = 0
  · simp [empty]
  · rw [if_neg empty, if_neg empty]
    cases host : a.1.getLsbD 63 with
    | false => rfl
    | true =>
      cases b.fe.freeTag with
      | none => simp
      | some k => rfl

/-- Whether a context is busy depends on its reaches, its images and the launches that are to arm. -/
theorem loadBusy_congr (v : Env) (reaches : c.reaches = b.reaches) (ctxs : c.fe.ctxs = b.fe.ctxs) (k : Nat) :
    c.loadBusy v k = b.loadBusy v k := by
  simp [loadBusy, anyLedger, launchEntries, reach, ctx?, epoch, reaches, ctxs]

theorem launchBusy_congr (v : Env) (reaches : c.reaches = b.reaches) (ctxs : c.fe.ctxs = b.fe.ctxs) {k : Nat}
    (arming : c.arming k = b.arming k) : c.launchBusy v k = b.launchBusy v k := by
  simp [launchBusy, anyLedger, launchEntries, reach, ctx?, epoch, reaches, ctxs, arming]

theorem arming_takeHead (queue : b.queue? q = some u) (k : Nat) : (b.takeHead q u).arming k = b.arming k := by
  have queues : (b.takeHead q u).fe.queues = tput b.fe.queues q (Queue.prune { u with fetched := u.fetched.drop 1 }) := by
    refine (congrArg Fe.queues (bump_fe ..)).trans ?_
    unfold modQueue
    rw [queue]
    rfl
  unfold arming
  rw [queues]
  exact any_tput queue rfl

theorem launchBusy_takeHead (v : Env) (queue : b.queue? q = some u) (k : Nat) :
    (b.takeHead q u).launchBusy v k = b.launchBusy v k := by
  obtain ⟨qs, n, l, m, fe⟩ := takeHead_fe q u b
  have within : Within [.fe, .counters] b (b.takeHead q u) := by simp
  exact launchBusy_congr v (within .reaches (by simp)) ((congrArg Fe.ctxs fe).trans rfl) (arming_takeHead queue k)

theorem loadBusy_takeHead (v : Env) (q : Nat) (u : Queue) (b : Blk) (k : Nat) :
    (b.takeHead q u).loadBusy v k = b.loadBusy v k := by
  obtain ⟨qs, n, l, m, fe⟩ := takeHead_fe q u b
  have within : Within [.fe, .counters] b (b.takeHead q u) := by simp
  exact loadBusy_congr v (within .reaches (by simp)) ((congrArg Fe.ctxs fe).trans rfl) k

end Blk

section
variable {s : State} {q : Nat} {u : Queue} {d : BitVec 512} {c : Instr}

/-- A descriptor that only enters a phase. -/
theorem Starts.entersPhase (h : Starts s q u d) {p : Phase} {head : Bool}
    (ran : exec c s = .next { s with
      blk := Begun.push s.env q (u.ci - u.fetched.length) d { blk := s.blk.takeHead q u, phase := p, head := head } }) :
    Does c s fun t => StartedAs s t q u d p head ∧ t.blk = { s.blk with fe := t.blk.fe, counters := t.blk.counters } := by
  have within : Blk.Within [.fe, .counters] s.blk (Begun.push s.env q (u.ci - u.fetched.length) d
      { blk := s.blk.takeHead q u, phase := p, head := head }) := by simp [Begun.push]
  exact ⟨_, ran, h.took.push d p head, within.eq⟩

/-- A descriptor whose records are read when it starts. -/
theorem Starts.readsRecords (h : Starts s q u d) {a : BitVec 64 × Nat} {p : Phase} {head : Bool}
    (ran : exec c s = .next { s with
      blk :=
        Begun.push s.env q (u.ci - u.fetched.length) d
          { blk := (s.blk.takeHead q u).readNow q a.1 a.2, phase := p, head := head } }) :
    Does c s fun t => StartedAs s t q u d p head ∧ t.blk.fe.hostOut = s.blk.fe.hostOut ∧
      t.blk = { s.blk with fe := t.blk.fe, counters := t.blk.counters, out := s.blk.out ++ Blk.readsNow q a s.blk.fe } := by
  obtain ⟨qs, n, l, m, fe⟩ := Blk.takeHead_fe q u s.blk
  have tag : (s.blk.takeHead q u).fe.freeTag = s.blk.fe.freeTag := Blk.freeTag_congr ((congrArg Fe.hostOut fe).trans rfl)
  have reads : Blk.readsNow q a (s.blk.takeHead q u).fe = Blk.readsNow q a s.blk.fe := by
    rw [Blk.readsNow, Blk.readsNow, tag]
  let read : Blk := { s.blk.takeHead q u with out := s.blk.out ++ Blk.readsNow q a s.blk.fe }
  have isRead : (s.blk.takeHead q u).readNow q a.1 a.2 = read := by rw [Blk.readNow_eq, reads, Blk.takeHead_out]
  have taken : Blk.Within [.fe, .counters, .out] s.blk ((s.blk.takeHead q u).readNow q a.1 a.2) := by simp
  rw [isRead] at ran taken
  have took : Took q u s.blk read := h.took.congr rfl rfl rfl
  let f : Queue → Queue := Queue.push { index := u.ci - u.fetched.length, desc := d, phase := p, head := head, start := s.env.n }
  obtain ⟨qs', fe'⟩ := Blk.modQueue_fe read q f
  let last := Begun.push s.env q (u.ci - u.fetched.length) d { blk := read, phase := p, head := head }
  have within : Blk.Within [.fe, .counters, .out] s.blk last := taken.trans (by simp [last, Begun.push])
  have out : last.out = s.blk.out ++ Blk.readsNow q a s.blk.fe := Blk.modQueue_out read q f
  refine ⟨_, ran, took.push d p head, ?_, within.eq.trans
    (congrArg (fun o => ({ s.blk with fe := last.fe, counters := last.counters, out := o } : Blk)) out)⟩
  refine ((congrArg Fe.hostOut fe').trans rfl).trans ?_
  exact (congrArg Fe.hostOut fe).trans rfl

/-- A launch that has its turn makes its checks, and arms or fails (R82, R192). -/
theorem Blk.launchGo_checks {b : Blk} {k : Nat} {x : Ctx} (ctx : b.ctx? k = some x) (d : BitVec 512)
    (hs : List (BitVec 64)) (ps : List (BitVec 128)) :
    ∃ c, Within [.out] b c ∧ b.launchGo k d hs ps =
      { blk := c, phase := if x.launchOk k d hs ps = true then .arming else .finishing stContextFault } := by
  unfold Blk.launchGo
  rw [ctx]
  dsimp only
  cases ok : x.launchOk k d hs ps with
  | false => exact ⟨b, .refl _ b, rfl⟩
  | true => exact ⟨_, by cases dRelocate d <;> simp, rfl⟩

theorem Starts.launches (h : Starts s q u d) {x : Ctx} (ctx : s.blk.ctx? u.ctx = some x) (hs : List (BitVec 64))
    (ps : List (BitVec 128))
    (ran : exec c s = .next { s with
      blk :=
        (((s.blk.takeHead q u).readNow q (launchArea d).1 (launchArea d).2).launchGo u.ctx d hs ps).push s.env q
          (u.ci - u.fetched.length) d }) :
    Does c s fun t => StartedAs s t q u d (if x.launchOk u.ctx d hs ps = true then .arming
        else .finishing stContextFault) true ∧
      t.blk = { s.blk with fe := t.blk.fe, counters := t.blk.counters, out := t.blk.out } := by
  obtain ⟨qs, n, l, m, fe⟩ := Blk.takeHead_fe q u s.blk
  let read := (s.blk.takeHead q u).readNow q (launchArea d).1 (launchArea d).2
  have reads : Blk.Within [.out] (s.blk.takeHead q u) read := by simp [read]
  have same : read.fe = (s.blk.takeHead q u).fe := reads .fe (by simp)
  have known : read.ctx? u.ctx = some x := (Blk.ctx?_congr ((congrArg Fe.ctxs (same.trans fe)).trans rfl) _).trans ctx
  obtain ⟨b, within, goes⟩ := Blk.launchGo_checks known d hs ps
  rw [goes] at ran
  have took := (h.took.of_within reads (by simp) (by simp)).of_within within (by simp) (by simp)
  have taken : Blk.Within [.fe, .counters, .out] s.blk (s.blk.takeHead q u) := by simp
  refine ⟨_, ran, took.push d _ true, Blk.Within.eq (l := [.fe, .counters, .out]) ?_⟩
  exact taken.trans ((reads.mono (by simp)).trans ((within.mono (by simp)).trans (by simp [Begun.push])))

end

/-- The note of a started descriptor changes the queues. -/
theorem Begun.push_leaves (v : Env) (q i : Nat) (d : BitVec 512) (x : Begun) :
    (∃ qs, (x.push v q i d).fe = { x.blk.fe with queues := qs }) ∧ (x.push v q i d).out = x.blk.out :=
  ⟨Blk.modQueue_fe .., Blk.modQueue_out ..⟩

theorem Blk.askImage_fe (a : BitVec 64) (n : Nat) (b : Blk) :
    ∃ o w, (b.askImage a n).fe = { b.fe with hostOut := o, hostWait := w } := by
  unfold askImage
  split
  · exact ⟨_, _, fe_ask ..⟩
  · exact ⟨_, _, rfl⟩

theorem Took.askImage {q : Nat} {u : Queue} {b c : Blk} (h : Took q u b c) (a : BitVec 64) (n : Nat) :
    Took q u b (c.askImage a n) := iteInduction (fun _ => h.ask _) fun _ => h.emit _

theorem Took.askValue {q k : Nat} {u : Queue} {b c : Blk} (h : Took q u b c) (d : BitVec 512) :
    Took q u b (c.askValue k d) := iteInduction (fun _ => h.ask _) fun _ => h.emit _

/-- What a LAUNCH_GRAPH whose turn it is does. -/
def launchStart (q : Nat) (hs : List (BitVec 64)) (qs : List (BitVec 128)) (rsp : Rsp) (v : Env) (u : Queue) (_ : Nat)
    (d : BitVec 512) (b : Blk) : Begun :=
  let b := b.readNow q (launchArea d).1 (launchArea d).2
  if rsp ≠ .ok then (b.readFault v u rsp).ends stContextFault
  else
    let ps := qs.take (dField d 0x18 4)
    if b.launchBusy v u.ctx then { blk := b, phase := .launchWait hs ps }
    else b.launchGo u.ctx d hs ps

theorem exec_launchGraph {s : State} {q : Nat} {u : Queue} {hs : List (BitVec 64)} {ps : List (BitVec 128)} {rsp : Rsp}
    (queue : s.blk.queue? q = some u) (first : u.launchRead = none) :
    exec (.launchGraph q hs ps rsp) s = startRead q 0x01 launchArea (launchStart q hs ps rsp) s := by
  simp only [exec, execLaunchGraph]
  rw [queue, Option.bind_some, first]
  rfl

/-- A launch that starts finds its context as busy as it was. -/
theorem launchBusy_started {b : Blk} {q : Nat} {u : Queue} (queue : b.queue? q = some u) (v : Env) (a : BitVec 64 × Nat)
    (k : Nat) : ((b.takeHead q u).readNow q a.1 a.2).launchBusy v k = b.launchBusy v k := by
  rw [← Blk.launchBusy_takeHead v queue k, Blk.readNow_eq]
  exact Blk.launchBusy_congr v rfl rfl rfl

/-- A request of a descriptor that starts is made of the block before it. -/
theorem Starts.asks {s t : State} {q : Nat} {u : Queue} {r : HostReq} {b : Blk} (asked : Asked (s.blk.takeHead q u) b r)
    (out : t.blk.out = b.out) (hostOut : t.blk.fe.hostOut = b.fe.hostOut) (hostWait : t.blk.fe.hostWait = b.fe.hostWait) :
    Asked s.blk t.blk r := by
  obtain ⟨qs, n, l, m, fe⟩ := Blk.takeHead_fe q u s.blk
  exact Blk.asked_congr asked (Blk.takeHead_out q u s.blk).symm ((congrArg Fe.hostOut fe).trans rfl).symm
    ((congrArg Fe.hostWait fe).trans rfl).symm out hostOut hostWait

/-- Settles O50: an equation of each command, and `Took.push` for the descriptor. -/
theorem descriptorsStartTheirWork : Obligations.DescriptorsStartTheirWork := by
  refine ⟨fun s q u d starts plain => ?_, fun s q u d st bad starts fails => ?_⟩
  · have launchIs (op : dOpcode d = 0x01) : (if dOpcode d = 0x01 then launchArea d
        else if dOpcode d = 0x03 then patchArea d else stepArea d) = launchArea d := if_pos op
    have patchIs (op : dOpcode d = 0x03) : (if dOpcode d = 0x01 then launchArea d
        else if dOpcode d = 0x03 then patchArea d else stepArea d) = patchArea d := by
      rw [if_neg (by omega), if_pos op]
    have stepIs (op : dOpcode d = 0x08) : (if dOpcode d = 0x01 then launchArea d
        else if dOpcode d = 0x03 then patchArea d else stepArea d) = stepArea d := by
      rw [if_neg (by omega), if_neg (by omega)]
    dsimp only
    refine ⟨fun op => ?_, fun op => ?_, fun op => ?_, fun op r g => ?_, fun op => ?_, fun op => ?_, fun op => ?_, fun op => ?_,
      fun op tag target host ps => ?_, fun op tag target host ps => ?_, fun op busy ps rsp => ?_, fun op busy bs err => ?_,
      fun op first busy hs ps rsp => ?_, fun op first tag work hs ps => ?_, fun op first tag idle hs ps x ctx => ?_,
      fun op busy => ?_, fun op runs idle => ?_, fun op => ?_, fun op => ?_, fun op tag lists x ctx free good ok => ?_⟩
    · refine starts.entersPhase ?_
      simp only [exec, execNop]
      exact startRow_acts starts op plain _
    · refine starts.entersPhase ?_
      simp only [exec, execMarkBegin]
      exact startRow_acts starts op plain _
    · refine starts.entersPhase ?_
      simp only [exec, execMarkEnd]
      exact startRow_acts starts op plain _
    · refine starts.entersPhase ?_
      simp only [exec, execContextCreate]
      exact startRow_acts starts op plain _
    · refine starts.entersPhase ?_
      simp only [exec, execContextDestroy]
      exact startRow_acts starts op plain _
    · refine starts.entersPhase ?_
      simp only [exec, execQueueCreate]
      exact startRow_acts starts op plain _
    · refine starts.entersPhase ?_
      simp only [exec, execQueueDestroy]
      exact startRow_acts starts op plain _
    · refine starts.entersPhase ?_
      simp only [exec, execDumpTensor]
      exact startRow_acts starts op plain _
    · rw [patchIs op] at tag ⊢
      refine starts.readsRecords (a := patchArea d) ?_
      simp only [exec, execPatch]
      rw [startRead_acts starts op plain tag]
      simp [target, host]
    · rw [patchIs op] at tag ⊢
      refine starts.readsRecords (a := patchArea d) ?_
      simp only [exec, execPatch]
      rw [startRead_acts starts op plain tag]
      simp [target, host]
    · rw [patchIs op] at busy
      refine ⟨s, ?_, rfl⟩
      simp only [exec, execPatch]
      exact startRead_waits starts busy _
    · rw [stepIs op] at busy
      refine ⟨s, ?_, rfl⟩
      simp only [exec, execStep]
      exact startRead_waits starts busy _
    · rw [launchIs op] at busy
      refine ⟨s, ?_, rfl⟩
      rw [exec_launchGraph starts.queue first]
      exact startRead_waits starts busy _
    · rw [launchIs op] at tag ⊢
      refine starts.readsRecords (a := launchArea d) ?_
      rw [exec_launchGraph starts.queue first, startRead_acts starts op plain tag, launchStart,
        launchBusy_started starts.queue, work]
      rfl
    · rw [launchIs op] at tag
      refine starts.launches ctx hs (ps.take (dField d 0x18 4)) ?_
      rw [exec_launchGraph starts.queue first, startRead_acts starts op plain tag, launchStart,
        launchBusy_started starts.queue, idle]
      rfl
    · refine starts.entersPhase ?_
      simp only [exec, execLoadImage]
      obtain ⟨qs, n, l, m, fe⟩ := Blk.takeHead_fe q u s.blk
      have halted : (s.blk.takeHead q u).fe.loaderHalted = s.blk.fe.loaderHalted := (congrArg Fe.loaderHalted fe).trans rfl
      rw [startRow_acts starts op plain, if_pos (by simpa [halted, Blk.loadBusy_takeHead] using busy)]
      rfl
    · obtain ⟨qs, n, l, m, fe⟩ := Blk.takeHead_fe q u s.blk
      let a := BitVec.ofNat 64 (dField d 0x10 8)
      let asked := if (s.blk.takeHead q u).fe.loader.isEmpty then (s.blk.takeHead q u).askImage a (dField d 0x18 8)
        else s.blk.takeHead q u
      let listed := asked.modFe fun fe => { fe with loader := fe.loader ++ [(q, u.ci - u.fetched.length)] }
      have halted : (s.blk.takeHead q u).fe.loaderHalted = s.blk.fe.loaderHalted := (congrArg Fe.loaderHalted fe).trans rfl
      have loader : (s.blk.takeHead q u).fe.loader = s.blk.fe.loader := (congrArg Fe.loader fe).trans rfl
      have ran : exec (.loadImage q) s = .next { s with
          blk := Begun.push s.env q (u.ci - u.fetched.length) d { blk := listed, phase := .imageReading } } := by
        simp only [exec, execLoadImage]
        rw [startRow_acts starts op plain, if_neg (by simp [halted, Blk.loadBusy_takeHead, runs, idle])]
      obtain ⟨o, w, same⟩ : ∃ o w, asked.fe = { (s.blk.takeHead q u).fe with hostOut := o, hostWait := w } :=
        iteInduction (motive := fun c : Blk => ∃ o w, c.fe = { (s.blk.takeHead q u).fe with hostOut := o, hostWait := w })
          (fun _ => Blk.askImage_fe ..) fun _ => ⟨_, _, rfl⟩
      have took : Took q u s.blk listed := by
        refine Took.congr (c := asked) ?_ rfl rfl rfl
        exact iteInduction (fun _ => starts.took.askImage a _) fun _ => starts.took
      obtain ⟨pushed, out⟩ := Begun.push_leaves s.env q (u.ci - u.fetched.length) d { blk := listed, phase := .imageReading }
      obtain ⟨qs', fe'⟩ := pushed
      refine ⟨_, ran, took.push d .imageReading true, ?_, fun first host => ?_, fun first device => ?_⟩
      · refine ((congrArg Fe.loader fe').trans rfl).trans (congrArg (· ++ _) ?_)
        exact ((congrArg Fe.loader same).trans rfl).trans loader
      · have isAsked : asked = (s.blk.takeHead q u).ask (.imageRead (a.setWidth 63) (dField d 0x18 8)) := by
          simp only [asked, loader, first, List.isEmpty_nil, if_true, Blk.askImage]
          exact if_pos host
        refine Starts.asks (isAsked ▸ Blk.asked_ask ..) out ((congrArg Fe.hostOut fe').trans rfl)
          ((congrArg Fe.hostWait fe').trans rfl)
      · have isRead : asked = (s.blk.takeHead q u).emit (.dmRead a (dField d 0x18 8)) := by
          simp only [asked, loader, first, List.isEmpty_nil, if_true, Blk.askImage]
          exact if_neg (ne_true_of_eq_false device)
        refine out.trans ((congrArg Blk.out isRead).trans (congrArg (· ++ [_]) (Blk.takeHead_out ..)))
    · let a := BitVec.ofNat 64 (dField d 0x10 8)
      let asked := (s.blk.takeHead q u).askValue q d
      have ran : exec (.waitValue q) s = .next { s with
          blk := Begun.push s.env q (u.ci - u.fetched.length) d { blk := asked, phase := .valueWait none false s.env.n } } := by
        simp only [exec, execWaitValue]
        exact startRow_acts starts op plain _
      obtain ⟨⟨qs, fe⟩, out⟩ := Begun.push_leaves s.env q (u.ci - u.fetched.length) d
        { blk := asked, phase := .valueWait none false s.env.n }
      refine ⟨_, ran, (starts.took.askValue d).push d _ true, ?_⟩
      split
      next host =>
        have isAsked : asked = (s.blk.takeHead q u).ask (.valueRead q (a.setWidth 63)) := if_pos host
        exact Starts.asks (isAsked ▸ Blk.asked_ask ..) out ((congrArg Fe.hostOut fe).trans rfl)
          ((congrArg Fe.hostWait fe).trans rfl)
      next device =>
        have isRead : asked = (s.blk.takeHead q u).emit (.dmRead a 8) := if_neg device
        exact out.trans ((congrArg Blk.out isRead).trans (congrArg (· ++ [_]) (Blk.takeHead_out ..)))
    · let staged := (s.blk.takeHead q u).stageDesc .fence u.ctx q (u.ci - u.fetched.length) 0 0
        (some (BitVec.ofNat 128 (dField d 0x10 8 + fieldAt 64 (dField d 0x18 8)))) d
      have taken : Blk.Within [.fe, .counters] s.blk (s.blk.takeHead q u) := by simp
      have rel : (s.blk.takeHead q u).rel = s.blk.rel := taken .rel (by simp)
      have ticket : staged.lastTicket = s.blk.rel.tickets := by
        rw [← rel]
        rfl
      have ran : exec (.writeValue q) s = .next { s with
          blk :=
            Begun.push s.env q (u.ci - u.fetched.length) d { blk := staged, phase := .fenceRecord s.blk.rel.tickets } } := by
        simp only [exec, execWriteValue]
        rw [startRow_acts starts op plain, ← ticket]
      have stages : Blk.Within [.rel] (s.blk.takeHead q u) staged := by simp [staged]
      obtain ⟨r, enters, type, number, ctx, -⟩ := Blk.stageDesc_leaves (s.blk.takeHead q u) .fence u.ctx q
        (u.ci - u.fetched.length) 0 0 (some (BitVec.ofNat 128 (dField d 0x10 8 + fieldAt 64 (dField d 0x18 8)))) d
      rw [rel] at enters number
      exact ⟨_, ran, (starts.took.of_within stages (by simp) (by simp)).push d _ true, r,
        (congrArg Rel.staged (Blk.modQueue_rel ..)).trans enters, type, number, ctx⟩
    · rw [stepIs op] at tag
      obtain ⟨qs, n, l, m, fe⟩ := Blk.takeHead_fe q u s.blk
      let read := (s.blk.takeHead q u).readNow q (stepArea d).1 (stepArea d).2
      have reads : Blk.Within [.out] (s.blk.takeHead q u) read := by simp [read]
      have same : read.fe = (s.blk.takeHead q u).fe := reads .fe (by simp)
      have known : read.ctx? u.ctx = some x := (Blk.ctx?_congr ((congrArg Fe.ctxs (same.trans fe)).trans rfl) _).trans ctx
      let r : StepReq :=
        { queue := q, index := u.ci - u.fetched.length, gate := dField d 0x10 1 == 1, leaves := leavesOf lists (dField d 0x12 2)
          joins := joinsOf lists (dField d 0x12 2) (dField d 0x14 2) }
      let pending := read.modCtx u.ctx fun x => { x with pendingStep := some r }
      have ran : exec (.step q lists false) s = .next { s with
          blk := Begun.push s.env q (u.ci - u.fetched.length) d { blk := pending, phase := .stepPending, head := false } } := by
        simp only [exec, execStep]
        rw [startRead_acts starts op plain tag, if_neg (by simp), if_neg (by simp [good]),
          show (s.blk.takeHead q u).readNow q (stepArea d).1 (stepArea d).2 = read from rfl, known, Option.bind_some, free,
          if_neg (by simp), Blk.pendStep, known]
        dsimp only
        rw [if_neg (by simp [ok])]
      obtain ⟨⟨qs', fe'⟩, -⟩ := Begun.push_leaves s.env q (u.ci - u.fetched.length) d
        { blk := pending, phase := .stepPending, head := false }
      have took : Took q u s.blk pending := by
        refine (starts.took.of_within reads (by simp) (by simp)).congr ?_ ?_ ?_
        · exact (congrArg Fe.queues (Blk.modCtx_fe known _)).trans rfl
        · exact (congrArg Fe.startedPulse (Blk.modCtx_fe known _)).trans rfl
        · exact congrArg (fun l => tgetD 0 l _) (Blk.modCtx_counters ..)
      refine ⟨_, ran, took.push d _ false, r, _, ?_, rfl, rfl, rfl, rfl, rfl⟩
      refine (Blk.ctx?_congr ((congrArg Fe.ctxs fe').trans rfl) _).trans ?_
      exact (Blk.ctx?_modCtx_same ..).trans (congrArg (Option.map _) known)
  · refine ⟨fun high => ?_, fun op => ?_, fun op first tag hs ps rsp => ?_, fun op => ?_⟩
    · have status : st = stContextFault := by
        unfold verdict at fails
        dsimp only at fails
        split at fails
        · cases fails
          rfl
        · cases fails
          rfl
      have ends := starts.fails (accepts := fun op => decide (0x0E ≤ op)) (decide_eq_true high) fails
        fun _ _ _ b => b.ends stContextFault
      rw [status] at ends
      refine ⟨_, ?_, ends⟩
      simp only [exec, execReservedOpcode]
      exact atQueue_acts _ starts.number
    · simp only [exec, execNop, Does]
      exact startRow_fails starts op fails _
    · have ends := starts.fails (accepts := (· == 0x01)) (by simp [op]) fails (launchStart q hs ps rsp s.env)
      refine ⟨_, ?_, ends⟩
      rw [exec_launchGraph starts.queue first]
      exact startRead_tagged starts tag _
    · simp only [exec, execQueueCreate, Does]
      exact startRow_fails starts op fails _

end Sys2Proof.Machine
end

section
/-!
# Descriptors that go on with the answers (R81, R82, R195, R196, R204, R205): settles O51
-/
namespace Sys2Proof.Machine

/-! ### Queues and the ports -/

namespace OnlyRings

variable {b c d : Blk}

theorem refl (b : Blk) : OnlyRings b b := rfl

theorem trans (h : OnlyRings b c) (k : OnlyRings c d) : OnlyRings b d := by
  unfold OnlyRings at *
  rw [k, h]

theorem emit (h : OnlyRings b c) (o : Out) : OnlyRings b (c.emit o) := h.trans rfl

theorem ask (h : OnlyRings b c) (r : HostReq) : OnlyRings b (c.ask r) := by
  refine h.trans ?_
  unfold OnlyRings Blk.ask
  split <;> rfl

theorem modQueue (h : OnlyRings b c) (q : Nat) (f : Queue → Queue) : OnlyRings b (c.modQueue q f) := by
  refine h.trans ?_
  unfold Blk.modQueue OnlyRings
  split <;> rfl

theorem answered (h : OnlyRings b c) (p : HostReq → Bool) : OnlyRings b (c.answered p) := by
  refine h.trans ?_
  unfold Blk.answered
  split
  · dsimp only
    split
    · rfl
    · exact OnlyRings.ask (by rfl) _
  · rfl

/-- What a block's rings leave. -/
theorem fe (h : OnlyRings b c) : ∃ qs o w, c.fe = { b.fe with queues := qs, hostOut := o, hostWait := w } :=
  ⟨_, _, _, (congrArg Blk.fe h).trans rfl⟩

end OnlyRings

namespace Blk

variable {b c : Blk} {q k : Nat} {u : Queue}

theorem setPhase_same (queue : b.queue? q = some u) (i : Nat) (p : Phase) :
    (b.setPhase q i p).queue? q = some (u.atPhase i p) := by
  rw [setPhase, queue?_modQueue_same, queue]
  rfl

theorem setPhase_other (b : Blk) (i : Nat) (p : Phase) (other : k ≠ q) : (b.setPhase q i p).queue? k = b.queue? k :=
  queue?_modQueue_other _ _ other


/-- A response to a request that has its owner (R260). -/
theorem respond_owned (v : Env) {p : HostReq → Bool} (owned : NoneLate b p) (err : Bool) (f : Blk → Blk) :
    b.respond v p err f = f (b.hostRsp p err) := by
  have none_ : b.lateReq p = none := List.find?_eq_none.2 fun x mem => by simp [owned x mem]
  rw [respond, none_]

theorem queue?_answered (p : HostReq → Bool) (b : Blk) (q : Nat) : (b.answered p).queue? q = b.queue? q := by
  obtain ⟨o, w, fe⟩ : ∃ o w, (b.answered p).fe = { b.fe with hostOut := o, hostWait := w } := by
    unfold answered
    split
    · dsimp only
      split
      · exact ⟨_, _, rfl⟩
      · exact ⟨_, _, (fe_ask ..).trans rfl⟩
    · exact ⟨_, _, rfl⟩
  exact queue?_congr ((congrArg Fe.queues fe).trans rfl) q

/-- The loader has begun with the image after its first: but for its list and the requests, the front end is the same. -/
theorem nextImage_fe (b : Blk) :
    ∃ o w, b.nextImage.fe = { b.fe with loader := b.fe.loader.drop 1, hostOut := o, hostWait := w } := by
  unfold nextImage
  dsimp only
  split
  · exact ⟨_, _, rfl⟩
  · unfold readImage
    split
    · exact ⟨_, _, rfl⟩
    · obtain ⟨o, w, fe⟩ := askImage_fe (BitVec.ofNat 64 (dField _ 0x10 8)) (dField _ 0x18 8)
        (b.modFe fun fe => { fe with loader := fe.loader.drop 1 })
      exact ⟨o, w, fe.trans rfl⟩

theorem queue?_nextImage (b : Blk) (q : Nat) : b.nextImage.queue? q = b.queue? q := by
  obtain ⟨o, w, fe⟩ := nextImage_fe b
  exact queue?_congr ((congrArg Fe.queues fe).trans rfl) q

theorem setPhase_fe (q i : Nat) (p : Phase) (b : Blk) : ∃ qs, (b.setPhase q i p).fe = { b.fe with queues := qs } :=
  modQueue_fe ..

/-- The loader's descriptor is in another phase, and the loader goes on with the next image. -/
theorem ends_image (queue : b.queue? q = some u) (i : Nat) (p : Phase) :
    let after := (b.setPhase q i p).nextImage
    after.queue? q = some (u.atPhase i p) ∧ after.fe.loader = b.fe.loader.drop 1 ∧ after.fe.ctxs = b.fe.ctxs ∧
      after.fe.loaderHalted = b.fe.loaderHalted ∧ after.reaches = b.reaches ∧ after.counters = b.counters := by
  obtain ⟨qs, set⟩ := setPhase_fe q i p b
  obtain ⟨o, w, next⟩ := nextImage_fe (b.setPhase q i p)
  have within : Within [.fe, .out] b (b.setPhase q i p).nextImage := by simp
  rw [set] at next
  exact ⟨(queue?_nextImage ..).trans (setPhase_same queue i p), (congrArg Fe.loader next).trans rfl,
    (congrArg Fe.ctxs next).trans rfl, (congrArg Fe.loaderHalted next).trans rfl, within .reaches (by simp),
    within .counters (by simp)⟩

end Blk

/-! ### An image that takes effect (R81) -/

/-- The front end's table of contexts alone may differ. -/
def OnlyCtxs (b c : Blk) : Prop := ∃ xs, c.fe = { b.fe with ctxs := xs }

namespace OnlyCtxs

variable {b c d : Blk}

theorem refl (b : Blk) : OnlyCtxs b b := ⟨_, rfl⟩

theorem trans (h : OnlyCtxs b c) (k : OnlyCtxs c d) : OnlyCtxs b d := by
  obtain ⟨xs, first⟩ := h
  obtain ⟨ys, second⟩ := k
  exact ⟨ys, by rw [second, first]⟩

theorem of_within {l : List Part} (h : Blk.Within l b c) (fe : .fe ∉ l) : OnlyCtxs b c := ⟨b.fe.ctxs, h .fe fe⟩

theorem modCtx (b : Blk) (k : Nat) (f : Ctx → Ctx) : OnlyCtxs b (b.modCtx k f) := by
  unfold Blk.modCtx
  split <;> exact ⟨_, rfl⟩

theorem forEach {α : Type} {f : α → Blk → Blk} (xs : List α) (h : ∀ x c, OnlyCtxs c (f x c)) (b : Blk) :
    OnlyCtxs b (b.forEach xs f) := by
  induction xs generalizing b with
  | nil => exact refl b
  | cons x xs ih => exact (h x b).trans (ih _)

theorem install (r k : Nat) (f : Frame) (phys base : Nat) (es : Tbl Task) (b : Blk) :
    OnlyCtxs b (b.install r k f phys base es) := modCtx (b.modReach r _) k _

theorem placeImage (k : Nat) (rs : List Nat) (b : Blk) : OnlyCtxs b (b.placeImage k rs) := by
  have one (r : Nat) (fs : List Frame) (acc : Blk × Bool) : OnlyCtxs acc.1 (fs.foldl (fun (acc : Blk × Bool) f =>
      if acc.2 then acc
      else match acc.1.room r k f.edges.length with
        | some p => (((acc.1.install r k f p.1 p.2 f.launch).validate r (8192 * p.1) 8192).validate (16 + r) (4 * p.2)
            (256 * granulesOf f.edges.length), false)
        | none => (acc.1, true)) acc).1 := by
    induction fs generalizing acc with
    | nil => exact refl _
    | cons f fs ih =>
      refine OnlyCtxs.trans ?_ (ih _)
      dsimp only
      split
      · exact refl _
      · split
        next p room =>
          have valid (c : Blk) (m n l : Nat) : Blk.Within [.rel] c (c.validate m n l) := by simp
          exact (install r k f p.1 p.2 f.launch acc.1).trans
            (of_within ((valid _ _ _ _).trans (valid _ _ _ _)) (by simp))
        · exact refl _
  exact forEach _ (fun r c => one r _ (c, false)) b

theorem loadImage (v : Env) (k : Nat) (m : Img) (hs : List (BitVec 64)) (b : Blk) : OnlyCtxs b (b.loadImage v k m hs) := by
  unfold Blk.loadImage
  split
  · exact refl b
  next x found =>
    have unplaced : OnlyCtxs b (b.unplace v k) := by
      have cleared (c : Blk) : Blk.Within [.reaches, .blocks] b (b.forEach (List.range v.reaches) fun r b =>
          b.modReach r fun rc => { rc with
            blocks := rc.blocks.filter (fun p => p.2.ctx != k), pagingOut := rc.pagingOut.filter (fun p => p.2.ctx != k)
            pageReqs := rc.pageReqs.filter (fun p => p.ctx != k)
            pagingIn := if (rc.pagingIn.map PageIn.ctx) = some k then none else rc.pagingIn }) := by simp
      exact (of_within (cleared b) (by simp)).trans (modCtx _ k _)
    have wrote (c : Blk) : Blk.Within [.out] c (((if m.args.isEmpty then c else c.emit (.dmWrite x.record.argBase m.args)).relocate
        x m.relocs hs).forEach (m.frames x.record.spillBase) fun f b => b.writeFrame k f) := by simp
    have tables (c : Blk) : Blk.Within [.out] c (c.forEach (m.frames x.record.spillBase) fun f b => b.writeTable k f) := by
      simp
    have copied (c : Blk) : Blk.Within [.rel, .out] c (c.recopy v k) := by simp
    exact (((((unplaced.trans (of_within (wrote _) (by simp))).trans (of_within (tables _) (by simp))).trans
      (modCtx _ k _)).trans (placeImage ..))).trans (of_within (copied _) (by simp))

end OnlyCtxs

/-! ### The commands -/

namespace Blk

variable {b c : Blk} {q k : Nat} {u : Queue} {x : Started}

theorem loading_congr (loader : c.fe.loader = b.fe.loader) (queues : c.fe.queues = b.fe.queues) : c.loading = b.loading := by
  rw [loading, loading, loader]
  split
  · rfl
  · rw [queue?_congr queues]

theorem fencing_congr (queues : c.fe.queues = b.fe.queues) (f : FenceOut) : c.fencing f = b.fencing f := by
  rw [fencing, fencing, queue?_congr queues]

theorem answered_fe (p : HostReq → Bool) (b : Blk) : ∃ o w, (b.answered p).fe = { b.fe with hostOut := o, hostWait := w } := by
  unfold answered
  split
  · dsimp only
    split
    · exact ⟨_, _, rfl⟩
    · exact ⟨_, _, (fe_ask ..).trans rfl⟩
  · exact ⟨_, _, rfl⟩

/-- An image that cannot be parsed ends its descriptor (R81, R191). -/
theorem imageRead_unparsed (v : Env) {image : List Byte} (hs : List (BitVec 64))
    (bad : parseImage image (dField x.desc 0x18 8) = none) :
    b.imageRead v q u x image hs = (b.setPhase q x.index (.finishing stContextFault)).nextImage := by
  unfold imageRead
  rw [bad]

/-- An image that passes its checks is written (R81). -/
theorem imageRead_good (v : Env) {image : List Byte} {hs : List (BitVec 64)} {m : Img} {k : Ctx}
    (parsed : parseImage image (dField x.desc 0x18 8) = some m) (ctx : b.ctx? u.ctx = some k)
    (good : m.ok v k image = true) (relocs : relocsOk k m.relocs hs = true) (idle : b.loadBusy v u.ctx = false) :
    b.imageRead v q u x image hs = (b.loadImage v u.ctx m hs).setPhase q x.index .imageWriting := by
  unfold imageRead
  rw [parsed, ctx]
  dsimp only
  rw [if_neg (by simp [good, relocs]), if_neg (by simp [idle])]

end Blk

/-- What an answer to the read of an image does with the descriptor of the loader. -/
def Blk.imageAnswered (v : Env) (q : Nat) (u : Queue) (x : Started) (image : List Byte) (hs : List (BitVec 64)) (b : Blk) :
    Rsp → Blk
  | .hostError => (b.setPhase q x.index (.finishing stContextFault)).nextImage
  | .uncorrectable => b.loaderHalt v q x.index u.ctx
  | .ok => b.setPhase q x.index (.imageRead image hs)

section
variable {s : State} {q : Nat} {u : Queue} {x : Started}

theorem exec_imageReadDone (image : List Byte) (hs : List (BitVec 64)) (rsp : Rsp) (owned : NoneLate s.blk HostReq.isImage)
    (loads : (s.blk.hostRsp HostReq.isImage (decide (rsp = .hostError))).loading = some (q, u, x))
    (reading : x.phase = .imageReading) :
    exec (.imageReadDone image hs rsp) s = .next { s with
      blk := (s.blk.hostRsp HostReq.isImage (decide (rsp = .hostError))).imageAnswered s.env q u x image hs rsp } := by
  simp only [exec, execImageReadDone, onBlk]
  rw [Blk.respond_owned _ owned, loads]
  dsimp only
  rw [if_neg (by simp [reading])]
  cases rsp <;> rfl

end

/-- A block in which the oldest fence write of a queue is acknowledged: its FENCE_DONE is staged. -/
def Blk.fenceDone (q : Nat) (f : FenceOut) (b : Blk) : Blk :=
  ((b.answered (HostReq.isValueWrite q)).modFe fun fe => { fe with
    fences := ldrop1 (fun f => f.queue == q) fe.fences }).stageDesc .fenceDone f.ctx q f.index 0 0

theorem Blk.fenceDone_fe (q : Nat) (f : FenceOut) (b : Blk) : ∃ o w, (b.fenceDone q f).fe =
    { b.fe with hostOut := o, hostWait := w, fences := ldrop1 (fun f => f.queue == q) b.fe.fences } := by
  obtain ⟨o, w, fe⟩ := answered_fe (HostReq.isValueWrite q) b
  exact ⟨o, w, (congrArg (fun g : Fe => { g with fences := ldrop1 (fun f => f.queue == q) g.fences }) fe).trans rfl⟩

/-- What an acknowledged fence write leaves. -/
theorem Blk.fenceDone_leaves (q : Nat) (f : FenceOut) (b : Blk) :
    (b.fenceDone q f).fe.queues = b.fe.queues ∧
      (b.fenceDone q f).fe.fences = ldrop1 (fun f => f.queue == q) b.fe.fences ∧
      (∃ r, (b.fenceDone q f).rel.staged = b.rel.staged ++ [(19, r)] ∧ r.type = .fenceDone ∧ r.ctx = f.ctx ∧
        r.id = descId q f.index) ∧ Within [.fe, .rel, .out] b (b.fenceDone q f) := by
  obtain ⟨o, w, fe⟩ := fenceDone_fe q f b
  have answers : Within [.fe, .out] b (b.answered (HostReq.isValueWrite q)) := by simp
  have rel : (b.answered (HostReq.isValueWrite q)).rel = b.rel := answers .rel (by simp)
  obtain ⟨r, enters, type, -, ctx, id⟩ := stageDesc_leaves ((b.answered (HostReq.isValueWrite q)).modFe fun fe => { fe with
    fences := ldrop1 (fun f => f.queue == q) fe.fences }) .fenceDone f.ctx q f.index 0 0 none 0
  refine ⟨(congrArg Fe.queues fe).trans rfl, (congrArg Fe.fences fe).trans rfl, ⟨r, enters.trans ?_, type, ctx, id⟩,
    by simp [fenceDone]⟩
  exact congrArg (fun l : Rel => l.staged ++ _) rel

theorem exec_writeValueAck {s : State} {q : Nat} {f : FenceOut} (known : q < 1024)
    (fence : s.blk.fe.fences.find? (fun f => f.queue == q) = some f) (owned : NoneLate s.blk (HostReq.isValueWrite q)) :
    exec (.writeValueAck q false) s = .next { s with
      blk := match s.blk.fencing f with
        | some x => (s.blk.fenceDone q f).setPhase q x.index (.finishing stOk)
        | none => s.blk.fenceDone q f } := by
  obtain ⟨o, w, fe⟩ := Blk.answered_fe (HostReq.isValueWrite q) s.blk
  have fence' : (s.blk.answered (HostReq.isValueWrite q)).fe.fences.find? (fun f => f.queue == q) = some f := by
    rw [fe]
    exact fence
  have same := Blk.fencing_congr (c := (s.blk.answered (HostReq.isValueWrite q)).modFe fun fe => { fe with
    fences := ldrop1 (fun f => f.queue == q) fe.fences }) ((congrArg Fe.queues fe).trans rfl) f
  simp only [exec, execWriteValueAck]
  rw [atQueue_acts _ known, Bool.false_and, Blk.respond_owned _ owned, Blk.hostRsp, if_neg (by simp), fence']
  dsimp only
  rw [same, if_neg (by simp)]
  rfl

theorem hungRun_modQueue (v : Env) (q : Nat) (u : Queue) (f : Queue → Queue) (b : Blk) :
    (b.modQueue q f).hungRun v q u = b.hungRun v q u := by
  obtain ⟨qs, fe⟩ := Blk.modQueue_fe b q f
  have ctx (k : Nat) : (b.modQueue q f).ctx? k = b.ctx? k := Blk.ctx?_congr ((congrArg Fe.ctxs fe).trans rfl) k
  simp [Blk.hungRun, Blk.epoch, ctx]

theorem exec_queueTimeout {s : State} {q : Nat} {u : Queue} (known : q < 1024) (queue : s.blk.queue? q = some u)
    (on : u.timeoutOf s.env q ≠ 0) (due : u.timeoutOf s.env q ≤ u.timer) (moving : s.blk.frozen = false) :
    exec (.queueTimeout q) s = .next { s with
      blk :=
        let b := s.blk.modQueue q fun u => { u with timer := 0 }
        if u.ctx = 0 then b.timeoutHead s.env q u
        else if b.hungRun s.env q u then (b.bump .timeoutReset).askReset .hungRun
        else if b.canTearDown u.ctx then (b.bump .timeoutContext).tearDown u.ctx stTimeout
        else b } := by
  simp only [exec, execQueueTimeout]
  rw [atQueue_acts _ known, queue]
  dsimp only
  rw [if_neg (by simp [on, moving]; omega)]

/-- Settles O51: an equation of each command, with `Blk.ends_image`, `OnlyCtxs.loadImage` and `Blk.launchGo_checks`. -/
theorem descriptorsFollowTheirAnswers : Obligations.DescriptorsFollowTheirAnswers := by
  refine ⟨fun s q u x image hs queue loading => ⟨fun reading owned => ?_, fun bad => ?_, fun m k parsed ctx good relocs idle => ?_,
      fun reading owned => ?_⟩,
    fun s q u x ps k known queue first runs idle ctx hs qs => ?_, fun s q u x loading writing queue => ⟨?_, ?_⟩,
    fun s q u x f c n known queue waits => ⟨fun phase due => ?_, fun early => ?_, fun value owned => ?_⟩,
    fun s q f known fence owned => ⟨fun u x queue fencing => ?_, fun gone => ?_⟩,
    fun s q u known queue => ⟨fun early => ?_, fun on over_ moving => ⟨fun x rest host started => ?_, fun host hung => ?_,
      fun host runs live quiet => ?_⟩⟩⟩
  · obtain ⟨o, w, fe⟩ := Blk.answered_fe HostReq.isImage s.blk
    have loads : (s.blk.answered HostReq.isImage).loading = some (q, u, x) :=
      (Blk.loading_congr ((congrArg Fe.loader fe).trans rfl) ((congrArg Fe.queues fe).trans rfl)).trans loading
    obtain ⟨qs, set⟩ := Blk.setPhase_fe q x.index (.imageRead image hs) (s.blk.answered HostReq.isImage)
    rw [fe] at set
    exact ⟨_, exec_imageReadDone image hs .ok owned loads reading, ⟨rfl, rfl, rfl⟩,
      Blk.setPhase_same ((Blk.queue?_answered ..).trans queue) .., (congrArg Fe.loader set).trans rfl,
      ((OnlyRings.refl s.blk).answered _).modQueue q _⟩
  · dsimp only
    rw [Blk.imageRead_unparsed s.env hs bad]
    obtain ⟨now, loader, ctxs, -, reaches, -⟩ := Blk.ends_image queue x.index (.finishing stContextFault)
    exact ⟨now, loader, ctxs, reaches⟩
  · dsimp only
    rw [Blk.imageRead_good s.env parsed ctx good relocs idle]
    obtain ⟨xs, loads⟩ := OnlyCtxs.loadImage s.env u.ctx m hs s.blk
    obtain ⟨qs, set⟩ := Blk.setPhase_fe q x.index .imageWriting (s.blk.loadImage s.env u.ctx m hs)
    rw [loads] at set
    exact ⟨Blk.setPhase_same ((Blk.queue?_congr ((congrArg Fe.queues loads).trans rfl) q).trans queue) ..,
      (congrArg Fe.loader set).trans rfl⟩
  · obtain ⟨o, w, fe⟩ := Blk.answered_fe HostReq.isImage s.blk
    have fe' : (s.blk.hostRsp HostReq.isImage true).fe = { s.blk.fe with hostOut := o, hostWait := w } :=
      Eq.trans (Blk.bump_fe (s.blk.answered HostReq.isImage) .hostError 0 1) fe
    have queues : (s.blk.hostRsp HostReq.isImage true).fe.queues = s.blk.fe.queues := (congrArg Fe.queues fe').trans rfl
    have loader : (s.blk.hostRsp HostReq.isImage true).fe.loader = s.blk.fe.loader := (congrArg Fe.loader fe').trans rfl
    have loads : (s.blk.hostRsp HostReq.isImage true).loading = some (q, u, x) := (Blk.loading_congr loader queues).trans loading
    obtain ⟨now, left, -, -, -, counters⟩ :=
      Blk.ends_image ((Blk.queue?_congr queues q).trans queue) x.index (.finishing stContextFault)
    have within : Blk.Within [.fe, .out] s.blk (s.blk.answered HostReq.isImage) := by simp
    refine ⟨_, exec_imageReadDone image hs .hostError owned loads reading, ⟨rfl, rfl, rfl⟩, now, ?_,
      left.trans (congrArg (List.drop 1) loader)⟩
    refine (congrArg (fun l => tgetD 0 l _) counters).trans ((Blk.ctr_bump_same ..).trans (congrArg (· + 1) ?_))
    exact within.ctr (by simp) ..
  · obtain ⟨b, within, goes⟩ := Blk.launchGo_checks ctx x.desc hs ps
    have ran : exec (.launchGraph q hs qs .ok) s = .next { s with
        blk := b.setPhase q x.index (if k.launchOk u.ctx x.desc hs ps = true then .arming else .finishing stContextFault) } := by
      simp only [exec, execLaunchGraph]
      rw [queue, Option.bind_some, first]
      dsimp only
      rw [atQueue_acts _ known, queue]
      dsimp only
      rw [if_pos runs, Blk.launchAgain, if_neg (by simp), if_neg (by simp [idle]), goes]
    have same : b.fe = s.blk.fe := within .fe (by simp)
    refine ⟨_, ran, ⟨rfl, rfl, rfl⟩, Blk.setPhase_same ((Blk.queue?_congr (congrArg Fe.queues same) q).trans queue) .., ?_⟩
    let after := b.setPhase q x.index (if k.launchOk u.ctx x.desc hs ps = true then .arming else .finishing stContextFault)
    have whole : Blk.Within [.fe, .out] s.blk after := (within.mono (by simp)).trans (by simp [after])
    obtain ⟨qs', set⟩ := Blk.setPhase_fe q x.index
      (if k.launchOk u.ctx x.desc hs ps = true then .arming else .finishing stContextFault) b
    have frame : after.fe = { s.blk.fe with queues := after.fe.queues } := by
      rw [set, same]
    exact whole.eq.trans (congrArg (fun f : Fe => ({ s.blk with fe := f, out := after.out } : Blk)) frame)
  · have ran : exec (.loadImageWritesAcked true) s = .next { s with
        blk := (s.blk.setPhase q x.index (.finishing stOk)).nextImage } := by
      simp only [exec, execLoadImageWritesAcked, onBlk]
      rw [loading]
      dsimp only
      rw [if_neg (by simp [writing]), if_pos trivial]
    obtain ⟨now, left, -, halted, -, -⟩ := Blk.ends_image queue x.index (.finishing stOk)
    exact ⟨_, ran, ⟨rfl, rfl, rfl⟩, now, left, halted⟩
  · let stopped := (s.blk.modFe fun fe => { fe with loaderHalted := true, loader := [] }).haltChannel s.env (some u.ctx)
    have ran : exec (.loadImageWritesAcked false) s = .next { s with
        blk := (stopped.setPhase q x.index (.finishing stUncorrectable)).tearDown u.ctx stUncorrectable (some (q, x.index)) } := by
      simp only [exec, execLoadImageWritesAcked, onBlk]
      rw [loading]
      dsimp only
      rw [if_neg (by simp [writing]), if_neg (by simp)]
      rfl
    have halts : Blk.Within [.rel, .mc, .counters, .out, .fresh]
        (s.blk.modFe fun fe => { fe with loaderHalted := true, loader := [] }) stopped := by simp [stopped]
    have fe : stopped.fe = { s.blk.fe with loaderHalted := true, loader := [] } := halts .fe (by simp)
    obtain ⟨qs, set⟩ := Blk.setPhase_fe q x.index (.finishing stUncorrectable) stopped
    obtain ⟨l, torn⟩ := Blk.tearDown_fe u.ctx stUncorrectable (some (q, x.index))
      (stopped.setPhase q x.index (.finishing stUncorrectable))
    refine ⟨_, ran, ⟨rfl, rfl, rfl⟩, ?_, ?_, ?_⟩
    · refine (Blk.queue?_congr ((congrArg Fe.queues torn).trans rfl) q).trans (Blk.setPhase_same ?_ ..)
      exact (Blk.queue?_congr ((congrArg Fe.queues fe).trans rfl) q).trans queue
    · rw [torn, set, fe]
    · rw [torn, set, fe]
  · have ran : exec (.waitValuePoll q) s = .next { s with
        blk := (s.blk.askValue q x.desc).setPhase q x.index (.valueWait f c s.env.n) } := by
      simp only [exec, execWaitValuePoll]
      rw [atQueue_acts _ known, queue, Option.bind_some, waits]
      dsimp only
      have due' : n + dField x.desc 0x24 4 ≤ s.env.n := due
      rw [if_neg (by simpa [phase] using due')]
    have rings : OnlyRings s.blk (s.blk.askValue q x.desc) :=
      iteInduction (fun _ => (OnlyRings.refl s.blk).ask _) fun _ => (OnlyRings.refl s.blk).emit _
    obtain ⟨qs, set⟩ := Blk.setPhase_fe q x.index (.valueWait f c s.env.n) (s.blk.askValue q x.desc)
    have out : ((s.blk.askValue q x.desc).setPhase q x.index (.valueWait f c s.env.n)).out = (s.blk.askValue q x.desc).out :=
      Blk.modQueue_out ..
    have now : (s.blk.askValue q x.desc).queue? q = some u := by
      refine (Blk.queue?_congr ?_ q).trans queue
      exact iteInduction (motive := fun b : Blk => b.fe.queues = s.blk.fe.queues)
        (fun _ => (congrArg Fe.queues (Blk.fe_ask ..)).trans rfl) fun _ => rfl
    refine ⟨_, ran, ⟨rfl, rfl, rfl⟩, Blk.setPhase_same now .., ?_⟩
    split
    next host =>
      have asked : s.blk.askValue q x.desc = s.blk.ask (.valueRead q ((BitVec.ofNat 64 (dField x.desc 0x10 8)).setWidth 63)) :=
        if_pos host
      rw [asked] at out set
      have asks := Blk.asked_ask (.valueRead q ((BitVec.ofNat 64 (dField x.desc 0x10 8)).setWidth 63)) s.blk
      rw [asked]
      exact Blk.asked_congr asks rfl rfl rfl out ((congrArg Fe.hostOut set).trans rfl) ((congrArg Fe.hostWait set).trans rfl)
    next device =>
      have read : s.blk.askValue q x.desc = s.blk.emit (.dmRead (BitVec.ofNat 64 (dField x.desc 0x10 8)) 8) := if_neg device
      exact out.trans (congrArg Blk.out read)
  · refine ⟨s, ?_, rfl⟩
    simp only [exec, execWaitValuePoll]
    rw [atQueue_acts _ known, queue, Option.bind_some, waits]
    dsimp only
    have early' : s.env.n < n + dField x.desc 0x24 4 := early
    rw [if_pos (by simp [early'])]
  · let p : Phase := if compareHolds (dField x.desc 0x20 1) value (BitVec.ofNat 64 (dField x.desc 0x18 8))
        (c || decide (f.getD value ≠ value)) = true then .finishing stOk
      else .valueWait (some (f.getD value)) (c || decide (f.getD value ≠ value)) n
    let kept := (s.blk.answered (HostReq.isValueRead q)).modQueue q fun u => { u with waitLast := value }
    have ran : exec (.waitValueReadDone q value false) s = .next { s with blk := kept.setPhase q x.index p } := by
      simp only [exec, execWaitValueReadDone]
      rw [atQueue_acts _ known, Bool.false_and, Blk.respond_owned _ owned, Blk.hostRsp, if_neg (by simp),
        Blk.queue?_answered, queue]
      dsimp only
      rw [waits]
      dsimp only
      rw [if_neg (by simp)]
      simp only [p]
      split <;> rfl
    have now : kept.queue? q = some { u with waitLast := value } := by
      rw [Blk.queue?_modQueue_same, Blk.queue?_answered, queue]
      rfl
    refine ⟨_, ran, ⟨rfl, rfl, rfl⟩, (Blk.setPhase_same now ..).trans rfl, fun k other => ?_,
      (((OnlyRings.refl s.blk).answered _).modQueue q _).modQueue q _⟩
    exact (Blk.setPhase_other _ _ _ other).trans ((Blk.queue?_modQueue_other _ _ other).trans (Blk.queue?_answered ..))
  · have ran := exec_writeValueAck known fence owned
    rw [fencing] at ran
    obtain ⟨queues, fences, ⟨r, enters, type, ctx, id⟩, within⟩ := Blk.fenceDone_leaves q f s.blk
    let after := (s.blk.fenceDone q f).setPhase q x.index (.finishing stOk)
    obtain ⟨qs, set⟩ := Blk.setPhase_fe q x.index (.finishing stOk) (s.blk.fenceDone q f)
    have whole : Blk.Within [.fe, .rel, .out] s.blk after := within.trans (by simp [after])
    refine ⟨_, ran, ⟨⟨rfl, rfl, rfl⟩, ((congrArg Fe.fences set).trans rfl).trans fences, ⟨r, ?_, type, ctx, id⟩, whole.eq⟩,
      Blk.setPhase_same ((Blk.queue?_congr queues q).trans queue) ..⟩
    exact (congrArg Rel.staged (Blk.modQueue_rel ..)).trans enters
  · have ran := exec_writeValueAck known fence owned
    rw [gone] at ran
    obtain ⟨queues, fences, record, within⟩ := Blk.fenceDone_leaves q f s.blk
    exact ⟨_, ran, ⟨⟨rfl, rfl, rfl⟩, fences, record, within.eq⟩, queues⟩
  · refine ⟨s, ?_, rfl⟩
    simp only [exec, execQueueTimeout]
    rw [atQueue_acts _ known, queue]
    dsimp only
    rw [if_pos (early.imp_right .inl)]
  · have ran : exec (.queueTimeout q) s = .next { s with
        blk := (s.blk.modQueue q fun u => { u with timer := 0 }).timeoutHead s.env q u } := by
      rw [exec_queueTimeout known queue on over_ moving, if_pos host]
    have head : (s.blk.modQueue q fun u => { u with timer := 0 }).timeoutHead s.env q u =
        (s.blk.modQueue q fun u => { u with timer := 0 }).setPhase q x.index (.finishing (match x.phase with
          | .finishing st => rankMax st stTimeout
          | _ => stTimeout)) := by
      unfold Blk.timeoutHead
      rw [started] <;> rfl
    rw [head] at ran
    have now : (s.blk.modQueue q fun u => { u with timer := 0 }).queue? q = some { u with timer := 0 } := by
      rw [Blk.queue?_modQueue_same, queue]
      rfl
    exact ⟨_, ran, ⟨rfl, rfl, rfl⟩, (Blk.setPhase_same now ..).trans rfl⟩
  · have ran : exec (.queueTimeout q) s = .next { s with
        blk := ((s.blk.modQueue q fun u => { u with timer := 0 }).bump .timeoutReset).askReset .hungRun } := by
      rw [exec_queueTimeout known queue on over_ moving, if_neg host, hungRun_modQueue, if_pos hung]
    have asks : Blk.Within [.rel] ((s.blk.modQueue q fun u => { u with timer := 0 }).bump .timeoutReset)
        (((s.blk.modQueue q fun u => { u with timer := 0 }).bump .timeoutReset).askReset .hungRun) := by simp
    refine ⟨_, ran, ⟨rfl, rfl, rfl⟩, (Blk.askReset_leaves ..).1, (asks.ctr (by simp) ..).trans ?_⟩
    rw [Blk.ctr_bump_same]
    exact congrArg (fun l => tgetD 0 l _ + 1) (Blk.modQueue_counters ..)
  · let reset := s.blk.modQueue q fun u => { u with timer := 0 }
    obtain ⟨qs, fe⟩ := Blk.modQueue_fe s.blk q fun u => { u with timer := 0 }
    have can (b : Blk) (same : b.fe = reset.fe) : b.canTearDown u.ctx = true := by
      rw [Blk.canTearDown_congr (b := s.blk) ((congrArg Fe.ctxs (same.trans fe)).trans rfl)
        ((congrArg Fe.teardownsIn (same.trans fe)).trans rfl)]
      simp [Blk.canTearDown, live, host, quiet]
    have ran : exec (.queueTimeout q) s = .next { s with blk := (reset.bump .timeoutContext).tearDown u.ctx stTimeout } := by
      rw [exec_queueTimeout known queue on over_ moving, if_neg host, hungRun_modQueue, if_neg (ne_true_of_eq_false runs),
        if_pos (can _ rfl)]
    have tears : Blk.Within [.fe] (reset.bump .timeoutContext) ((reset.bump .timeoutContext).tearDown u.ctx stTimeout) := by
      simp
    refine ⟨_, ran, ⟨rfl, rfl, rfl⟩, ?_, (tears.ctr (by simp) ..).trans ?_⟩
    · rw [Blk.tearDown_asks (can _ (Blk.bump_fe ..)), Blk.bump_fe, fe]
      exact congrArg (· ++ [_]) quiet
    · rw [Blk.ctr_bump_same]
      exact congrArg (fun l => tgetD 0 l _ + 1) (Blk.modQueue_counters ..)

end Sys2Proof.Machine
end

section
/-!
# Firmware and the causes of a block reset (R207, R208, R298): settles O52
-/
namespace Sys2Proof.Machine

/-! ### What the load of firmware leaves -/

/-- What the load of firmware may change of the front end. -/
def Fe.FirmwareOnly (f g : Fe) : Prop :=
  g = { f with
    fwState := g.fwState, fwReason := g.fwReason, cpInstr := g.cpInstr, cpData := g.cpData, rcMem := g.rcMem
    hostOut := g.hostOut, hostWait := g.hostWait }

namespace Fe.FirmwareOnly

variable {f g h : Fe}

theorem trans (a : FirmwareOnly f g) (b : FirmwareOnly g h) : FirmwareOnly f h := by
  unfold FirmwareOnly at *
  rw [b, a]

end Fe.FirmwareOnly

/-- A section over the front of a memory, if the image's lengths fit and as far as it was read. -/
def laidOver (v : Env) (image : List Byte) (from_ n : Nat) (old : List Byte) : List Byte :=
  if decide (64 ≤ image.length) && fwBoundsOk image (v.reg 0x100108).toNat then
    (image.drop from_).take n ++ old.drop ((image.drop from_).take n).length
  else old

namespace Blk

variable {b : Blk}

theorem fwSections_fe (v : Env) (image : List Byte) (b : Blk) : (b.fwSections v image).fe = { b.fe with
    cpInstr := laidOver v image 64 (fwCpi image) b.fe.cpInstr
    cpData := laidOver v image (64 + fwCpi image) (fwCpd image) b.fe.cpData
    rcMem := laidOver v image (64 + fwCpi image + fwCpd image) (fwRc image) b.fe.rcMem } := by
  have unfit : (decide (image.length < 64) || !fwBoundsOk image (v.reg 0x100108).toNat) =
      !(decide (64 ≤ image.length) && fwBoundsOk image (v.reg 0x100108).toNat) := by
    rw [Bool.not_and, ← decide_not]
    simp only [Nat.not_le]
  have valid (c : Blk) (m l n : Nat) : (c.validate m l n).fe = c.fe := by
    have within : Within [.rel] c (c.validate m l n) := by simp
    exact within .fe (by simp)
  unfold fwSections laidOver
  rw [unfit]
  cases decide (64 ≤ image.length) && fwBoundsOk image (v.reg 0x100108).toNat with
  | true =>
    rw [if_neg (by simp)]
    dsimp only
    rw [valid, valid, valid]
    rfl
  | false => rfl

/-- The validation of sections changes the page marks. -/
theorem fwSections_rel (v : Env) (image : List Byte) (b : Blk) :
    ∃ vs ps, (b.fwSections v image).rel = { b.rel with validPages := vs, partPages := ps } := by
  have valid (c : Blk) (m l n : Nat) : ∃ vs ps, (c.validate m l n).rel = { c.rel with validPages := vs, partPages := ps } := by
    obtain ⟨vs, ps, same⟩ := validate_eq c m l n
    exact ⟨vs, ps, congrArg Blk.rel same⟩
  unfold fwSections
  split
  · exact ⟨_, _, rfl⟩
  · obtain ⟨vs, ps, last⟩ := valid ((validate 34 0 _ (b.modFe _)).validate 35 0 _) 36 0 _
    obtain ⟨vs', ps', second⟩ := valid (validate 34 0 _ (b.modFe _)) 35 0 _
    obtain ⟨vs'', ps'', first⟩ := valid (b.modFe _) 34 0 _
    exact ⟨vs, ps, last.trans (by rw [second, first]; rfl)⟩

theorem fwReject_leaves (reason : Nat) (b : Blk) :
    (b.fwReject reason).fe = { b.fe with fwState := .bootWait, fwReason := reason } ∧
      (b.fwReject reason).ctr .fwReject = b.ctr .fwReject + 1 ∧ (b.fwReject reason).ctr .hostError = b.ctr .hostError :=
  ⟨(bump_fe ..).trans rfl, (ctr_bump_same ..).trans rfl, (ctr_bump_other _ _ (by simp)).trans rfl⟩

end Blk

/-- The response to the read of a firmware image. -/
def Blk.fwAnswered (err : Bool) (b : Blk) : Blk :=
  b.hostRsp (fun r => match r with | .firmwareRead _ _ => true | _ => false) err

theorem Blk.fwAnswered_leaves (err : Bool) (b : Blk) :
    (∃ o w, (b.fwAnswered err).fe = { b.fe with hostOut := o, hostWait := w }) ∧
      (b.fwAnswered err).ctr .fwReject = b.ctr .fwReject ∧
      (b.fwAnswered err).ctr .hostError = b.ctr .hostError + (if err then 1 else 0) ∧
      (err = false → Within [.fe, .out] b (b.fwAnswered err)) := by
  let p : HostReq → Bool := fun r => match r with | .firmwareRead _ _ => true | _ => false
  obtain ⟨o, w, fe⟩ := answered_fe p b
  have within : Within [.fe, .out] b (b.answered p) := by simp
  cases err with
  | false => exact ⟨⟨o, w, fe⟩, within.ctr (by simp) .., within.ctr (by simp) .., fun _ => within⟩
  | true =>
    have isErr : b.fwAnswered true = (b.answered p).bump .hostError := rfl
    rw [isErr, bump_fe, ctr_bump_same, ctr_bump_other _ _ (by simp), within.ctr (by simp), within.ctr (by simp)]
    exact ⟨⟨o, w, fe⟩, rfl, rfl, by simp⟩

theorem exec_firmwareLoadDone {s : State} (image : List Byte) (err : Bool) (loading : s.blk.fe.fwState = .loading) :
    exec (.firmwareLoadDone image err) s = .next { s with
      blk :=
        let b := (s.blk.fwAnswered err).fwSections s.env image
        if err then b.fwReject 3
        else if fwReason s.env image ≠ 0 then b.fwReject (fwReason s.env image)
        else b.modFe fun fe => { fe with fwState := .running, fwReason := 0 } } := by
  obtain ⟨⟨o, w, fe⟩, -⟩ := s.blk.fwAnswered_leaves err
  have still : (s.blk.fwAnswered err).fe.fwState = .loading := by
    rw [fe]
    exact loading
  simp only [exec, execFirmwareLoadDone, onBlk]
  exact congrArg (fun c : Blk => Host.Outcome.next { s with blk := c }) (if_neg (not_not_intro still))

/-! ### The load -/

section
variable {s : State} {image : List Byte}

/-- The block whose sections are written, with what the port and the load leave of the front end. -/
theorem fwWritten_fe (s : State) (image : List Byte) (err : Bool) :
    ∃ o w, ((s.blk.fwAnswered err).fwSections s.env image).fe = { s.blk.fe with
      hostOut := o, hostWait := w
      cpInstr := laidOver s.env image 64 (fwCpi image) s.blk.fe.cpInstr
      cpData := laidOver s.env image (64 + fwCpi image) (fwCpd image) s.blk.fe.cpData
      rcMem := laidOver s.env image (64 + fwCpi image + fwCpd image) (fwRc image) s.blk.fe.rcMem } := by
  obtain ⟨⟨o, w, fe⟩, -⟩ := s.blk.fwAnswered_leaves err
  exact ⟨o, w, by rw [Blk.fwSections_fe, fe]⟩

theorem fwWritten_ctr (s : State) (image : List Byte) (err : Bool) (x : Ctr) :
    ((s.blk.fwAnswered err).fwSections s.env image).ctr x = (s.blk.fwAnswered err).ctr x := by
  have within : Blk.Within [.fe, .rel] (s.blk.fwAnswered err) ((s.blk.fwAnswered err).fwSections s.env image) := by simp
  exact within.ctr (by simp) ..

/-- A load that fails its checks goes back to BOOT_WAIT with their reason (R208). -/
theorem firmware_rejected (loading : s.blk.fe.fwState = .loading) (bad : fwReason s.env image ≠ 0) :
    Does (.firmwareLoadDone image false) s fun t => OnlyBlk s t ∧ s.blk.fe.FirmwareOnly t.blk.fe ∧
      t.blk.fe.fwState = .bootWait ∧ t.blk.fe.fwReason = fwReason s.env image ∧
      t.blk.ctr .fwReject = s.blk.ctr .fwReject + 1 := by
  have ran := exec_firmwareLoadDone image false loading
  rw [if_neg (by simp), if_pos bad] at ran
  obtain ⟨o, w, fe⟩ := fwWritten_fe s image false
  obtain ⟨-, count, -⟩ := s.blk.fwAnswered_leaves false
  obtain ⟨rejected, counted, -⟩ :=
    ((s.blk.fwAnswered false).fwSections s.env image).fwReject_leaves (fwReason s.env image)
  rw [fe] at rejected
  rw [fwWritten_ctr, count] at counted
  refine ⟨_, ran, ⟨rfl, rfl, rfl⟩, ?_, ?_, ?_, counted⟩
  · unfold Fe.FirmwareOnly
    rw [rejected]
  · rw [rejected]
  · rw [rejected]

end

/-! ### Causes of a block reset (R298) -/

/-- The first cause stands (log 44). -/
theorem Blk.askReset_eq (b : Blk) (cause : Cause) :
    b.askReset cause = { b with rel := { b.rel with pendingCause := some (b.rel.pendingCause.getD cause) } } := by
  unfold askReset
  cases pending : b.rel.pendingCause with
  | none => rfl
  | some c =>
    rw [if_pos (by rfl), Option.getD_some, ← pending]

/-- The cause that a trap of a core gives. -/
def trapCause : Core → Cause
  | .cp => .cpTrap
  | .rc => .rcTrap

theorem cpTrap_asks {s : State} (runs : s.blk.fe.fwState = .running) (k : Core) :
    Does (.cpTrap k) s fun t => OnlyBlk s t ∧ t.blk = { s.blk with
      rel := { s.blk.rel with pendingCause := some (s.blk.rel.pendingCause.getD (trapCause k)) }
      db := t.blk.db, counters := t.blk.counters, fresh := t.blk.fresh, out := t.blk.out } := by
  let traced := s.blk.spend.traceInsn s.env k 1 (4 * bits s.blk.free 16 30)
  have ran : exec (.cpTrap k) s = .next { s with blk := traced.askReset (trapCause k) } := by
    simp only [exec, execCpTrap, onBlk]
    rw [if_neg (by simp [runs])]
    cases k <;> rfl
  rw [Blk.askReset_eq] at ran
  have within : Blk.Within [.db, .counters, .fresh, .out] s.blk traced := by simp [traced]
  refine ⟨_, ran, ⟨rfl, rfl, rfl⟩, ?_⟩
  exact (congrArg (fun c : Blk => ({ c with
    rel := { c.rel with pendingCause := some (c.rel.pendingCause.getD (trapCause k)) } } : Blk)) within.eq).trans rfl

/-- Settles O52: `Blk.fwSections_fe` for the load of firmware; the other causes are `Blk.askReset`. -/
theorem firmwareRunsOrIsRejected : Obligations.FirmwareRunsOrIsRejected := by
  refine ⟨fun s image loading => ⟨fun head lengths serves => ?_, fun err => ?_, firmware_rejected loading, ?_⟩,
    fun s => ⟨fun runs => ⟨?_, ?_⟩, fun runs cp rc => ?_, fun halted => ?_, ?_, fun idle k => ?_⟩⟩
  · have reason : fwReason s.env image = if signatureOk Config.bootKey image then 0 else 4 := by
      have serves' : fwServes s.env.aon.grade image = true := serves
      rw [fwReason, if_neg (by simp [head]), if_neg (by simp [lengths]), if_neg (by simp [serves'])]
      cases signatureOk Config.bootKey image <;> rfl
    cases signed : signatureOk Config.bootKey image with
    | false =>
      rw [signed] at reason
      obtain ⟨t, ran, only, kept, state, why, -⟩ := firmware_rejected loading (show fwReason s.env image ≠ 0 by simp [reason])
      exact ⟨t, ran, only, kept, state, why.trans reason, by simp⟩
    | true =>
      rw [signed] at reason
      have ran := exec_firmwareLoadDone image false loading
      rw [if_neg (by simp), if_neg (by simp [reason])] at ran
      let written := (s.blk.fwAnswered false).fwSections s.env image
      obtain ⟨o, w, fe⟩ := fwWritten_fe s image false
      obtain ⟨-, -, -, answers⟩ := s.blk.fwAnswered_leaves false
      obtain ⟨vs, ps, rel⟩ := Blk.fwSections_rel s.env image (s.blk.fwAnswered false)
      have answered : (s.blk.fwAnswered false).rel = s.blk.rel := answers rfl .rel (by simp)
      have within : Blk.Within [.fe, .rel, .out] s.blk
          (written.modFe fun fe => { fe with fwState := .running, fwReason := 0 }) :=
        ((answers rfl).mono (by simp)).trans (by simp [written])
      refine ⟨_, ran, ⟨rfl, rfl, rfl⟩, ?_, rfl, rfl, fun _ => within.eq.trans ?_⟩
      · have only : s.blk.fe.FirmwareOnly written.fe := by
          unfold Fe.FirmwareOnly
          rw [fe]
        exact only.trans rfl
      · have marks : written.rel = { s.blk.rel with validPages := written.rel.validPages, partPages := written.rel.partPages } := by
          rw [rel, answered]
        exact congrArg (fun l : Rel => ({ s.blk with
          fe := { written.fe with fwState := .running, fwReason := 0 }, rel := l, out := written.out } : Blk)) marks
  · have ran := exec_firmwareLoadDone image err loading
    obtain ⟨o, w, fe⟩ := fwWritten_fe s image err
    have states (b : Blk) : ∃ st why, (if err then b.fwReject 3
        else if fwReason s.env image ≠ 0 then b.fwReject (fwReason s.env image)
        else b.modFe fun fe => { fe with fwState := .running, fwReason := 0 }).fe =
          { b.fe with fwState := st, fwReason := why } := by
      split
      · exact ⟨_, _, (b.fwReject_leaves 3).1⟩
      · split
        · exact ⟨_, _, (b.fwReject_leaves _).1⟩
        · exact ⟨_, _, rfl⟩
    obtain ⟨st, why, after⟩ := states ((s.blk.fwAnswered err).fwSections s.env image)
    rw [fe] at after
    exact ⟨_, ran, (congrArg Fe.cpInstr after).trans rfl, (congrArg Fe.cpData after).trans rfl,
      (congrArg Fe.rcMem after).trans rfl⟩
  · have ran := exec_firmwareLoadDone image true loading
    rw [if_pos rfl] at ran
    obtain ⟨o, w, fe⟩ := fwWritten_fe s image true
    obtain ⟨-, count, errs, -⟩ := s.blk.fwAnswered_leaves true
    obtain ⟨rejected, counted, same⟩ := ((s.blk.fwAnswered true).fwSections s.env image).fwReject_leaves 3
    rw [fe] at rejected
    rw [fwWritten_ctr, count] at counted
    rw [fwWritten_ctr, errs, if_pos rfl] at same
    have only : s.blk.fe.FirmwareOnly (((s.blk.fwAnswered true).fwSections s.env image).fwReject 3).fe := by
      unfold Fe.FirmwareOnly
      rw [rejected]
    exact ⟨_, ran, ⟨rfl, rfl, rfl⟩, only, (congrArg Fe.fwState rejected).trans rfl,
      (congrArg Fe.fwReason rejected).trans rfl, same, counted⟩
  · exact cpTrap_asks runs .cp
  · exact cpTrap_asks runs .rc
  · have ran : exec .cpHeartbeatSilent s = .next { s with blk := s.blk.askReset .cpHeartbeat } := by
      simp only [exec, execCpHeartbeatSilent, onBlk]
      rw [if_neg (by simp [runs, cp, rc])]
    exact ⟨_, ran, ⟨rfl, rfl, rfl⟩, s.blk.askReset_eq _⟩
  · refine ⟨s, ?_, rfl⟩
    simp only [exec, execCpHeartbeatSilent, onBlk]
    have stays : (decide (s.blk.fe.fwState ≠ .running) || s.blk.db.cpHalted || s.blk.db.rcHalted) = true := by
      obtain cp | rc := halted
      · simp [cp]
      · simp [rc]
    exact congrArg (fun c : Blk => Host.Outcome.next { s with blk := c }) (if_pos stays)
  · exact ⟨_, rfl, ⟨rfl, rfl, rfl⟩, s.blk.askReset_eq _⟩
  · refine ⟨s, ?_, rfl⟩
    simp only [exec, execCpTrap, onBlk]
    rw [if_pos idle]

end Sys2Proof.Machine
end

section
/-!
# The phases of a block reset (R309, R310, R12): settles O53
-/
namespace Sys2Proof.Machine

theorem tget_map_value {ν : Type} (f : ν → ν) (t : Tbl ν) (k : Nat) :
    tget (t.map fun p : Nat × ν => (p.1, f p.2)) k = (tget t k).map f := by
  induction t with
  | nil => rfl
  | cons x t ih =>
    simp only [List.map_cons, tget]
    split
    · rfl
    · exact ih

namespace Blk

variable {b c : Blk}

/-! ### Counters that a log record leaves -/

theorem ctr_congr (same : c.counters = b.counters) (k : Ctr) (i : Nat) : c.ctr k i = b.ctr k i :=
  congrArg (fun t => tgetD 0 t (ctrKey k i)) same

theorem ctr_queueLog (v : Env) (r : ELogRec) (b : Blk) {k : Ctr} (other : k ≠ .segLogLost) (i : Nat) :
    (b.queueLog v r).ctr k i = b.ctr k i := by
  have counted : ((b.modMc fun m => { m with logLoss := m.logLoss + 1 }).bump .segLogLost).ctr k i = b.ctr k i :=
    ctr_bump_other _ _ (.inl other)
  rw [queueLog]
  dsimp only
  split
  · rfl
  split
  · split
    · exact counted
    · rfl
  · split
    · exact counted
    · rfl

theorem ctr_elogReturn (v : Env) (b : Blk) (k : Ctr) (i : Nat) : (b.elogReturn v).ctr k i = b.ctr k i := by
  rw [elogReturn]
  split <;> rfl

theorem ctr_logError (v : Env) (r : ELogRec) (b : Blk) {k : Ctr} (kept : k ≠ .segLogLost) (same : k ≠ .elogLost) (i : Nat) :
    (b.logError v r).ctr k i = b.ctr k i := by
  have written (c : Blk) : (c.writeLog v r).ctr k i = c.ctr k i := rfl
  have queued : ((b.queueLog v r).elogReturn v).ctr k i = b.ctr k i :=
    (ctr_elogReturn ..).trans (ctr_queueLog v r b kept i)
  rw [logError]
  split
  · rw [written, queued]
  · rw [ctr_bump_other _ _ (.inl same)]
    exact queued

/-- A read whose error is not corrected is counted. -/
theorem ctr_storedRead_uncorrectable (v : Env) (p : Place) (n : Nat) {x : Ecc} (b : Blk)
    (bad : eccOutcome (b.pageValid p.mem p.page) x = .uncorrectable) :
    (b.storedRead v p n x).ctr .uncorrectable = b.ctr .uncorrectable + 1 := by
  rw [storedRead, bad]
  exact (ctr_logError _ _ _ (by simp) (by simp) 0).trans (ctr_bump_same ..)

/-! ### Phase 1 -/

/-- The block as the reset of control state begins: the router, the agents' words and the predicate operations are gone. -/
def wordsGone (b : Blk) : Blk :=
  { b with rt := { err := b.rt.err }
           agents := b.agents.map fun (p : Nat × Agent) => (p.1, p.2.resetControl)
           predOps := [], predNext := [] }

theorem agent_wordsGone (b : Blk) (e : Nat) : b.wordsGone.agent e = (b.agent e).resetControl := by
  show tgetD {} (b.agents.map fun (p : Nat × Agent) => (p.1, p.2.resetControl)) e = (tgetD {} b.agents e).resetControl
  rw [tgetD, tgetD, tget_map_value]
  cases tget b.agents e <;> rfl

/-- The hub after the reset of its channels. -/
def hubGone (b : Blk) : Blk :=
  b.wordsGone.resetChannels.modHb fun h => { h with
    gsync := [], gwaits := [], cqs := [], effects := [], releasing := [], newHeld := [], ackDue := [] }

/-- What the reset of control state leaves. -/
structure ControlReset (b t : Blk) : Prop where
  preds  : t.preds = b.preds
  stores : ∀ r, (t.reach r).blocks = (b.reach r).blocks ∧ (t.reach r).edges = (b.reach r).edges
  gsync  : t.hb.gsync = []
  cqs    : t.hb.cqs = []
  staged : t.rel.staged = []
  poll   : t.fe.poll = {}
  rt     : t.rt = { err := b.rt.err }
  agents : ∀ e, (t.agent e).queue = [] ∧ (t.agent e).run = (b.agent e).run
  errors : t.ctr .uncorrectable = b.ctr .uncorrectable

/-- The reset of control state: what the front end, the journal and the debug unit lose, of a block whose hub has been
reset. -/
def unitsGone (b : Blk) : Blk :=
  (((b.dropDumps fun _ => true).modFe fun fe => { fe with
    poll := {}, stepsIn := [], loader := [], loaderHalted := false, cycA := {}, cycB := {}, cycActiveB := false
    cycBase := 0, startedPulse := 0, finished := [], freed := []
    fences := [], hostWait := fe.hostWait.filter fun r => !r.cutOff
    late := fe.late.filter (fun x => !x.req.cutOff)
      ++ (fe.hostOut.filter fun p => p.2.cutOff).map fun p => { req := p.2, ctx := 0 } }).modRel fun l => { l with
    windows := [], ckptActive := none, ckptBegin := false, ckptEnd := false, jHalted := false, staged := [] }).modDb fun d =>
      { d with trcHalted := false, snapHalted := false, cpHalted := false, rcHalted := false, haltSeen := false }

theorem resetControl_eq (v : Env) (b : Blk) :
    b.resetControl v = b.hubGone.unitsGone.forEach (List.range v.reaches) fun r b => b.modReach r fun rc =>
      { rc with spillHalted := false } := (rfl)

theorem ctr_dropDumps (p : Dump → Bool) (b : Blk) : (b.dropDumps p).ctr .uncorrectable = b.ctr .uncorrectable := by
  rw [dropDumps, ctr_bump_other _ _ (.inl (by simp))]
  rfl

theorem resetControl_leaves (v : Env) (b : Blk) : ControlReset b (b.resetControl v) := by
  rw [resetControl_eq]
  have hub : Within [.hb, .out] b.wordsGone b.hubGone := by simp [hubGone]
  have units : Within [.fe, .hb, .rel, .db, .counters, .out] b.wordsGone b.hubGone.unitsGone := by
    simp [unitsGone, hubGone]
  have dumped : Within [.fe, .rel, .db, .counters] b.hubGone b.hubGone.unitsGone := by simp [unitsGone]
  generalize made : b.hubGone.unitsGone.forEach (List.range v.reaches) (fun r b => b.modReach r fun rc =>
    { rc with spillHalted := false }) = t
  have last : Within [.reaches] b.hubGone.unitsGone t := made ▸ .forEach _ (fun r b => by simp) _
  have whole : Within [.reaches, .fe, .hb, .rel, .db, .counters, .out] b.wordsGone t :=
    (units.mono (by simp)).trans (last.mono (by simp))
  have later : Within [.reaches, .fe, .rel, .db, .counters] b.hubGone t :=
    (dumped.mono (by simp)).trans (last.mono (by simp))
  have reach (r : Nat) : b.hubGone.unitsGone.reach r = b.reach r := reach_congr (units .reaches (by simp)) r
  have kept {α : Type} (g : Reach → α) (keep : ∀ rc : Reach, g { rc with spillHalted := false } = g rc) (r : Nat) :
      g (t.reach r) = g (b.reach r) := by
    rw [← reach, ← made]
    exact forEach_keeps (fun b : Blk => g (b.reach r)) _ (fun k b => keeps_modReach g keep b k r) _ _
  refine ⟨whole .preds (by simp), fun r => ⟨kept Reach.blocks (fun _ => rfl) r, kept Reach.edges (fun _ => rfl) r⟩,
    congrArg Hb.gsync (later .hb (by simp)), congrArg Hb.cqs (later .hb (by simp)),
    congrArg Rel.staged (last .rel (by simp)), congrArg Fe.poll (last .fe (by simp)), whole .rt (by simp),
    fun e => ?_, ?_⟩
  · rw [agent_congr (whole .agents (by simp)) e, agent_wordsGone]
    exact ⟨rfl, rfl⟩
  · have other : Within [.fe, .rel, .db] (b.hubGone.dropDumps fun _ => true) b.hubGone.unitsGone := by simp [unitsGone]
    calc t.ctr .uncorrectable = b.hubGone.unitsGone.ctr .uncorrectable := ctr_congr (last .counters (by simp)) ..
      _ = (b.hubGone.dropDumps fun _ => true).ctr .uncorrectable := ctr_congr (other .counters (by simp)) ..
      _ = b.hubGone.ctr .uncorrectable := ctr_dropDumps ..
      _ = b.ctr .uncorrectable := ctr_congr (hub .counters (by simp)) ..

/-- What phase 1 leaves, of the block as it began. -/
structure Stopped (n : Nat) (b t : Blk) : Prop extends ControlReset b t where
  phase : t.rel.phase = 2
  edge  : t.rel.resetEdge = n

theorem ControlReset.of_within {a b t : Blk} (kept : Within [.fe, .hb, .rel, .mc, .counters, .out, .fresh] a b)
    (errors : b.ctr .uncorrectable = a.ctr .uncorrectable) (reset : ControlReset b t) : ControlReset a t where
  preds := reset.preds.trans (kept .preds (by simp))
  stores r := by
    rw [← reach_congr (kept .reaches (by simp)) r]
    exact reset.stores r
  gsync := reset.gsync
  cqs := reset.cqs
  staged := reset.staged
  poll := reset.poll
  rt := by
    rw [← (kept .rt (by simp) : b.rt = a.rt)]
    exact reset.rt
  agents e := by
    rw [← agent_congr (kept .agents (by simp)) e]
    exact reset.agents e
  errors := reset.errors.trans errors

theorem stopAndReset_leaves (v : Env) (b : Blk) : Stopped v.n b (b.stopAndReset v) := by
  rw [stopAndReset]
  have acked : Within [.fe, .rel, .out] b
      (if b.rel.jHalted then b else (b.modRel fun l => { l with acked := l.slots }).releaseEffects v) := by
    split <;> simp
  have reset := (resetControl_leaves v _).of_within (acked.mono (by simp)) (ctr_congr (acked .counters (by simp)) ..)
  exact ⟨⟨reset.preds, reset.stores, reset.gsync, reset.cqs, reset.staged, reset.poll, reset.rt, reset.agents,
    reset.errors⟩, rfl, rfl⟩

/-- What the front end's powering down leaves, after the sweep found a word of its instruction memory bad. -/
theorem fePowerDown_leaves (b : Blk) (o : Out) :
    (b.fePowerUp.emit o).ctr .uncorrectable = b.ctr .uncorrectable ∧
    (b.fePowerUp.emit o).rel.phase = b.rel.phase ∧ (b.fePowerUp.emit o).rel.resetEdge = b.rel.resetEdge ∧
    (b.fePowerUp.emit o).fe.fwState = .bootWait ∧ (b.fePowerUp.emit o).out.getLast? = some o :=
  ⟨rfl, rfl, rfl, rfl, List.getLast?_concat⟩

/-! ### The drain of phase 2 -/

/-- The abort signal is raised at an engine of `l`, and at no other is anything but the abort signal touched. -/
theorem agent_assertAbort (e k : Nat) (cause : AbortCause) (b : Blk) :
    (b.assertAbort e cause).agent k =
      if k = e then { b.agent k with abort := some cause } else b.agent k := by
  have emitted : (if (b.agent e).abort.isNone then b.emit (.abort e) else b).agents = b.agents := by split <;> rfl
  rw [assertAbort]
  rcases Decidable.em (k = e) with rfl | other
  · rw [if_pos rfl, agent_modAgent_same, agent_congr emitted]
  · rw [if_neg other, agent_modAgent_other _ _ other, agent_congr emitted]

theorem agent_assertAborts (l : List (Nat × Agent)) (k : Nat) (cause : AbortCause) (b : Blk) :
    (b.forEach l fun p b => b.assertAbort p.1 cause).agent k =
      if k ∈ l.map (·.1) then { b.agent k with abort := some cause } else b.agent k := by
  induction l generalizing b with
  | nil => rfl
  | cons p l ih =>
    refine (ih (b.assertAbort p.1 cause)).trans ?_
    rw [agent_assertAbort]
    by_cases here : k = p.1 <;> by_cases later : k ∈ l.map (·.1) <;> simp_all

theorem mem_agents_of_run {e : Nat} (run : (b.agent e).run ≠ none) : (e, b.agent e) ∈ b.agents := by
  refine (mem_of_tgetD ({} : Agent) b.agents e).resolve_left fun unknown => run ?_
  exact congrArg Agent.run unknown

end Blk

/-! ### The end of phase 2 -/

/-- Nothing of a task is left at an agent. -/
structure Agent.Drained (a : Agent) : Prop where
  run   : a.run = none
  list  : a.listWord = none
  items : a.items = []

/-- An agent has the run, the list word, the held items and the fence that it had. -/
structure Agent.SameWork (a a' : Agent) : Prop where
  run    : a'.run = a.run
  list   : a'.listWord = a.listWord
  items  : a'.items = a.items
  fenced : a'.fenced = a.fenced

namespace Agent.SameWork

variable {a a' a'' : Agent}

theorem refl (a : Agent) : SameWork a a := ⟨rfl, rfl, rfl, rfl⟩

theorem of_eq (h : a' = a) : SameWork a a' := h ▸ refl a

theorem trans (h : SameWork a a') (k : SameWork a' a'') : SameWork a a'' :=
  ⟨k.run.trans h.run, k.list.trans h.list, k.items.trans h.items, k.fenced.trans h.fenced⟩

end Agent.SameWork

namespace Blk

variable {b c : Blk}

theorem sameWork_modAgent {f : Agent → Agent} (keep : ∀ a : Agent, a.SameWork (f a)) (b : Blk) (e k : Nat) :
    (b.agent k).SameWork ((b.modAgent e f).agent k) := by
  rcases Decidable.em (k = e) with rfl | other
  · rw [agent_modAgent_same]
    exact keep _
  · exact .of_eq (agent_modAgent_other _ _ other)

/-- Ending a wait ends no run and drops no item. -/
theorem sameWork_cancelWait (e : Nat) (b : Blk) (k : Nat) : (b.agent k).SameWork ((b.cancelWait e).agent k) := by
  rw [cancelWait]
  split
  · exact .refl _
  next l w _ =>
    have ended (loc : SyncLoc) : (b.endWait loc w).agents = (b.modAgent w.engine fun a => { a with wait := none }).agents := by
      unfold endWait
      cases loc <;> rfl
    have waits := sameWork_modAgent (f := fun a => { a with wait := none }) (fun _ => ⟨rfl, rfl, rfl, rfl⟩) b w.engine k
    exact waits.trans (.of_eq (agent_congr (ended _) k))

/-- The items of a task leave its agent's buffer. -/
theorem agent_discardItems (e : Nat) (t : TaskRef) (b : Blk) :
    (b.discardItems e t false).agent e = (b.agent e).discards t := by
  rw [discardItems_eq, agent_congr (bump_agents ..), agent_modAgent_same]

theorem agent_discardItems_other {e k : Nat} (other : k ≠ e) (t : TaskRef) (b : Blk) :
    (b.discardItems e t false).agent k = b.agent k := by
  rw [discardItems_eq, agent_congr (bump_agents ..), agent_modAgent_other _ _ other]

/-- What stands at an agent whose items of the tasks of `l` are discarded. -/
theorem agent_discardAll (e : Nat) (l : List TaskRef) (b : Blk) :
    ((b.forEach l fun t b => b.discardItems e t false).agent e).run = (b.agent e).run ∧
    ((b.forEach l fun t b => b.discardItems e t false).agent e).listWord = (b.agent e).listWord ∧
    ((b.forEach l fun t b => b.discardItems e t false).agent e).fenced = (b.agent e).fenced ∧
    ((b.forEach l fun t b => b.discardItems e t false).agent e).items = (b.agent e).items.filter fun i => !l.contains i.1 := by
  induction l generalizing b with
  | nil =>
    exact ⟨rfl, rfl, rfl, (List.filter_eq_self.2 fun _ _ => rfl).symm⟩
  | cons t l ih =>
    obtain ⟨run, list, fenced, items⟩ := ih (b.discardItems e t false)
    have now := agent_discardItems e t b
    refine ⟨run.trans ((congrArg Agent.run now).trans rfl),
      list.trans ((congrArg Agent.listWord now).trans rfl), fenced.trans ((congrArg Agent.fenced now).trans rfl),
      items.trans ?_⟩
    rw [now]
    show ((b.agent e).items.filter fun i => i.1 != t).filter _ = _
    rw [List.filter_filter]
    refine List.filter_congr fun i _ => ?_
    rw [List.contains_cons, Bool.not_or, Bool.and_comm]
    rfl

theorem agent_discardAll_other {e k : Nat} (other : k ≠ e) (l : List TaskRef) (b : Blk) :
    (b.forEach l fun t b => b.discardItems e t false).agent k = b.agent k :=
  forEach_keeps (fun b : Blk => b.agent k) _ (fun t b => agent_discardItems_other other t b) l b

/-- A run that is dropped is gone; items are at most those that there were, and the fence is as it was. -/
theorem agent_dropRun (e : Nat) (b : Blk) :
    ((b.dropRun e false).agent e).run = none ∧ ((b.dropRun e false).agent e).listWord = (b.agent e).listWord ∧
      ((b.agent e).items = [] → ((b.dropRun e false).agent e).items = []) ∧
      ((b.dropRun e false).agent e).fenced = (b.agent e).fenced := by
  rw [dropRun]
  split
  next none => exact ⟨none, rfl, id, rfl⟩
  next r _ =>
    have waits := sameWork_cancelWait e b e
    rw [agent_modAgent_same, agent_discardItems]
    refine ⟨rfl, waits.list, fun empty => ?_, waits.fenced⟩
    show ((b.cancelWait e).agent e).items.filter _ = []
    rw [waits.items, empty]
    rfl

theorem sameWork_dropRun_other {e k : Nat} (other : k ≠ e) (b : Blk) :
    (b.agent k).SameWork ((b.dropRun e false).agent k) := by
  rw [dropRun]
  split
  · exact .refl _
  next r _ =>
    rw [agent_modAgent_other _ _ other, agent_discardItems_other other]
    exact sameWork_cancelWait e b k

/-- The engine whose run is left at the end of the drain is fenced. -/
def fenceEngine (e : Nat) (b : Blk) : Blk :=
  (((b.dropRun e false).bump .engineFenced).alarm 4).modAgent e fun a =>
    { a with fenced := true, listWord := none, advance := none, abort := none }

theorem agent_fenceEngine (e : Nat) (b : Blk) : ((b.fenceEngine e).agent e).fenced = true ∧
    ((b.agent e).items = [] → ((b.fenceEngine e).agent e).Drained) := by
  obtain ⟨run, -, items, -⟩ := agent_dropRun e b
  have counted : Within [.counters, .mc] (b.dropRun e false) (((b.dropRun e false).bump .engineFenced).alarm 4) := by simp
  have agent := agent_congr (counted .agents (by simp)) e
  rw [fenceEngine, agent_modAgent_same, agent]
  exact ⟨rfl, fun empty => ⟨run, rfl, items empty⟩⟩

theorem sameWork_fenceEngine_other {e k : Nat} (other : k ≠ e) (b : Blk) :
    (b.agent k).SameWork ((b.fenceEngine e).agent k) := by
  have counted : Within [.counters, .mc] (b.dropRun e false) (((b.dropRun e false).bump .engineFenced).alarm 4) := by simp
  rw [fenceEngine, agent_modAgent_other _ _ other, agent_congr (counted .agents (by simp))]
  exact sameWork_dropRun_other other b

/-- The agent's buffer is emptied at the end of the drain. -/
def bufferEmptied (e : Nat) (b : Blk) : Blk :=
  b.forEach (((b.agent e).items.map (·.1)).eraseDups) fun t b => b.discardItems e t false

theorem bufferEmptied_items (e : Nat) (b : Blk) : ((b.bufferEmptied e).agent e).items = [] := by
  refine (agent_discardAll e _ b).2.2.2.trans (List.filter_eq_nil_iff.mpr fun i member => ?_)
  simp only [Bool.not_eq_true', Bool.not_eq_false, List.contains_iff_mem, List.mem_eraseDups]
  exact List.mem_map_of_mem member

theorem endDrain_eq (e : Nat) (b : Blk) : b.endDrain e =
    (if (b.agent e).working then (b.bufferEmptied e).fenceEngine e else b.bufferEmptied e).modAgent e fun a => { a with
      stalled := none, ended := [], committed := [], ackDue := none, pull := .none, pullEmpty := false
      fedFirst := false } := (rfl)

/-- The end of phase 2 at an engine leaves nothing of a task there, and a run that is left fences it. -/
theorem agent_endDrain (e : Nat) (b : Blk) : ((b.endDrain e).agent e).Drained ∧
    ((b.agent e).fenced = true → ((b.endDrain e).agent e).fenced = true) ∧
    ((b.agent e).run ≠ none → ((b.endDrain e).agent e).fenced = true) := by
  obtain ⟨run, list, fenced, -⟩ := agent_discardAll e (((b.agent e).items.map (·.1)).eraseDups) b
  have items := bufferEmptied_items e b
  rw [endDrain_eq]
  split
  next left =>
    obtain ⟨fence, drained⟩ := agent_fenceEngine e (b.bufferEmptied e)
    obtain ⟨run, list, items⟩ := drained items
    rw [agent_modAgent_same]
    exact ⟨⟨run, list, items⟩, fun _ => fence, fun _ => fence⟩
  next idle =>
    have none : (b.agent e).run = none ∧ (b.agent e).listWord = none := by
      simpa [Agent.working] using idle
    rw [agent_modAgent_same]
    exact ⟨⟨run.trans none.1, list.trans none.2, items⟩, fun was => fenced.trans was, fun some => absurd none.1 some⟩

theorem sameWork_endDrain_other {e k : Nat} (other : k ≠ e) (b : Blk) :
    (b.agent k).SameWork ((b.endDrain e).agent k) := by
  have emptied : (b.bufferEmptied e).agent k = b.agent k := agent_discardAll_other other _ b
  rw [endDrain_eq, agent_modAgent_other _ _ other]
  split
  · exact (Agent.SameWork.of_eq emptied).trans (sameWork_fenceEngine_other other _)
  · exact .of_eq emptied

/-- The end of phase 2 at every engine of `l`. -/
theorem agent_endDrains (k : Nat) (l : List Nat) (b : Blk) :
    let t := b.forEach l fun e b => b.endDrain e
    (k ∈ l ∨ (b.agent k).Drained → (t.agent k).Drained) ∧
    ((b.agent k).fenced = true ∨ k ∈ l ∧ (b.agent k).run ≠ none → (t.agent k).fenced = true) := by
  induction l generalizing b with
  | nil => exact ⟨fun h => h.resolve_left List.not_mem_nil, fun h => h.resolve_right fun h => List.not_mem_nil h.1⟩
  | cons e l ih =>
    obtain ⟨drained, fenced⟩ := ih (b.endDrain e)
    rcases Decidable.em (k = e) with rfl | other
    · obtain ⟨now, stays, fences⟩ := agent_endDrain k b
      exact ⟨fun _ => drained (.inr now), fun h => fenced (.inl (h.elim stays fun left => fences left.2))⟩
    · have same := sameWork_endDrain_other other b
      refine ⟨fun h => drained ?_, fun h => fenced ?_⟩
      · refine h.imp (fun mem => (List.mem_cons.mp mem).resolve_left other) fun was => ?_
        exact ⟨same.run.trans was.run, same.list.trans was.list, same.items.trans was.items⟩
      · rw [same.run, same.fenced]
        exact h.imp id fun left => ⟨(List.mem_cons.mp left.1).resolve_left other, left.2⟩

/-! ### Replay and the journal (R310) -/

/-- The journal, what is acknowledged of it and what is written. -/
def logged (b : Blk) : List JRec × Nat × Nat := (b.rel.journal, b.rel.acked, b.rel.slots)

theorem logged_congr (same : c.rel = b.rel) : c.logged = b.logged := by
  rw [logged, logged, same]

theorem logged_releaseEffects (v : Env) (b : Blk) : (b.releaseEffects v).logged = b.logged := by
  obtain ⟨c, w, kept, released⟩ := releaseEffects_eq v b
  have same : c.logged = b.logged := logged_congr (kept .rel (by simp))
  rw [released, ← same]
  rfl

theorem logged_writeStatus (v : Env) (q : Nat) (b : Blk) : (b.writeStatus v q none).logged = b.logged := by
  rw [writeStatus]
  split
  · rfl
  · exact (logged_releaseEffects v _).trans rfl

theorem logged_stageStep (k : Nat) (x : Ctx) (b : Blk) : (b.stageStep k x).logged = b.logged := by
  rw [stageStep]
  split <;> rfl

theorem logged_resolve (l : Tbl (Option Bool)) (b : Blk) :
    (l.foldl (fun (b : Blk) q => { b with preds := tput b.preds q.1 q.2 }) b).logged = b.logged := by
  induction l generalizing b with
  | nil => rfl
  | cons q l ih => exact (ih _).trans rfl

theorem logged_settle (v : Env) (p : Rep) (b : Blk) : (b.settle v p).logged = b.logged := by
  rw [settle]
  split
  · rfl
  next x _ =>
    refine (logged_resolve ..).trans ?_
    show logged (if p.lostStep x then _ else _) = _
    split
    · refine (logged_stageStep ..).trans (logged_congr ?_)
      exact (by simp : Within [.fe] b (b.modCtx p.ctx fun x => _)) .rel (by simp)
    · refine logged_congr ?_
      exact (by simp : Within [.fe] b (b.modCtx p.ctx fun x => _)) .rel (by simp)

/-- A journal that keeps what is acknowledged of it. -/
def trimmed (x : List JRec × Nat × Nat) : List JRec × Nat × Nat :=
  (x.1.filter fun r => decide (r.slot + r.size ≤ x.2.1), x.2.1, x.2.1)

theorem logged_trimmed (v : Env) (b : Blk) :
    ((b.releaseEffects v).modRel fun l => { l with
      waiting := [], journal := l.journal.filter fun r => l.slotDone r, slots := l.acked
      ckptSince := min l.ckptSince l.acked }).logged = trimmed b.logged :=
  (rfl : _ = trimmed (b.releaseEffects v).logged).trans (congrArg trimmed (logged_releaseEffects v b))

theorem logged_forEach {α : Type} {f : α → Blk → Blk} (same : ∀ x b, (f x b).logged = b.logged) (l : List α) (b : Blk) :
    (b.forEach l f).logged = b.logged := forEach_keeps logged f same l b

theorem logged_of_within {l : List Part} (kept : Within l b c) (out : .rel ∉ l) : c.logged = b.logged :=
  logged_congr (kept .rel out)

/-- Replay keeps what is acknowledged of the journal, and nothing else. -/
theorem logged_replay (v : Env) (b : Blk) : (b.replay v).logged = trimmed b.logged := by
  have listed (r : Nat) (c : Blk) : (c.relist v r).logged = c.logged :=
    logged_of_within (l := [.reaches, .blocks]) (by simp) (by simp)
  have restored (p : Rep) (idle bw : Bool) (c : Blk) : (c.restoreBlocks p idle bw).logged = c.logged :=
    logged_of_within (l := [.reaches, .blocks, .fe]) (by simp) (by simp)
  have queried (c : Blk) : c.queryCounts.logged = c.logged := logged_of_within (l := [.out]) (by simp) (by simp)
  rw [replay]
  refine (logged_forEach (fun (p : Nat × Queue) b => logged_writeStatus v p.1 b) _ _).trans ?_
  refine (logged_trimmed v _).trans (congrArg trimmed ?_)
  refine (logged_forEach listed _ _).trans ?_
  refine (logged_forEach (fun (p : Nat × Rep) c => ?_) _ _).trans ?_
  · split
    · exact restored ..
    · rfl
  refine (logged_forEach (fun r c => (rfl : (c.modReach r Reach.cleared).logged = c.logged)) _ _).trans ?_
  refine (logged_forEach (fun (p : Nat × Rep) c => logged_settle v p.2 c) _ _).trans ?_
  exact (queried _).trans ((logged_of_within (within_replayRun v _ _) (by simp)).trans rfl)

/-! ### Resume (R12, R309, R313) -/

theorem resendSignals_hb (v : Env) (b : Blk) :
    (b.resendSignals v).hb = { b.hb with outstanding := (b.resendSignals v).hb.outstanding } := by
  have sent : Within [.out, .counters] (b.modHb fun h => { h with
      outstanding := b.hb.outstanding.map fun o => { o with sentAt := some v.n } }) (b.resendSignals v) := by
    simp [resendSignals]
  rw [(sent .hb (by simp) : (b.resendSignals v).hb = _)]
  rfl

/-- The block at resume: no reset is under way, and its RESET record is staged. -/
def resumed (b : Blk) : Blk :=
  (b.modRel fun l => { l with phase := 0 }).stage 38 { type := .reset, aux := BitVec.ofNat 32 b.rel.cause }

theorem resume_leaves (v : Env) (b : Blk) :
    let t := b.resumed.reissueFences.resendSignals v
    t.rel.phase = 0 ∧ (∃ r, t.rel.staged = b.rel.staged ++ [(38, r)] ∧ r.type = .reset) ∧
      t = { b with
        rel := t.rel, fe := t.fe, out := t.out, counters := t.counters
        hb := { b.hb with outstanding := t.hb.outstanding } } := by
  have whole : Within [.rel, .fe, .hb, .out, .counters] b (b.resumed.reissueFences.resendSignals v) := by simp [resumed]
  have after : Within [.fe, .hb, .out, .counters] b.resumed (b.resumed.reissueFences.resendSignals v) := by simp
  have fenced : Within [.fe, .out] b.resumed b.resumed.reissueFences := by simp
  have rel := after .rel (by simp)
  have hub : b.resumed.reissueFences.hb = b.hb := (fenced .hb (by simp)).trans rfl
  refine ⟨congrArg Rel.phase rel, ⟨_, congrArg Rel.staged rel, rfl⟩, ?_⟩
  have part := resendSignals_hb v b.resumed.reissueFences
  rw [hub] at part
  exact whole.eq.trans (congrArg (fun h : Hb => ({ b with
    rel := (b.resumed.reissueFences.resendSignals v).rel, fe := (b.resumed.reissueFences.resendSignals v).fe
    hb := h, out := (b.resumed.reissueFences.resendSignals v).out
    counters := (b.resumed.reissueFences.resendSignals v).counters } : Blk)) part)

end Blk

/-! ### The obligation -/

theorem sweepBad_one {b : Blk} {x : Met} (bad : b.sweepBad [x] = true) :
    x.mem = 34 ∧ eccOutcome (b.pageValid x.mem x.page) x.ecc = .uncorrectable := by
  simpa [Blk.sweepBad] using bad

/-- The sweep of phase 1 and the reset of control state. -/
theorem Blk.swept_leaves (v : Env) (l : List Met) (b : Blk) :
    (∀ t : Blk, t = (b.sweep v l).stopAndReset v →
      t.rel.phase = 2 ∧ t.rel.resetEdge = v.n ∧ t.preds = b.preds ∧
      (∀ r, (t.reach r).blocks = (b.reach r).blocks ∧ (t.reach r).edges = (b.reach r).edges) ∧
      t.hb.gsync = [] ∧ t.hb.cqs = [] ∧ t.rel.staged = [] ∧ t.fe.poll = {} ∧ t.rt = { err := t.rt.err } ∧
      (∀ e, (t.agent e).queue = [] ∧ (t.agent e).run = (b.agent e).run)) := by
  rintro t rfl
  have met : Within [.rel, .mc, .counters, .out, .fresh] b (b.sweep v l) := by simp
  have stopped := stopAndReset_leaves v (b.sweep v l)
  refine ⟨stopped.phase, stopped.edge, stopped.preds.trans (met .preds (by simp)), fun r => ?_, stopped.gsync, stopped.cqs,
    stopped.staged, stopped.poll, ?_, fun e => ?_⟩
  · rw [← Blk.reach_congr (met .reaches (by simp)) r]
    exact stopped.stores r
  · rw [stopped.rt]
  · rw [← Blk.agent_congr (met .agents (by simp)) e]
    exact stopped.agents e

/-- Settles O53: `Blk.stopAndReset_leaves` for phase 1, `Blk.agent_endDrains` for the drain, `Blk.logged_replay` for the
replay, `Blk.resume_leaves` for resume. -/
theorem blockResetKeepsTheStores : Obligations.BlockResetKeepsTheStores := by
  unfold Obligations.BlockResetKeepsTheStores
  refine ⟨fun s l phase good => ?_, fun s l phase bad => ?_, fun s phase due => ?_, fun s phase early => ?_,
    fun s retire phase over_ runs => ?_, fun s phase => ?_, fun s phase cause => ?_, fun s phase cause => ?_⟩
  · have ran : exec (.blockReset l) s = .next { s with
        cfg := { s.cfg with lock := false, lockSaved := s.cfg.lockSaved || s.cfg.lock }
        blk := (s.blk.sweep s.env l).stopAndReset s.env } := by
      simp only [exec, execBlockReset]
      rw [if_neg (not_not_intro phase), good]
      rfl
    obtain ⟨ph, edge, preds, stores, gsync, cqs, staged, poll, rt, agents⟩ := s.blk.swept_leaves s.env l _ rfl
    exact ⟨_, ran, rfl, rfl, ph, edge, preds, stores, gsync, cqs, staged, poll, rt, agents, rfl, rfl, rfl⟩
  · have ran : exec (.blockReset l) s = .next { s with
        cfg := { s.cfg with lock := false, lockSaved := s.cfg.lockSaved || s.cfg.lock }
        aon := { s.aon with pdReq := setBit20 s.aon.pdReq 16 false }
        blk := ((s.blk.sweep s.env l).stopAndReset s.env).fePowerUp.emit (.powerReq 16 false) } := by
      simp only [exec, execBlockReset]
      rw [if_neg (not_not_intro phase), bad]
      rfl
    have stopped := Blk.stopAndReset_leaves s.env (s.blk.sweep s.env l)
    obtain ⟨count, ph, edge, fw, off⟩ := Blk.fePowerDown_leaves ((s.blk.sweep s.env l).stopAndReset s.env)
      (.powerReq 16 false)
    refine ⟨_, ran, rfl, fun x one => count.trans (stopped.errors.trans ?_), rfl, ph.trans stopped.phase,
      edge.trans stopped.edge, fw, off, rfl, rfl, rfl⟩
    · subst one
      obtain ⟨mem, found⟩ := sweepBad_one bad
      have met : s.blk.sweep s.env [x] =
          s.blk.storedRead s.env { mem := x.mem, page := x.page, word := x.word } 0 x.ecc := by
        rw [Blk.sweep, List.filter_cons_of_pos (by simp [mem])]
        rfl
      rw [met]
      exact Blk.ctr_storedRead_uncorrectable _ _ _ _ found
  · have ran : exec .resetDrainExpiry s = .next { s with
        blk := s.blk.forEach (s.blk.agents.filter fun p => p.2.working) fun p b => b.assertAbort p.1 .reset } := by
      simp only [exec, execResetDrainExpiry, onBlk]
      exact congrArg (fun c : Blk => Host.Outcome.next { s with blk := c })
        (if_neg (not_or.mpr ⟨not_not_intro phase, Nat.not_lt.mpr due⟩))
    have raised := Blk.agent_assertAborts (s.blk.agents.filter fun p => p.2.working) (cause := .reset) (b := s.blk)
    have frame : Blk.Within [.agents, .out] s.blk
        (s.blk.forEach (s.blk.agents.filter fun p => p.2.working) fun p b => b.assertAbort p.1 .reset) :=
      .forEach _ (fun p b => by simp) _
    refine ⟨_, ran, ⟨rfl, rfl, rfl⟩, fun e run => ?_, fun e => ?_, frame.eq⟩
    · have listed : e ∈ (s.blk.agents.filter fun p => p.2.working).map (·.1) := by
        refine List.mem_map.mpr ⟨_, List.mem_filter.mpr ⟨Blk.mem_agents_of_run run, ?_⟩, rfl⟩
        simp [Agent.working, Option.isSome_iff_ne_none.mpr run]
      exact congrArg Agent.abort ((raised e).trans (if_pos listed))
    · refine (congrArg Agent.run (raised e)).trans ?_
      split <;> rfl
  · refine ⟨s, ?_, rfl⟩
    simp only [exec, execResetDrainExpiry, onBlk]
    rw [if_pos (.inr early)]
  · let drained := s.blk.forEach (s.blk.agents.map (·.1)) fun e b => b.endDrain e
    have ran : exec (.resetPhaseEnd2 retire) s = .next { s with
        blk := ((drained.readRetirement s.env retire).reload s.env).modRel fun l => { l with phase := 3 } } := by
      simp only [exec, execResetPhaseEnd2, onBlk]
      rw [if_neg (by simp [phase, over_, runs])]
    have later : Blk.Within [.reaches, .fe, .rel, .mc, .counters, .out, .fresh] drained
        (((drained.readRetirement s.env retire).reload s.env).modRel fun l => { l with phase := 3 }) := by simp
    refine ⟨_, ran, ⟨rfl, rfl, rfl⟩, rfl, fun e => ?_⟩
    obtain ⟨ends, fences⟩ := Blk.agent_endDrains e (s.blk.agents.map (·.1)) s.blk
    have known : e ∈ s.blk.agents.map (·.1) ∨ (s.blk.agent e).Drained := by
      rcases mem_of_tgetD ({} : Agent) s.blk.agents e with unknown | member
      · exact .inr ⟨congrArg Agent.run unknown, congrArg Agent.listWord unknown, congrArg Agent.items unknown⟩
      · exact .inl (List.mem_map_of_mem member)
    obtain ⟨run, list, items⟩ := ends known
    rw [Blk.agent_congr (later .agents (by simp)) e]
    exact ⟨run, list, items, fun run => fences (.inr ⟨List.mem_map_of_mem (Blk.mem_agents_of_run run), run⟩)⟩
  · have ran : exec .journalReplay s = .next { s with
        blk := (s.blk.replay s.env).modRel fun l => { l with phase := 5 } } := by
      simp only [exec, execJournalReplay, onBlk]
      rw [if_neg (by omega)]
    have logs := Blk.logged_replay s.env s.blk
    simp only [Blk.logged, Blk.trimmed, Prod.mk.injEq] at logs
    obtain ⟨journal, -, slots⟩ := logs
    refine ⟨_, ran, ⟨rfl, rfl, rfl⟩, rfl, slots, fun r member => ?_⟩
    have kept : r ∈ (s.blk.replay s.env).rel.journal := member
    rw [journal] at kept
    exact (List.mem_filter.mp kept).imp_right of_decide_eq_true
  · refine ⟨s, ?_, rfl⟩
    simp only [exec, execResetResume]
    rw [if_pos (.inr (Option.isSome_iff_ne_none.mpr cause))]
  · have ran : exec .resetResume s = .next { s with
        blk := s.blk.resumed.reissueFences.resendSignals s.env
        cfg := { s.cfg with lock := s.cfg.lock || s.cfg.lockSaved, lockSaved := false } } := by
      simp only [exec, execResetResume]
      rw [if_neg (by simp [phase, cause])]
      rfl
    obtain ⟨ph, staged, frame⟩ := s.blk.resume_leaves s.env
    exact ⟨_, ran, rfl, rfl, rfl, rfl, rfl, rfl, ph, staged, frame⟩

end Sys2Proof.Machine
end

section
/-!
# The deadline of a teardown and blocks that share a key (R308): refutes O54

The statement lets the deadline of a teardown leave no entry of the context in another state than idle, of every store.  A
store is a table of blocks, which a run keeps in order of its keys, one block to a name; the statement does not ask for
that.  Here two blocks have one name, of which the first alone is found, and a third block stands under the key of the
first.  The entry of the third takes the place of the first block when it is made idle, and the second is found from then
on: its entry waits as before.
-/
namespace Sys2Proof.Machine

/-- The task that is left waiting. -/
def leftRef : TaskRef := { ctx := 1, id := 0 }

/-- The teardown of context 1 was asked for at edge 0, and its deadline has come. -/
def deadlineState : State :=
  { State.reset with
    aon := { State.reset.aon with grade := .o1, pulse := 594 }
    blk := {
      reaches := [(0, {
        blocks := [(0, oneEntryBlock 0 {}), (1, oneEntryBlock 0 waitsForOne), (0, oneEntryBlock 1 waitsForOne)] })]
      fe := { ctxs := [(1, {})] }
      rel := { teardowns := [(1, 0)] } } }

/-- The deadline leaves the task of the second block waiting. -/
def deadlineLeaves : Bool :=
  match exec (.teardownDeadline 1) deadlineState with
  | .next t => decide (t.blk.task? leftRef = some waitsForOne)
  | _ => false

theorem deadlineLeaves_true : deadlineLeaves = true := by decide +kernel

/-- Refutes O54: a block that shares its name is found only after the block before it has gone, and its entry still
waits. -/
theorem not_storedDataIsGuarded : ¬ Obligations.StoredDataIsGuarded := by
  unfold Obligations.StoredDataIsGuarded
  rintro ⟨-, -, deadline, -⟩
  obtain ⟨t, ran, -, -, idle⟩ := (deadline deadlineState 1 0 (by decide) (by decide) (by decide +kernel)).1 (by decide)
  have left := deadlineLeaves_true
  rw [deadlineLeaves, ran] at left
  exact absurd (idle leftRef waitsForOne rfl (by decide) (of_decide_eq_true left)) (by decide)

end Sys2Proof.Machine
end

section
/-!
# Census and watchpoint operations (R333, R344): settles O55
-/
namespace Sys2Proof.Machine

namespace Blk

variable {b : Blk}

/-- A trace record is counted as lost at most. -/
theorem ctr_trace (v : Env) (task : Bool) (r : TraceRec) (b : Blk) {k : Ctr} (other : k ≠ .traceLost) (i : Nat) :
    (b.trace v task r).ctr k i = b.ctr k i := by
  have lost : ((b.modDb fun d => { d with trcLoss := d.trcLoss + 1 }).bump .traceLost).ctr k i = b.ctr k i := by
    rw [ctr_bump_other _ _ (.inl other)]
    rfl
  rw [trace]
  dsimp only
  split
  · rfl
  split
  · split
    · exact lost
    · rfl
  · split
    · exact lost
    · rfl

theorem ctr_askStop (b : Blk) (cause : Nat) (k : Ctr) (i : Nat) : (b.askStop cause).ctr k i = b.ctr k i := by
  rw [askStop]
  split <;> rfl

/-- The run of an engine goes on as another record of itself, and its operation is answered with OK. -/
def runBecomes (b : Blk) (e : Nat) (x : Run) : Blk :=
  (b.modAgent e fun a => { a with run := some x }).opReply e stOk

theorem modRun_eq {e : Nat} {r : Run} (run : (b.agent e).run = some r) (f : Run → Run) :
    (b.modAgent e fun a => { a with run := a.run.map f }).opReply e stOk = b.runBecomes e (f r) := by
  refine congrArg (fun c : Blk => c.opReply e stOk) (modAgent_congr ?_)
  rw [run]
  rfl

/-- A watchpoint's hit as it is counted and traced. -/
def hitTraced (v : Env) (e : Nat) (r : Run) (addr : BitVec 64) (w : BitVec 6) (k : Bool) (b : Blk) : Blk :=
  ((b.modAgent e fun a => { a with hitsPulse := a.hitsPulse + 1 }).bump .watchHit).trace v true
    { edge := v.n, type := 11, sub := b2n k, shadow := (b.agent e).shadowRun, ctx := r.ref.ctx, id := w.setWidth 32
      engine := e, range := b.range r.ref.ctx, aux := addr }

/-- A watchpoint's hit, with the stop that it may ask for. -/
def hitTaken (v : Env) (e : Nat) (r : Run) (addr : BitVec 64) (w : BitVec 6) (k : Bool) (b : Blk) : Blk :=
  if v.aon.grade.hasWatchpoints && v.field (wpOff r.ref.ctx w.toNat + 12) 2 1 == 1 then
    (b.hitTraced v e r addr w k).askStop 1 else b.hitTraced v e r addr w k

theorem hitTaken_leaves (v : Env) (e : Nat) (r : Run) (addr : BitVec 64) (w : BitVec 6) (k : Bool) (b : Blk) :
    Within [.db, .counters] (b.modAgent e fun a => { a with hitsPulse := a.hitsPulse + 1 }) (b.hitTaken v e r addr w k) ∧
    (b.hitTaken v e r addr w k).ctr .watchHit = b.ctr .watchHit + 1 := by
  have traced : (b.hitTraced v e r addr w k).ctr .watchHit = b.ctr .watchHit + 1 :=
    (ctr_trace _ _ _ _ (by simp) 0).trans (ctr_bump_same ..)
  have within : Within [.db, .counters] (b.modAgent e fun a => { a with hitsPulse := a.hitsPulse + 1 })
      (b.hitTraced v e r addr w k) := by simp [hitTraced]
  rw [hitTaken]
  split
  · exact ⟨(within_askStop _ (by simp)).mpr within, (ctr_askStop ..).trans traced⟩
  · exact ⟨within, traced⟩

end Blk

variable {s : State} {e : Nat} {r x : Run}

/-- An operation after which the run is another record of itself. -/
theorem does_runBecomes {c : Instr} (ran : exec c s = .next { s with blk := s.blk.runBecomes e x }) :
    Does c s fun t => OnlyBlk s t ∧ t.blk.agent e = { s.blk.agent e with run := some x } ∧ OtherAgents e s.blk t.blk ∧
      t.blk.out = s.blk.out ++ [.opResult e stOk 0 []] ∧ t.blk = { s.blk with agents := t.blk.agents, out := t.blk.out } :=
  ⟨_, ran, ⟨rfl, rfl, rfl⟩, (Blk.agent_emit ..).trans (Blk.agent_modAgent_same ..),
    (Blk.otherAgents_modAgent s.blk e _).emit _, rfl, rfl⟩

/-- Settles O55: an operation turns the run into another record of itself (`Blk.modRun_eq`), or is turned away. -/
theorem debugOperationsAct : Obligations.DebugOperationsAct := by
  unfold Obligations.DebugOperationsAct
  intro s e r at_
  refine ⟨turnedAway at_ (at_.acts _), fun fmt values ovf van nan reserved => ?_, fun fmt values ovf van nan low direct => ?_,
    fun slot fmask kmask addr direct => ⟨fun first => ?_, fun second => ?_⟩, ?_, fun addr w k none => ?_,
    fun addr w k some => ?_⟩
  · exact turnedAway at_ ((at_.acts _).trans (by rw [if_pos reserved]))
  · refine does_runBecomes ((at_.acts _).trans ?_)
    rw [if_neg (Nat.not_le.mpr low), if_neg (by simp [direct]), Blk.modRun_eq at_.run]
  · refine does_runBecomes ((at_.acts _).trans ?_)
    rw [if_neg (by simp [direct]), if_neg (by simp [first]), Blk.modRun_eq at_.run]
  · refine turnedAway at_ ((at_.acts _).trans ?_)
    rw [if_neg (by simp [direct]), if_pos (Option.isSome_iff_ne_none.mpr second)]
  · exact ⟨_, at_.acts _, ⟨rfl, rfl, rfl⟩, by simp [Blk.opReply, Blk.emit]⟩
  · have ran : exec (.watchHit e addr w k) s = .next { s with
        blk := (s.blk.hitTaken s.env e r addr w k).opReply e stOk } := by
      refine (at_.acts _).trans ?_
      rw [if_neg (by omega)]
      rfl
    obtain ⟨within, count⟩ := s.blk.hitTaken_leaves s.env e r addr w k
    have agents := within .agents (by simp)
    have whole : Blk.Within [.agents, .db, .counters, .out] s.blk ((s.blk.hitTaken s.env e r addr w k).opReply e stOk) := by
      refine (Blk.within_opReply _ _ _ _ (by simp)).mpr (.trans (by simp) (within.mono (by simp)))
    refine ⟨_, ran, ⟨rfl, rfl, rfl⟩, ?_, fun j other => ?_, count, ?_, whole.eq⟩
    · refine (Blk.agent_congr agents e).trans ((Blk.agent_modAgent_same ..).trans ?_)
      rw [none]
    · exact (Blk.agent_congr agents j).trans (Blk.agent_modAgent_other _ _ other)
    · exact congrArg (· ++ [Out.opResult e stOk 0 []]) (within .out (by simp))
  · have ran : exec (.watchHit e addr w k) s = .next { s with
        blk := (s.blk.bump .watchHitLost e).opReply e stOk } := (at_.acts _).trans (by rw [if_pos some])
    refine ⟨_, ran, ⟨rfl, rfl, rfl⟩, Blk.ctr_bump_same s.blk .watchHitLost e 1, ?_⟩
    exact congrArg (fun c : Blk => c.opReply e stOk) (s.blk.bump_frame .watchHitLost e 1)

end Sys2Proof.Machine
end

section
/-!
# What the debug unit does by itself (R326, R336-R338, R342, R343): settles O56
-/
namespace Sys2Proof.Machine

/-- The LOSS record that goes before the next record, if records were lost. -/
def Blk.lossBefore (v : Env) (b : Blk) : List TraceRec :=
  if b.db.trcLoss = 0 then [] else [{ edge := v.n, type := 0, aux := BitVec.ofNat 64 b.db.trcLoss }]

/-- A trace record does not go in: the governor sheds, the channel is halted, the buffer or the ring is full. -/
def Blk.TraceLost (v : Env) (b : Blk) : Prop :=
  1 ≤ b.pg.shed ∨ b.db.trcHalted = true ∨ 1024 < b.db.trcBuf.length + (b.lossBefore v).length + 1 ∨
    2 ^ v.trcLog ≤ b.db.trcPi - b.db.trcCi

namespace Blk

variable {b c : Blk}

/-! ### TIME records (R337) -/

theorem trace_time_off {v : Env} (off : v.trcEn = false) (task : Bool) (r : TraceRec) (b : Blk) : b.trace v task r = b := by
  rw [trace]
  exact if_pos (by simp [off])

theorem trace_time_kept {v : Env} (on : v.trcEn = true) {r : TraceRec} (time : r.type = 13) (kept : ¬ b.TraceLost v) :
    b.trace v false r = b.modDb fun d => { d with trcBuf := d.trcBuf ++ b.lossBefore v ++ [r], trcLoss := 0 } := by
  rw [trace, if_neg (by simp [on, time])]
  refine if_neg fun lost => kept ?_
  simpa [TraceLost, lossBefore] using lost

theorem trace_time_lost {v : Env} (on : v.trcEn = true) {r : TraceRec} (time : r.type = 13) (lost : b.TraceLost v) :
    b.trace v false r = (b.modDb fun d => { d with trcLoss := d.trcLoss + 1 }).bump .traceLost := by
  rw [trace, if_neg (by simp [on, time])]
  refine if_pos ?_
  simpa [TraceLost, lossBefore] using lost

/-- The TIME record as the statement has it. -/
theorem timeRec_eq (v : Env) (b : Blk) : b.timeRec v =
    { edge := v.n, type := 13, id := b.mc.offset.setWidth 32, engine := bits b.mc.offset 32 16
      status := BitVec.ofNat 8 (bits b.mc.offset 48 8), pad := bits b.mc.offset 56 8
      range := BitVec.ofNat 32 (b.mc.lantern.getD 0 + if b.mc.offValid then 128 else 0)
      aux := BitVec.ofNat 64 v.aon.mtime } := by
  unfold timeRec
  cases b.mc.offValid <;> rfl

/-! ### The load map (R326) -/

/-- Every engine of `l` has its count of busy periods at the sample. -/
theorem agent_sampled (l : List Nat) (k : Nat) (b : Blk) (c : Nat → Nat) (counts : ∀ e, b.ctr .busyClk e = c e) :
    ((b.forEach l fun e b => b.modAgent e fun a => { a with busyAtMap := b.ctr .busyClk e }).agent k) =
      if k ∈ l then { b.agent k with busyAtMap := c k } else b.agent k := by
  induction l generalizing b with
  | nil => rfl
  | cons e l ih =>
    refine (ih (b.modAgent e fun a => { a with busyAtMap := b.ctr .busyClk e }) counts).trans ?_
    rcases Decidable.em (k = e) with rfl | other
    · rw [agent_modAgent_same, counts]
      simp
    · rw [agent_modAgent_other _ _ other]
      simp [other]

/-! ### Breakpoints (R342) -/

theorem halted_trace (v : Env) (task : Bool) (r : TraceRec) (b : Blk) (k : Core) :
    (b.trace v task r).db.halted k = b.db.halted k ∧ (b.trace v task r).db.haltIx = b.db.haltIx := by
  rw [trace]
  dsimp only
  split
  · exact ⟨rfl, rfl⟩
  split
  · split
    · rw [bump_db]
      cases k <;> exact ⟨rfl, rfl⟩
    · cases k <;> exact ⟨rfl, rfl⟩
  · split
    · rw [bump_db]
      cases k <;> exact ⟨rfl, rfl⟩
    · cases k <;> exact ⟨rfl, rfl⟩

theorem halted_traceHalt (v : Env) (core : Core) (i pc insn sub : Nat) (b : Blk) (k : Core) :
    (b.traceHalt v core i pc insn sub).db.halted k = b.db.halted k ∧
      (b.traceHalt v core i pc insn sub).db.haltIx = b.db.haltIx := by
  have first : (b.traceInsn v core insn pc).db.halted k = b.db.halted k ∧
      (b.traceInsn v core insn pc).db.haltIx = b.db.haltIx := halted_trace v false _ b.spend k
  have second := halted_trace v false { edge := v.n, type := 10, sub := sub, id := BitVec.ofNat 32 i
                                        aux := BitVec.ofNat 64 (coreCode core) } (b.traceInsn v core insn pc) k
  exact ⟨second.1.trans first.1, second.2.trans first.2⟩

theorem ctr_traceHalt (v : Env) (core : Core) (i pc insn sub : Nat) (b : Blk) {k : Ctr} (other : k ≠ .traceLost) (n : Nat) :
    (b.traceHalt v core i pc insn sub).ctr k n = b.ctr k n :=
  (ctr_trace _ _ _ _ other n).trans ((ctr_trace _ _ _ b.spend other n).trans rfl)

/-! ### The trace ring (R336) -/

/-- The records of `rs` are written from PI on, which passes them. -/
theorem writeTrace_leaves (v : Env) (rs : List TraceRec) (b : Blk) :
    (b.writeTrace v rs).db = { b.db with trcPi := b.db.trcPi + rs.length } ∧
      (b.writeTrace v rs).ctr .traceRecord = b.ctr .traceRecord + rs.length := by
  induction rs generalizing b with
  | nil => exact ⟨rfl, rfl⟩
  | cons r rs ih =>
    let written := (b.emit (.dmWrite (v.trcBase + BitVec.ofNat 64 (0x40 + 32 * (b.db.trcPi % 2 ^ v.trcLog)))
      (traceBytes r))).modDb fun d => { d with trcPi := d.trcPi + 1 }
    obtain ⟨db, count⟩ := ih ((written.bump .traceRecord).bump .traceLossRecord 0 (b2n (r.type == 0)))
    rw [ctr_bump_other _ _ (.inl (by simp)), ctr_bump_same] at count
    rw [bump_db, bump_db] at db
    refine ⟨db.trans ?_, count.trans ?_⟩
    · rw [List.length_cons, Nat.add_comm rs.length 1, ← Nat.add_assoc]
      rfl
    · rw [List.length_cons, Nat.add_comm rs.length 1, ← Nat.add_assoc]
      rfl

/-- PI is written where it has moved, once in a pulse. -/
theorem writePi_leaves {v : Env} (running : b.db.trcHalted = false) (none : b.db.flushUpto = none) :
    b.writePi v =
      if b.db.trcPiAt = some v.n ∨ b.db.trcPiOut = b.db.trcPi then b
      else (b.emit (.dmWrite v.trcBase (leBytes 8 b.db.trcPi))).modDb fun d => { d with
        trcPiOut := d.trcPi, trcPiAt := some v.n } := by
  have over_ (c : Blk) (same : c.db.flushUpto = b.db.flushUpto) : c.flushOver = c := by
    rw [flushOver, same, none]
  rw [writePi]
  dsimp only
  by_cases now : b.db.trcPiAt = some v.n
  · rw [if_pos (by simp [now]), if_pos (.inl now)]
  · rw [if_neg (by simp [running, now])]
    by_cases same : b.db.trcPiOut = b.db.trcPi
    · rw [if_pos same, if_pos (.inr same), over_ _ rfl]
    · rw [if_neg same, if_neg (by simp [now, same])]
      exact over_ _ rfl

/-- The block before PI is written: `n` records at most have been acknowledged. -/
def acknowledged (v : Env) (n ci : Nat) (b : Blk) : Blk :=
  let b := b.modDb fun d => { d with trcCi := max d.trcCi (min ci d.trcPi) }
  let k := min n (b.trcRoom v)
  (b.writeTrace v (b.db.trcBuf.take k)).modDb fun d => { d with trcBuf := d.trcBuf.drop k }

theorem acknowledged_leaves (v : Env) (n ci : Nat) (b : Blk) :
    let seen := max b.db.trcCi (min ci b.db.trcPi)
    let k := min (min n (2 ^ v.trcLog - (b.db.trcPi - seen))) b.db.trcBuf.length
    (b.acknowledged v n ci).db = { b.db with trcCi := seen, trcPi := b.db.trcPi + k, trcBuf := b.db.trcBuf.drop k } ∧
      (b.acknowledged v n ci).ctr .traceRecord = b.ctr .traceRecord + k ∧
      Within [.db, .counters, .out] b (b.acknowledged v n ci) := by
  intro seen k
  let m := min n (2 ^ v.trcLog - (b.db.trcPi - seen))
  obtain ⟨db, count⟩ := writeTrace_leaves v (b.db.trcBuf.take m) (b.modDb fun d => { d with
    trcCi := max d.trcCi (min ci d.trcPi) })
  rw [List.length_take] at db count
  have rest : b.db.trcBuf.drop m = b.db.trcBuf.drop k := by
    rcases Nat.le_total m b.db.trcBuf.length with le | ge
    · rw [show k = m from Nat.min_eq_left le]
    · rw [show k = _ from Nat.min_eq_right ge, List.drop_length, List.drop_eq_nil_of_le ge]
  refine ⟨?_, count, by simp [acknowledged]⟩
  rw [← rest]
  exact (congrArg (fun d : Db => { d with trcBuf := d.trcBuf.drop m }) db).trans rfl

end Blk

variable {s : State}

theorem exec_traceWriteAck (n ci : Nat) (running : s.blk.db.trcHalted = false) :
    exec (.traceWriteAck n ci true) s = .next { s with blk := (s.blk.acknowledged s.env n ci).writePi s.env } := by
  simp only [exec, execTraceWriteAck, onBlk]
  rw [if_neg (by simp [running]), if_neg (by simp)]
  rfl

/-- A dump whose copy is acknowledged: it is gone, and so are its requests. -/
def Blk.dumpGone (d : Dump) (b : Blk) : Blk :=
  ((b.modDb fun g => { g with dumps := ldrop1 (fun x => x == d) g.dumps }).answered fun r =>
    r == .dumpRead (d.src.setWidth 63) d.bytes).answered fun r => r == .dumpWrite (d.dst.setWidth 63) d.bytes

theorem Blk.dumpGone_fe (d : Dump) (b : Blk) : ∃ o w, (b.dumpGone d).fe = { b.fe with hostOut := o, hostWait := w } := by
  obtain ⟨o, w, first⟩ := answered_fe (fun r => r == .dumpRead (d.src.setWidth 63) d.bytes)
    (b.modDb fun g => { g with dumps := ldrop1 (fun x => x == d) g.dumps })
  obtain ⟨o', w', second⟩ := answered_fe (fun r => r == .dumpWrite (d.dst.setWidth 63) d.bytes)
    ((b.modDb fun g => { g with dumps := ldrop1 (fun x => x == d) g.dumps }).answered fun r =>
      r == .dumpRead (d.src.setWidth 63) d.bytes)
  exact ⟨o', w', second.trans (by rw [first]; rfl)⟩

theorem Blk.dumps_trace (v : Env) (task : Bool) (r : TraceRec) (b : Blk) : (b.trace v task r).db.dumps = b.db.dumps := by
  rw [trace]
  dsimp only
  split
  · rfl
  split
  · split
    · rw [bump_db]
      rfl
    · rfl
  · split
    · rw [bump_db]
      rfl
    · rfl

/-- Settles O56: the trace by `Blk.trace_time_kept` and its like, the ring by `Blk.acknowledged_leaves` and
`Blk.writePi_leaves`. -/
theorem debugUnitKeepsItsEdges : Obligations.DebugUnitKeepsItsEdges := by
  unfold Obligations.DebugUnitKeepsItsEdges
  refine ⟨fun s => ⟨fun due new => ?_, fun early => ?_⟩, fun s due new => ?_, fun s k i low enabled runs moving idle => ?_,
    fun s d rest dumps taken => ?_, fun s n ci running none => ?_, fun s n ci ok halted => ?_,
    fun s x snap writing cause stopped idle => ?_⟩
  · let timed := s.blk.modDb fun d => { d with timeAt := s.aon.pulse }
    have ran : exec .timeRecord s = .next { s with blk := timed.trace s.env false (s.blk.timeRec s.env) } := by
      have at_ : ¬ (s.env.n % 1024 ≠ 0 ∨ s.blk.db.timeAt = s.env.n) := not_or.mpr ⟨not_not_intro due, new⟩
      simp only [exec, execTimeRecord, onBlk]
      rw [Blk.enterTime, if_neg at_]
      rfl
    refine ⟨_, ran, ⟨rfl, rfl, rfl⟩, fun off => Blk.trace_time_off off .., fun on kept => ?_, fun on lost => ?_⟩
    · refine (Blk.trace_time_kept (b := timed) on rfl kept).trans ?_
      rw [Blk.timeRec_eq]
      rfl
    · have lost' := Blk.trace_time_lost (b := timed) (r := s.blk.timeRec s.env) on rfl lost
      dsimp only
      rw [lost']
      exact ⟨Blk.ctr_bump_same .., (Blk.bump_frame ..).trans rfl⟩
  · refine ⟨s, ?_, rfl⟩
    exact congrArg (fun c : Blk => Host.Outcome.next { s with blk := c }) (if_pos (early.imp_left id))
  · let es := List.range s.env.engines
    let mapped := s.blk.modDb fun d => { d with
      loadAt := s.env.n, loadMap := if s.blk.sampling s.env then es.map (fun e => (e, s.blk.loadEntry s.env e)) else d.loadMap }
    have ran : exec .loadMapSample s = .next { s with
        blk := mapped.forEach es fun e b => b.modAgent e fun a => { a with busyAtMap := b.ctr .busyClk e } } := by
      have at_ : ¬ (s.env.n % 2 ^ s.env.loadLog ≠ 0 ∨ s.blk.db.loadAt = s.env.n) := not_or.mpr ⟨not_not_intro due, new⟩
      simp only [exec, execLoadMapSample, onBlk]
      rw [Blk.sampleLoad, if_neg at_]
    have sampled : Blk.Within [.agents] mapped
        (mapped.forEach es fun e b => b.modAgent e fun a => { a with busyAtMap := b.ctr .busyClk e }) :=
      .forEach _ (fun e b => by simp) _
    have whole : Blk.Within [.db, .agents] s.blk
        (mapped.forEach es fun e b => b.modAgent e fun a => { a with busyAtMap := b.ctr .busyClk e }) :=
      .trans (by simp [mapped]) (sampled.mono (by simp))
    have db := sampled .db (by simp)
    refine ⟨_, ran, ⟨rfl, rfl, rfl⟩, congrArg Db.loadAt db, fun on e known => ?_, fun off => ?_, fun e known => ?_, whole.eq⟩
    · refine (congrArg (fun d : Db => tget d.loadMap e) db).trans ?_
      dsimp only [mapped, Blk.modDb]
      rw [if_pos on]
      exact tget_map_of_mem _ (List.mem_range.mpr known)
    · exact (congrArg Db.loadMap db).trans (if_neg (by simp [off]))
    · refine (congrArg Agent.busyAtMap (Blk.agent_sampled es e mapped (fun k => s.blk.ctr .busyClk k)
        fun _ => Blk.ctr_congr (by rfl) ..)).trans ?_
      rw [if_pos (List.mem_range.mpr known : e ∈ es)]
  · let halts := s.blk.modDb fun d => { d.setHalt k true with
      haltIx := tput d.haltIx (coreCode k) i
      haltPc := tput d.haltPc (coreCode k) (4 * s.env.field (bpOff k i) 2 30) }
    have ran : exec (.breakpointHalt k i) s = .next { s with
        blk := (halts.traceHalt s.env k i (4 * s.env.field (bpOff k i) 2 30) 3 0).bump .bpHalt } := by
      simp only [exec, execBreakpointHalt, onBlk]
      rw [if_neg (by simp [enabled, runs, moving, idle]; omega)]
    have kept (j : Core) := Blk.halted_traceHalt s.env k i (4 * s.env.field (bpOff k i) 2 30) 3 0 halts j
    have set (j : Core) : halts.db.halted j = if j = k then true else s.blk.db.halted j :=
      (by cases j <;> rfl : _ = (s.blk.db.setHalt k true).halted j).trans (Db.halted_setHalt ..)
    refine ⟨_, ran, ⟨rfl, rfl, rfl⟩, ?_, ?_, fun j other => ?_, ?_, ?_⟩
    · refine (congrArg (fun d : Db => d.halted k) (Blk.bump_db ..)).trans ((kept k).1.trans ((set k).trans (if_pos rfl)))
    · refine (congrArg (fun d : Db => tget d.haltIx (coreCode k)) (Blk.bump_db ..)).trans ?_
      refine (congrArg (fun l => tget l (coreCode k)) (kept k).2).trans (tget_tput_same ..)
    · refine (congrArg (fun d : Db => d.halted j) (Blk.bump_db ..)).trans ((kept j).1.trans ((set j).trans (if_neg other)))
    · exact (Blk.ctr_bump_same ..).trans (congrArg (· + 1) (Blk.ctr_traceHalt _ _ _ _ _ _ halts (by simp) 0))
    · exact (by simp [halts] : Blk.Within [.db, .counters, .fresh] s.blk
        ((halts.traceHalt s.env k i (4 * s.env.field (bpOff k i) 2 30) 3 0).bump .bpHalt)).eq
  · let r : TraceRec := { edge := s.env.n, type := 12, ctx := d.ctx, id := d.tensor, range := (s.blk.dumpGone d).range d.ctx
                          aux := BitVec.ofNat 64 d.bytes }
    have ran : exec .dumpCopyDone s = .next { s with blk := ((s.blk.dumpGone d).bump .dump).trace s.env true r } := by
      simp only [exec, execDumpCopyDone, onBlk]
      have found : s.blk.db.dumps.find? Dump.taken = some d := by rw [dumps, List.find?_cons_of_pos taken]
      rw [found]
      rfl
    have gone : Blk.Within [.fe, .db, .out] s.blk (s.blk.dumpGone d) := by simp [Blk.dumpGone]
    have answers : Blk.Within [.fe, .out] (s.blk.modDb fun g => { g with dumps := ldrop1 (fun x => x == d) g.dumps })
        (s.blk.dumpGone d) := by simp [Blk.dumpGone]
    have traced : Blk.Within [.db, .counters] (s.blk.dumpGone d) (((s.blk.dumpGone d).bump .dump).trace s.env true r) := by
      simp
    have whole : Blk.Within [.fe, .db, .counters, .out] s.blk (((s.blk.dumpGone d).bump .dump).trace s.env true r) :=
      (gone.mono (by simp)).trans (traced.mono (by simp))
    obtain ⟨o, w, fe⟩ := s.blk.dumpGone_fe d
    have same : (((s.blk.dumpGone d).bump .dump).trace s.env true r).fe = (s.blk.dumpGone d).fe := traced .fe (by simp)
    have part : (((s.blk.dumpGone d).bump .dump).trace s.env true r).fe = { s.blk.fe with hostOut := o, hostWait := w } :=
      same.trans fe
    refine ⟨_, ran, ⟨rfl, rfl, rfl⟩, ?_, ?_, ?_⟩
    · refine (Blk.dumps_trace ..).trans ((congrArg Db.dumps (Blk.bump_db ..)).trans ?_)
      refine (congrArg Db.dumps (answers .db (by simp))).trans ?_
      show ldrop1 (fun x => x == d) s.blk.db.dumps = rest
      rw [dumps]
      simp [ldrop1]
    · exact (Blk.ctr_trace _ _ _ _ (by simp) 0).trans ((Blk.ctr_bump_same ..).trans (congrArg (· + 1) (gone.ctr (by simp) ..)))
    · have frame : (((s.blk.dumpGone d).bump .dump).trace s.env true r).fe = { s.blk.fe with
          hostOut := (((s.blk.dumpGone d).bump .dump).trace s.env true r).fe.hostOut
          hostWait := (((s.blk.dumpGone d).bump .dump).trace s.env true r).fe.hostWait } := by
        rw [part]
      exact whole.eq.trans (congrArg (fun f : Fe => ({ s.blk with
        fe := f, db := (((s.blk.dumpGone d).bump .dump).trace s.env true r).db
        counters := (((s.blk.dumpGone d).bump .dump).trace s.env true r).counters
        out := (((s.blk.dumpGone d).bump .dump).trace s.env true r).out } : Blk)) frame)
  · obtain ⟨db, count, within⟩ := s.blk.acknowledged_leaves s.env n ci
    have writes := Blk.writePi_leaves (v := s.env) (b := s.blk.acknowledged s.env n ci)
      ((congrArg Db.trcHalted db).trans running) ((congrArg Db.flushUpto db).trans none)
    have same : (s.blk.acknowledged s.env n ci).db.trcPiAt = s.blk.db.trcPiAt ∧
        (s.blk.acknowledged s.env n ci).db.trcPiOut = s.blk.db.trcPiOut := by
      rw [db]
      exact ⟨rfl, rfl⟩
    refine ⟨_, exec_traceWriteAck n ci running, ⟨rfl, rfl, rfl⟩, ?_⟩
    dsimp only
    rw [writes]
    split
    next keeps =>
      refine ⟨?_, fun other => ?_, fun now => same.2, within .mc (by simp), within.eq⟩
      · rw [db]
        exact ⟨rfl, rfl, rfl, count⟩
      · have level := keeps.resolve_left fun now => other (same.1.symm.trans now)
        exact ⟨level, fun moved => absurd (same.2.symm.trans level) moved⟩
    next moves =>
      obtain ⟨other, moved⟩ := not_or.mp moves
      refine ⟨?_, fun _ => ⟨rfl, fun _ => ⟨rfl, List.getLast?_concat⟩⟩, fun now => absurd (same.1.trans now) other,
        within .mc (by simp), ?_⟩
      · exact ⟨(congrArg Db.trcCi db).trans rfl, (congrArg Db.trcPi db).trans rfl, (congrArg Db.trcBuf db).trans rfl, count⟩
      · exact Blk.Within.eq (l := [.db, .counters, .out]) (by simpa using within)
  · refine ⟨s, ?_, rfl⟩
    exact congrArg (fun c : Blk => Host.Outcome.next { s with blk := c }) (if_pos halted)
  · refine ⟨{ s with blk := { s.blk with db := { s.blk.db with
        snap := some { x with writing := false }, resumeReq := s.blk.db.resumeReq || !s.env.snapHold } } }, ?_,
      ⟨rfl, rfl, rfl⟩, rfl⟩
    simp only [exec, execSnapshotWritesAcked, onBlk]
    rw [snap]
    dsimp only
    have over_ : s.blk.snapOver s.env x = s.blk.modDb fun d => { d with
        snap := some { x with writing := false }, resumeReq := d.resumeReq || !s.env.snapHold } :=
      if_neg (by simp [cause, stopped])
    rw [if_neg (by simp [writing]), if_pos trivial, over_, if_neg (by simp [Mc.waits, idle])]
    rfl

end Sys2Proof.Machine
end

section
/-!
# Operations of the request port (R322, R331, R336, R338, R349, R350): settles O57
-/
namespace Sys2Proof.Machine

open Sys2Proof.Config

/-- The operation that is due runs, and is the one asked for. -/
theorem Mc.due_spec {m : Mc} {op : Nat} {x : McOp} (due : m.due op = some x) : m.running = some x ∧ x.op = op := by
  obtain ⟨running, is⟩ := Option.filter_eq_some_iff.mp due
  exact ⟨running, by simp at is; exact is.1⟩

/-- MC with the response of an operation, and the next one running. -/
def Mc.answered (m : Mc) (op : Nat) (status : BitVec 8) (data : List Word32) : Mc :=
  { m with rspStatus := status, rspOp := op, rspDone := true, rspData := data
           running := m.waiting.head?, waiting := m.waiting.drop 1 }

namespace Blk

variable {b : Blk} {x : McOp}

/-- The port's operation is answered. -/
theorem mcAnswer_port (running : b.mc.running = some x) (port : x.asker = .port) (status : BitVec 8) (data : List Word32) :
    b.mcAnswer status data = b.modMc fun m => m.answered x.op status data := by
  rw [mcAnswer, running]
  dsimp only
  rw [port]
  rfl

/-- A station's operation is answered by a RESPONSE frame. -/
theorem mcAnswer_station {k : Nat} {tag : BitVec 8} (running : b.mc.running = some x) (asker : x.asker = .station k tag)
    (status : BitVec 8) (data : List Word32) :
    (b.mcAnswer status data).mc.running = b.mc.waiting.head? ∧
      ∃ f : TxFrame, (b.mcAnswer status data).mc.txQueue = b.mc.txQueue ++ [f] ∧ f.type = 5 ∧ f.dst = k ∧
        f.body = responseBody x.op tag status data := by
  rw [mcAnswer, running]
  dsimp only
  rw [asker]
  exact ⟨rfl, _, rfl, rfl, rfl, rfl⟩

/-- The running operation has begun. -/
theorem mcStarted_eq (running : b.mc.running = some x) :
    b.mcStarted = b.modMc fun m => { m with running := some { x with started := true } } := by
  rw [mcStarted, modMc, running]
  rfl

theorem running_countHalt (b : Blk) : b.countHalt.mc.running = b.mc.running ∧ b.countHalt.mc.waiting = b.mc.waiting := by
  have same : (b.bump .channelHalt).mc = b.mc := bump_mc ..
  rw [← same]
  exact ⟨rfl, rfl⟩

/-- What a time-out takes back leaves the operations as they are. -/
theorem running_mcGiveUp (v : Env) (op : Nat) (b : Blk) :
    (b.mcGiveUp v op).mc.running = b.mc.running ∧ (b.mcGiveUp v op).mc.waiting = b.mc.waiting := by
  have over_ (y : Snap) (c : Blk) : (c.snapOver v y).mc = c.mc := by
    unfold snapOver
    split <;> rfl
  unfold mcGiveUp
  split
  · split
    · exact ⟨rfl, rfl⟩
    · dsimp only
      split
      · exact ⟨rfl, rfl⟩
      · exact running_countHalt _
  · split
    · split
      · exact ⟨rfl, rfl⟩
      · rw [over_]
        split
        · exact ⟨rfl, rfl⟩
        · exact running_countHalt _
    · exact ⟨rfl, rfl⟩
  · dsimp only
    split
    · exact ⟨rfl, rfl⟩
    · exact running_countHalt _
  · exact ⟨rfl, rfl⟩
  · exact ⟨rfl, rfl⟩

end Blk

variable {s : State} {x : McOp} {op : Nat}

theorem mcRow_acts (due : s.blk.mc.due op = some x) (f : Env → McOp → Blk → Blk) :
    mcRow op f s = .next { s with blk := f s.env x s.blk } := by
  rw [mcRow, onBlk, due]

/-- An operation of the port is answered at once. -/
theorem does_answer {c : Instr} {st : BitVec 8} {data : List Word32} (running : s.blk.mc.running = some x)
    (port : x.asker = .port) (ran : exec c s = .next { s with blk := s.blk.mcAnswer st data }) :
    Does c s fun t => OnlyBlk s t ∧ PortAnswered s t x.op st data ∧ t.blk = { s.blk with mc := t.blk.mc } := by
  rw [Blk.mcAnswer_port running port] at ran
  exact ⟨_, ran, ⟨rfl, rfl, rfl⟩, rfl, rfl⟩

/-- The effect of an operation begins. -/
theorem does_begin {c : Instr} {b : Blk} (running : s.blk.mc.running = some x) (same : b.mc = s.blk.mc)
    (ran : exec c s = .next { s with blk := b.mcStarted }) :
    Does c s fun t => OnlyBlk s t ∧ OpBegan s t x ∧ t.blk = { b with mc := t.blk.mc } := by
  have now : b.mc.running = some x := (congrArg Mc.running same).trans running
  rw [Blk.mcStarted_eq now] at ran
  refine ⟨_, ran, ⟨rfl, rfl, rfl⟩, ?_, rfl⟩
  rw [OpBegan, ← same]
  rfl

theorem exec_identityRead (due : s.blk.mc.due 0 = some x) : exec .identityRead s = .next { s with
    blk := s.blk.mcAnswer stOk ([0x200, 0x204, 0x208, 0x20C, 0xC00008].map fun o => s.blk.regNow s.env o) } := by
  simp only [exec, execIdentityRead]
  rw [mcRow_acts due]

theorem exec_makerPortRequest (due : s.blk.mc.due 7 = some x) (on : s.aon.makerEn = true) (tries : s.blk.rel.mkTries < 3)
    (idle : ∀ p ∈ s.blk.fe.ctxs, p.1 = 0) : exec .makerPortRequest s = .next { s with
      blk := if (x.args[0]?).getD 0 = 0 then (s.blk.alarm 9).issueChallenge
        else if (x.args[0]?).getD 0 = 1 then (s.blk.alarm 9).makerResponse ((x.args[1]?).getD 0)
        else (s.blk.alarm 9).mcAnswer stContextFault [] } := by
  simp only [exec, execMakerPortRequest]
  rw [mcRow_acts due]
  have none : (s.blk.alarm 9).fe.ctxs.any (fun p => p.1 != 0) = false := by
    refine List.any_eq_false.mpr fun p member => ?_
    simp [idle p member]
  have room : decide (3 ≤ (s.blk.alarm 9).rel.mkTries) = false := decide_eq_false (Nat.not_le.mpr tries)
  rw [none, room, if_neg (by simp [State.env, on]), if_neg (by simp)]

/-- The shed level and the droop handling that OP 4 orders. -/
def shedOrdered (x : McOp) (b : Blk) : Blk :=
  b.modPg fun p => { p with forcedIn := some (min 5 (bits (x.args[0]?.getD 0) 0 3), (x.args[0]?.getD 0).getLsbD 8) }

/-- Settles O57: an operation is answered (`Blk.mcAnswer_port`) or its effect begins (`does_begin`). -/
theorem operationsAreAnsweredInTurn : Obligations.OperationsAreAnsweredInTurn := by
  unfold Obligations.OperationsAreAnsweredInTurn
  refine ⟨fun s x op due port => ?_, fun s x op due => ?_, fun s x k tag due asker => ?_, fun s x running port => ?_⟩
  · obtain ⟨running, is⟩ := Mc.due_spec due
    have rings : (s.blk.alarm 9).mc.running = some x := running
    refine ⟨fun zero => ?_, fun one => ?_, fun two_ busy => ?_, fun three busy => ?_, fun five busy => ?_, fun seven no => ?_,
      fun seven on tries idle => ⟨fun asks => ?_, fun c r asks response pending => ?_⟩, fun reserved => ?_⟩
    · subst zero
      exact is ▸ does_answer running port (exec_identityRead due)
    · subst one
      refine is ▸ does_answer running port ?_
      simp only [exec, execStatusRead]
      rw [mcRow_acts due, List.append_assoc]
      rfl
    · subst two_
      refine is ▸ does_answer running port ?_
      simp only [exec, execCounterSnapshot]
      rw [mcRow_acts due, if_pos (by simpa using busy)]
    · subst three
      refine is ▸ does_answer running port ?_
      simp only [exec, execHangSnapshot]
      rw [mcRow_acts due, if_pos (by simpa [or_assoc] using busy)]
    · subst five
      refine is ▸ does_answer running port ?_
      simp only [exec, execTraceFlush]
      rw [mcRow_acts due, if_pos (by simpa using busy)]
    · subst seven
      have ran : exec .makerPortRequest s = .next { s with blk := (s.blk.alarm 9).mcAnswer stDenied [] } := by
        simp only [exec, execMakerPortRequest]
        rw [mcRow_acts due, if_pos (by simp [State.env, no])]
      rw [Blk.mcAnswer_port rings port, is] at ran
      exact ⟨_, ran, ⟨rfl, rfl, rfl⟩, rfl, rfl, rfl, rfl, rfl, rfl,
        tgetD_tmod_same 0 s.blk.mc.alarms 9 fun c => min 0xFFFF (c + 1)⟩
    · subst seven
      have ran := exec_makerPortRequest due on tries idle
      rw [asks, if_pos (by rfl), Blk.issueChallenge, Blk.mcAnswer_port (x := x) ?_ port, is] at ran
      · exact ⟨_, ran, ⟨rfl, rfl, rfl⟩, ⟨_, rfl, rfl⟩, rfl, rfl, rfl, rfl⟩
      · exact running
    · subst seven
      have ran := exec_makerPortRequest due on tries idle
      have waits : (s.blk.alarm 9).rel.mkPending = some c := pending
      rw [asks, response, if_neg (by decide), if_pos (by rfl), Option.getD_some, Blk.makerResponse, waits] at ran
      dsimp only at ran
      by_cases good : makerResponseOk c r = true
      · rw [if_pos good, Blk.mcAnswer_port (x := x) ?_ port, is] at ran
        · exact ⟨_, ran, ⟨rfl, rfl, rfl⟩, (if_pos good).symm, (if_pos good).symm, rfl, rfl, rfl⟩
        · exact running
      · rw [if_neg good, Blk.mcAnswer_port (x := x) ?_ port, is] at ran
        · exact ⟨_, ran, ⟨rfl, rfl, rfl⟩, (if_neg good).symm, (if_neg good).symm, rfl, rfl, rfl⟩
        · exact running
    · have ran : exec .mcReservedOp s = .next { s with blk := s.blk.mcAnswer stContextFault [] } := by
        simp only [exec, execMcReservedOp, onBlk]
        rw [running]
        dsimp only
        rw [if_pos (is ▸ reserved)]
      exact is ▸ does_answer running port ran
  · obtain ⟨running, is⟩ := Mc.due_spec due
    refine ⟨fun two_ on runs => ?_, fun three on runs idle => ?_, fun four stopped port => ?_, fun four clk => ?_,
      fun five on runs => ?_, fun six => ?_⟩
    · subst two_
      refine does_begin (b := s.blk.modDb fun d => { d with csnapReq := true }) running rfl ?_
      simp only [exec, execCounterSnapshot]
      rw [mcRow_acts due, if_neg (by simp [on, runs])]
    · subst three
      refine does_begin (b := s.blk.modDb fun d => { d with stopReq := some 0 }) running rfl ?_
      have free : s.blk.askStop 0 = s.blk.modDb fun d => { d with stopReq := some 0 } :=
        if_neg (by simpa [Db.snapBusy] using idle)
      simp only [exec, execHangSnapshot]
      rw [mcRow_acts due, if_neg (by simp [on, runs, idle]), free]
    · subst four
      have ran : exec .powerShedControl s = .next { s with
          blk := (shedOrdered x s.blk).mcAnswer stOk [0xFFFFFFFF, 0xFFFFFFFF] } := by
        simp only [exec, execPowerShedControl]
        rw [mcRow_acts due]
        rw [if_neg (by simp [stopped])]
        rfl
      rw [Blk.mcAnswer_port (x := x) ?_ port, is] at ran
      · exact ⟨_, ran, ⟨rfl, rfl, rfl⟩, rfl, rfl⟩
      · exact running
    · subst four
      refine does_begin (b := shedOrdered x s.blk) running rfl ?_
      simp only [exec, execPowerShedControl]
      rw [mcRow_acts due]
      rw [if_pos clk]
      rfl
    · subst five
      refine does_begin (b := s.blk.modDb fun d => { d with flushUpto := some (d.trcPi + d.trcBuf.length) }) running rfl ?_
      simp only [exec, execTraceFlush]
      rw [mcRow_acts due, if_neg (by simp [on, runs])]
    · subst six
      have begins := does_begin (s := s) (c := .mgmtBlockReset) (b := s.blk.askReset .management) running
        (by rw [Blk.askReset_eq]) (by simp only [exec, execMgmtBlockReset]; rw [mcRow_acts due])
      rw [Blk.askReset_eq] at begins
      exact begins
  · obtain ⟨running, is⟩ := Mc.due_spec due
    have answers := Blk.mcAnswer_station running asker stOk ([0x200, 0x204, 0x208, 0x20C, 0xC00008].map fun o => s.blk.regNow s.env o)
    rw [is] at answers
    exact ⟨_, exec_identityRead due, ⟨rfl, rfl, rfl⟩, answers⟩
  · refine ⟨fun started => ?_, fun early => ?_, fun k waits image runs => ?_⟩
    · have ran : exec .mcOperationTimeout s = .next { s with
          aon := { s.aon with since := if s.blk.awaitsEdge x.op then max s.aon.since (2 ^ 20) else s.aon.since }
          blk := s.blk.mcExpire { s.env with
            aon := { s.aon with since := if s.blk.awaitsEdge x.op then max s.aon.since (2 ^ 20) else s.aon.since } } x.op } := by
        simp only [exec, execMcOperationTimeout]
        rw [running, Option.filter_some, if_pos started]
        dsimp only [onBlk, State.env]
        split <;> rfl
      refine ⟨_, ran, rfl, rfl, rfl, ?_⟩
      obtain ⟨runs, waits⟩ := Blk.running_mcGiveUp { s.env with
        aon := { s.aon with since := if s.blk.awaitsEdge x.op then max s.aon.since (2 ^ 20) else s.aon.since } } x.op s.blk
      dsimp only
      rw [Blk.mcExpire]
      split
      next four =>
        rw [Blk.mcAnswer_port running port]
        exact ⟨rfl, rfl, rfl, rfl, rfl, rfl⟩
      next other =>
        rw [Blk.mcAnswer_port (runs.trans running) port]
        exact ⟨rfl, rfl, rfl, rfl, (by simp : Blk.Within [.rel, .db, .mc, .counters] s.blk (Blk.mcGiveUp _ x.op s.blk)) .pg
          (by simp), congrArg List.head? waits⟩
    · refine ⟨s, ?_, rfl⟩
      simp only [exec, execMcOperationTimeout]
      rw [running, Option.filter_some, if_neg (by simp [early])]
    · have is : x.op = 2 := by
        simp [Mc.waits, running] at waits
        exact waits.1
      have ran : exec (.counterSnapshotWritesAcked true) s = .next { s with
          blk := (s.blk.modDb fun d => { d with csnap := none }).mcAnswer stOk (two k.1 ++ two k.2) } := by
        simp only [exec, execCounterSnapshotWritesAcked, onBlk]
        rw [image]
        dsimp only
        have still : (s.blk.modDb fun d => { d with csnap := none }).mc.waits 2 = true := waits
        rw [if_neg (by simp [runs]), if_neg (by simp), if_pos still]
      rw [Blk.mcAnswer_port (x := x) ?_ port, is] at ran
      · exact ⟨_, ran, ⟨rfl, rfl, rfl⟩, rfl, rfl⟩
      · exact running

end Sys2Proof.Machine
end

section
/-!
# Reception of frames (R351, R354, R367): settles O58
-/
namespace Sys2Proof.Machine

open Sys2Proof.Config

variable {s : State} {frame : List Byte}

/-- A valid frame for this station, or for all, is noted and acts by its type. -/
theorem frameRow_acts {type : Nat} (on : s.blk.mc.attach ≠ .off)
    (valid : hearFrame s.env frame (frame.length / 8) = .valid)
    (here : fDst frame = s.aon.station.toNat ∨ fDst frame = 0xFF) (is : fType frame = type) (f : Env → Blk → Blk) :
    frameRow type frame f s = .next { s with blk := f s.env (s.blk.noteStation (fSrc frame)) } := by
  have acts : ¬ (s.blk.mc.attach == .off || fType frame != type || hearFrame s.env frame (frame.length / 8) != .valid) =
      true := by simp [on, is, valid]
  have here' : fDst frame = s.env.aon.station.toNat ∨ fDst frame = 0xFF := here
  rw [frameRow, onBlk, if_neg acts]
  dsimp only
  rw [if_pos here']

/-- A frame that goes to the receive queue if it has room, and is counted as lost otherwise. -/
theorem does_receive {c : Instr}
    (ran : exec c s = .next { s with blk := (s.blk.noteStation (fSrc frame)).receiveFrame frame }) :
    Does c s fun t => OnlyBlk s t ∧
      (s.blk.mc.rxBytes + frame.length ≤ 32768 →
        t.blk.mc = { s.blk.mc with heardFrom := t.blk.mc.heardFrom, rxQueue := s.blk.mc.rxQueue ++ [frame] } ∧
        t.blk.ctr .segRx = s.blk.ctr .segRx + 1) ∧
      (32768 < s.blk.mc.rxBytes + frame.length →
        t.blk.mc = { s.blk.mc with heardFrom := t.blk.mc.heardFrom } ∧
        t.blk.ctr .segRxLost = s.blk.ctr .segRxLost + 1) ∧
      t.blk = { s.blk with mc := t.blk.mc, counters := t.blk.counters } := by
  let noted := s.blk.noteStation (fSrc frame)
  have size : noted.mc.rxBytes = s.blk.mc.rxBytes := rfl
  have whole : Blk.Within [.mc, .counters] s.blk (noted.receiveFrame frame) := by simp [noted]
  refine ⟨_, ran, ⟨rfl, rfl, rfl⟩, fun room => ?_, fun full => ?_, whole.eq⟩
  · have queued : noted.receiveFrame frame = (noted.modMc fun m => { m with rxQueue := m.rxQueue ++ [frame] }).bump .segRx :=
      if_neg (by rw [size]; omega)
    dsimp only
    rw [queued, Blk.bump_mc]
    exact ⟨rfl, Blk.ctr_bump_same ..⟩
  · have lost : noted.receiveFrame frame = noted.bump .segRxLost := if_pos (by rw [size]; exact full)
    dsimp only
    rw [lost, Blk.bump_mc]
    exact ⟨rfl, Blk.ctr_bump_same ..⟩

theorem exec_discardedFrame (words : Nat) (on : s.blk.mc.attach ≠ .off) : exec (.discardedFrame frame words) s =
    .next { s with blk := s.blk.discardFrame (hearFrame s.env frame words) } := by
  simp only [exec, execDiscardedFrame, onBlk]
  rw [if_neg (by simp [on])]

/-- Settles O58: `frameRow_acts` for the frames that pass the tests. -/
theorem framesAreReceivedOrCounted : Obligations.FramesAreReceivedOrCounted := by
  unfold Obligations.FramesAreReceivedOrCounted
  refine ⟨fun s frame on valid here => ⟨fun is => ?_, fun is => ?_, fun is => ?_, fun is => ?_, fun is => ?_,
    fun is off => ?_, fun is remote low idle room => ?_⟩, fun s frame words on => ⟨fun bad => ?_, fun bad => ?_, fun bad => ?_⟩⟩
  · exact does_receive (frameRow_acts on valid here is fun _ b => b.receiveFrame frame)
  · exact does_receive (frameRow_acts on valid here is fun _ b => b.receiveFrame frame)
  · exact does_receive (frameRow_acts on valid here is fun _ b => b.receiveFrame frame)
  · exact does_receive (frameRow_acts on valid here is fun _ b => b.receiveFrame frame)
  · exact ⟨_, frameRow_acts on valid here is fun _ b => b, ⟨rfl, rfl, rfl⟩, rfl, rfl⟩
  · let denied := responseBody (leAt frame 0x10 1) (BitVec.ofNat 8 (leAt frame 0x11 1)) stDenied []
    have ran : exec (.request frame) s = .next { s with
        blk := (s.blk.noteStation (fSrc frame)).queueFrame 5 (fSrc frame) 1 denied } := by
      simp only [exec, execRequest]
      rw [frameRow_acts on valid here is, if_pos (.inl off)]
    exact ⟨_, ran, ⟨rfl, rfl, rfl⟩, ⟨_, rfl, rfl, rfl, rfl⟩, rfl, rfl⟩
  · let x : McOp := { op := leAt frame 0x10 1
                      args := (List.range 4).map fun i => BitVec.ofNat 32 (leAt frame (0x18 + 4 * i) 4)
                      asker := .station (fSrc frame) (BitVec.ofNat 8 (leAt frame 0x11 1)) }
    have ran : exec (.request frame) s = .next { s with blk := (s.blk.noteStation (fSrc frame)).mcAsk x } := by
      have waits : (s.blk.noteStation (fSrc frame)).mc.remoteWaiting < 4 := room
      simp only [exec, execRequest]
      rw [frameRow_acts on valid here is, if_neg (by omega), if_neg (by omega)]
    have asked : ((s.blk.noteStation (fSrc frame)).mcAsk x).mc =
        { (s.blk.noteStation (fSrc frame)).mc with running := some x } := by
      have none : (s.blk.noteStation (fSrc frame)).mc.running = none := idle
      rw [Blk.mcAsk, Blk.bump_mc, Blk.modMc, none]
    refine ⟨_, ran, ⟨rfl, rfl, rfl⟩, congrArg Mc.running asked, Blk.ctr_bump_same .., ?_⟩
    exact (congrArg Mc.txQueue asked).trans rfl
  · have ran := exec_discardedFrame (s := s) (frame := frame) words on
    rw [bad] at ran
    exact ⟨_, ran, ⟨rfl, rfl, rfl⟩, rfl⟩
  · have ran := exec_discardedFrame (s := s) (frame := frame) words on
    rw [bad] at ran
    exact ⟨_, ran, ⟨rfl, rfl, rfl⟩, rfl⟩
  · have ran := exec_discardedFrame (s := s) (frame := frame) words on
    rw [bad] at ran
    let noted := (s.blk.bump .segStranger).modMc fun m => { m with strangers := m.strangers + 1 }
    have alarms : s.blk.noteStranger = if noted.mc.strangers = 65 then noted.alarm 10 else noted := rfl
    have same : noted.mc = { s.blk.mc with strangers := s.blk.mc.strangers + 1 } :=
      congrArg (fun m : Mc => { m with strangers := m.strangers + 1 }) (Blk.bump_mc s.blk .segStranger 0 1)
    have counted : noted.ctr .segStranger = s.blk.ctr .segStranger + 1 := Blk.ctr_bump_same s.blk .segStranger 0 1
    refine ⟨_, ran, ⟨rfl, rfl, rfl⟩, ?_⟩
    dsimp only [Blk.discardFrame]
    rw [alarms]
    split
    · exact ⟨counted, (congrArg Mc.strangers same).trans rfl, (congrArg Mc.rxQueue same).trans rfl⟩
    · exact ⟨counted, (congrArg Mc.strangers same).trans rfl, (congrArg Mc.rxQueue same).trans rfl⟩

end Sys2Proof.Machine
end

section
/-!
# The lantern and the attachment (R352, R359-R361): settles O59
-/
namespace Sys2Proof.Machine

/-! ### Frames on the segment (R352) -/

theorem head_frameWords (bs : List Byte) : (frameWords bs).head? = some 0xD5D5D5D5D5D5D5D5 := (rfl)

/-- Frame `f` is the only one on the segment, behind its start word, and went out just now. -/
def Blk.Sends (b c : Blk) (f : TxFrame) : Prop :=
  c.mc.onAir = [f] ∧ f.sent.head? = some 0xD5D5D5D5D5D5D5D5 ∧ c.out = b.out ++ [.frame f.sent]

namespace Blk

variable {b c : Blk}

theorem startFrame_sends (v : Env) (f : TxFrame) (free : b.mc.onAir = []) :
    ∃ ws, b.Sends (b.startFrame v f) { f with sent := ws } := by
  refine ⟨frameWords (b.frameBytes v f), ?_, head_frameWords _, rfl⟩
  exact congrArg (· ++ [{ f with sent := frameWords (b.frameBytes v f) }]) free

/-- A frame that does not contend goes out where none is on the segment. -/
theorem sendNow_sends (v : Env) (type dst : Nat) (body : List Byte) (free : b.mc.onAir = []) :
    ∃ f : TxFrame, b.Sends (b.sendNow v type dst body) f ∧ f.type = type ∧ f.dst = dst ∧ f.slotted = true := by
  have goes : b.sendNow v type dst body =
      (b.modMc fun _ => (b.mc.newFrame type dst 0 body true).1).startFrame v (b.mc.newFrame type dst 0 body true).2 :=
    if_neg (by simp [free])
  obtain ⟨ws, sends⟩ := startFrame_sends (b := b.modMc fun _ => (b.mc.newFrame type dst 0 body true).1) v
    (b.mc.newFrame type dst 0 body true).2 free
  rw [goes]
  exact ⟨_, sends, rfl, rfl, rfl⟩

theorem sendNow_waits (v : Env) (type dst : Nat) (body : List Byte) (busy : b.mc.onAir ≠ []) :
    b.sendNow v type dst body = b :=
  if_pos (by simpa using busy)

/-- Sending changes the frames on the segment and the numbers of frames alone. -/
theorem sendNow_mc (v : Env) (type dst : Nat) (body : List Byte) (b : Blk) :
    (b.sendNow v type dst body).mc = { b.mc with
      onAir := (b.sendNow v type dst body).mc.onAir, seqs := (b.sendNow v type dst body).mc.seqs } := by
  rw [sendNow]
  split <;> rfl

end Blk

/-! ### The station that leads (R359-R361) -/

/-- MC follows station `src`, in a cycle and with a number of alarm slots. -/
structure Mc.Follows (m : Mc) (src : Nat) (c : BitVec 64) (n : Nat) : Prop where
  attach : m.attach = .joined
  leader : m.lantern = some src
  missed : m.missed = 0
  cycle  : m.cycle = some c
  heard  : m.heardCycle = some c
  alarmN : m.alarmN = n

theorem Mc.newCycle_keeps (m : Mc) (c : BitVec 64) : (m.newCycle c).cycle = some c ∧ (m.newCycle c).attach = m.attach ∧
    (m.newCycle c).lantern = m.lantern ∧ (m.newCycle c).missed = m.missed ∧ (m.newCycle c).heardCycle = m.heardCycle ∧
    (m.newCycle c).onAir = m.onAir := by
  rw [Mc.newCycle]
  dsimp only
  split <;> exact ⟨rfl, rfl, rfl, rfl, rfl, rfl⟩

namespace Blk

variable {b : Blk}

/-- What the change of the lantern leaves of MC. -/
theorem setLantern_mc (k : Nat) (b : Blk) : ∃ l w o v a, (b.setLantern k).mc = { b.mc with
    lantern := some k, samples := l, sampleWait := w, offset := o, offValid := v, alarms := a } := by
  rw [setLantern]
  dsimp only
  split
  · exact ⟨_, _, _, _, _, rfl⟩
  split
  · exact ⟨_, _, _, _, _, rfl⟩
  · refine ⟨[], 0, 0, false, tmod 0 b.mc.alarms 11 (fun c => min 0xFFFF (c + 1)), ?_⟩
    exact congrArg (fun m : Mc => { m with alarms := tmod 0 m.alarms 11 (fun c => min 0xFFFF (c + 1)) })
      (bump_mc (b.modMc fun m => { m.resample with lantern := some k, offset := 0, offValid := false }) .segLanternChange 0 1)

theorem takeSample_mc (v : Env) (mtime : Nat) (b : Blk) : ∃ l w o x, (b.takeSample v mtime).mc = { b.mc with
    samples := l, sampleWait := w, offset := o, offValid := x } := by
  rw [takeSample]
  dsimp only
  split
  · exact ⟨_, _, _, _, rfl⟩
  · exact ⟨_, _, _, _, rfl⟩

/-- A station that follows a beacon has its station as lantern. -/
theorem followBeacon_follows (v : Env) (src : Nat) (frame : List Byte) (b : Blk) :
    (b.followBeacon v src frame).mc.Follows src (BitVec.ofNat 64 (leAt frame 0x10 8)) (leAt frame 0x20 1) := by
  let c : BitVec 64 := BitVec.ofNat 64 (leAt frame 0x10 8)
  let begun := b.modMc fun m =>
    { m.newCycle c with attach := .joined, missed := 0, alarmN := leAt frame 0x20 1, heardCycle := some c }
  let anew := if b.mc.attach != .joined then begun.modMc Mc.resample else begun
  have follows : b.followBeacon v src frame = (anew.setLantern src).takeSample v (leAt frame 0x18 8) := rfl
  have cycle : begun.mc.cycle = some c := (Mc.newCycle_keeps b.mc c).1
  have start : ∃ l w, anew.mc = { begun.mc with samples := l, sampleWait := w } :=
    iteInduction (motive := fun d : Blk => ∃ l w, d.mc = { begun.mc with samples := l, sampleWait := w })
      (fun _ => ⟨_, _, rfl⟩) fun _ => ⟨_, _, rfl⟩
  obtain ⟨l, w, start⟩ := start
  obtain ⟨l', w', o, x, a, led⟩ := setLantern_mc src anew
  obtain ⟨l'', w'', o', x', sampled⟩ := takeSample_mc v (leAt frame 0x18 8) (anew.setLantern src)
  rw [follows, sampled, led, start]
  exact ⟨rfl, rfl, rfl, cycle, rfl, rfl⟩

end Blk

variable {s : State}

theorem exec_beacon {frame : List Byte} (on : s.blk.mc.attach ≠ .off)
    (valid : hearFrame s.env frame (frame.length / 8) = .valid) (is : fType frame = 0)
    (here : fDst frame = s.aon.station.toNat ∨ fDst frame = 0xFF) : exec (.beacon frame) s = .next { s with
      blk := match s.blk.mc.attach with
        | .off | .probing => s.blk.noteStation (fSrc frame)
        | .listening | .electing | .joined => (s.blk.noteStation (fSrc frame)).followBeacon s.env (fSrc frame) frame
        | .lantern =>
          if fSrc frame < s.aon.station.toNat then
            (s.blk.noteStation (fSrc frame)).followBeacon s.env (fSrc frame) frame
          else s.blk.noteStation (fSrc frame) } := by
  simp only [exec, execBeacon]
  rw [frameRow_acts on valid here is]
  have same : (s.blk.noteStation (fSrc frame)).mc.attach = s.blk.mc.attach := rfl
  rw [same]
  cases s.blk.mc.attach <;> rfl

/-- The station follows the beacon that it hears. -/
theorem does_follow {frame : List Byte} (ran : exec (.beacon frame) s = .next { s with
      blk := (s.blk.noteStation (fSrc frame)).followBeacon s.env (fSrc frame) frame }) :
    Does (.beacon frame) s fun t => OnlyBlk s t ∧
      t.blk.mc.attach = .joined ∧ t.blk.mc.lantern = some (fSrc frame) ∧ t.blk.mc.missed = 0 ∧
      t.blk.mc.cycle = some (BitVec.ofNat 64 (leAt frame 0x10 8)) ∧ t.blk.mc.heardCycle = t.blk.mc.cycle ∧
      t.blk.mc.alarmN = leAt frame 0x20 1 ∧
      t.blk = { s.blk with mc := t.blk.mc, counters := t.blk.counters, fresh := t.blk.fresh } := by
  have follows := (s.blk.noteStation (fSrc frame)).followBeacon_follows s.env (fSrc frame) frame
  have whole : Blk.Within [.mc, .counters, .fresh] s.blk
      ((s.blk.noteStation (fSrc frame)).followBeacon s.env (fSrc frame) frame) := by simp
  exact ⟨_, ran, ⟨rfl, rfl, rfl⟩, follows.attach, follows.leader, follows.missed, follows.cycle,
    follows.heard.trans follows.cycle.symm, follows.alarmN, whole.eq⟩

/-- The block in which the cycle of an election beacon has been chosen. -/
def Blk.elects (b : Blk) : Blk :=
  b.modMc fun m => { m with cycle := some (match m.heardCycle with | some c => c + 1 | none => 0) }

/-- The block in which the lantern's next cycle has begun. -/
def Blk.cycleBegun (b : Blk) : Blk :=
  b.modMc fun m =>
    { m.newCycle (BitVec.ofNat 64 (m.cycleNo + 1)) with
      missed := 0, alarmN := (m.newCycle (BitVec.ofNat 64 (m.cycleNo + 1))).nextAlarmN
      heardCycle := some (BitVec.ofNat 64 (m.cycleNo + 1)) }

/-- Settles O59: `Blk.followBeacon_follows` for the beacon that is heard, `Blk.sendNow_sends` for those that go out. -/
theorem stationsFollowOneLantern : Obligations.StationsFollowOneLantern := by
  unfold Obligations.StationsFollowOneLantern
  refine ⟨fun s frame valid is here => ⟨fun follows => does_follow ?_, fun leads higher => ?_⟩, fun s listens => ?_,
    fun s elects able free => ⟨fun low => ?_, fun high => ?_⟩, fun s leads => ?_, fun s joined => ?_⟩
  · obtain listens | elects | joined | ⟨leads, lower⟩ := follows
    · rw [exec_beacon (by simp [listens]) valid is here, listens]
    · rw [exec_beacon (by simp [elects]) valid is here, elects]
    · rw [exec_beacon (by simp [joined]) valid is here, joined]
    · rw [exec_beacon (by simp [leads]) valid is here, leads]
      dsimp only
      rw [if_pos lower]
  · have ran := exec_beacon (by simp [leads]) valid is here
    rw [leads] at ran
    dsimp only at ran
    rw [if_neg (by omega)] at ran
    exact ⟨_, ran, ⟨rfl, rfl, rfl⟩, leads, rfl, rfl⟩
  · have ran : exec .listenTimeout s = .next { s with blk := s.blk.modMc fun m => { m with attach := .electing } } := by
      simp only [exec, execListenTimeout, onBlk]
      rw [if_pos (by simp [listens])]
    exact ⟨_, ran, ⟨rfl, rfl, rfl⟩, rfl⟩
  · obtain ⟨body, ran⟩ : ∃ body, exec .electionBeacon s = .next { s with blk := s.blk.elects.sendNow s.env 0 0xFF body } := by
      refine ⟨beaconBody (s.blk.elects.mc.cycle.getD 0) (s.blk.elects.mc.starTime s.env) 64, ?_⟩
      simp only [exec, execElectionBeacon, onBlk]
      have low' : s.blk.carrierLow s.env (carrierNeed (4 * s.env.aon.station.toNat)) = true := low
      rw [if_neg (by simp [elects, able, free, low'])]
      rfl
    obtain ⟨f, ⟨air, head, out⟩, type, dst, slotted⟩ := Blk.sendNow_sends (b := s.blk.elects) s.env 0 0xFF body free
    have mc := s.blk.elects.sendNow_mc s.env 0 0xFF body
    have whole : Blk.Within [.mc, .out] s.blk (s.blk.elects.sendNow s.env 0 0xFF body) := by simp [Blk.elects]
    exact ⟨_, ran, ⟨rfl, rfl, rfl⟩, ⟨f, air, type, dst, slotted, head, out⟩, (congrArg Mc.attach mc).trans elects,
      (congrArg Mc.cycle mc).trans rfl, whole.eq⟩
  · refine ⟨s, ?_, rfl⟩
    simp only [exec, execElectionBeacon, onBlk]
    have high' : s.blk.carrierLow s.env (carrierNeed (4 * s.env.aon.station.toNat)) = false := high
    rw [if_pos (by simp [high'])]
  · obtain ⟨body, ran⟩ : ∃ body, exec .beaconSend s = .next { s with blk := s.blk.cycleBegun.sendNow s.env 0 0xFF body } := by
      refine ⟨beaconBody (BitVec.ofNat 64 (s.blk.mc.cycleNo + 1)) (s.blk.cycleBegun.mc.starTime s.env)
        s.blk.cycleBegun.mc.alarmN, ?_⟩
      simp only [exec, execBeaconSend, onBlk]
      rw [if_neg (by simp [leads])]
      rfl
    obtain ⟨cycle, attach, -, -, -, air⟩ := Mc.newCycle_keeps s.blk.mc (BitVec.ofNat 64 (s.blk.mc.cycleNo + 1))
    have same : s.blk.cycleBegun.mc.onAir = s.blk.mc.onAir := air
    have mc := s.blk.cycleBegun.sendNow_mc s.env 0 0xFF body
    have whole : Blk.Within [.mc, .out] s.blk (s.blk.cycleBegun.sendNow s.env 0 0xFF body) := by simp [Blk.cycleBegun]
    refine ⟨_, ran, ⟨rfl, rfl, rfl⟩, (congrArg Mc.cycle mc).trans cycle, (congrArg Mc.attach mc).trans (attach.trans leads),
      fun free => ?_, fun busy => ?_, whole.eq⟩
    · obtain ⟨f, ⟨air, head, out⟩, type, dst, -⟩ :=
        Blk.sendNow_sends (b := s.blk.cycleBegun) s.env 0 0xFF body (same.trans free)
      exact ⟨f, air, type, dst, head, out⟩
    · dsimp only
      rw [Blk.sendNow_waits s.env 0 0xFF body (by rw [same]; exact busy)]
      exact ⟨same, rfl⟩
  · let c := BitVec.ofNat 64 (s.blk.mc.cycleNo + 1)
    have ran : exec .beaconMissed s = .next { s with blk := (s.blk.bump .segBeaconMissed).modMc fun m =>
        { m.newCycle (BitVec.ofNat 64 (m.cycleNo + 1)) with
          missed := (m.newCycle (BitVec.ofNat 64 (m.cycleNo + 1))).missed + 1, samples := []
          attach := if 3 ≤ (m.newCycle (BitVec.ofNat 64 (m.cycleNo + 1))).missed + 1 then .electing else .joined } } := by
      simp only [exec, execBeaconMissed, onBlk]
      rw [if_neg (by simp [joined])]
    have whole : Blk.Within [.mc, .counters] s.blk ((s.blk.bump .segBeaconMissed).modMc fun m =>
        { m.newCycle (BitVec.ofNat 64 (m.cycleNo + 1)) with
          missed := (m.newCycle (BitVec.ofNat 64 (m.cycleNo + 1))).missed + 1, samples := []
          attach := if 3 ≤ (m.newCycle (BitVec.ofNat 64 (m.cycleNo + 1))).missed + 1 then .electing else .joined }) := by
      simp
    have mc : (s.blk.bump .segBeaconMissed).mc = s.blk.mc := Blk.bump_mc ..
    obtain ⟨cycle, attach, leader, missed, heard, -⟩ := Mc.newCycle_keeps s.blk.mc c
    refine ⟨_, ran, ⟨rfl, rfl, rfl⟩, ?_, ?_, ?_, ?_, ?_, Blk.ctr_bump_same s.blk .segBeaconMissed 0 1, whole.eq⟩
    all_goals dsimp only [Blk.modMc]
    all_goals rw [mc]
    · rw [missed]
    · exact leader
    · rw [missed]
    · exact cycle
    · exact heard

end Sys2Proof.Machine
end

section
/-!
# Frames of this station, alarms and telemetry (R355-R358, R362, R364): settles O60
-/
namespace Sys2Proof.Machine

/-! ### Contention (R356, R361, R362) -/

theorem Mc.contends_iff (m : Mc) (f : TxFrame) :
    m.contends f = true ↔ (f.type = 1 → m.missed = 0 ∧ m.frozeAt = m.cycle) := by
  by_cases alarm : f.type = 1 <;> simp [Mc.contends, alarm]

/-- The only frame that is queued contends. -/
theorem Mc.candidate_one {m : Mc} {f : TxFrame} (queue : m.txQueue = [f]) (may : m.contends f = true) :
    m.candidate = some ({ m with txQueue := [] }, f) := by
  have mine : m.txQueue.filter m.contends = [f] := by
    rw [queue]
    simp [may]
  rw [Mc.candidate, mine]
  show some ({ m with txQueue := ldrop1 (· == f) m.txQueue }, f) = _
  rw [queue]
  simp [ldrop1]

/-- The only frame that is queued waits, and no record is queued. -/
theorem Mc.candidate_none {m : Mc} {f : TxFrame} (queue : m.txQueue = [f]) (may : ¬ m.contends f = true)
    (logs : m.logQueue = []) : m.candidate = none := by
  have none : m.txQueue.filter m.contends = [] := by
    rw [queue]
    simp [may]
  rw [Mc.candidate, none, logs]
  rfl

/-! ### Sent frames and collisions (R357, R358) -/

/-- The block in which the echo of the only frame on the segment has ended. -/
def Blk.echoEnded (v : Env) (b : Blk) : Blk := (b.modMc fun m => { m with onAir := [] }).carrierFalls v

namespace Blk

variable {b : Blk} {f : TxFrame}

/-- The change of the lantern counts no frame. -/
theorem ctr_setLantern (k : Nat) (b : Blk) : (b.setLantern k).ctr .segTx = b.ctr .segTx := by
  rw [setLantern]
  dsimp only
  split
  · rfl
  split
  · rfl
  · exact ctr_bump_other (b.modMc fun m => { m.resample with lantern := some k, offset := 0, offValid := false }) 1
      (.inl (by simp))

/-- What the end of a frame that was sent leaves. -/
theorem frameSent_leaves (v : Env) (f : TxFrame) (echo : Nat) (b : Blk) :
    (b.frameSent v f echo).mc.onAir = b.mc.onAir ∧ (b.frameSent v f echo).ctr .segTx = b.ctr .segTx + 1 ∧
    (f.type = 0 → b.mc.attach = .electing → (b.frameSent v f echo).mc.attach = .lantern ∧
      (b.frameSent v f echo).mc.lantern = some v.aon.station.toNat) ∧
    (f.type = 6 → b.mc.attach = .probing → (b.frameSent v f echo).mc.attach = (if 400 < echo then .probing else .listening) ∧
      (b.frameSent v f echo).mc.echo = echo) ∧
    (f.type = 1 → (b.frameSent v f echo).mc.frozen = []) := by
  have sent : (b.bump .segTx).mc = b.mc := bump_mc ..
  have air : (b.bump .segTx).mc.onAir = b.mc.onAir := congrArg Mc.onAir sent
  have mc (c : Ctr) : ((b.bump .segTx).bump c).mc = b.mc := (bump_mc ..).trans (bump_mc ..)
  have count (c : Ctr) (other : c ≠ .segTx) : ((b.bump .segTx).bump c).ctr .segTx = b.ctr .segTx + 1 :=
    (ctr_bump_other _ _ (.inl other.symm)).trans (ctr_bump_same ..)
  unfold frameSent
  dsimp only
  split
  next beacon =>
    have attach : ((b.bump .segTx).bump .segBeaconSent).mc.attach = b.mc.attach := congrArg Mc.attach (mc _)
    split
    next not =>
      rw [attach] at not
      refine ⟨congrArg Mc.onAir (mc _), count _ (by simp), fun _ elects => ?_, fun probe => ?_, fun alarm => ?_⟩
      · simp [elects] at not
      · omega
      · omega
    next =>
      obtain ⟨l, w, o, x, a, led⟩ := setLantern_mc v.aon.station.toNat ((b.bump .segTx).bump .segBeaconSent)
      rw [mc] at led
      refine ⟨(congrArg Mc.onAir led).trans rfl, (ctr_setLantern _ _).trans (count _ (by simp)),
        fun _ _ => ⟨rfl, (congrArg Mc.lantern led).trans rfl⟩, fun probe => ?_, fun alarm => ?_⟩
      · omega
      · omega
  next alarm =>
    have air : ((b.bump .segTx).bump .segAlarmSummary).mc.onAir = b.mc.onAir := congrArg Mc.onAir (mc _)
    refine ⟨air, count .segAlarmSummary (by simp), fun beacon => ?_, fun probe => ?_, fun _ => rfl⟩
    · omega
    · omega
  next probe =>
    have attach : (b.bump .segTx).mc.attach = b.mc.attach := congrArg Mc.attach sent
    split
    next not =>
      rw [attach] at not
      refine ⟨congrArg Mc.onAir sent, ctr_bump_same .., fun beacon => ?_, fun _ probes => ?_, fun alarm => ?_⟩
      · omega
      · simp [probes] at not
      · omega
    next =>
      split
      next long =>
        refine ⟨air, ctr_bump_same b .segTx 0 1, fun beacon => ?_, fun _ probes => ⟨?_, rfl⟩, fun alarm => ?_⟩
        · omega
        · exact attach.trans probes
        · omega
      next short =>
        refine ⟨air, ctr_bump_same b .segTx 0 1, fun beacon => ?_, fun _ _ => ⟨rfl, rfl⟩, fun alarm => ?_⟩
        · omega
        · omega
  next other alarm probe =>
    exact ⟨congrArg Mc.onAir sent, ctr_bump_same .., fun is => absurd is other, fun is => absurd is probe,
      fun is => absurd is alarm⟩

/-- What a collision leaves of a frame that contended. -/
theorem frameCollided_leaves (contended : f.slotted = false) (b : Blk) :
    (b.frameCollided f).mc.onAir = b.mc.onAir ∧ (b.frameCollided f).ctr .segCollision = b.ctr .segCollision + 1 ∧
    (f.tries + 1 < 16 → (b.frameCollided f).mc.txQueue = { f with tries := f.tries + 1, sent := [] } :: b.mc.txQueue ∧
      ∃ w, (b.frameCollided f).mc.backoff = some w ∧ w < 2 ^ (min (f.tries + 1) 10)) ∧
    (16 ≤ f.tries + 1 → (b.frameCollided f).mc.txQueue = b.mc.txQueue ∧
      (b.frameCollided f).ctr .segExcess = b.ctr .segExcess + 1) := by
  have mc : (b.bump .segCollision).mc = b.mc := bump_mc ..
  rw [frameCollided]
  dsimp only
  rw [if_neg (by simp [contended])]
  split
  next excess =>
    refine ⟨congrArg Mc.onAir ((bump_mc ..).trans mc), (ctr_bump_other _ _ (.inl (by simp))).trans (ctr_bump_same ..),
      fun few => by omega, fun _ => ⟨congrArg Mc.txQueue ((bump_mc ..).trans mc), (ctr_bump_same ..).trans ?_⟩⟩
    rw [ctr_bump_other _ _ (.inl (by simp))]
  next few =>
    refine ⟨(congrArg Mc.onAir mc :), ctr_bump_same b .segCollision 0 1, fun _ => ⟨?_, _, rfl, ?_⟩, fun many => by omega⟩
    · exact congrArg (fun m : Mc => { f with tries := f.tries + 1, sent := [] } :: m.txQueue) mc
    · exact Nat.mod_lt _ (Nat.two_pow_pos _)

end Blk

variable {s : State}

theorem exec_reflectionCheck {f : TxFrame} (received : List (BitVec 64)) (echo : Nat) (air : s.blk.mc.onAir = [f]) :
    exec (.reflectionCheck received echo) s = .next { s with
      blk := if received.take f.sent.length = f.sent then (s.blk.echoEnded s.env).frameSent s.env f echo
        else (s.blk.echoEnded s.env).frameCollided f } := by
  simp only [exec, execReflectionCheck, onBlk]
  rw [air]
  dsimp only
  rw [TxFrame.echoed]
  by_cases same : received.take f.sent.length = f.sent
  · rw [if_pos (beq_iff_eq.mpr same), if_pos same]
    rfl
  · rw [if_neg (by simpa using same), if_neg same]
    rfl

/-! ### Alarms (R362) -/

/-- The block in which the summary is frozen. -/
def Blk.summaryFrozen (b : Blk) : Blk :=
  b.modMc fun m => { m with
    frozen := mergeAlarms m.frozen m.alarms, alarms := [], frozeAt := m.cycle
    txQueue := m.txQueue.filter fun f => f.type != 1 }

/-- The block in which the summary is frozen and its frame, if it names a kind, goes out or is queued. -/
def Blk.summarySent (v : Env) (b : Blk) : Blk :=
  if (alarmKinds b.summaryFrozen.mc.frozen).isEmpty then b.summaryFrozen
  else if v.aon.station.toNat < b.mc.alarmN then b.summaryFrozen.sendNow v 1 0xFF (alarmBody b.summaryFrozen.mc.frozen)
  else b.summaryFrozen.queueFrame 1 0xFF 0 (alarmBody b.summaryFrozen.mc.frozen)

/-- The frame of a frozen summary leaves the summary as it is. -/
theorem Blk.summarySent_mc (v : Env) (b : Blk) : ∃ l q n,
    (b.summarySent v).mc = { b.summaryFrozen.mc with onAir := l, txQueue := q, seqs := n } := by
  rw [summarySent]
  split
  · exact ⟨_, _, _, rfl⟩
  split
  · exact ⟨_, _, _, (sendNow_mc ..).trans rfl⟩
  · exact ⟨_, _, _, rfl⟩

theorem Blk.within_summarySent (v : Env) (b : Blk) : Within [.mc, .out] b (b.summarySent v) := by
  have frozen : Within [.mc, .out] b b.summaryFrozen := by simp [summaryFrozen]
  rw [summarySent]
  split
  · exact frozen
  split
  · exact (within_sendNow _ _ _ _ (by simp)).mpr frozen
  · exact (within_queueFrame _ _ _ _ (by simp)).mpr frozen

/-- Settles O60: `Mc.candidate_one` for the window, `Blk.frameSent_leaves` and `Blk.frameCollided_leaves` for the echo. -/
theorem framesAreSentInTheirWindow : Obligations.FramesAreSentInTheirWindow := by
  unfold Obligations.FramesAreSentInTheirWindow
  refine ⟨fun s probes free rests queue => ⟨fun low => ?_, fun high => ?_⟩,
    fun s star low f attached free rests queue begun => ⟨fun may need fits => ?_, fun may late => ?_, fun not logs => ?_⟩,
    fun s f received echo air => ⟨fun matched => ?_, fun differs contended => ?_⟩, fun s => ?_,
    fun s attached level new => ⟨fun quiet => ?_, fun busy => ?_⟩, fun s attached new due few => ?_⟩
  · let r := s.blk.mc.newFrame 6 s.env.aon.station.toNat 0 (leBytes 44 0) false
    have ran : exec .probeSend s = .next { s with blk := (s.blk.modMc fun _ => r.1).startFrame s.env r.2 } := by
      have none : s.blk.mc.txQueue.find? (fun f => f.type == 6) = none :=
        List.find?_eq_none.mpr fun f member => by simpa using queue f member
      simp only [exec, execProbeSend, onBlk]
      rw [if_neg (by simp [probes, free, rests, low]), none]
    obtain ⟨ws, air, head, out⟩ := Blk.startFrame_sends (b := s.blk.modMc fun _ => r.1) s.env r.2 free
    have whole : Blk.Within [.mc, .out] s.blk ((s.blk.modMc fun _ => r.1).startFrame s.env r.2) := by simp
    exact ⟨_, ran, ⟨rfl, rfl, rfl⟩, ⟨_, air, rfl, rfl, head, out⟩, rfl, whole.eq⟩
  · refine ⟨s, ?_, rfl⟩
    simp only [exec, execProbeSend, onBlk]
    rw [if_pos (by simp [high])]
  · have ran : exec (.frameTransmit star low) s = .next { s with
        blk := (s.blk.modMc fun m => { m with txQueue := [] }).startFrame s.env f } := by
      simp only [exec, execFrameTransmit, onBlk]
      rw [if_neg (by rcases attached with h | h <;> simp [h, free, rests] <;> omega),
        Mc.candidate_one queue ((Mc.contends_iff ..).mpr may)]
      dsimp only
      rw [if_neg (by omega)]
      rfl
    obtain ⟨ws, air, head, out⟩ := Blk.startFrame_sends (b := s.blk.modMc fun m => { m with txQueue := [] }) s.env f free
    have whole : Blk.Within [.mc, .out] s.blk ((s.blk.modMc fun m => { m with txQueue := [] }).startFrame s.env f) := by simp
    exact ⟨_, ran, ⟨rfl, rfl, rfl⟩, rfl, ⟨ws, air, head, out⟩, whole.eq⟩
  · refine ⟨s, ?_, rfl⟩
    simp only [exec, execFrameTransmit, onBlk]
    rw [if_neg (by rcases attached with h | h <;> simp [h, free, rests] <;> omega),
      Mc.candidate_one queue ((Mc.contends_iff ..).mpr may)]
    dsimp only
    rw [if_pos late]
  · refine ⟨s, ?_, rfl⟩
    simp only [exec, execFrameTransmit, onBlk]
    rw [if_neg (by rcases attached with h | h <;> simp [h, free, rests] <;> omega),
      Mc.candidate_none queue (fun may => not ((Mc.contends_iff ..).mp may)) logs]
  · have ran := exec_reflectionCheck received echo air
    rw [if_pos matched] at ran
    obtain ⟨none, count, leads, probes, alarm⟩ := (s.blk.echoEnded s.env).frameSent_leaves s.env f echo
    exact ⟨_, ran, ⟨rfl, rfl, rfl⟩, none, count, leads, probes, alarm⟩
  · have ran := exec_reflectionCheck received echo air
    rw [if_neg differs] at ran
    obtain ⟨none, count, again, excess⟩ := Blk.frameCollided_leaves contended (s.blk.echoEnded s.env)
    exact ⟨_, ran, ⟨rfl, rfl, rfl⟩, none, count, again, excess⟩
  · exact ⟨_, rfl, ⟨rfl, rfl, rfl⟩, rfl⟩
  · have ran : exec .alarmFreeze s = .next { s with blk := s.blk.summarySent s.env } := by
      simp only [exec, execAlarmFreeze, onBlk]
      rw [if_neg (by rcases attached with h | h <;> simp [h, level, new]),
        if_neg (by simpa using quiet)]
      rfl
    obtain ⟨l, q, n, mc⟩ := s.blk.summarySent_mc s.env
    exact ⟨_, ran, ⟨rfl, rfl, rfl⟩, (congrArg Mc.alarms mc).trans rfl, (congrArg Mc.frozeAt mc).trans rfl,
      (congrArg Mc.frozen mc).trans rfl, (s.blk.within_summarySent s.env).eq⟩
  · have ran : exec .alarmFreeze s = .next { s with blk := s.blk.modMc fun m => { m with frozeAt := m.cycle } } := by
      simp only [exec, execAlarmFreeze, onBlk]
      rw [if_neg (by rcases attached with h | h <;> simp [h, level, new]), if_pos (by simpa using busy)]
    exact ⟨_, ran, ⟨rfl, rfl, rfl⟩, rfl⟩
  · let counted := s.blk.modMc fun m => { m with telAt := m.cycle }
    have ran : exec .telemetryBuild s = .next { s with blk := counted.queueFrame 2 0xFF 1 (counted.telemetryBody s.env) } := by
      simp only [exec, execTelemetryBuild, onBlk]
      rw [if_neg (by rcases attached with h | h <;> simp [h, new, due])]
      rw [if_neg (by exact Nat.not_le.mpr few)]
    exact ⟨_, ran, ⟨rfl, rfl, rfl⟩, rfl, ⟨_, rfl, rfl, rfl⟩, rfl⟩

end Sys2Proof.Machine
end
